-- ==== Sys2Proof/Word.lean ====
section
/-! DEFINITION. The word types of the K4 (00 R7, 01 R15) and their plainest arithmetic. -/

namespace Sys2Proof

/-- A scalar register, an address or a doubleword of memory. -/
abbrev Word := BitVec 64

/-- A vector register (01 R15). -/
abbrev VWord := BitVec 512

/-- A byte of memory. -/
abbrev Byte := BitVec 8

/-- Scalar register numbers w0 to w31 (03 R55). -/
abbrev Reg := Fin 32

/-- Vector register numbers v0 to v15 (03 R55). -/
abbrev VReg := Fin 16

/-- The four contexts of a core (01 R9). -/
abbrev CtxId := Fin 4

/-- Bits `hi` down to `lo` of a natural number, as a natural number (03 R66). -/
def bits (x hi lo : Nat) : Nat := x / 2 ^ lo % 2 ^ (hi + 1 - lo)

/-- Bit `i` of a natural number. -/
def bit (x i : Nat) : Bool := x.testBit i

end Sys2Proof
end

