-- ==== Sys2Proof/Config.lean ====
section
/-! DEFINITION. What an implementation fixes and what the manual leaves open. Nothing here has a body: a statement
about one of these holds whatever its value is. -/

namespace Sys2Proof.Config

/-- A byte that the manual does not state, one for each state of the free counter and each index. Log entry 4. -/
opaque freeByte : Nat → Nat → Byte

/-- A choice that the manual leaves open, one for each state of the free counter and each thing chosen for; its user takes
it modulo the number of choices. Log entry 4. -/
opaque pick : (counter what : Nat) → Nat

/-- A whole value that the manual does not state, one for each state of the free counter. Log entry 4. -/
opaque freeWord : Nat → BitVec 64

/-- The cycles for which a vector instruction occupies the unit where 07 R140 gives only a bound: one value for each
state of the free counter, taken below that bound. Log entry 4. -/
opaque occupancy : Nat → Nat

/-- The bytes of checkpoint header fields whose place the manual does not give (21 R394). Log entry 9. -/
opaque checkpointHeader : (modid format size : Nat) → (digest : List Byte) → List Byte

/-- SHAKE256 over bytes, as many bytes of it as are asked for (24 R404, 21 R390). Log entry 8. -/
opaque shake256 : (count : Nat) → List Byte → List Byte

/-- ML-DSA-65 verification of a signature over a message by a public key (24 R403, R404). Log entry 8. -/
opaque mlDsaVerify : (key message signature : List Byte) → Bool

/-- The fused owner key and the Welzan key of the boot ROM (24 R403, R404). -/
opaque ownerKey : List Byte

/-- The Welzan firmware key whose digest the boot ROM holds (24 R404). -/
opaque welzanKey : List Byte

/-- The 16-byte device serial (24 R403). -/
opaque serial : List Byte

/-- The fused secret of the identity key (24 R405). -/
opaque fusedSecret : List Byte

/-- ML-DSA-65 key generation from a seed: the public and the secret key (24 R405). Log entry 8. -/
opaque mlDsaKeyGen : (seed : List Byte) → List Byte × List Byte

/-- ML-DSA-65 signature of a message by a secret key (24 R405). Log entry 8. -/
opaque mlDsaSign : (secret message : List Byte) → List Byte

/-- An SPDM key exchange under an identity key: the answer to a request and the link encryption key it sets up; none for a
request that is no key exchange (24 R405). Log entry 8. -/
opaque spdmExchange : (identity : List Byte × List Byte) → (request : List Byte) → Option (List Byte × List Byte)

/-- The SPDM message that answers a request with signed measurement blocks (24 R405). Log entry 8. -/
opaque spdmMeasurements : (publicKey request blocks signature : List Byte) → List Byte

/-- The save-image format of this device revision (20 R361, 21 R374). -/
opaque saveFormat : BitVec 8

/-- The device revision (21 R374). -/
opaque deviceRev : BitVec 8

/-- Where the save image at an address holds a core's TCM, in 64-byte units from there (17 R308, 20 R361): private to the device.
Log entry 9. -/
opaque saveUnit : (save core : Nat) → Nat

/-- The size of a save image in bytes (20 R361), whose layout is private to the device. -/
opaque saveSize : (clusters lakeBytes : Nat) → Nat

end Sys2Proof.Config
end

