-- ==== Sys2Proof/Syntax.lean ====
section
/-! DEFINITION. The steps of the K4: one constructor of `Instr` for every row of spec/opcode_table.json.
The rows with bits are the instruction words of 03 R60 and carry the fields of their format (03 R55); a
field that a row fixes is no argument. The rows without bits are the module's other whole steps: they name
their agent and carry what the outside world supplies. -/

namespace Sys2Proof

/-- How a transfer over a Dexow link ends: performed, failed at the peer (21 R378), or dropped at the fourth failure of its
parity (20 R355), the last two after a number of its 8-byte words. -/
inductive PeerAnswer where
  | performed
  | failed (words : Nat)
  | dropped (words : Nat)
  deriving DecidableEq, Repr

/-- Where a peer's transfer goes (21 R374, R377, R378): the address space, the team there and the team here of the pairing at
its end of the link, and the address. -/
structure PeerTarget where
  pasid : Nat
  ltid : Nat
  ptid : Nat
  dst : BitVec 64
  deriving DecidableEq, Repr

/-- What a rank on a peer module supplies to a collective (21 R386): whether its descriptor agrees in CID, OP,
RED, ET, COUNT, NR and tree (21 R387), and its source elements. -/
structure PeerRank where
  rank : Nat
  agrees : Bool
  elems : List Nat
  deriving DecidableEq, Repr

/-- What one Dexow link has found when it trains: the MODID at the other end and the lanes up (21 R374). -/
structure TrainedLink where
  link : Nat
  peer : Nat
  lanes : Nat
  deriving DecidableEq, Repr

/-- Why the bring-up sequence runs (24 R409). -/
inductive ResetCause where
  | powerOn
  | perst
  | leaveRetain
  deriving DecidableEq, Repr

/-- What the bring-up sequence of 24 R409 meets: its cause, the two firmware images with their signatures, the
firmware's configuration block (24 R404), the clusters that fail self-test and the links that train. -/
structure BringUp where
  cause : ResetCause
  imageA : List (BitVec 8)
  sigA : List (BitVec 8)
  imageB : List (BitVec 8)
  sigB : List (BitVec 8)
  config : List (BitVec 8)
  failedClusters : List Nat
  links : List TrainedLink
  deriving DecidableEq, Repr

/-- A mirrored checkpoint as it arrives over the links (21 R394): the bytes by their place in this module (an
unlisted place is zero) and the granules that arrive poisoned. -/
structure MirrorImage where
  cells : List (Nat × BitVec 8)
  poison : List Nat
  deriving DecidableEq, Repr

/-- What the host asks for through BAR 2 (21 R373, R375): a read, a write, or an AtomicOp. -/
inductive HostRequest where
  | read
  | write (data : List (BitVec 8))
  | fetchAdd (data : List (BitVec 8))
  | swap (data : List (BitVec 8))
  | cas (compare data : List (BitVec 8))
  deriving DecidableEq, Repr

/-- One whole step of the K4. -/
inductive Instr where

  /-- ILLEGAL_WORD (R63). A context issues a word that is not an instruction and takes the system-level fault ILLEGAL with no effect. -/
  | illegalWord (w : BitVec 32)
  /-- ADD (R101). Writes the wrapping sum of two scalar registers. -/
  | add (rd : Fin 32) (ra : Fin 32) (rb : Fin 32)
  /-- SUB (R101). Writes the wrapping difference of two scalar registers. -/
  | sub (rd : Fin 32) (ra : Fin 32) (rb : Fin 32)
  /-- AND (R101). Writes the bitwise and of two scalar registers. -/
  | and (rd : Fin 32) (ra : Fin 32) (rb : Fin 32)
  /-- OR (R101). Writes the bitwise or of two scalar registers. -/
  | or (rd : Fin 32) (ra : Fin 32) (rb : Fin 32)
  /-- XOR (R101). Writes the bitwise xor of two scalar registers. -/
  | xor (rd : Fin 32) (ra : Fin 32) (rb : Fin 32)
  /-- ANDN (R101). Writes a and not b. -/
  | andn (rd : Fin 32) (ra : Fin 32) (rb : Fin 32)
  /-- SLL (R101). Shifts left by b[5:0]. -/
  | sll (rd : Fin 32) (ra : Fin 32) (rb : Fin 32)
  /-- SRL (R101). Shifts right logically by b[5:0]. -/
  | srl (rd : Fin 32) (ra : Fin 32) (rb : Fin 32)
  /-- SRA (R101). Shifts right arithmetically by b[5:0]. -/
  | sra (rd : Fin 32) (ra : Fin 32) (rb : Fin 32)
  /-- SLT (R101). Writes 1 when a is signed-less than b. -/
  | slt (rd : Fin 32) (ra : Fin 32) (rb : Fin 32)
  /-- SLTN (R101). Writes 1 when a is natural-less than b. -/
  | sltn (rd : Fin 32) (ra : Fin 32) (rb : Fin 32)
  /-- MUL (R101). Writes the low 64 bits of the signed product. -/
  | mul (rd : Fin 32) (ra : Fin 32) (rb : Fin 32)
  /-- MULH (R101). Writes the high 64 bits of the signed product. -/
  | mulh (rd : Fin 32) (ra : Fin 32) (rb : Fin 32)
  /-- MULHN (R101). Writes the high 64 bits of the natural product. -/
  | mulhn (rd : Fin 32) (ra : Fin 32) (rb : Fin 32)
  /-- DIV (R101). Writes the signed quotient under R31. -/
  | div (rd : Fin 32) (ra : Fin 32) (rb : Fin 32)
  /-- DIVN (R101). Writes the natural quotient under R31. -/
  | divn (rd : Fin 32) (ra : Fin 32) (rb : Fin 32)
  /-- REM (R101). Writes the signed remainder under R31. -/
  | rem (rd : Fin 32) (ra : Fin 32) (rb : Fin 32)
  /-- REMN (R101). Writes the natural remainder under R31. -/
  | remn (rd : Fin 32) (ra : Fin 32) (rb : Fin 32)
  /-- MIN (R101). Writes the signed smaller operand. -/
  | min (rd : Fin 32) (ra : Fin 32) (rb : Fin 32)
  /-- MAX (R101). Writes the signed larger operand. -/
  | max (rd : Fin 32) (ra : Fin 32) (rb : Fin 32)
  /-- MINN (R101). Writes the natural smaller operand. -/
  | minn (rd : Fin 32) (ra : Fin 32) (rb : Fin 32)
  /-- MAXN (R101). Writes the natural larger operand. -/
  | maxn (rd : Fin 32) (ra : Fin 32) (rb : Fin 32)
  /-- CLZ (R101). Counts leading zero bits. -/
  | clz (rd : Fin 32) (ra : Fin 32)
  /-- CTZ (R101). Counts trailing zero bits. -/
  | ctz (rd : Fin 32) (ra : Fin 32)
  /-- POPC (R101). Counts one bits. -/
  | popc (rd : Fin 32) (ra : Fin 32)
  /-- SEXT (R101). Sign-extends the low width bits. -/
  | sext (rd : Fin 32) (ra : Fin 32) (sh : Fin 32)
  /-- ZEXT (R101). Zero-extends the low width bits. -/
  | zext (rd : Fin 32) (ra : Fin 32) (sh : Fin 32)
  /-- ADDX (R101). Writes a + (b << s). -/
  | addx (rd : Fin 32) (ra : Fin 32) (rb : Fin 32) (sh : Fin 32)
  /-- ROTL (R101). Rotates left by (b[5:0] + s) mod 64. -/
  | rotl (rd : Fin 32) (ra : Fin 32) (rb : Fin 32) (sh : Fin 32)
  /-- BEXT (R101). Extracts a bit field at position b[5:0]. -/
  | bext (rd : Fin 32) (ra : Fin 32) (rb : Fin 32) (sh : Fin 32)
  /-- CMOV (R101). Moves a into rd when b is non-zero. -/
  | cmov (rd : Fin 32) (ra : Fin 32) (rb : Fin 32)
  /-- ADDI (R103). Adds a sign-extended immediate. -/
  | addi (rd : Fin 32) (ra : Fin 32) (imm : BitVec 16)
  /-- ANDI (R103). Ands a zero-extended immediate. -/
  | andi (rd : Fin 32) (ra : Fin 32) (imm : BitVec 16)
  /-- ORI (R103). Ors a zero-extended immediate. -/
  | ori (rd : Fin 32) (ra : Fin 32) (imm : BitVec 16)
  /-- XORI (R103). Xors a zero-extended immediate. -/
  | xori (rd : Fin 32) (ra : Fin 32) (imm : BitVec 16)
  /-- SLLI (R104). Shifts left by an immediate amount. -/
  | slli (rd : Fin 32) (ra : Fin 32) (n : Fin 64)
  /-- SRLI (R104). Shifts right logically by an immediate amount. -/
  | srli (rd : Fin 32) (ra : Fin 32) (n : Fin 64)
  /-- SRAI (R104). Shifts right arithmetically by an immediate amount. -/
  | srai (rd : Fin 32) (ra : Fin 32) (n : Fin 64)
  /-- SLTI (R103). Writes 1 when ra is signed-less than the immediate. -/
  | slti (rd : Fin 32) (ra : Fin 32) (imm : BitVec 16)
  /-- SLTNI (R103). Writes 1 when ra is natural-less than the immediate. -/
  | sltni (rd : Fin 32) (ra : Fin 32) (imm : BitVec 16)
  /-- SETQ_Z (R105). Writes the immediate into quarter N and clears the other quarters. -/
  | setqZ (rd : Fin 32) (q : Fin 4) (imm : BitVec 16)
  /-- SETQ_K (R105). Writes the immediate into quarter N and keeps the other quarters. -/
  | setqK (rd : Fin 32) (q : Fin 4) (imm : BitVec 16)
  /-- PCADD (R106). Writes IA plus the immediate times 4096. -/
  | pcadd (rd : Fin 32) (imm : BitVec 16)
  /-- LD_B (R108). Loads a sign-extended byte. -/
  | ldB (rd : Fin 32) (ra : Fin 32) (off : BitVec 13)
  /-- LD_H (R108). Loads a sign-extended halfword. -/
  | ldH (rd : Fin 32) (ra : Fin 32) (off : BitVec 13)
  /-- LD_W (R108). Loads a sign-extended word. -/
  | ldW (rd : Fin 32) (ra : Fin 32) (off : BitVec 13)
  /-- LD_D (R108). Loads a doubleword. -/
  | ldD (rd : Fin 32) (ra : Fin 32) (off : BitVec 13)
  /-- LD_BN (R108). Loads a zero-extended byte. -/
  | ldBn (rd : Fin 32) (ra : Fin 32) (off : BitVec 13)
  /-- LD_HN (R108). Loads a zero-extended halfword. -/
  | ldHn (rd : Fin 32) (ra : Fin 32) (off : BitVec 13)
  /-- LD_WN (R108). Loads a zero-extended word. -/
  | ldWn (rd : Fin 32) (ra : Fin 32) (off : BitVec 13)
  /-- ST_B (R108). Stores a byte. -/
  | stB (rs : Fin 32) (ra : Fin 32) (off : BitVec 13)
  /-- ST_H (R108). Stores a halfword. -/
  | stH (rs : Fin 32) (ra : Fin 32) (off : BitVec 13)
  /-- ST_W (R108). Stores a word. -/
  | stW (rs : Fin 32) (ra : Fin 32) (off : BitVec 13)
  /-- ST_D (R108). Stores a doubleword. -/
  | stD (rs : Fin 32) (ra : Fin 32) (off : BitVec 13)
  /-- ST_NIB (R109). Writes one nibble of a byte as a masked read-modify-write at the byte's place. -/
  | stNib (rs : Fin 32) (ra : Fin 32) (off : BitVec 13)
  /-- LDA (R285). Loads a word or doubleword with acquire at the scope. -/
  | lda (rd : Fin 32) (ra : Fin 32) (sc : Fin 8) (wd : Fin 2)
  /-- STR (R285). Stores a word or doubleword with release at the scope. -/
  | str (ra : Fin 32) (rb : Fin 32) (sc : Fin 8) (wd : Fin 2)
  /-- AMOADD (R286). Atomically adds and returns the old value. -/
  | amoadd (rd : Fin 32) (ra : Fin 32) (rb : Fin 32) (sc : Fin 8) (aq : Fin 2) (rl : Fin 2) (wd : Fin 2)
  /-- AMOSWAP (R286). Atomically swaps and returns the old value. -/
  | amoswap (rd : Fin 32) (ra : Fin 32) (rb : Fin 32) (sc : Fin 8) (aq : Fin 2) (rl : Fin 2) (wd : Fin 2)
  /-- AMOAND (R286). Atomically ands. -/
  | amoand (rd : Fin 32) (ra : Fin 32) (rb : Fin 32) (sc : Fin 8) (aq : Fin 2) (rl : Fin 2) (wd : Fin 2)
  /-- AMOOR (R286). Atomically ors. -/
  | amoor (rd : Fin 32) (ra : Fin 32) (rb : Fin 32) (sc : Fin 8) (aq : Fin 2) (rl : Fin 2) (wd : Fin 2)
  /-- AMOXOR (R286). Atomically xors. -/
  | amoxor (rd : Fin 32) (ra : Fin 32) (rb : Fin 32) (sc : Fin 8) (aq : Fin 2) (rl : Fin 2) (wd : Fin 2)
  /-- AMOMIN (R286). Atomically keeps the signed smaller value. -/
  | amomin (rd : Fin 32) (ra : Fin 32) (rb : Fin 32) (sc : Fin 8) (aq : Fin 2) (rl : Fin 2) (wd : Fin 2)
  /-- AMOMAX (R286). Atomically keeps the signed larger value. -/
  | amomax (rd : Fin 32) (ra : Fin 32) (rb : Fin 32) (sc : Fin 8) (aq : Fin 2) (rl : Fin 2) (wd : Fin 2)
  /-- AMOMINN (R286). Atomically keeps the natural smaller value. -/
  | amominn (rd : Fin 32) (ra : Fin 32) (rb : Fin 32) (sc : Fin 8) (aq : Fin 2) (rl : Fin 2) (wd : Fin 2)
  /-- AMOMAXN (R286). Atomically keeps the natural larger value. -/
  | amomaxn (rd : Fin 32) (ra : Fin 32) (rb : Fin 32) (sc : Fin 8) (aq : Fin 2) (rl : Fin 2) (wd : Fin 2)
  /-- AMOCAS (R286). Atomically compares with rd and swaps in rb on equality. -/
  | amocas (rd : Fin 32) (ra : Fin 32) (rb : Fin 32) (sc : Fin 8) (aq : Fin 2) (rl : Fin 2) (wd : Fin 2)
  /-- AMOCASQ (R288). Atomically compares and swaps 16 bytes held in register pairs. -/
  | amocasq (rd : Fin 32) (ra : Fin 32) (rb : Fin 32) (sc : Fin 8) (aq : Fin 2) (rl : Fin 2)
  /-- AMODECP (R288). Atomically subtracts from a dependency object's COUNT and pushes its task record when the count reaches zero. -/
  | amodecp (rd : Fin 32) (ra : Fin 32) (rb : Fin 32) (sc : Fin 8) (aq : Fin 2) (rl : Fin 2) (wd : Fin 2)
  /-- AMOFADD_S (R289). Atomically adds an FP32 value under RM. -/
  | amofaddS (rd : Fin 32) (ra : Fin 32) (rb : Fin 32) (sc : Fin 8) (aq : Fin 2) (rl : Fin 2)
  /-- AMOFADD_D (R289). Atomically adds an FP64 value under RM. -/
  | amofaddD (rd : Fin 32) (ra : Fin 32) (rb : Fin 32) (sc : Fin 8) (aq : Fin 2) (rl : Fin 2)
  /-- FENCE (R291). Orders the named kinds of earlier accesses before later ones at the scope, optionally draining posted stores. -/
  | fence (sc : Fin 8) (kinds : Fin 32)
  /-- BEQ (R111). Branches when the registers are equal. -/
  | beq (ra : Fin 32) (rb : Fin 32) (off : BitVec 16)
  /-- BNE (R111). Branches when the registers differ. -/
  | bne (ra : Fin 32) (rb : Fin 32) (off : BitVec 16)
  /-- BLT (R111). Branches when ra is signed-less than rb. -/
  | blt (ra : Fin 32) (rb : Fin 32) (off : BitVec 16)
  /-- BGE (R111). Branches when ra is signed-greater or equal. -/
  | bge (ra : Fin 32) (rb : Fin 32) (off : BitVec 16)
  /-- BLTN (R111). Branches when ra is natural-less than rb. -/
  | bltn (ra : Fin 32) (rb : Fin 32) (off : BitVec 16)
  /-- BGEN (R111). Branches when ra is natural-greater or equal. -/
  | bgen (ra : Fin 32) (rb : Fin 32) (off : BitVec 16)
  /-- JAL (R112). Writes the return address and jumps PC-relative. -/
  | jal (rd : Fin 32) (off : BitVec 21)
  /-- JALR (R113). Writes the return address and jumps to a computed address. -/
  | jalr (rd : Fin 32) (ra : Fin 32) (imm : BitVec 16)
  /-- TRAP (R119). Raises the user-level trap TRAP with the code. -/
  | trap (code : BitVec 12)
  /-- BRK (R121). Raises BRK: a halt in INVASIVE, otherwise a system-level fault. -/
  | brk (code : BitVec 12)
  /-- WPSWAP (R122). Exchanges the context's workspace for another. -/
  | wpswap (rd : Fin 32) (ra : Fin 32)
  /-- MQWAIT (R125). Waits until at most n commands of the core's Lantern queue remain unretired, acquiring their effects. -/
  | mqwait (n : Fin 16)
  /-- SPRD (R126). Reads a special register. -/
  | sprd (rd : Fin 32) (imm : BitVec 16)
  /-- CPY_LAUNCH (R300). A read of CPY_LAUNCH checks the shadow set and parameter block, enqueues a copy with a new transfer id and releases at its scope. -/
  | cpyLaunch (rd : Fin 32)
  /-- SPWR (R126). Writes a special register that has no behaviour of its own. -/
  | spwr (ra : Fin 32) (imm : BitVec 16)
  /-- RPT (R142). Captures the next words into the sequencer buffer and issues them for every pass, or resumes a saved frame. -/
  | rpt (cnt : Fin 16) (rep : Fin 64) (sd : Fin 8) (sa : Fin 8) (sb : Fin 8) (sm : Fin 8)
  /-- CBBIND (R149). Binds a stream handle from a 16-byte image and takes this side's counter. -/
  | cbbind (x : Fin 32) (cb : Fin 8)
  /-- CBGET (R149). Waits for filled slots and loads 8 bytes of slot data. -/
  | cbget (x : Fin 32) (cb : Fin 8) (need : Fin 8) (off : BitVec 8)
  /-- CBPUT (R149). Waits for free slots and stores 8 bytes of slot data. -/
  | cbput (x : Fin 32) (cb : Fin 8) (need : Fin 8) (off : BitVec 8)
  /-- CBPOP (R149). Waits for filled slots, advances LCNT and releases CCNT. -/
  | cbpop (x : Fin 32) (cb : Fin 8) (need : Fin 8)
  /-- CBPUSH (R149). Waits for free slots, advances LCNT and releases PCNT. -/
  | cbpush (x : Fin 32) (cb : Fin 8) (need : Fin 8)
  /-- CBSTAT (R149). Reads the stream's ready count, LCNT and side. -/
  | cbstat (x : Fin 32) (cb : Fin 8)
  /-- CBWFILL (R149). Waits for filled slots and returns a slot address. -/
  | cbwfill (x : Fin 32) (cb : Fin 8) (need : Fin 8) (off : BitVec 8)
  /-- CBWFREE (R149). Waits for free slots and returns a slot address. -/
  | cbwfree (x : Fin 32) (cb : Fin 8) (need : Fin 8) (off : BitVec 8)
  /-- BSINIT (R156). Initialises the bit buffer at a TCM address in a direction. -/
  | bsinit (ra : Fin 32) (dir : Fin 2)
  /-- BSGET (R156). Reads and consumes n bits of the stream. -/
  | bsget (rd : Fin 32) (n : Fin 64)
  /-- BSPEEK (R156). Reads n bits without consuming them. -/
  | bspeek (rd : Fin 32) (n : Fin 64)
  /-- BSSKIP (R156). Consumes n bits. -/
  | bsskip (n : Fin 64)
  /-- BSPUT (R156). Appends n bits, writing a block when 64 are held. -/
  | bsput (ra : Fin 32) (n : Fin 64)
  /-- BSPOS (R156). Returns the stream bit position. -/
  | bspos (rd : Fin 32)
  /-- LACLR (R163). Clears a long accumulator. -/
  | laclr (ra : Fin 32)
  /-- LAADD_D (R163). Offers an FP64 addend to the long accumulator. -/
  | laaddD (ra : Fin 32) (rb : Fin 32)
  /-- LAMUL_D (R163). Offers the exact product of two FP64 values. -/
  | lamulD (rd : Fin 32) (ra : Fin 32) (rb : Fin 32)
  /-- LASUB_D (R163). Offers the negated FP64 value. -/
  | lasubD (ra : Fin 32) (rb : Fin 32)
  /-- LAADD_S (R163). Offers an FP32 addend. -/
  | laaddS (ra : Fin 32) (rb : Fin 32)
  /-- LARND_D (R163). Rounds the accumulator out to FP64. -/
  | larndD (rd : Fin 32) (ra : Fin 32)
  /-- LARND_S (R163). Rounds the accumulator out to FP32. -/
  | larndS (rd : Fin 32) (ra : Fin 32)
  /-- LASTAT (R163). Reads the accumulator status word. -/
  | lastat (rd : Fin 32) (ra : Fin 32)
  /-- VADD (R129). Adds integer lanes, wrapping. -/
  | vadd (vd : Fin 16) (va : Fin 16) (vb : Fin 16) (vm : Fin 16) (mp : Fin 2) (dt : Fin 16)
  /-- VSUB (R129). Subtracts integer lanes, wrapping. -/
  | vsub (vd : Fin 16) (va : Fin 16) (vb : Fin 16) (vm : Fin 16) (mp : Fin 2) (dt : Fin 16)
  /-- VMUL (R129). Multiplies integer lanes, low half. -/
  | vmul (vd : Fin 16) (va : Fin 16) (vb : Fin 16) (vm : Fin 16) (mp : Fin 2) (dt : Fin 16)
  /-- VMULH (R129). Multiplies integer lanes, high half. -/
  | vmulh (vd : Fin 16) (va : Fin 16) (vb : Fin 16) (vm : Fin 16) (mp : Fin 2) (dt : Fin 16)
  /-- VMIN (R129). Takes the smaller integer lane. -/
  | vmin (vd : Fin 16) (va : Fin 16) (vb : Fin 16) (vm : Fin 16) (mp : Fin 2) (dt : Fin 16)
  /-- VMAX (R129). Takes the larger integer lane. -/
  | vmax (vd : Fin 16) (va : Fin 16) (vb : Fin 16) (vm : Fin 16) (mp : Fin 2) (dt : Fin 16)
  /-- VAND (R129). Bitwise and of lanes. -/
  | vand (vd : Fin 16) (va : Fin 16) (vb : Fin 16) (vm : Fin 16) (mp : Fin 2) (dt : Fin 16)
  /-- VOR (R129). Bitwise or of lanes. -/
  | vor (vd : Fin 16) (va : Fin 16) (vb : Fin 16) (vm : Fin 16) (mp : Fin 2) (dt : Fin 16)
  /-- VXOR (R129). Bitwise xor of lanes. -/
  | vxor (vd : Fin 16) (va : Fin 16) (vb : Fin 16) (vm : Fin 16) (mp : Fin 2) (dt : Fin 16)
  /-- VSLL (R129). Shifts lanes left. -/
  | vsll (vd : Fin 16) (va : Fin 16) (vb : Fin 16) (vm : Fin 16) (mp : Fin 2) (dt : Fin 16)
  /-- VSRL (R129). Shifts lanes right logically. -/
  | vsrl (vd : Fin 16) (va : Fin 16) (vb : Fin 16) (vm : Fin 16) (mp : Fin 2) (dt : Fin 16)
  /-- VSRA (R129). Shifts lanes right arithmetically. -/
  | vsra (vd : Fin 16) (va : Fin 16) (vb : Fin 16) (vm : Fin 16) (mp : Fin 2) (dt : Fin 16)
  /-- VABS (R129). Takes the absolute value of signed lanes. -/
  | vabs (vd : Fin 16) (va : Fin 16) (vm : Fin 16) (mp : Fin 2) (dt : Fin 16)
  /-- VSADD (R129). Adds lanes with saturation. -/
  | vsadd (vd : Fin 16) (va : Fin 16) (vb : Fin 16) (vm : Fin 16) (mp : Fin 2) (dt : Fin 16)
  /-- VSSUB (R129). Subtracts lanes with saturation. -/
  | vssub (vd : Fin 16) (va : Fin 16) (vb : Fin 16) (vm : Fin 16) (mp : Fin 2) (dt : Fin 16)
  /-- VFADD (R130). Adds float lanes with one rounding. -/
  | vfadd (vd : Fin 16) (va : Fin 16) (vb : Fin 16) (vm : Fin 16) (mp : Fin 2) (dt : Fin 16)
  /-- VFSUB (R130). Subtracts float lanes. -/
  | vfsub (vd : Fin 16) (va : Fin 16) (vb : Fin 16) (vm : Fin 16) (mp : Fin 2) (dt : Fin 16)
  /-- VFMUL (R130). Multiplies float lanes. -/
  | vfmul (vd : Fin 16) (va : Fin 16) (vb : Fin 16) (vm : Fin 16) (mp : Fin 2) (dt : Fin 16)
  /-- VFMA (R130). Fused a×b+c into vd. -/
  | vfma (vd : Fin 16) (va : Fin 16) (vb : Fin 16) (vm : Fin 16) (mp : Fin 2) (dt : Fin 16)
  /-- VFMS (R130). Fused a×b−c into vd. -/
  | vfms (vd : Fin 16) (va : Fin 16) (vb : Fin 16) (vm : Fin 16) (mp : Fin 2) (dt : Fin 16)
  /-- VFNMA (R130). Fused −(a×b)+c into vd. -/
  | vfnma (vd : Fin 16) (va : Fin 16) (vb : Fin 16) (vm : Fin 16) (mp : Fin 2) (dt : Fin 16)
  /-- VFMIN (R131). Takes the smaller float lane. -/
  | vfmin (vd : Fin 16) (va : Fin 16) (vb : Fin 16) (vm : Fin 16) (mp : Fin 2) (dt : Fin 16)
  /-- VFMAX (R131). Takes the larger float lane. -/
  | vfmax (vd : Fin 16) (va : Fin 16) (vb : Fin 16) (vm : Fin 16) (mp : Fin 2) (dt : Fin 16)
  /-- VFABS (R130). Clears the sign bit of float lanes. -/
  | vfabs (vd : Fin 16) (va : Fin 16) (vm : Fin 16) (mp : Fin 2) (dt : Fin 16)
  /-- VFNEG (R130). Inverts the sign bit of float lanes. -/
  | vfneg (vd : Fin 16) (va : Fin 16) (vm : Fin 16) (mp : Fin 2) (dt : Fin 16)
  /-- VFDIV (R130). Divides float lanes. -/
  | vfdiv (vd : Fin 16) (va : Fin 16) (vb : Fin 16) (vm : Fin 16) (mp : Fin 2) (dt : Fin 16)
  /-- VFSQRT (R130). Takes the square root of float lanes. -/
  | vfsqrt (vd : Fin 16) (va : Fin 16) (vm : Fin 16) (mp : Fin 2) (dt : Fin 16)
  /-- VFCLASS (R131). Writes the class word of each float lane. -/
  | vfclass (vd : Fin 16) (va : Fin 16) (vm : Fin 16) (mp : Fin 2) (dt : Fin 16)
  /-- VCEQ (R132). Writes a mask of equal lanes. -/
  | vceq (vd : Fin 16) (va : Fin 16) (vb : Fin 16) (vm : Fin 16) (mp : Fin 2) (dt : Fin 16)
  /-- VCNE (R132). Writes a mask of unequal lanes. -/
  | vcne (vd : Fin 16) (va : Fin 16) (vb : Fin 16) (vm : Fin 16) (mp : Fin 2) (dt : Fin 16)
  /-- VCLT (R132). Writes a mask of signed less-than lanes. -/
  | vclt (vd : Fin 16) (va : Fin 16) (vb : Fin 16) (vm : Fin 16) (mp : Fin 2) (dt : Fin 16)
  /-- VCLE (R132). Writes a mask of signed less-or-equal lanes. -/
  | vcle (vd : Fin 16) (va : Fin 16) (vb : Fin 16) (vm : Fin 16) (mp : Fin 2) (dt : Fin 16)
  /-- VCLTN (R132). Writes a mask of natural less-than lanes. -/
  | vcltn (vd : Fin 16) (va : Fin 16) (vb : Fin 16) (vm : Fin 16) (mp : Fin 2) (dt : Fin 16)
  /-- VCLEN (R132). Writes a mask of natural less-or-equal lanes. -/
  | vclen (vd : Fin 16) (va : Fin 16) (vb : Fin 16) (vm : Fin 16) (mp : Fin 2) (dt : Fin 16)
  /-- VFCEQ (R132). Writes a mask of float-equal lanes. -/
  | vfceq (vd : Fin 16) (va : Fin 16) (vb : Fin 16) (vm : Fin 16) (mp : Fin 2) (dt : Fin 16)
  /-- VFCLT (R132). Writes a mask of float less-than lanes. -/
  | vfclt (vd : Fin 16) (va : Fin 16) (vb : Fin 16) (vm : Fin 16) (mp : Fin 2) (dt : Fin 16)
  /-- VFCLE (R132). Writes a mask of float less-or-equal lanes. -/
  | vfcle (vd : Fin 16) (va : Fin 16) (vb : Fin 16) (vm : Fin 16) (mp : Fin 2) (dt : Fin 16)
  /-- VFCUN (R132). Writes a mask of unordered lanes. -/
  | vfcun (vd : Fin 16) (va : Fin 16) (vb : Fin 16) (vm : Fin 16) (mp : Fin 2) (dt : Fin 16)
  /-- VSEL (R133). Selects lanes of a or b by the mask. -/
  | vsel (vd : Fin 16) (va : Fin 16) (vb : Fin 16) (vm : Fin 16) (dt : Fin 16)
  /-- VPERM (R133). Permutes lanes of a by indices in b. -/
  | vperm (vd : Fin 16) (va : Fin 16) (vb : Fin 16) (vm : Fin 16) (mp : Fin 2) (dt : Fin 16)
  /-- VSLUP (R133). Slides lanes up by s. -/
  | vslup (vd : Fin 16) (va : Fin 16) (vb : Fin 16) (vm : Fin 16) (mp : Fin 2) (dt : Fin 16)
  /-- VSLDN (R133). Slides lanes down by s. -/
  | vsldn (vd : Fin 16) (va : Fin 16) (vb : Fin 16) (vm : Fin 16) (mp : Fin 2) (dt : Fin 16)
  /-- MAND (R133). Ands two 512-bit masks. -/
  | mand (vd : Fin 16) (va : Fin 16) (vb : Fin 16)
  /-- MOR (R133). Ors two masks. -/
  | mor (vd : Fin 16) (va : Fin 16) (vb : Fin 16)
  /-- MXOR (R133). Xors two masks. -/
  | mxor (vd : Fin 16) (va : Fin 16) (vb : Fin 16)
  /-- MNOT (R133). Inverts a mask. -/
  | mnot (vd : Fin 16) (va : Fin 16)
  /-- MPOP (R133). Counts the set bits of a mask. -/
  | mpop (vd : Fin 16) (va : Fin 16) (dt : Fin 16)
  /-- MFIRST (R133). Finds the lowest set bit of a mask. -/
  | mfirst (vd : Fin 16) (va : Fin 16) (dt : Fin 16)
  /-- VIOTA (R133). Writes prefix counts of a mask into lanes. -/
  | viota (vd : Fin 16) (va : Fin 16) (vm : Fin 16) (mp : Fin 2) (dt : Fin 16)
  /-- VZIP (R133). Interleaves lanes of a and b. -/
  | vzip (vd : Fin 16) (va : Fin 16) (vb : Fin 16) (vm : Fin 16) (mp : Fin 2) (dt : Fin 16)
  /-- VUNZIP (R133). De-interleaves even lanes of a and b. -/
  | vunzip (vd : Fin 16) (va : Fin 16) (vb : Fin 16) (vm : Fin 16) (mp : Fin 2) (dt : Fin 16)
  /-- VRSUM (R134). Reduces lanes by wrapping sum. -/
  | vrsum (vd : Fin 16) (va : Fin 16) (vm : Fin 16) (dt : Fin 16)
  /-- VRMAX (R134). Reduces lanes by signed maximum. -/
  | vrmax (vd : Fin 16) (va : Fin 16) (vm : Fin 16) (dt : Fin 16)
  /-- VRMIN (R134). Reduces lanes by signed minimum. -/
  | vrmin (vd : Fin 16) (va : Fin 16) (vm : Fin 16) (dt : Fin 16)
  /-- VRMAXN (R134). Reduces lanes by natural maximum. -/
  | vrmaxn (vd : Fin 16) (va : Fin 16) (vm : Fin 16) (dt : Fin 16)
  /-- VRMINN (R134). Reduces lanes by natural minimum. -/
  | vrminn (vd : Fin 16) (va : Fin 16) (vm : Fin 16) (dt : Fin 16)
  /-- VFRSUM (R134). Reduces float lanes by the pairwise tree sum. -/
  | vfrsum (vd : Fin 16) (va : Fin 16) (vm : Fin 16) (dt : Fin 16)
  /-- VFRMAX (R134). Reduces float lanes by maximum. -/
  | vfrmax (vd : Fin 16) (va : Fin 16) (vm : Fin 16) (dt : Fin 16)
  /-- VFRMIN (R134). Reduces float lanes by minimum. -/
  | vfrmin (vd : Fin 16) (va : Fin 16) (vm : Fin 16) (dt : Fin 16)
  /-- VRAND (R134). Reduces lanes by bitwise and. -/
  | vrand (vd : Fin 16) (va : Fin 16) (vm : Fin 16) (dt : Fin 16)
  /-- VROR (R134). Reduces lanes by bitwise or. -/
  | vror (vd : Fin 16) (va : Fin 16) (vm : Fin 16) (dt : Fin 16)
  /-- VCVT (R160). Converts lanes between integer and float formats and counts the outcomes. -/
  | vcvt (vd : Fin 16) (va : Fin 16) (st : Fin 16) (vm : Fin 16) (mp : Fin 2) (dt : Fin 16)
  /-- VDEC (R160). Decodes q8 or q4 codes through the core's table. -/
  | vdec (vd : Fin 16) (va : Fin 16) (st : Fin 16) (vm : Fin 16) (mp : Fin 2) (dt : Fin 16)
  /-- VENC (R160). Encodes float lanes to q8 or q4 codes. -/
  | venc (vd : Fin 16) (va : Fin 16) (st : Fin 16) (vm : Fin 16) (mp : Fin 2) (dt : Fin 16)
  /-- VSCL (R161). Applies e8 block scales and rounds once. -/
  | vscl (vd : Fin 16) (va : Fin 16) (st : Fin 16) (vm : Fin 16) (mp : Fin 2) (dt : Fin 16)
  /-- VLD (R135). Loads 64 contiguous bytes into a vector. -/
  | vld (vd : Fin 16) (ra : Fin 32) (rb : Fin 32) (vm : Fin 16) (mp : Fin 2) (dt : Fin 8)
  /-- VLDS (R135). Loads strided lanes. -/
  | vlds (vd : Fin 16) (ra : Fin 32) (rb : Fin 32) (vm : Fin 16) (mp : Fin 2) (dt : Fin 8)
  /-- VLDB (R135). Loads one element and broadcasts it. -/
  | vldb (vd : Fin 16) (ra : Fin 32) (rb : Fin 32) (vm : Fin 16) (mp : Fin 2) (dt : Fin 8)
  /-- VTBL (R138). Loads and validates the core's q8 or q4 decode table. -/
  | vtbl (ra : Fin 32) (dt : Fin 2)
  /-- VST (R135). Stores 64 contiguous bytes, or places a Lantern command in the queue window. -/
  | vst (vd : Fin 16) (ra : Fin 32) (rb : Fin 32) (vm : Fin 16) (dt : Fin 8)
  /-- VSTS (R135). Stores strided lanes. -/
  | vsts (vd : Fin 16) (ra : Fin 32) (rb : Fin 32) (vm : Fin 16) (dt : Fin 8)
  /-- VSTNIB (R135). Stores q4 lanes as nibbles by masked read-modify-write. -/
  | vstnib (vd : Fin 16) (ra : Fin 32) (rb : Fin 32) (vm : Fin 16)
  /-- VINS (R139). Inserts a scalar into one lane. -/
  | vins (vd : Fin 16) (ra : Fin 32) (rb : Fin 32) (dt : Fin 8)
  /-- VEXT (R139). Extracts one lane into a scalar. -/
  | vext (vd : Fin 16) (ra : Fin 32) (rb : Fin 32) (dt : Fin 8)
  /-- VSPLAT (R139). Broadcasts a scalar into active lanes. -/
  | vsplat (vd : Fin 16) (ra : Fin 32) (vm : Fin 16) (dt : Fin 8)
  /-- SEND (R210). Checks a header, takes a credit for a request and queues a message from registers as a release. -/
  | send (ra : Fin 32) (rb : Fin 32) (sc : Fin 8)
  /-- SENDV (R210). Queues a message whose payload comes from a vector. -/
  | sendv (ra : Fin 32) (vb : Fin 16) (sc : Fin 8)
  /-- MGET (R212). Reads a landed payload word in ctx0. -/
  | mget (rd : Fin 32) (n : Fin 16)
  /-- VMGET (R212). Reads eight landed payload words into a vector. -/
  | vmget (vd : Fin 16) (half : Fin 2)
  /-- HTSET (R213). Writes an entry of the core's handler table atomically. -/
  | htset (ra : Fin 32) (rb : Fin 32) (n : Fin 4)
  /-- DQPUSH (R220). Pushes a task record at the local end of the core's deque. -/
  | dqpush (ra : Fin 32)
  /-- DQPOP (R220). Pops a record from the local end, or reports empty. -/
  | dqpop (rd : Fin 32) (ra : Fin 32)
  /-- SPAWN (R221). Sends a task record to the far end of a team core's deque and waits for its acknowledgement. -/
  | spawn (ra : Fin 32) (sc : Fin 8)
  /-- ACTDECL (R222). Replaces an actor slot's declaration. -/
  | actdecl (ra : Fin 32) (slot : Fin 8)
  /-- ACTARM (R222). Arms an actor slot with copies of its handles. -/
  | actarm (slot : Fin 8)
  /-- ACTOFF (R222). Disarms an actor slot, at its firing's done if it holds one. -/
  | actoff (slot : Fin 8)
  /-- DQSTAT (R220). Reads the deque's record count and capacity. -/
  | dqstat (rd : Fin 32)
  /-- BAR_ARR (R225). Arrives at a hardware barrier and returns the generation token. -/
  | barArr (rd : Fin 32) (ra : Fin 32) (level : Fin 32)
  /-- BAR_WAIT (R225). Waits until the barrier generation differs from the token. -/
  | barWait (ra : Fin 32) (rb : Fin 32) (level : Fin 32)
  /-- BAR_ARRW (R225). Arrives at a barrier and then waits on its token. -/
  | barArrw (rd : Fin 32) (ra : Fin 32) (level : Fin 32)
  /-- OBAR_ARR (R293). Arrives for n members at a barrier object in one 16-byte atomic operation. -/
  | obarArr (rd : Fin 32) (ra : Fin 32) (rb : Fin 32) (sc : Fin 8)
  /-- OBAR_WAIT (R294). Waits with acquire until the object's phase differs from the token. -/
  | obarWait (ra : Fin 32) (rb : Fin 32) (sc : Fin 8)
  /-- RCFG (R245). Waits for an idle ring set and sets its cut and beat. -/
  | rcfg (ra : Fin 32)
  /-- RINJ (R246). Stages a ring tile from an injection descriptor. -/
  | rinj (rd : Fin 32) (ra : Fin 32)
  /-- RMSET (R247). Writes one match entry or template atomically. -/
  | rmset (ra : Fin 32) (rb : Fin 32)
  /-- RMCLR (R247). Invalidates a run of entries or a template. -/
  | rmclr (ra : Fin 32) (rb : Fin 32)
  /-- RPHASE (R248). Waits for an idle track, clears MET and MISSED and opens a ring phase as a release. -/
  | rphase (ra : Fin 32) (rb : Fin 32) (trk : Fin 2) (sc : Fin 8)
  /-- RCNT (R249). Reads phase counts, phase state or an entry's status. -/
  | rcnt (rd : Fin 32) (ra : Fin 32) (sel : Fin 4) (trk : Fin 2)
  /-- RFETCH (R250). Starts the recovery of one missed entry under RECOV 1. -/
  | rfetch (rd : Fin 32) (rb : Fin 32)
  /-- RDRAIN (R251). Waits for an idle track and returns its last completion record word with acquire. -/
  | rdrain (rd : Fin 32) (trk : Fin 2)
  /-- CWAIT (R310). Waits until a copy is no longer in flight and returns its status. -/
  | cwait (rd : Fin 32) (ra : Fin 32)
  /-- CSTAT (R310). Reads the copy engine's state. -/
  | cstat (rd : Fin 32)
  /-- CCANCEL (R310). Cancels a queued or running copy. -/
  | ccancel (rd : Fin 32) (ra : Fin 32)
  /-- VGATH (R312). Gathers one element per active lane through owner network interfaces, with acquire. -/
  | vgath (vd : Fin 16) (ra : Fin 32) (sc : Fin 8) (vm : Fin 16) (mp : Fin 2) (dt : Fin 8)
  /-- VSCAT (R312). Scatters one element per active lane, with release. -/
  | vscat (vd : Fin 16) (ra : Fin 32) (sc : Fin 8) (vm : Fin 16) (dt : Fin 8)
  /-- VSCADD (R312). Atomically adds float lanes at their owners, with release. -/
  | vscadd (vd : Fin 16) (ra : Fin 32) (sc : Fin 8) (vm : Fin 16) (dt : Fin 8)
  /-- VGATHW (R312). Gathers 8-byte words by 32-bit indices into two vectors. -/
  | vgathw (vd : Fin 16) (ra : Fin 32) (sc : Fin 8) (vm : Fin 16) (mp : Fin 2) (dt : Fin 2)
  /-- MVER_OPEN (R327). Opens the version after the newest on a layer's version block. -/
  | mverOpen (rd : Fin 32) (ra : Fin 32)
  /-- MVER_TAG (R328). Takes a hold on the newest version and sets MVER. -/
  | mverTag (rd : Fin 32) (ra : Fin 32)
  /-- MVER_DONE (R329). Gives up one hold on a version, beginning its retirement when closing and unheld. -/
  | mverDone (ra : Fin 32) (rb : Fin 32)
  /-- MVER_STAT (R331). Reads a word of the version block with acquire. -/
  | mverStat (rd : Fin 32) (ra : Fin 32) (sel : Fin 8)
  /-- PRG_GO (R332). Queues a prune/regrow job for a layer record and returns its number. -/
  | prgGo (rd : Fin 32) (ra : Fin 32) (op : Fin 4)
  /-- PRG_STAT (R332). Reads the layer's job status word with acquire. -/
  | prgStat (rd : Fin 32) (ra : Fin 32)
  /-- STASH (R342). Takes a stash buffer and Snuffer region for the current micro-batch. -/
  | stash (rd : Fin 32) (ra : Fin 32)
  /-- UNSTASH (R343). Finds a micro-batch's stash buffer, or retires one use of it. -/
  | unstash (rd : Fin 32) (ra : Fin 32) (rb : Fin 32) (ret : Fin 2)
  /-- WSHAD (R341). Returns the address of one block of an entry for a version. -/
  | wshad (rd : Fin 32) (ra : Fin 32) (rb : Fin 32) (blk : Fin 4)
  /-- LTDECL (R319). Declares a Snuffer lifetime region. -/
  | ltdecl (rd : Fin 32) (ra : Fin 32)
  /-- LTUSE (R319). Retires uses of a region and drops it at the last one. -/
  | ltuse (rd : Fin 32) (ra : Fin 32) (rb : Fin 32)
  /-- LTDROP (R319). Drops or frees a region. -/
  | ltdrop (ra : Fin 32) (mode : Fin 2)
  /-- LTSTAT (R319). Reads a region's uses and state. -/
  | ltstat (rd : Fin 32) (ra : Fin 32)
  /-- RBPUT (R383). Pushes a slot of a remote buffer to the peer over a link. -/
  | rbput (rd : Fin 32) (ra : Fin 32) (rb : Fin 32)
  /-- RBRET (R384). Returns the oldest filled slot to the sender. -/
  | rbret (rd : Fin 32) (ra : Fin 32)
  /-- RBSTAT (R384). Reads a remote buffer's counts with acquire. -/
  | rbstat (rd : Fin 32) (ra : Fin 32)
  /-- COLL_GO (R387). Queues a collective at the die's collective engine. -/
  | collGo (rd : Fin 32) (ra : Fin 32)
  /-- COLL_WAIT (R387). Waits for the core's last collective from a descriptor and returns its record. -/
  | collWait (rd : Fin 32) (ra : Fin 32)
  /-- RSPLAN (R392). Computes this die's reshard plan into a progress record. -/
  | rsplan (rd : Fin 32) (ra : Fin 32)
  /-- RSGO (R392). Queues a reshard pass from the record's cursor. -/
  | rsgo (rd : Fin 32) (ra : Fin 32)
  /-- RSSTAT (R392). Reads a progress record's state word with acquire. -/
  | rsstat (rd : Fin 32) (ra : Fin 32)
  /-- LKPUT (R381). Queues a link put of bytes to a peer address. -/
  | lkput (rd : Fin 32) (ra : Fin 32)
  /-- PMCFG (R369). Configures and zeroes a performance counter. -/
  | pmcfg (ra : Fin 32) (n : Fin 8)
  /-- PMRD_CORE (R369). Reads one of the core's performance counters. -/
  | pmrdCore (rd : Fin 32) (ra : Fin 32)
  /-- PMRD_SLICE (R369). Reads a slice request counter of an address space. -/
  | pmrdSlice (rd : Fin 32) (ra : Fin 32)
  /-- JRNL_START (R370). Starts the replay journal from a descriptor. -/
  | jrnlStart (rd : Fin 32) (ra : Fin 32)
  /-- JRNL_STOP (R370). Waits until every journal record is written and stops the journal. -/
  | jrnlStop (rd : Fin 32) (ra : Fin 32)
  /-- JRNL_MARK (R370). Writes a MARK record. -/
  | jrnlMark (rd : Fin 32) (ra : Fin 32)
  /-- JRNL_STATUS (R370). Reads JCTL. -/
  | jrnlStatus (rd : Fin 32) (ra : Fin 32)
  /-- FCSTRD (R371). Reads a die's FORECAST or clock limit and power state. -/
  | fcstrd (rd : Fin 32) (ra : Fin 32) (sel : Fin 2)
  /-- DONE (R116). Ends the context's current firing. -/
  | done
  /-- YIELD (R117). Places a ctx1-ctx3 context last in round-robin order. -/
  | yield
  /-- TRET (R120). Returns from a user-level trap to EPC and clears UTA. -/
  | tret
  /-- WFE (R123). Waits until the context's event latch is set, then clears it. -/
  | wfe
  /-- NOP (R124). Does nothing. -/
  | nop
  /-- BSFLUSH (R156). Writes the buffered bits as a block without changing state. -/
  | bsflush
  /-- BSALIGN (R156). Aligns the bit buffer to a byte boundary. -/
  | bsalign
  /-- MREL (R212). Closes the payload window and frees the arrival slot. -/
  | mrel
  /-- HTSYNC (R214). Waits until messages latched under replaced entries have ended. -/
  | htsync
  /-- CVT_THRESHOLD (R52). A pending conversion-counter crossing is taken as a user-level trap before the charged context's next instruction. -/
  | cvtThreshold (core : Nat) (ctx : Fin 4)
  /-- CHARGED_FAULT (R184). A fault charged to a context by a command, engine or message is taken before that context's next instruction. -/
  | chargedFault (core : Nat) (ctx : Fin 4)
  /-- LOAD_RETURN (R67). The value of a memory read stands in its destination and the stalled context may issue again. -/
  | loadReturn (core : Nat) (ctx : Fin 4)
  /-- WAIT_RELEASE (R67). A waiting instruction's condition holds and it completes. -/
  | waitRelease (core : Nat) (ctx : Fin 4)
  /-- WAITLIMIT (R67). A wait not satisfied within WAITLIM cycles ends in the user-level trap WAITLIMIT. -/
  | waitlimit (core : Nat) (ctx : Fin 4)
  /-- FIRING_DISPATCH (R188). The core dispatches a pending firing to a free context, writing its fa words and PC. -/
  | firingDispatch (core : Nat) (ctx : Fin 4)
  /-- FIRING_PROMOTE (R195). A firing pending 4,096 cycles is promoted ahead of others. -/
  | firingPromote (core i : Nat)
  /-- MESSAGE_TRANSMIT (R206). The head message of a send queue leaves once a slot of its network is free at the destination. -/
  | messageTransmit (core : Nat) (vn : Fin 2) (dropped : Bool)
  /-- MESSAGE_ACCEPT (R206). A message is accepted into an arrival slot, transformed, latched, deposited and its firing made pending. -/
  | messageAccept (core i : Nat)
  /-- CREDIT_RETURN (R207). A credit-only return reaches the requesting core and frees one reply credit. -/
  | creditReturn (core : Nat)
  /-- STEAL_ROUND (R193). A core with a free context, nothing pending and an empty deque starts a round of steal requests. -/
  | stealRound (core : Nat)
  /-- STEAL_REQUEST (R193). A victim's interface gives up a far-end record or answers empty. -/
  | stealRequest (core : Nat)
  /-- STEAL_ANSWER (R193). The thief receives a stolen record or an empty answer and asks the next victim. -/
  | stealAnswer (core : Nat)
  /-- STEAL_BACKOFF_EXPIRY (R193). The 1,024-cycle pause after a failed round ends. -/
  | stealBackoffExpiry (core : Nat)
  /-- SPAWN_PUSH (R221). A spawned record reaches the target deque and is pushed at its far end when there is room. -/
  | spawnPush (core : Nat) (ctx : Fin 4)
  /-- SPAWN_WITHDRAW (R221). The target drops a held spawn record on withdrawal. -/
  | spawnWithdraw (core : Nat) (ctx : Fin 4)
  /-- SPAWN_ACK (R221). The spawner receives the push or withdrawal acknowledgement. -/
  | spawnAck (core : Nat) (ctx : Fin 4)
  /-- DEPENDENCY_PUSH (R223). The record of a zeroed dependency object is pushed at the target deque's far end. -/
  | dependencyPush (i : Nat)
  /-- ACTOR_READY (R190). An armed actor's terms all hold and an actor firing is posted. -/
  | actorReady (core : Nat) (slot : Fin 8)
  /-- BARRIER_RELEASE (R226). A barrier release reaches a member core. -/
  | barrierRelease (core : Nat) (level : Fin 5) (id : Fin 16)
  /-- BARRIER_STAGGER_EXPIRY (R201). The stagger delay D ends and the core leaves the barrier wait. -/
  | barrierStaggerExpiry (core : Nat) (ctx : Fin 4)
  /-- MCFG (R173). Allocates or reshapes tiles for the placing core once they are not in use. -/
  | mcfg (quad : Nat) (src : Fin 5)
  /-- MCTX (R174). Sets the placing core's format context and loads tables. -/
  | mctx (quad : Nat) (src : Fin 5)
  /-- MLD (R175). Loads a tile from memory, optionally undoing a swizzle. -/
  | mld (quad : Nat) (src : Fin 5)
  /-- MST (R175). Stores a tile to memory, converting and encoding. -/
  | mst (quad : Nat) (src : Fin 5)
  /-- MMA (R177). Accumulates A×B into an FP32 tile under the dot rule. -/
  | mma (quad : Nat) (src : Fin 5)
  /-- MMAT (R177). Accumulates transpose(A)×B into an FP32 tile. -/
  | mmat (quad : Nat) (src : Fin 5)
  /-- MMAS (R177). Accumulates a block-scaled product into an FP32 tile. -/
  | mmas (quad : Nat) (src : Fin 5)
  /-- MZERO (R173). Sets every element of the named tiles to +0. -/
  | mzero (quad : Nat) (src : Fin 5)
  /-- LANTERN_MREL (R173). Releases the named tiles once they are not in use. -/
  | lanternMrel (quad : Nat) (src : Fin 5)
  /-- MOPT (R181). Waits for the norm slot and applies the optimiser step to weight and moment tiles. -/
  | mopt (quad : Nat) (src : Fin 5)
  /-- MSYNC (R182). Stores or adds a value with release covering the queue's earlier commands. -/
  | msync (quad : Nat) (src : Fin 5)
  /-- MMASK (R179). Applies or makes a MASK tile. -/
  | mmask (quad : Nat) (src : Fin 5)
  /-- MNORM (R180). Stores or adds the exact squared norm of a tile. -/
  | mnorm (quad : Nat) (src : Fin 5)
  /-- LANTERN_WAIT_TIMEOUT (R173). A command waiting at its queue head longer than WAITLIM is refused with reason 6. -/
  | lanternWaitTimeout (quad : Nat) (src : Fin 5)
  /-- LANTERN_RETIRE (R167). A command's effects complete, its queue entry frees and event latches are set. -/
  | lanternRetire (quad : Nat) (src : Fin 5)
  /-- RING_BEAT (R231). At each beat the ring moves tiles, latches arrivals and tests candidate pairs. -/
  | ringBeat (clu ring : Nat) (parity : List (Fin 2))
  /-- RING_DRAIN_END (R240). After the last beat, draining ends once accepted meetings retire and ACC tiles are delivered. -/
  | ringDrainEnd (clu ring : Nat) (trk : Fin 2)
  /-- ACC_DELIVERY (R239). The ring writes an ACC tile to its DST after its meetings retire. -/
  | accDelivery (clu ring : Nat) (trk : Fin 2) (i : Nat)
  /-- RECOVERY_START (R241). A station recovers a missed entry by fetching the originals and placing its command. -/
  | recoveryStart (clu station : Nat) (trk : Fin 2) (entry : Nat)
  /-- LATE_ADD_APPLY (R241). The home core's interface adds a late product into the delivered tile. -/
  | lateAddApply (core i : Nat)
  /-- PHASE_COMPLETE (R242). The ring controller writes the completion record with release and the track becomes IDLE. -/
  | phaseComplete (clu ring : Nat) (trk : Fin 2)
  /-- COPY_START (R301). The copy engine starts the next queued copy and moves its rows. -/
  | copyStart (core : Nat)
  /-- COPY_COMPLETE (R305). A copy's last write is performed and it writes its record, counter add and completion firing. -/
  | copyComplete (core : Nat)
  /-- GS_LANE (R313). An owner's network interface performs one gather or scatter lane and answers. -/
  | gsLane (core : Nat) (ctx : Fin 4) (lane : Nat)
  /-- SNUFFER_DROP_END (R320). A Snuffer drop finishes discarding its lines and frees the region. -/
  | snufferDropEnd (die region : Nat)
  /-- PRG_STEP (R334). The prune/regrow engine prepares the next version's fresh slots, pruning and regrowing at intervals. -/
  | prgStep (die : Nat)
  /-- PRG_DRAW (R336). The engine draws candidate blocks and writes candidate entries. -/
  | prgDraw (die : Nat)
  /-- PRG_REPACK (R337). The engine compacts the fresh slots. -/
  | prgRepack (die : Nat)
  /-- REPACK_SLOT_SWITCH (R337). A moved slot's entry is switched at a beat boundary. -/
  | repackSlotSwitch (die : Nat)
  /-- RETIREMENT_JOB (R330). The engine clears a retired version's slots from entries and marks it retired. -/
  | retirementJob (die : Nat)
  /-- LINK_PUT_TRANSFER (R381). The link engine moves a queued put's bytes to the peer. -/
  | linkPutTransfer (core link : Nat) (peer : PeerAnswer)
  /-- LINK_PUT_COMPLETE (R381). After every byte is performed at the peer the put's record is written with release. -/
  | linkPutComplete (core link : Nat)
  /-- RB_TRANSFER (R383). The link engine moves a pushed slot's bytes to the receiver's buffer. -/
  | rbTransfer (core link : Nat) (peer : PeerAnswer)
  /-- FILL_ADD (R383). FILLED of the receiver's descriptor is advanced with release and its event latches set. -/
  | fillAdd (link core desc : Nat)
  /-- FILL_ACK (R384). The sender learns of a fill through the link's acknowledgement. -/
  | fillAck (core desc : Nat)
  /-- RETURN_ADD (R384). RETS of the sender's descriptor is advanced with release. -/
  | returnAdd (link core desc : Nat)
  /-- LINK_DOWN (R417). A Dexow link goes down, ending its transfers with REMOTE_ERROR. -/
  | linkDown (link : Nat)
  /-- LINK_UP (R417). A Dexow link trains and UP returns to 1. -/
  | linkUp (link peer lanes : Nat)
  /-- COLL_START (R387). The collective engine reads the start word at or above its threshold and begins contributing. -/
  | collStart (die : Nat)
  /-- COLL_START_TIMEOUT (R387). A start threshold not met within WAITLIM ends the collective with STATUS 2. -/
  | collStartTimeout (die : Nat)
  /-- COLL_END (R387). A collective's DST writes are performed and its record is written with release. -/
  | collEnd (die : Nat) (peers : List PeerRank)
  /-- RESHARD_PASS_START (R393). The reshard engine starts a queued pass at the cursor. -/
  | reshardPassStart (die : Nat)
  /-- RESHARD_REGION_DONE (R393). A region completes; the cursor advances and STATE 3 is written at the end. -/
  | reshardRegionDone (die : Nat) (peer : PeerAnswer)
  /-- LQTAIL_DOORBELL (R376). The host writes LQTAIL to place launches. -/
  | lqtailDoorbell (asid tail : Nat)
  /-- LAUNCH_SERVE (R196). The distributor serves the head launch, checks it and reserves clusters. -/
  | launchServe (chosen : List Nat)
  /-- GANG_PLACE (R196). Once every cluster is reserved the distributor loads the image, sets up the cores and posts initial firings. -/
  | gangPlace
  /-- GANG_WITHDRAW (R199). A placing gang overtaken by a higher-priority launch is withdrawn when its window expires. -/
  | gangWithdraw
  /-- TEAM_END (R200). A team with nothing running or in flight ends and its clusters are freed. -/
  | teamEnd (tid : Nat)
  /-- FORECAST_WRITE (R202). Every 940 cycles the die samples and writes FORECAST. -/
  | forecastWrite (die : Nat)
  /-- CLOCK_LIMIT_CHANGE (R406). Power management changes a die's clock limit, entering or leaving THROTTLED. -/
  | clockLimitChange (die mhz : Nat)
  /-- POWER_CAP_WINDOW (R406). Each 1 ms window power management holds module power at or below the cap. -/
  | powerCapWindow (watts : Nat)
  /-- DIE_PARK (R402). A die without a team for 1 ms is parked. -/
  | diePark (die : Nat)
  /-- DIE_UNPARK (R402). A parked die is unparked when a placement needs its clusters. -/
  | dieUnpark (die : Nat)
  /-- THERMAL_LIMIT (R407). A die reaching 95 °C is limited to 600 MHz. -/
  | thermalLimit (die celsius : Nat)
  /-- THERMAL_RELEASE (R407). A limited die falling below 90 °C loses the thermal limit. -/
  | thermalRelease (die celsius : Nat)
  /-- THERMAL_TRIP (R407). A die at 110 °C stops every clock and the module enters OFF. -/
  | thermalTrip (die celsius : Nat)
  /-- FAULT_RECORD_POST (R350). A fault record is written to the die's fault queue when a slot is free and the vector signalled. -/
  | faultRecordPost (die : Nat)
  /-- FQSZ_WRITE (R350). A write of FQSZ sets the queue size and resets FQPROD and FQCONS. -/
  | fqszWrite (die : Nat) (v : BitVec 64)
  /-- FRESP_RETRY (R351). A RETRY response resumes the named agents at the faulting point. -/
  | frespRetry (die seq : Nat)
  /-- FRESP_SKIP (R351). A SKIP response steps the named agents past the fault. -/
  | frespSkip (die seq : Nat)
  /-- FRESP_DISCARD (R351). A DISCARD response drops the queue's commands and resumes the context. -/
  | frespDiscard (die seq : Nat)
  /-- FRESP_UPCALL (R351). An UPCALL response turns the fault into a user-level trap. -/
  | frespUpcall (die seq : Nat)
  /-- FRESP_END (R351). An END response stops the whole team. -/
  | frespEnd (die seq : Nat)
  /-- WALK_COMPLETE (R353). A translation walk ends, filling the cache or posting one coalesced XLATE record. -/
  | walkComplete (die asid page : Nat)
  /-- INVALIDATE_START (R271). A write of IGO starts a translation invalidation by space and page range. -/
  | invalidateStart (v : BitVec 64)
  /-- INVALIDATE_DONE (R271). The invalidation completes on every cluster and IBUSY clears. -/
  | invalidateDone
  /-- SLICE_FILL_RETURN (R268). A slice fill returns and one multicast reply answers every member of the fill group. -/
  | sliceFillReturn (line : Nat)
  /-- REFUSAL_RETRY (R268). A refused request's retry hint expires and the request is sent again. -/
  | refusalRetry (core : Nat) (ctx : Fin 4)
  /-- SLICE_WRITEBACK (R267). A slice writes back or evicts a dirty sector at a moment of its own choosing. -/
  | sliceWriteback (sector : Nat)
  /-- PREEMPT_REQUEST (R357). A pre-emption request names a team and starts the drain period. -/
  | preemptRequest
  /-- FORCED_SAVE (R359). When DLIM expires the team is stopped, captured and its clusters freed. -/
  | forcedSave
  /-- RESTORE_REQUEST (R363). A restore request reserves clusters, loads the save image and resumes the team. -/
  | restoreRequest
  /-- REPLAY_DIVERGE (R365). A recorded choice not possible within WAITLIM makes the core set DIV and continue freely. -/
  | replayDiverge (core : Nat)
  /-- CHECKPOINT_HOST (R394). GO with TARGET 0 writes back dirty sectors and sends the whole memory image to host memory. -/
  | checkpointHost
  /-- CHECKPOINT_MIRROR (R394). GO with TARGET 1 mirrors the memory image to the peer module. -/
  | checkpointMirror (peerReady : Bool)
  /-- CHECKPOINT_RESTORE (R394). GO with CKREST loads the image from CKADDR. -/
  | checkpointRestore
  /-- CHECKPOINT_DONE (R394). A checkpoint ends, CKSTATE reads 2 and CKVEC is signalled. -/
  | checkpointDone
  /-- HOST_BAR2_ACCESS (R375). A host access through BAR 2 is performed at the home slice as uncached-strong. -/
  | hostBar2Access (off size : Nat) (req : HostRequest)
  /-- BAR0_REGISTER_WRITE (R374). A host write to a BAR 0 register without behaviour of its own. -/
  | bar0RegisterWrite (off : Nat) (v : BitVec 64)
  /-- SMBUS_TEMPERATURE (R408). SMBus command 0x01 returns the die junction temperatures. -/
  | smbusTemperature (pec : Bool) (celsius : List Nat)
  /-- SMBUS_POWER (R408). SMBus command 0x02 returns module power. -/
  | smbusPower (pec : Bool) (watts : Nat)
  /-- SMBUS_POWER_CAP (R408). SMBus command 0x03 sets the power cap. -/
  | smbusPowerCap (pec : Bool) (watts : Nat)
  /-- SMBUS_STATE (R408). SMBus command 0x04 returns security, debug, power and boot states. -/
  | smbusState (pec : Bool)
  /-- SMBUS_ENTER_RETAIN (R408). SMBus command 0x05 enters RETAIN unless refused. -/
  | smbusEnterRetain (pec : Bool)
  /-- SMBUS_LEAVE_RETAIN (R408). SMBus command 0x06 leaves RETAIN. -/
  | smbusLeaveRetain (pec : Bool)
  /-- SMBUS_UNLOCK_TOKEN (R403). SMBus command 0x07 appends an unlock token chunk for the next reset. -/
  | smbusUnlockToken (pec : Bool) (chunk : List (BitVec 8))
  /-- RESET (R409). Power-on, PERST# or leaving RETAIN or a thermal trip runs the boot and bring-up sequence. -/
  | reset (env : BringUp)
  /-- OBSERVE_TOKEN (R403). An observe token through the DOE mailbox raises the debug state to OBSERVE. -/
  | observeToken (token : List (BitVec 8))
  /-- SPDM_REQUEST (R405). The Zilry controller answers an SPDM request with signed measurements or key exchange. -/
  | spdmRequest (request : List (BitVec 8))
  /-- DEBUG_STEP (R401). The debugger steps a halted context by one instruction or pass word. -/
  | debugStep (core : Nat) (ctx : Fin 4)
  /-- DEBUG_RESUME (R401). The debugger resumes a halted context. -/
  | debugResume (core : Nat) (ctx : Fin 4)
  /-- DEBUG_MEMORY_ACCESS (R401). A debug mailbox memory access is performed as a host access at .sys. -/
  | debugMemoryAccess (core : Nat) (addr : BitVec 64) (size : Nat) (data : Option (List (BitVec 8)))
  /-- FETCH_FAULT (R11). A ready context whose PC is misaligned or outside own TCM takes MISALIGN or ACCESS at the fetch, with EPC and EVAL holding the target. -/
  | fetchFault (core : Nat) (ctx : Fin 4)
  /-- WRITE_PERFORMED (R275). A store or other write that was sent to a distant place is performed there and becomes visible to every later read, ending any release hold that waited on it. -/
  | writePerformed (core i : Nat)
  /-- SOFT_ERROR (R354). An uncorrectable soft error marks a word or sector poisoned. -/
  | softError (place : Nat)
  /-- DEBUG_HALT (R401). The debugger halts a context through the debug mailbox in INVASIVE. -/
  | debugHalt (core : Nat) (ctx : Fin 4)
  /-- LINK_LANE_LOSS (R417). A Dexow link loses some lanes but keeps training, so it runs on the lanes left with UP 1, a reduced LANES and a lower rate. -/
  | linkLaneLoss (link lanes : Nat)
  /-- MODULE_POWER_LOSS (R402). Loss of the 48 V supply takes the module to OFF, retaining nothing. -/
  | modulePowerLoss
  /-- PEER_TRANSFER_SERVE (R415). This module's link engine serves a peer's put, slot transfer or reshard write arriving over a Dexow link, translating it in PASID and performing it here. -/
  | peerTransferServe (link : Nat) (target : PeerTarget) (data : List (BitVec 8))
  /-- MIRRORED_CHECKPOINT_RECEIVE (R394). With RXEN set, a mirrored checkpoint arriving from a peer over all twelve links is written to the same places here and the slice caches are invalidated. -/
  | mirroredCheckpointReceive (image : MirrorImage)
  deriving DecidableEq, Repr

end Sys2Proof
end

