-- ==== Sys2Proof/Machine/State.lean ====
section
/-! DEFINITION. The state of one K4 module as plain data, and the state after reset. Field defaults are the reset
values; INVENTORY.md names the rule of each field and the log entry of each value the manual does not give. -/

namespace Sys2Proof.Machine

/-! ### Containers -/

/-- A sparse map from natural numbers: pairs with keys rising. -/
abbrev SMap (α : Type) := List (Nat × α)

/-- Memory: the bytes that are not zero, by place, places rising (14 R257, R259). An unlisted place reads zero. -/
abbrev Memory := List Host.Cell

/-! ### One context -/

/-- The registers of an active workspace (01 R15). Bytes 0x000-0x007 are ordinary TCM bytes, 0x5E8-0x5FF read zero. -/
structure Workspace where
  w : Vector Word 32 := Vector.replicate 32 0
  v : Vector VWord 16 := Vector.replicate 16 0
  bsb : Word := 0
  bsp : BitVec 32 := 0
  bsn : BitVec 32 := 0
  cb : Vector (BitVec 128) 8 := Vector.replicate 8 0
  fa : Vector Word 6 := Vector.replicate 6 0
  pc : Word := 0
  cflags : Word := 0
  epc : Word := 0
  ecause : Word := 0
  eval : Word := 0
  deriving DecidableEq, Repr

/-- An open repeat frame: the `rpt` at `ia`, its captured words and increments, and the next word (07 R142). -/
structure Frame where
  ia : Word
  words : List (BitVec 32)
  passes : Nat
  sd : Nat
  sa : Nat
  sb : Nat
  sm : Nat
  pass : Nat
  pos : Nat
  deriving DecidableEq, Repr

/-- A crossing of a conversion counter that waits to be taken (02 R52): the counter index and the source code. -/
structure Crossing where
  counter : Fin 4
  source : Fin 4
  deriving DecidableEq, Repr

/-- What an access does, as a fault record's KIND (20 R349). -/
inductive Kind where
  | none
  | read
  | write
  | amo
  | fetch
  deriving DecidableEq, Repr

/-- Whom a fault record's AGENT names (20 R349). -/
inductive Agent where
  | context
  | lantern
  | copy
  | ring
  | network
  | dieEngine
  deriving DecidableEq, Repr

/-- An engine that writes a completion record (15 R418): of a core, of a track of its ring, of a link, or of a die. -/
inductive Engine where
  | copy
  | ring (trk : Fin 2)
  | link (l : Nat)
  | coll (die : Nat)
  | reshard (die : Nat)
  | prune (die : Nat)
  deriving DecidableEq, Repr

/-- Where a crossing waits (02 R52): at the context that it charges, or with a command of that core's Lantern queue, or of a
quad's meeting buffer, until the command retires. The number names the command. -/
inductive CrossAt where
  | context
  | command (id : Nat)
  | meeting (quad id : Nat)
  deriving DecidableEq, Repr

/-- What a held fault record acts on besides its context (20 R351, 02 R416). -/
inductive Held where
  | nothing
  | copyRun
  | linkOp (link : Nat)
  | collRun (die : Nat)
  | reshard (die : Nat)
  | counterAdd (counter : Fin 4) (count : Nat) (source : Fin 4) (at_ : CrossAt)
  | completion (addr : Word) (bytes : List Byte) (sc : Option Nat) (add : Bool) (by_ : Engine)
  deriving DecidableEq, Repr

/-- A fault record (20 R349), before and after it is posted. -/
structure FaultRec where
  tid : Nat := 0
  cause : BitVec 8
  agent : Agent
  ctx : CtxId
  core : Nat
  coalesced : Bool := false
  asid : Nat := 0
  seq : Nat := 0
  epc : Word
  value : Word
  addr : Word := 0
  kind : Kind := .none
  xid : BitVec 16 := 0
  word : BitVec 32 := 0
  cyc : Word := 0
  frm : Bool := false
  nwait : Nat := 1
  suspends : Bool := true
  held : Held := .nothing
  deriving DecidableEq, Repr

/-- A fault charged to a context, taken before its next instruction (09 R184), or the user-level trap of an UPCALL
that acts on an engine (20 R351). -/
structure Charged where
  record : FaultRec
  upcall : Bool := false
  deriving DecidableEq, Repr

/-- A collective at one rank (21 R387): its descriptor, rank list and tree as `coll.go` read them, when the engine first
read its start word, its elements once it contributes, how it ends once that is known, and word 0 of its record once that
is written. `go` numbers the launches of its core; `mark` stands once WAITLIM has passed since the first read: whether the start
threshold was met by then. -/
structure CollJob where
  desc : List Word
  ranks : List (Nat × Nat)
  tree : List Nat
  ra : Word
  rank : Nat
  core : Nat
  ctx : CtxId
  since : Option Nat := none
  src : Option (List Nat) := none
  ended : Option (Fin 4 × BitVec 8 × List Nat) := none
  closing : Option Word := none
  go : Nat := 0
  mark : Option Bool := none
  deriving DecidableEq, Repr

/-- A waiting instruction with the operands it read (03 R67). `rd` is where its result goes. -/
inductive WaitOp where
  | wfe
  | mqwait (n : Nat)
  | place (cmd : VWord) (cb : BitVec 128)
  | send (hdr : Word) (payload : List Word) (sc : Nat) (reply : Bool)
  | htsync (sets : SMap Nat)
  | dqpush (word0 arg1 : Word)
  | spawn
  | barArr (level id : Nat) (rd : Reg) (thenWait : Bool)
  | barWait (level id : Nat) (token : BitVec 16)
  | stream (fn : Nat) (x : Reg) (cb : Fin 8) (need off : Nat)
  | obarWait (addr : Word) (phase : BitVec 4) (sc : Nat)
  | rcfg (c : Word)
  | rphase (p recAddr : Word) (trk : Fin 2) (sc : Nat)
  | rdrain (rd : Reg) (trk : Fin 2)
  | cwait (rd : Reg) (x : BitVec 16)
  | launch (rd : Reg) (block : List Word) (shadow : List Word)
  | mverOpen (rd : Reg) (l : Word)
  | prgGo (rd : Reg) (l : Word) (op : Nat)
  | stash (rd : Reg) (l : Word)
  | drop (rd : Reg) (v : Word) (die region : Nat)
  | lkput (rd : Reg) (desc : List Word) (ra : Word)
  | rbput (rd : Reg) (ra src : Word)
  | collGo (rd : Reg) (job : CollJob)
  | collWait (rd : Reg) (ra : Word)
  | rsgo (rd : Reg) (ra : Word)
  | jrnlStop (rd : Reg)
  deriving DecidableEq, Repr

/-- A wait in progress: when it began and the WAITLIM it read then (06 R126); `none` is not bounded. `mark` stands once
WAITLIM cycles have passed: whether the condition held by then (03 R67); where it did not, `val` is the EVAL of the trap. -/
structure Wait where
  op : WaitOp
  word : BitVec 32
  since : Nat
  limit : Option Nat
  mark : Option Bool := none
  val : Word := 0
  deriving DecidableEq, Repr

/-- A core whose release at a scope below `.dev` left earlier writes of its own unperformed, and that scope (15 R278). Log
entry 5. -/
abbrev Tag := Nat × Nat

/-- A gather or scatter whose lanes are being performed (17 R312, R313): the lanes left with their addresses, the values
that came back, and the destination as its inactive lanes leave it, or the data to write. -/
structure Gather where
  word : BitVec 32
  fn : Nat
  vd : VReg
  dt : Nat
  sc : Nat
  rm : Nat
  left : List (Nat × Word)
  got : List (Nat × Nat)
  lo : VWord
  hi : VWord
  poisoned : List (Nat × Word) := []
  deriving DecidableEq, Repr

/-- Where a spawned record stands (11 R221). -/
inductive SpawnAt where
  | flying
  | heldFull
  | withdrawing
  | pushed
  | withdrawn
  deriving DecidableEq, Repr

/-- A spawn in progress, with what its release still owes (15 R278). -/
structure Spawn where
  word0 : Word
  arg1 : Word
  stage : SpawnAt := .flying
  tags : List Tag := []
  deriving DecidableEq, Repr

/-- One hardware context (01 R9, R14, R24). `past` holds the images its workspace has had since it became active (01
R22); a refused request is held at the slice `refusedAt` (14 R268); a context that is `owing` has issued a release whose earlier writes
hold it (03 R67); where `linkFails`, the links drop its next distant
request (20 R355). -/
structure Context where
  ws : Workspace := {}
  past : List Workspace := []
  wp : Word
  active : Bool := true
  firing : Bool := false
  firingReg : Word := 0
  cpyXid : BitVec 16 := 0
  mver : BitVec 16 := 0
  mbatch : BitVec 8 := 0
  evl : Bool := false
  suspended : Bool := false
  halted : Bool := false
  haltedAt : Nat := 0
  stepping : Bool := false
  wait : Option Wait := none
  stalled : Bool := false
  owing : Bool := false
  refused : Bool := false
  linkFails : Bool := false
  refusals : Nat := 0
  refusedAt : Nat × Nat := (0, 0)
  stagger : Option Nat := none
  fp : Bool := false
  resume : Bool := false
  frame : Option Frame := none
  crossings : List Crossing := []
  charged : List Charged := []
  actorSlot : Option (Fin 8) := none
  gather : Option Gather := none
  spawn : Option Spawn := none
  deriving DecidableEq, Repr

/-- A context when its core leaves reset (01 R28). -/
def Context.reset (c : CtxId) : Context :=
  { wp := BitVec.ofNat 64 (0x800000000007E800 + 0x600 * c.val) }

/-! ### One core -/

/-- A launched copy: the shadow set, the parameter block, its id and the launching context (17 R300), with what its launch still
owes (15 R278). -/
structure CopyJob where
  shadow : List Word
  block : List Word
  xid : BitVec 16
  ctx : CtxId
  tags : List Tag := []
  deriving DecidableEq, Repr

/-- How the running copy stands (17 R305, R306); `stage` counts the completion actions that it has behind it. -/
structure CopyRun where
  job : CopyJob
  row : Nat := 0
  bytes : Nat := 0
  held : Bool := false
  status : Option (Fin 4) := none
  cause : BitVec 8 := 0
  stage : Nat := 0
  deriving DecidableEq, Repr

/-- A copy that has ended, as `cwait` reads it (17 R305, R310). -/
structure CopyEnd where
  xid : BitVec 16
  status : Fin 4
  cause : BitVec 8
  sc : Nat
  rec_ : Word
  deriving DecidableEq, Repr

/-- The copy engine (17 R298-R305). `shadow` is CPY_SRC to CPY_PBLK in the order of 01 R24. -/
structure CopyEngine where
  shadow : Vector Word 8 := Vector.replicate 8 0
  queue : List CopyJob := []
  running : Option CopyRun := none
  ending : List CopyRun := []
  nextId : BitVec 16 := 1
  history : List CopyEnd := []
  deriving DecidableEq, Repr

/-- The replay journal of a core (20 R364, R367); `ctx` started it, and is charged with a record that lands in an active
workspace (01 R21). -/
structure Journal where
  on : Bool := false
  replay : Bool := false
  div : Bool := false
  full : Bool := false
  wrap : Bool := false
  base : Word := 0
  size : Nat := 0
  pos : Nat := 0
  drop : Nat := 0
  lost : Nat := 0
  since : Nat := 0
  ctx : CtxId := 0
  deriving DecidableEq, Repr

/-- A handler-table entry (05 R93). -/
structure Handler where
  entry : Word := 0
  cls : BitVec 32 := 0
  deriving DecidableEq, Repr

/-- A message in a send queue (11 R210), with its sender and instruction word and what its release still owes (15 R278). -/
structure Msg where
  hdr : Word
  payload : List Word
  sc : Nat
  src : Nat
  ctx : CtxId
  tags : List Tag := []
  word : BitVec 32 := 0
  deriving DecidableEq, Repr

/-- A message accepted into an arrival slot (11 R206): what landed, the latched handler entry and when, with what its send still owes
(15 R278). -/
structure Arrival where
  hdr : Word
  src : Nat
  landed : List Byte
  handler : Handler
  latchGen : Nat
  since : Nat
  tags : List Tag := []
  deriving DecidableEq, Repr

/-- The message firing that runs in ctx0 (11 R212): its slot's contents while the window is open, and whether its
reply has been sent. -/
structure OpenMsg where
  arrival : Arrival
  window : Bool := true
  replied : Bool := false
  deriving DecidableEq, Repr

/-- The network interface's messages (11 R206-R216). -/
structure Net where
  handlers : SMap Handler := []
  htGen : Nat := 0
  htSets : SMap Nat := []
  credits : Nat := 16
  sendReq : List Msg := []
  sendRep : List Msg := []
  inFlight : List Msg := []
  slotsReq : List Arrival := []
  slotsRep : List Arrival := []
  openMsg : Option OpenMsg := none
  creditReturns : Nat := 0
  deriving DecidableEq, Repr

/-- A task record in a deque, with its push time (10 R192, R195) and what its push still owes (15 R278). `slot` is its place in
the spill region, whose bytes then hold the record. -/
structure TaskRec where
  word0 : Word
  arg1 : Word
  since : Nat
  promoted : Bool := false
  slot : Option Nat := none
  tags : List Tag := []
  deriving DecidableEq, Repr

/-- A round of steal requests (10 R193): the victims still to ask, the answer awaited. -/
structure StealRound where
  victim : Option Nat
  tried : Nat
  answer : Option (Option TaskRec) := none
  deriving DecidableEq, Repr

/-- An actor slot (10 R190): its declaration, the descriptors its terms name as they were when it was armed, the
context that armed it and whether a firing of it is pending or runs. -/
structure Actor where
  decl : Word := 0
  armed : Bool := false
  cbs : List (Fin 8 × BitVec 128) := []
  byCtx : CtxId := 1
  firing : Bool := false
  off : Bool := false
  deriving DecidableEq, Repr

/-- A pending firing of kinds 2, 3, 4, 5 or 7 (10 R187, R195), with its firing-argument words and what the release that its
dispatch acquires still owes (15 R278). -/
structure Pending where
  kind : Fin 8
  hidx : Nat
  aux : Nat := 0
  xid : BitVec 16 := 0
  fa : List Word := []
  src : Nat := 0
  since : Nat
  promoted : Bool := false
  tags : List Tag := []
  deriving DecidableEq, Repr

/-- What holds a byte (14 R257, R259): for HBM the die, the slice that owns the line, the placement it is reached through
(14 R266) and the policy of the access. -/
inductive Space where
  | tcm (g : Nat)
  | pond (c : Nat)
  | lake (d : Nat)
  | hbm (die slice plc pol : Nat)
  | host
  | queue
  deriving DecidableEq, Repr

/-- A write that was sent to a distant place and is not performed yet (15 R275, R284): its cells are places with a
value and a mask of the bits written, which is not all ones for a sub-byte store (06 R109). `core` and `ctx` issued it, for
the address `addr`; `rel` is the scope of a store-release, and `tags` what that owes beside its core's own (15 R278); `owed` tells
that a release came after it without performing it; `clears` are the poisoned granules that its whole access replaces (20 R354);
`count` tells that its request is counted when its slice accepts it (20 R369). `agent`, `word` and `xid` are those of a fault that it
raises (20 R349). -/
structure PendWrite where
  cells : List (Nat × Byte × Byte)
  space : Space
  core : Nat := 0
  ctx : CtxId := 0
  addr : Word := 0
  rel : Option Nat := none
  owed : Bool := false
  refusals : Nat := 0
  clears : List Nat := []
  tags : List Tag := []
  count : Bool := false
  agent : Agent := .network
  word : BitVec 32 := 0
  xid : BitVec 16 := 0
  deriving DecidableEq, Repr

/-- What a link operation moves (21 R381-R384), `done` bytes of it so far; `closing` is a put whose record XLATE held. -/
inductive LinkOp where
  | put (desc : List Word) (descAddr : Word) (ctx : CtxId) (done : Nat) (status : Option (Fin 4)) (cause : BitVec 8)
  | slot (desc : List Word) (descAddr src : Word) (slot : Nat) (ctx : CtxId) (done : Nat)
  | ret (desc : List Word) (descAddr : Word) (ctx : CtxId)
  | closing
  deriving DecidableEq, Repr

/-- The last collective launched from a descriptor address (21 R387): its record once it has ended, and its launch. -/
structure CollSeen where
  ended : Option Word := none
  sc : Nat := 0
  go : Nat := 0
  rec_ : Word := 0
  deriving DecidableEq, Repr

/-- A core (00 R2, 01 R24). `owes` are the releases that it has read and that its own pass on, `sees` those of them that
synchronise with it (15 R278); until `vecUntil` its vector unit is occupied (07 R140). -/
structure Core where
  ctxs : Vector Context 4 := #v[Context.reset 0, Context.reset 1, Context.reset 2, Context.reset 3]
  rrLast : CtxId := 3
  ctx0Run : Nat := 0
  lastIssue : Option Nat := none
  team : Word := 0
  waitlim : BitVec 32 := 0x100000
  utvec : Word := 0
  sendq : Bool := false
  bstep : BitVec 4 := 0
  jcb : Word := 0
  stashctl : BitVec 2 := 0
  msghdr : Word := 0
  msgsrc : BitVec 13 := 0
  copy : CopyEngine := {}
  q8 : List (BitVec 32) := List.replicate 128 0
  q4 : List (BitVec 32) := List.replicate 8 0
  pmc : Vector Word 8 := Vector.replicate 8 0
  pmsel : Vector Word 8 := Vector.replicate 8 0
  journal : Journal := {}
  net : Net := {}
  deque : List TaskRec := []
  tspill : Nat := 0
  spillAt : Nat := 0
  lfsr : BitVec 32 := 0
  round : Option StealRound := none
  backoff : Option Nat := none
  actors : Vector Actor 8 := Vector.replicate 8 {}
  firings : List Pending := []
  writes : List PendWrite := []
  colls : SMap CollSeen := []
  linkOps : SMap (List LinkOp) := []
  unfilled : SMap Nat := []
  fillsOut : SMap Nat := []
  barSeen : SMap (Nat × Nat) := []
  owes : List Tag := []
  sees : List Tag := []
  vecUntil : Nat := 0
  deriving DecidableEq, Repr

/-! ### One quad -/

/-- A tile slot (09 R170). Elements are raw codes, row-major. -/
structure Tile where
  valid : Bool := false
  owner : Fin 4 := 0
  fmt : Nat := 0
  rows : Nat := 1
  cols : Nat := 1
  els : List Nat := [0]
  deriving DecidableEq, Repr

/-- A core's format context in the Lantern (09 R169). -/
structure FormatCtx where
  q8 : List (BitVec 32) := List.replicate 128 0
  q4 : List (BitVec 32) := List.replicate 8 0
  qsat : Bool := true
  smode : Nat := 0
  acct : Bool := false
  deriving DecidableEq, Repr

/-- A placed command (09 R167, R181). `crossings` are those of its conversions, which wait for its end (02 R52); `id` numbers it,
`late` tells that its wait at the queue head has outlasted WAITLIM (09 R173, R181), and `tags` what its placement still owes (15
R278). -/
structure Cmd where
  bytes : VWord
  ctx : CtxId
  cb : BitVec 128 := 0
  headSince : Nat := 0
  served : Bool := false
  crossings : List Crossing := []
  id : Nat := 0
  late : Bool := false
  tags : List Tag := []
  deriving DecidableEq, Repr

/-- A core's command queue (09 R167, R184). -/
structure CmdQueue where
  cmds : List Cmd := []
  halted : Bool := false
  deriving DecidableEq, Repr

/-- A tile on a ring (12 R229, R230): its stamped header, where its data came from and goes, and its data. -/
structure RingTile where
  hdr0 : Word
  hdr1 : Word
  src : Word
  dst : Word
  data : List Byte
  station : Nat
  deriving DecidableEq, Repr

/-- A layer record as the ring set keeps it (18 R419). -/
structure Layer where
  addr : Word
  ring : Nat
  poolb : Nat
  npool : Nat
  brows : Nat
  bcols : Nat
  bfmt : Nat
  ranges : List (Fin 2 × Nat × Nat)
  deriving DecidableEq, Repr

/-- A meeting command in a station's buffer (12 R232, R237, R241). -/
structure Meeting where
  clu : Nat
  ring : Nat
  station : Nat
  trk : Fin 2
  phase : BitVec 16
  entryIx : Nat
  entry : BitVec 256
  tmpl : VWord
  east : RingTile
  west : RingTile
  layer : Option Layer
  cb : BitVec 128
  core : Nat
  ctx : CtxId
  rank : Nat
  recovery : Bool
  headSince : Nat := 0
  served : Bool := false
  product : Option Tile := none
  crossings : List Crossing := []
  id : Nat := 0
  late : Bool := false
  deriving DecidableEq, Repr

/-- A quad: its Lantern (09 R166-R170) and the meeting buffer of its station (12 R232). -/
structure Quad where
  tiles : Vector Tile 8 := Vector.replicate 8 {}
  fctx : Vector FormatCtx 4 := Vector.replicate 4 {}
  queues : Vector CmdQueue 4 := Vector.replicate 4 {}
  meetings : List Meeting := []
  lastSrc : Fin 5 := 4
  deriving DecidableEq, Repr

/-! ### One cluster -/

/-- The state of a ring track (12 R240). -/
inductive PhaseState where
  | idle
  | running
  | draining
  | recover
  deriving DecidableEq, Repr

/-- A pair that was caught when the buffer was full (12 R232, R241). An `rfetch` starts its recovery: it takes the entry and
its template as they stand, and a number in the order of the cluster's fetches (R250). -/
structure Missed where
  station : Nat
  entryIx : Nat
  east : RingTile
  west : RingTile
  entry : BitVec 256 := 0
  tmpl : Option VWord := none
  seq : Nat := 0
  deriving DecidableEq, Repr

/-- The phase of one track of one ring, open or last (12 R240-R249). Latches are a view of the tiles and `beat`. `faulted`
tells that a fault has ended it (R243), `closing` the status of a record that XLATE holds (15 R418). `opened` is what its opening
still owes, and `tags` what its meetings and recoveries observed beside (15 R278, 12 R252). -/
structure Phase where
  st : PhaseState := .idle
  faulted : Bool := false
  closing : Option Nat := none
  num : BitVec 16 := 0
  nb : Nat := 0
  recov : Bool := false
  expect : Nat := 0
  c : Nat := 0
  late : Nat := 0
  missedAtEnd : Nat := 0
  beat : Nat := 0
  sc : Nat := 0
  recAddr : Word := 0
  core : Nat := 0
  ctx : CtxId := 0
  east : List RingTile := []
  west : List RingTile := []
  missed : List Missed := []
  fetchQ : List Missed := []
  pendingRecoveries : Nat := 0
  delivered : List Nat := []
  lastRec : Word := 0
  opened : List Tag := []
  tags : List Tag := []
  deriving DecidableEq, Repr

/-- A cached translation (14 R271): one leaf, with the level it was found at. -/
structure TlbEntry where
  asid : Nat
  level : Nat
  page : Nat
  entry : Word
  deriving DecidableEq, Repr

/-- A late add on its way to the home core (12 R241). -/
structure LateAdd where
  clu : Nat
  ring : Nat
  trk : Fin 2
  station : Nat
  entryIx : Nat
  home : Nat
  dst : Word
  west : Nat
  product : Tile
  deriving DecidableEq, Repr

/-- A cluster: its ring set (12 R227-R251), layer registry (18 R419) and translation cache (14 R271). Entries are
keyed by station, track and index, templates by station and index, staging places by station, family and track,
phases by ring and track. -/
structure Cluster where
  cut : Nat := 2
  beat : Nat := 64
  entries : SMap (BitVec 256) := []
  templates : SMap VWord := []
  staging : SMap RingTile := []
  phases : SMap Phase := []
  lateAdds : List LateAdd := []
  layers : List Layer := []
  tlb : List TlbEntry := []
  fetches : Nat := 0
  deriving DecidableEq, Repr

/-! ### One die -/

/-- A Snuffer region (17 R317). State 1 live, 2 dropping; a free region is absent. `stash` is the layer and the buffer whose
STOCC bit the end of its drop clears (18 R343), with the core and context of its `unstash`. -/
structure Region where
  base : Word
  size : Nat
  uses : Nat
  dropping : Bool := false
  tid : Nat
  core : Nat
  stash : Option (Word × Nat × Nat × CtxId) := none
  deriving DecidableEq, Repr

/-- A job of the prune/regrow engine (18 R332), with the context that issued it. -/
structure PrgJob where
  l : Word
  op : Nat
  seq : Nat
  core : Nat
  ctx : CtxId
  deriving DecidableEq, Repr

/-- A retirement job (18 R330); `freed` lists the stations and slots it cleared, once it has cleared them. -/
structure RetireJob where
  l : Word
  version : Nat
  core : Nat
  freed : Option (List (Nat × Nat)) := none
  deriving DecidableEq, Repr

/-- A slot move of a REPACK whose entry is still to be switched (18 R337). -/
structure SlotMove where
  station : Nat
  fromSlot : Nat
  toSlot : Nat
  deriving DecidableEq, Repr

/-- A running REPACK (18 R337): its layer record as it read it, and a slot copied but not yet switched. -/
structure Repack where
  job : PrgJob
  record : List Word
  move : Option SlotMove := none
  deriving DecidableEq, Repr

/-- A DRAW between two of its draws (18 R336): its layer record as it read it, SEED, the blocks drawn so far, and how many draws it
has made and accepted. -/
structure DrawRun where
  job : PrgJob
  record : List Word
  seed : BitVec 32
  drawn : List Nat
  made : Nat
  got : Nat
  deriving DecidableEq, Repr

/-- A reshard job (21 R392, R393); `closing` once its last record word is written, `ahead` the regions past CURSOR that are
complete. -/
structure ReshardJob where
  ra : Word
  core : Nat
  ctx : CtxId
  started : Bool := false
  closing : Bool := false
  ahead : List Nat := []
  deriving DecidableEq, Repr

/-- A failed page walk with the accesses that joined it (20 R353). -/
structure Walk where
  asid : Nat
  page : Nat
  joined : List FaultRec
  posted : Option Nat := none
  deriving DecidableEq, Repr

/-- A compute die's power state (24 R402). -/
inductive DiePower where
  | run
  | throttled
  | parked
  deriving DecidableEq, Repr

/-- A die: its engines, fault queue, walker, slices' counters and power state. -/
structure Die where
  regions : SMap Region := []
  prgQueue : List PrgJob := []
  retire : List RetireJob := []
  repack : Option Repack := none
  draw : Option DrawRun := none
  collQueue : List CollJob := []
  reshardQueue : List ReshardJob := []
  forecast : Word := 0
  forecastAt : Nat := 0
  forecastFirst : Option Nat := none
  clock : Nat := 940
  power : DiePower := .run
  thermal : Bool := false
  idleSince : Nat := 0
  seq : Nat := 1
  faults : List FaultRec := []
  outstanding : List FaultRec := []
  answered : List (FaultRec × Fin 5) := []
  walks : List Walk := []
  counters : SMap Word := []
  stealRounds : Nat := 0
  deriving DecidableEq, Repr

/-! ### The module -/

/-- A hardware barrier of a team (11 R225), with what the arrivals of its generation, and of the one before, still owe (15
R278). -/
structure Barrier where
  gen : Nat := 0
  arrived : List Nat := []
  tags : List Tag := []
  done : List Tag := []
  deriving DecidableEq, Repr

/-- A resident team (10 R196, R197). `entry` is the place of its launch-queue entry. -/
structure Team where
  clus : List Nat
  asid : Nat
  prio : Nat
  lakeOrg : Nat
  lakeSize : Nat
  entry : Nat
  bars : SMap Barrier := []
  deriving DecidableEq, Repr

/-- The push that a zeroed dependency object causes (11 R223): the record, the core and context whose `amodecp` zeroed it, the
target core, the object, and what its release still owes (15 R278). -/
structure Push where
  word0 : Word
  arg1 : Word
  core : Nat
  ctx : CtxId
  target : Nat
  object : Word
  tags : List Tag := []
  deriving DecidableEq, Repr

/-- A launch that is being placed (10 R196, R199). -/
structure Placing where
  queue : Nat
  prio : Nat
  entry : Nat
  chosen : List Nat
  since : Nat
  overtaken : Option Nat := none
  deriving DecidableEq, Repr

/-- A pending pre-emption (20 R357, R358). -/
structure Preempt where
  tid : Nat
  save : Nat
  dlim : Nat
  since : Nat
  deriving DecidableEq, Repr

/-- A saved team (20 R360): what the private part of the save image at `save` holds, of which `size` bytes stand there: those
that the free counter `ctr` gave, with those that copies in flight have written (17 R308). -/
structure Saved where
  save : Nat
  size : Nat
  ctr : Nat
  later : Memory := []
  tid : Nat
  team : Team
  cores : SMap Core
  quads : SMap Quad
  clusters : SMap Cluster
  mem : Memory
  records : List FaultRec
  colls : List (Nat × CollJob)
  reshards : List (Nat × ReshardJob)
  pushes : List Push
  poison : List Nat
  deriving DecidableEq, Repr

/-- An entry of the remap table of a saved core's network interface (17 R308), in 64-byte units. -/
structure Remap where
  core : Nat
  base : Nat
  len : Nat
  save : Nat
  deriving DecidableEq, Repr

/-- A sector of HBM that its home slice caches (14 R261, R266, R267), by its `sectorKey`. -/
structure Sector where
  bytes : List Byte
  dirty : Bool
  die : Nat
  slice : Nat
  deriving DecidableEq, Repr

/-- The fill of a line in flight (14 R268), with the sectors it brings and the contexts it will answer. -/
structure Fill where
  die : Nat
  slice : Nat
  opened : Nat
  sectors : List Nat
  members : List (Nat × CtxId)
  deriving DecidableEq, Repr

/-- A restore that the distributor has read and not made yet (20 R363): where the team is saved, and its priority. -/
structure Restore where
  save : Nat
  prio : Nat
  deriving DecidableEq, Repr

/-- The security state (24 R400). -/
inductive Security where
  | prod
  | ownerDebug
  deriving DecidableEq, Repr

/-- The debug state (24 R400). -/
inductive Debug where
  | none
  | observe
  | invasive
  deriving DecidableEq, Repr

/-- The module's power state (24 R402). -/
inductive ModulePower where
  | on
  | retain
  | off
  deriving DecidableEq, Repr

/-- The boot state that SMBus command 0x04 reports (24 R408). -/
inductive Boot where
  | booting
  | ready
  | recovery
  | thermalTrip
  | retain
  deriving DecidableEq, Repr

/-- What a transfer over a link carries with it (21 R378): the address space at the far end, the sending team and the paired
one. -/
structure PeerTag where
  pasid : Nat
  ltid : Nat
  ptid : Nat
  deriving DecidableEq, Repr

/-- What the module sends to the world outside it. -/
inductive Out where
  | msix (vector : Nat)
  | putBytes (link : Nat) (tag : PeerTag) (dst : Word) (data : List Byte)
  | fill (link : Nat) (tag : PeerTag) (core desc : Nat)
  | fillAck (link core desc : Nat)
  | ret (link : Nat) (tag : PeerTag) (core desc : Nat)
  | collective (link cid rank : Nat) (elems : List Nat)
  | bar2 (data : List Byte)
  | config (retry : Bool)
  | unsupported
  | debugData (data : List Byte)
  | smbus (data : List Byte)
  | nack
  | spdm (data : List Byte)
  | mirror (image : MirrorImage)
  deriving DecidableEq, Repr

/-- Module-wide state. `bar0` holds the registers of 21 R374 by offset (a register not listed is zero); `tails` the doorbell of
each launch queue and of the pre-emption queue that the distributor goes by (21 R376), and `doorbells` those written before the
host link is ready (24 R410); `withdrawn` the launches that a withdrawal put back at the head of their priority (10 R199);
`posted` the stores to host memory and to streamed pages that stand in their order toward every agent of the module, and that the
host does not see until they are performed (15 R281); `linkDrop` an address whose request by an engine the links drop in this step
(20 R355), 2^64 for a transfer to a peer module; `peerPairs` the pairing register at the other end of each link (21 R377). -/
structure Device where
  bar0 : SMap Word := []
  tails : SMap Nat := []
  doorbells : SMap Nat := []
  lqServed : List (Nat × Nat) := []
  withdrawn : List (Nat × Nat) := []
  placing : Option Placing := none
  nextTid : Nat := 1
  preempts : List Preempt := []
  saved : List Saved := []
  remaps : List Remap := []
  restores : List Restore := []
  invalidating : Option (Nat × Nat × Nat) := none
  pushes : List Push := []
  fills : SMap Fill := []
  posted : List PendWrite := []
  linkDrop : Option Nat := none
  peerPairs : SMap Word := []
  failedClusters : List Nat := []
  security : Security := .prod
  debug : Debug := .none
  obs : Bool := false
  token : List Byte := []
  m0 : List Byte := List.replicate 64 0
  m1 : List Byte := List.replicate 64 0
  m2 : List Byte := List.replicate 64 0
  m3 : List Byte := List.replicate 64 0
  power : ModulePower := .on
  boot : Boot := .ready
  powerCap : Nat := 1600
  watts : Nat := 0
  windowAt : Nat := 0
  bar2Log : Nat := 30
  linkKey : List Byte := []
  celsius : List Nat := [0, 0, 0, 0]
  ckptRunning : Option (Fin 4) := none
  out : List Out := []
  deriving DecidableEq, Repr

/-- A context of a core. -/
structure CtxRef where
  core : Nat := 0
  ctx : CtxId := 0
  deriving DecidableEq, Repr

/-- What happens next, where the manual leaves the order and the moment open (log entry 1): a core issues, a step
that is not an instruction word takes place, cycles pass, the links drop a context's next distant request, a write on its
way, a steal request or the requests to an address in a step of an engine at the fourth failure of its parity (20 R355), a
correctable soft error arises (20 R354), or the host
resizes BAR 2 (21 R373), writes the pairing register of a link at its other end (21 R377), reads the configuration space (24 R409) or sends an SMBus code that names no command (24 R408). -/
inductive Move where
  | issue (core : Nat)
  | event (i : Instr)
  | elapse (cycles : Nat)
  | linkFails (core : Nat) (ctx : CtxId)
  | dropWrite (core i : Nat)
  | dropSteal (core : Nat)
  | dropIn (i : Instr) (address : Nat)
  | softError (place : Nat)
  | resizeBar2 (log : Nat)
  | peerPairing (link : Nat) (value : Word)
  | configRequest
  | smbusOther (code : Nat)
  deriving DecidableEq, Repr

/-- One K4 module. `agenda`, `focus`, `cur`, `curWord` and `freeCtr` are the model's own (log entry 1); `tags` holds,
by 8-byte word, the releases whose release sequence the value there belongs to, and all that precede that value in coherence order
(15 R278). `poison` and `soft` hold the granules with an uncorrectable and a correctable soft error (20 R354), `reached` by sector
the placements through which it has been reached (14 R266), 3 more where it was written. -/
structure State where
  agenda : List Move := []
  focus : Nat := 0
  cur : CtxRef := {}
  curWord : BitVec 32 := 0
  now : Nat := 0
  freeCtr : Nat := 0
  mem : Memory := []
  poison : List Nat := []
  soft : List Nat := []
  sectors : SMap Sector := []
  tags : SMap (List Tag × List Tag) := []
  reached : SMap (List Nat) := []
  cores : SMap Core := []
  quads : SMap Quad := []
  clusters : SMap Cluster := []
  dies : SMap Die := []
  teams : SMap Team := []
  dev : Device := {}
  deriving DecidableEq, Repr

/-- The module right after reset and self-test (01 R28, 24 R409), before its host writes a register. -/
def State.reset : State := {}

/-- How the machine stops for good. The model reaches neither on a move that its agenda may hold. -/
inductive Fault where
  /-- Raised by `step` when the agenda names a core, quad, cluster, die or link that the module does not have
  (00 R2). Safe: no hardware step is lost. -/
  | noSuchAgent
  deriving DecidableEq, Repr

/-- Why a step has no meaning. -/
inductive Refusal where
  /-- An instruction that the model does not give a meaning to. Safe. -/
  | notModelled (mnemonic : String)
  /-- Raised by a step that is not an instruction word when its condition does not hold: the agenda names an event
  that cannot take place in this state. Safe: the hardware takes no such step. -/
  | notEnabled (event : String)
  /-- Raised by `step` when the agenda gives an instruction word as an event: words are only issued. Safe. -/
  | notAnEvent
  deriving DecidableEq, Repr

/-- The answer of a step. -/
abbrev Outcome := Host.Outcome State Fault Refusal

end Sys2Proof.Machine
end

