-- ==== Sys2Proof/Machine/Mem.lean ====
section
/-! DEFINITION. Sparse maps, memory as a canonical list of bytes, byte order (00 R7), the places of bytes (14 R257,
R259) and the placement of physical addresses (14 R265). -/

namespace Sys2Proof.Machine

/-! ### Sparse maps -/

/-- The value at a key. -/
def SMap.find {α : Type} : SMap α → Nat → Option α
  | [], _ => none
  | (j, v) :: t, k => if j = k then some v else SMap.find t k

/-- The map with a value at a key, keys rising. -/
def SMap.put {α : Type} : SMap α → Nat → α → SMap α
  | [], k, v => [(k, v)]
  | (j, w) :: t, k, v =>
    if k < j then (k, v) :: (j, w) :: t
    else if k = j then (k, v) :: t
    else (j, w) :: SMap.put t k v

/-- The map without a key. -/
def SMap.del {α : Type} : SMap α → Nat → SMap α
  | [], _ => []
  | (j, w) :: t, k => if j = k then t else (j, w) :: SMap.del t k

/-- The keys rise strictly. -/
def SMap.sorted {α : Type} : SMap α → Bool
  | [] => true
  | [_] => true
  | (j, _) :: (k, w) :: t => decide (j < k) && SMap.sorted ((k, w) :: t)

/-! ### Memory -/

/-- The byte at a place; an unlisted place reads zero. Log entry 2. -/
def Memory.read (m : Memory) (p : Nat) : Byte := (SMap.find m p).getD 0

/-- Memory with a byte at a place. Writing zero removes the entry. -/
def Memory.write (m : Memory) (p : Nat) (b : Byte) : Memory :=
  if b = 0 then SMap.del m p else SMap.put m p b

/-- The canonical form: places rise and no listed byte is zero. -/
def Memory.wf (m : Memory) : Bool := SMap.sorted m && m.all (fun c => decide (c.2 ≠ 0))

/-! ### Bytes and words, little-endian -/

/-- The number that little-endian bytes hold. -/
def ofBytes : List Byte → Nat
  | [] => 0
  | b :: t => b.toNat + 256 * ofBytes t

/-- The low `n` bytes of a number, lowest first. -/
def toBytes : Nat → Nat → List Byte
  | 0, _ => []
  | n + 1, x => BitVec.ofNat 8 x :: toBytes n (x / 256)

/-- Byte `i` of a value. -/
def byteOf {w : Nat} (x : BitVec w) (i : Nat) : Byte := x.extractLsb' (8 * i) 8

/-- The value with byte `i` replaced. -/
def setByte {w : Nat} (x : BitVec w) (i : Nat) (b : Byte) : BitVec w :=
  (x &&& ~~~((BitVec.ofNat w 255) <<< (8 * i))) ||| ((b.setWidth w) <<< (8 * i))

/-- The low `n` bits of a value, sign-extended (03 R66). -/
def sextNat (x n : Nat) : Word := ((BitVec.ofNat n x).signExtend 64)

/-- Doublewords from bytes. -/
def wordsOf : List Byte → List Word
  | b0 :: b1 :: b2 :: b3 :: b4 :: b5 :: b6 :: b7 :: t =>
    BitVec.ofNat 64 (ofBytes [b0, b1, b2, b3, b4, b5, b6, b7]) :: wordsOf t
  | _ => []

/-- Bytes from doublewords. -/
def bytesOf (ws : List Word) : List Byte := ws.flatMap (fun x => toBytes 8 x.toNat)

/-! ### Places -/

/-- 96 GiB, the HBM of one die (14 R265). -/
def dieSize : Nat := 0x1800000000

/-- The place of a TCM byte of core `g`: its address in the window of all TCMs. -/
def tcmPlace (g off : Nat) : Nat := 0x8000000100000000 + g * 0x80000 + off

/-- The place of a Pond byte of cluster `c`. -/
def pondPlace (c off : Nat) : Nat := 0x8000000200000000 + c * 0x400000 + off

/-- The place of a Lake byte of die `d`. -/
def lakePlace (d off : Nat) : Nat := 0x8000000300000000 + d * 0x4000000 + off

/-- The place of an HBM byte. -/
def hbmPlace (d da : Nat) : Nat := d * dieSize + da

/-- The place of a host byte. -/
def hostPlace (h : Nat) : Nat := 2 ^ 64 + h

/-- A place lies in HBM. -/
def inHbm (p : Nat) : Bool := decide (p < 4 * dieSize)

/-- The key of the cached sector at a place, reached through a placement: two placements make two locations (14 R266). -/
def sectorKey (plc p : Nat) : Nat := p / 48 * 3 + plc

/-- The granule that holds a place (20 R354): a 48-byte sector of HBM, or an 8-byte word elsewhere. -/
def granule (p : Nat) : Nat := if inHbm p then p / 48 * 48 else p / 8 * 8

/-- The size of the granule at a place. -/
def granuleSize (p : Nat) : Nat := if inHbm p then 48 else 8

/-- The exclusive or of every second bit of `x`, from bit `i`, over `n` bits. -/
def xorEvery : Nat → Nat → Nat → Bool
  | 0, _, _ => false
  | n + 1, x, i => (x.testBit i) != xorEvery n x (i + 2)

/-- The slice that the hash gives a line (14 R265). -/
def sliceHash (l : Nat) : Nat := (l ^^^ (l >>> 5) ^^^ (l >>> 10)) % 32

/-- The home die, die address and slice of a physical address under a placement (14 R265). -/
def placePa (place die pa : Nat) : Nat × Nat × Nat :=
  let l := pa / 192
  if place = 0 then
    let g := pa / 6144
    let d := (if xorEvery 16 g 0 then 1 else 0) + (if xorEvery 16 g 1 then 2 else 0)
    (d, g / 4 * 6144 + pa % 6144, sliceHash l)
  else if place = 1 then (die, pa, sliceHash l)
  else (die, pa, l % 32)

/-- The place of a physical address under placement 00. -/
def paPlace (pa : Nat) : Nat :=
  let t := placePa 0 0 pa
  hbmPlace t.1 t.2.1

/-! ### The index of an agent (00 R2) -/

/-- The die of a core. -/
def dieOfCore (g : Nat) : Nat := g / 2048

/-- The cluster of a core. -/
def cluOfCore (g : Nat) : Nat := g / 64

/-- The quad of a core. -/
def quadOfCore (g : Nat) : Nat := g / 4

/-- The die of a cluster. -/
def dieOfClu (c : Nat) : Nat := c / 32

end Sys2Proof.Machine
end

