-- ==== Sys2Proof/Machine/Regs.lean ====
section
/-! DEFINITION. Reading and writing the pieces of the state: cores, contexts, workspaces and registers (01 R15-R24). -/

namespace Sys2Proof.Machine

/-! ### Pieces of the module -/

/-- A core of the module. -/
def State.core (s : State) (g : Nat) : Core := (SMap.find s.cores g).getD {}

/-- The state with a core replaced. -/
def State.setCore (s : State) (g : Nat) (c : Core) : State := { s with cores := SMap.put s.cores g c }

/-- The state with a core changed. -/
def State.modCore (s : State) (g : Nat) (f : Core → Core) : State := s.setCore g (f (s.core g))

/-- A quad of the module. -/
def State.quad (s : State) (q : Nat) : Quad := (SMap.find s.quads q).getD {}

/-- The state with a quad changed. -/
def State.modQuad (s : State) (q : Nat) (f : Quad → Quad) : State :=
  { s with quads := SMap.put s.quads q (f (s.quad q)) }

/-- A cluster of the module. -/
def State.cluster (s : State) (c : Nat) : Cluster := (SMap.find s.clusters c).getD {}

/-- The state with a cluster changed. -/
def State.modCluster (s : State) (c : Nat) (f : Cluster → Cluster) : State :=
  { s with clusters := SMap.put s.clusters c (f (s.cluster c)) }

/-- A die of the module. -/
def State.die (s : State) (d : Nat) : Die := (SMap.find s.dies d).getD {}

/-- The state with a die changed. -/
def State.modDie (s : State) (d : Nat) (f : Die → Die) : State :=
  { s with dies := SMap.put s.dies d (f (s.die d)) }

/-- The state with a resident team changed. -/
def State.modTeam (s : State) (t : Nat) (f : Team → Team) : State :=
  match SMap.find s.teams t with
  | none => s
  | some x => { s with teams := SMap.put s.teams t (f x) }

/-- The state with the module-wide part changed. -/
def State.modDev (s : State) (f : Device → Device) : State := { s with dev := f s.dev }

/-- What the module sends to the outside is appended. -/
def State.emit (s : State) (o : Out) : State := s.modDev fun v => { v with out := v.out ++ [o] }

/-- A context of a core. -/
def Core.ctx (c : Core) (n : CtxId) : Context := c.ctxs[n]

/-- The core with a context changed. -/
def Core.modCtx (c : Core) (n : CtxId) (f : Context → Context) : Core :=
  { c with ctxs := c.ctxs.set n.val (f (c.ctx n)) n.isLt }

/-- The context at a reference. -/
def State.ctx (s : State) (r : CtxRef) : Context := (s.core r.core).ctx r.ctx

/-- The state with a context changed. -/
def State.modCtx (s : State) (r : CtxRef) (f : Context → Context) : State :=
  s.modCore r.core fun c => c.modCtx r.ctx f

/-- The executing core. -/
def State.me (s : State) : Core := s.core s.cur.core

/-- The executing context. -/
def State.cx (s : State) : Context := s.ctx s.cur

/-- The state with the executing core changed. -/
def State.modMe (s : State) (f : Core → Core) : State := s.modCore s.cur.core f

/-- The state with the executing context changed. -/
def State.modCx (s : State) (f : Context → Context) : State := s.modCtx s.cur f

/-- The state with a context's workspace changed. -/
def State.modWsOf (s : State) (r : CtxRef) (f : Workspace → Workspace) : State :=
  s.modCtx r fun x => { x with ws := f x.ws }

/-- The state with the executing context's workspace changed. -/
def State.modWs (s : State) (f : Workspace → Workspace) : State := s.modWsOf s.cur f

/-- A register file of a BAR 0 offset (21 R374); an unlisted offset reads 0. -/
def State.bar (s : State) (off : Nat) : Word := (SMap.find s.dev.bar0 off).getD 0

/-- The state with a BAR 0 register set. -/
def State.setBar (s : State) (off : Nat) (v : Word) : State :=
  s.modDev fun x => { x with bar0 := SMap.put x.bar0 off v }

/-! ### Registers of the executing context -/

/-- `W(n)` (03 R66): w0 reads 0 (01 R16). -/
def State.getW (s : State) (n : Reg) : Word := if n = 0 then 0 else s.cx.ws.w[n]

/-- `W(n) ← v`: a write to w0 is discarded (01 R16). -/
def State.setW (s : State) (n : Reg) (v : Word) : State :=
  if n = 0 then s else s.modWs fun w => { w with w := w.w.set n.val v n.isLt }

/-- `V(n)`. -/
def State.getV (s : State) (n : VReg) : VWord := s.cx.ws.v[n]

/-- `V(n) ← v`. -/
def State.setV (s : State) (n : VReg) (v : VWord) : State :=
  s.modWs fun w => { w with v := w.v.set n.val v n.isLt }

/-- Stream descriptor `cbn` (08 R148). -/
def State.getCb (s : State) (n : Fin 8) : BitVec 128 := s.cx.ws.cb[n]

/-- `cbn ← v`. -/
def State.setCb (s : State) (n : Fin 8) (v : BitVec 128) : State :=
  s.modWs fun w => { w with cb := w.cb.set n.val v n.isLt }

/-- The address of the executing instruction, or of the `rpt` of its frame. -/
def State.ia (s : State) : Word := s.cx.ws.pc

/-! ### The workspace as bytes (01 R15) -/

/-- The byte of a workspace image at an offset from 8; the reserved bytes read 0. -/
def Workspace.byte (ws : Workspace) (o : Nat) : Byte :=
  if o < 0x100 then (match ws.w[o / 8]? with | some x => byteOf x (o % 8) | none => 0)
  else if o < 0x500 then (match ws.v[(o - 0x100) / 64]? with | some x => byteOf x (o % 64) | none => 0)
  else if o < 0x508 then byteOf ws.bsb (o % 8)
  else if o < 0x50C then byteOf ws.bsp (o % 4)
  else if o < 0x510 then byteOf ws.bsn (o % 4)
  else if o < 0x590 then (match ws.cb[(o - 0x510) / 16]? with | some x => byteOf x (o % 16) | none => 0)
  else if o < 0x5C0 then (match ws.fa[(o - 0x590) / 8]? with | some x => byteOf x (o % 8) | none => 0)
  else if o < 0x5C8 then byteOf ws.pc (o % 8)
  else if o < 0x5D0 then byteOf ws.cflags (o % 8)
  else if o < 0x5D8 then byteOf ws.epc (o % 8)
  else if o < 0x5E0 then byteOf ws.ecause (o % 8)
  else if o < 0x5E8 then byteOf ws.eval (o % 8)
  else 0

/-- A vector with the element at an index changed; an index out of range changes nothing. -/
def modAt {α : Type} {n : Nat} (v : Vector α n) (i : Nat) (f : α → α) : Vector α n :=
  if h : i < n then v.set i (f v[i]) h else v

/-- The workspace with the byte at an offset replaced. -/
def Workspace.setByte (ws : Workspace) (o : Nat) (b : Byte) : Workspace :=
  if o < 8 then ws
  else if o < 0x100 then { ws with w := modAt ws.w (o / 8) fun x => Machine.setByte x (o % 8) b }
  else if o < 0x500 then { ws with v := modAt ws.v ((o - 0x100) / 64) fun x => Machine.setByte x (o % 64) b }
  else if o < 0x508 then { ws with bsb := Machine.setByte ws.bsb (o % 8) b }
  else if o < 0x50C then { ws with bsp := Machine.setByte ws.bsp (o % 4) b }
  else if o < 0x510 then { ws with bsn := Machine.setByte ws.bsn (o % 4) b }
  else if o < 0x590 then { ws with cb := modAt ws.cb ((o - 0x510) / 16) fun x => Machine.setByte x (o % 16) b }
  else if o < 0x5C0 then { ws with fa := modAt ws.fa ((o - 0x590) / 8) fun x => Machine.setByte x (o % 8) b }
  else if o < 0x5C8 then { ws with pc := Machine.setByte ws.pc (o % 8) b }
  else if o < 0x5D0 then { ws with cflags := Machine.setByte ws.cflags (o % 8) b }
  else if o < 0x5D8 then { ws with epc := Machine.setByte ws.epc (o % 8) b }
  else if o < 0x5E0 then { ws with ecause := Machine.setByte ws.ecause (o % 8) b }
  else if o < 0x5E8 then { ws with eval := Machine.setByte ws.eval (o % 8) b }
  else ws

/-- The workspace that 1,536 bytes hold (01 R15). -/
def Workspace.ofBytes (bs : List Byte) : Workspace :=
  let at64 := fun o => BitVec.ofNat 64 (Machine.ofBytes ((bs.drop o).take 8))
  { w := Vector.ofFn fun i => if i.val = 0 then 0 else at64 (8 * i.val)
    v := Vector.ofFn fun i => BitVec.ofNat 512 (Machine.ofBytes ((bs.drop (0x100 + 64 * i.val)).take 64))
    bsb := at64 0x500
    bsp := (at64 0x508).setWidth 32
    bsn := BitVec.ofNat 32 (Machine.ofBytes ((bs.drop 0x50C).take 4))
    cb := Vector.ofFn fun i => BitVec.ofNat 128 (Machine.ofBytes ((bs.drop (0x510 + 16 * i.val)).take 16))
    fa := Vector.ofFn fun i => at64 (0x590 + 8 * i.val)
    pc := at64 0x5C0
    cflags := at64 0x5C8 &&& 0x1F7
    epc := at64 0x5D0
    ecause := at64 0x5D8 &&& 0x80000000000000FF
    eval := at64 0x5E0 }

/-- The offset of a context's workspace in its core's TCM (01 R14). -/
def Context.wpOff (x : Context) : Nat := x.wp.toNat % 0x80000

/-- The context of a core whose active workspace covers a TCM offset, with the offset in that workspace. -/
def Core.wsAt (c : Core) (off : Nat) : Option (CtxId × Nat) :=
  ([0, 1, 2, 3] : List CtxId).findSome? fun n =>
    let x := c.ctx n
    if x.active && decide (x.wpOff ≤ off) && decide (off < x.wpOff + 1536) then some (n, off - x.wpOff) else none

/-! ### The Lantern queue of a core -/

/-- A core's Lantern command queue (09 R167). -/
def State.cmdQueue (s : State) (g : Nat) : CmdQueue :=
  (s.quad (quadOfCore g)).queues[(⟨g % 4, Nat.mod_lt _ (by decide)⟩ : Fin 4)]

/-- The state with a core's command queue changed. -/
def State.modCmdQueue (s : State) (g : Nat) (f : CmdQueue → CmdQueue) : State :=
  s.modQuad (quadOfCore g) fun q => { q with queues := modAt q.queues (g % 4) f }

/-! ### CFLAGS (01 R18) -/

/-- The rounding mode RM. -/
def Workspace.rm (ws : Workspace) : Nat := ws.cflags.toNat % 4

/-- QSAT. -/
def Workspace.qsat (ws : Workspace) : Bool := ws.cflags.getLsbD 2

end Sys2Proof.Machine
end

