-- ==== Sys2Proof/Machine/Trans.lean ====
section
/-! DEFINITION. Where an address leads and whether an access may proceed: the local space and the checks of an access
(14 R257-R258), page walks and the translation cache (14 R261-R264, R271). -/

namespace Sys2Proof.Machine

/-- What an access needs of a page (14 R263); the distributor needs no permission (05 R88). -/
inductive Need where
  | read
  | write
  | amo
  | any
  deriving DecidableEq, Repr

/-- A failed check of an access: its cause (20 R348) and the failing byte's address. -/
structure Bad where
  cause : BitVec 8
  addr : Word
  deriving DecidableEq, Repr

/-- A resolved byte. -/
structure Loc where
  place : Nat
  space : Space
  deriving DecidableEq, Repr

/-- Who accesses: the core whose own windows apply, whether it is an instruction of that core (01 R20) or another
agent (01 R21), the address space and the team (14 R415). `exec` tells that the executing context itself accesses (01
R17); `level` is the agent's position (15 R273): 0 its core, 1 its quad, 2 its cluster, 3 its die, 4 the device, 5 a peer
module, 6 the host; a die engine that acts for a core of another die names a core of its own die as `pos`; `acq` is the scope of
an acquire that names one. -/
structure Who where
  core : Nat
  own : Bool
  asid : Nat
  team : Option Team
  exec : Bool := false
  level : Nat := 0
  pos : Option Nat := none
  acq : Option Nat := none
  deriving DecidableEq, Repr

/-- Bytes of an access that lie together. -/
structure Run where
  addr : Nat
  len : Nat
  place : Nat
  space : Space
  deriving DecidableEq, Repr

/-- The team id of a core (10 R197). -/
def State.tidOf (s : State) (g : Nat) : Nat := (s.core g).team.toNat % 65536

/-- The team placed on a core. -/
def State.teamOf (s : State) (g : Nat) : Option Team := SMap.find s.teams (s.tidOf g)

/-- The address space of the team on a core. -/
def State.asidOf (s : State) (g : Nat) : Nat := (s.teamOf g).elim 0 (·.asid)

/-- An instruction of a core as the accessing agent. -/
def State.whoOwn (s : State) (g : Nat) : Who :=
  { core := g, own := true, asid := s.asidOf g, team := s.teamOf g, exec := true }

/-- An engine or interface that acts for a core, at its position. -/
def State.whoAgent (s : State) (g : Nat) (level : Nat := 0) : Who :=
  { core := g, own := false, asid := s.asidOf g, team := s.teamOf g, level }

/-- The core at whose position an agent counts its scopes (15 R273). -/
def Who.at_ (who : Who) : Nat := who.pos.getD who.core

/-- An engine of a die that acts for a core (15 R273). -/
def State.whoDie (s : State) (g die : Nat) : Who := { s.whoAgent g 3 with pos := some (die * 2048) }

/-! ### The local space (14 R257, R258) -/

/-- A cluster belongs to a team. -/
def Team.hasClu (t : Option Team) (c : Nat) : Bool := t.any fun x => x.clus.contains c

/-- A Lake byte lies in a team's Lake range on a die that holds a team cluster (05 R88). -/
def Team.hasLake (t : Option Team) (d off : Nat) : Bool :=
  t.any fun x => x.clus.any (fun c => dieOfClu c == d) && decide (x.lakeOrg ≤ off) && decide (off < x.lakeOrg + x.lakeSize)

/-- The place of an address with bit 63 set. -/
def localLoc (who : Who) (a : Nat) : Except Bad Loc :=
  let o := a - 0x8000000000000000
  let bad : Except Bad Loc := .error ⟨0x03, BitVec.ofNat 64 a⟩
  let c := cluOfCore who.core
  let d := dieOfCore who.core
  if o < 0x80000 then .ok ⟨tcmPlace who.core o, .tcm who.core⟩
  else if 0x10000000 ≤ o ∧ o < 0x10400000 then
    if Team.hasClu who.team c then .ok ⟨pondPlace c (o - 0x10000000), .pond c⟩ else bad
  else if 0x20000000 ≤ o ∧ o < 0x24000000 then
    if Team.hasLake who.team d (o - 0x20000000) then .ok ⟨lakePlace d (o - 0x20000000), .lake d⟩ else bad
  else if 0x40000000 ≤ o ∧ o < 0x40010000 then .ok ⟨o, .queue⟩
  else if 0x100000000 ≤ o ∧ o < 0x200000000 then
    let g := (o - 0x100000000) / 0x80000
    if (who.own && g == who.core) || Team.hasClu who.team (cluOfCore g) then
      .ok ⟨tcmPlace g (o % 0x80000), .tcm g⟩ else bad
  else if 0x200000000 ≤ o ∧ o < 0x220000000 then
    let p := (o - 0x200000000) / 0x400000
    if Team.hasClu who.team p then .ok ⟨pondPlace p (o % 0x400000), .pond p⟩ else bad
  else if 0x300000000 ≤ o ∧ o < 0x310000000 then
    let l := (o - 0x300000000) / 0x4000000
    if Team.hasLake who.team l (o % 0x4000000) then .ok ⟨lakePlace l (o % 0x4000000), .lake l⟩ else bad
  else bad

/-! ### Page walks (14 R261-R264) -/

/-- A byte with the masked bits of another. -/
def blend (old v m : Byte) : Byte := (old &&& ~~~m) ||| (v &&& m)

/-- A byte under the posted stores, as every agent of the module sees it (15 R281). -/
def State.underPosted (s : State) (p : Nat) (b : Byte) : Byte :=
  s.dev.posted.foldl (fun b w => w.cells.foldl (fun b c => if c.1 = p then blend b c.2.1 c.2.2 else b) b) b

/-- A byte of host memory as the agents of the module see it. -/
def State.hostByte (s : State) (p : Nat) : Byte := s.underPosted p (Memory.read s.mem p)

/-- An HBM byte as it stands, for an access through a placement and under a policy (14 R267, 15 R283): a streamed read does not
consult the slice. -/
def State.hbmNow (s : State) (plc pol p : Nat) : Byte :=
  if pol = 1 then Memory.read s.mem p
  else match SMap.find s.sectors (sectorKey plc p) with
    | some x => x.bytes.getD (p % 48) 0
    | none => Memory.read s.mem p

/-- An HBM byte as an access of an agent of the module sees it. -/
def State.hbmByte (s : State) (plc pol p : Nat) : Byte := s.underPosted p (s.hbmNow plc pol p)

/-- The doubleword at a physical address, placement 00, as an uncached-strong read; beyond 384 GiB there is none and
the walker finds no valid entry. -/
def State.paWord (s : State) (pa : Nat) : Nat :=
  if pa < 4 * dieSize then
    ofBytes ((List.range 8).map fun i => s.hbmByte 0 2 (paPlace (pa + i)))
  else 0

/-- FRAME of a page entry. -/
def frameOf (e : Nat) : Nat := bits e 35 13

/-- A valid page entry without reserved bits, PLACE and POL codes in range (14 R263). -/
def pteSound (e : Nat) : Bool :=
  bit e 0 && bits e 51 36 == 0 && bits e 11 10 == 0 && !bit e 3 && bits e 7 6 != 3 && bits e 5 4 != 3

/-- A non-leaf entry has RD, WR, POL, PLACE and DIE zero. -/
def pteTable (e : Nat) : Bool := bits e 2 1 == 0 && bits e 9 4 == 0

/-- A leaf at a level is aligned and lies in its die (14 R263). -/
def pteLeafOk (level e : Nat) : Bool :=
  let frames := 2 ^ (11 * level)
  frameOf e % frames == 0 && (bits e 7 6 == 0 || decide (frameOf e + frames ≤ 2 ^ 21))

/-- The host table's entry for a page offset (14 R264). -/
def State.walkHost (s : State) (asid va e : Nat) : Option TlbEntry :=
  let h := s.paWord (frameOf e * 49152 + 8 * (va % 49152 / 4096))
  if bit h 0 && bits h 11 3 == 0 then some ⟨asid, 3, va / 4096, BitVec.ofNat 64 h⟩ else none

/-- The walk from a table at a level. -/
def State.walkFrom (s : State) (asid va : Nat) : Nat → Nat → Option TlbEntry
  | level, table =>
    let p := va / 49152
    let ix := if level = 2 then p / 2 ^ 22 else p / 2 ^ (11 * level) % 2048
    let e := s.paWord (table + 8 * ix)
    if pteSound e then
      if bit e 12 then
        if pteLeafOk level e then some ⟨asid, level, p / 2 ^ (11 * level), BitVec.ofNat 64 e⟩ else none
      else if pteTable e then
        match level with
        | 0 => s.walkHost asid va e
        | l + 1 => State.walkFrom s asid va l (frameOf e * 49152)
      else none
    else none

/-- The space is enabled (ASV, 21 R374). -/
def State.asv (s : State) (asid : Nat) : Bool := (s.bar (0x020000 + 8 * asid)).getLsbD 63

/-- A walk of an address space (14 R261); none is XLATE. -/
def State.walk (s : State) (asid va : Nat) : Option TlbEntry :=
  s.walkFrom asid va 2 ((s.bar (0x020000 + 8 * asid)).toNat / 64 % 2 ^ 42 * 64)

/-- A cached entry covers an address. -/
def TlbEntry.covers (e : TlbEntry) (asid va : Nat) : Bool :=
  e.asid == asid && e.page == (if e.level = 3 then va / 4096 else va / 49152 / 2 ^ (11 * e.level))

/-- The place that a leaf gives an address, or ACCESS where a permission lacks (14 R263, R264). -/
def TlbEntry.loc (e : TlbEntry) (need : Need) (va : Nat) : Except Bad Loc :=
  let x := e.entry.toNat
  let may := match need with
    | .read => bit x 1
    | .write => bit x 2
    | .amo => bit x 1 && bit x 2
    | .any => true
  if may then
    if e.level = 3 then .ok ⟨hostPlace (x / 4096 * 4096 + va % 4096), .host⟩
    else
      let pa := frameOf x * 49152 + va % (49152 * 2 ^ (11 * e.level))
      let t := placePa (bits x 7 6) (bits x 9 8) pa
      .ok ⟨hbmPlace t.1 t.2.1, .hbm t.1 t.2.2 (bits x 7 6) (bits x 5 4)⟩
  else .error ⟨0x03, BitVec.ofNat 64 va⟩

/-- A page whose walk has failed and waits for its answer (20 R353): on the die of the access while its walk goes on too, on
any die once its record is posted. -/
def State.pageHeld (s : State) (who : Who) (va : Nat) : Bool :=
  s.dies.any fun d => d.2.walks.any fun w =>
    w.asid == who.asid && w.page == va / 49152 && (w.posted.isSome || d.1 == dieOfCore who.core)

/-- The invalidation in progress covers a page, and the access uses the new entry: either may be used (14 R271). -/
def State.usesNew (s : State) (asid va : Nat) : Bool :=
  match s.dev.invalidating with
  | some (a, page, n) =>
    a == asid && (n == 0 || (decide (page ≤ va / 49152) && decide (va / 49152 < page + n))) &&
      Config.pick s.freeCtr (va / 49152) % 2 == 1
  | none => false

/-- The cached leaf that an access uses. -/
def State.cached (s : State) (who : Who) (va : Nat) : Option TlbEntry :=
  if s.usesNew who.asid va then none else (s.cluster (cluOfCore who.core)).tlb.find? (·.covers who.asid va)

/-- A translated address (14 R258, R261-R264, R271), with the entry that a walk found and the cache lacks; a page whose
record is outstanding is not walked again (20 R353). -/
def State.translate (s : State) (who : Who) (need : Need) (va : Nat) : Except Bad (Loc × Option TlbEntry) :=
  if 2 ^ 48 ≤ va then .error ⟨0x03, BitVec.ofNat 64 va⟩
  else if !s.asv who.asid then .error ⟨0x04, BitVec.ofNat 64 va⟩
  else match s.cached who va with
    | some e => (e.loc need va).map fun l => (l, none)
    | none =>
      match (if s.pageHeld who va then none else s.walk who.asid va) with
      | some e => (e.loc need va).map fun l => (l, some e)
      | none => .error ⟨0x04, BitVec.ofNat 64 va⟩

/-- Where an address leads (14 R258 steps 1 and 2). -/
def State.locate (s : State) (who : Who) (need : Need) (a : Nat) : Except Bad (Loc × Option TlbEntry) :=
  if 2 ^ 63 ≤ a then (localLoc who a).map fun l => (l, none) else s.translate who need a

/-! ### Spans -/

/-- The bytes from an address that surely lie in one window, page and line. -/
def pieceLen (a : Nat) : Nat := if 2 ^ 63 ≤ a then 64 - a % 64 else min (192 - a % 192) (4096 - a % 4096)

/-- A span cut into pieces; addresses wrap at 2^64. -/
def pieces : Nat → Nat → Nat → List (Nat × Nat)
  | 0, _, _ => []
  | fuel + 1, a, n =>
    if n = 0 then [] else
      let k := min n (pieceLen a)
      (a, k) :: pieces fuel ((a + k) % 2 ^ 64) (n - k)

/-- The granule of a byte is replaced whole by writes of some spans (20 R354). -/
def coversGranule (cover : List (Nat × Nat)) (addr place : Nat) : Bool :=
  let o := place % granuleSize place
  (List.range (granuleSize place)).all fun i =>
    cover.any fun c => decide (c.1 + o ≤ addr + i) && decide (addr + i < c.1 + c.2 + o)

/-- An access may not touch a resolved byte of an active workspace (01 R20, R21, 15 R284). -/
def State.wsBreach (s : State) (who : Who) (need : Need) (place : Nat) (space : Space) : Bool :=
  match space, need with
  | .tcm _, .read => false
  | .tcm g, .write =>
    match (s.core g).wsAt (place % 0x80000) with
    | some (_, o) => if who.own && g == who.core then decide (0x5C0 ≤ o) else true
    | none => false
  | .tcm g, _ => ((s.core g).wsAt (place % 0x80000)).isSome
  | _, _ => false

/-- The checks of one resolved byte: the end of the team's Lake range, workspaces where another agent than an instruction
accesses (14 R258), and poison (20 R354); a byte of the Lantern queue window has neither. `cover` are the spans that the access writes whole. -/
def State.byteFlaw (s : State) (who : Who) (need : Need) (cover : List (Nat × Nat)) (addr place : Nat) (space : Space) :
    Option Bad :=
  let outside := match space with
    | .lake d => !Team.hasLake who.team d (place % 0x4000000)
    | _ => false
  if outside then some ⟨0x03, BitVec.ofNat 64 addr⟩
  else if space == .queue then none
  else if !who.own && s.wsBreach who need place space then some ⟨0x11, BitVec.ofNat 64 addr⟩
  else if s.poison.contains (granule place) && !(need == .write && coversGranule cover addr place) then
    some ⟨0x05, BitVec.ofNat 64 addr⟩
  else none

/-- A run whose bytes pass their checks, or the first failure. -/
def State.checkRun (s : State) (who : Who) (need : Need) (cover : List (Nat × Nat)) (r : Run) : Except Bad Run :=
  match (List.range r.len).findSome? (fun i => s.byteFlaw who need cover (r.addr + i) (r.place + i) r.space) with
  | some b => .error b
  | none => .ok r

/-- The runs of a list of pieces, each resolved and checked in order (14 R258). -/
def State.resolvePieces (s : State) (who : Who) (need : Need) (cover : List (Nat × Nat)) :
    List (Nat × Nat) → Except Bad (List Run × List TlbEntry)
  | [] => .ok ([], [])
  | (p, k) :: t => do
    let (l, e) ← s.locate who need p
    let r ← s.checkRun who need cover ⟨p, k, l.place, l.space⟩
    let (rs, es) ← State.resolvePieces s who need cover t
    return (r :: rs, e.toList ++ es)

/-- An access of `n` bytes at an address: its runs and the translations that walks found, or the first failure. -/
def State.resolve (s : State) (who : Who) (need : Need) (a n : Nat) : Except Bad (List Run × List TlbEntry) :=
  s.resolvePieces who need [(a, n)] (pieces n a n)

/-- The workspace rules over the runs of an instruction's access, after its other checks (06 R107, 07 R136, 15 R284). Log
entry 45. -/
def State.wsCheck (s : State) (who : Who) (need : Need) (rs : List Run) : Except Bad Unit :=
  match rs.findSome? fun r => (List.range r.len).findSome? fun i =>
    if s.wsBreach who need (r.place + i) r.space then some (r.addr + i) else none with
  | some a => .error ⟨0x11, BitVec.ofNat 64 a⟩
  | none => .ok ()

end Sys2Proof.Machine
end

