-- ==== Sys2Proof/Machine/Ops.lean ====
section
/-! DEFINITION. The shared operations: taking a fault or a trap and returning from one (06 R68, R118, R120, 20 R347),
moving to the next instruction, reading and writing memory as a context or as another agent (01 R20-R23, 14 R259-R269,
15 R273-R291), waits (03 R67), event latches (06 R123), performance counters (20 R367, R369), the replay journal
(20 R364, R365) and the conversion counters (02 R50-R52, R416). -/

namespace Sys2Proof.Machine

/-- How an instruction ends without its effect: a user-level trap, a system-level fault, or a refusal by a slice, after
which the request is sent again (14 R268). -/
inductive Stop where
  | user (cause : BitVec 8) (val epc : Word)
  | sys (cause : BitVec 8) (val addr : Word) (kind : Kind)
  | busy (die slice : Nat)
  deriving DecidableEq, Repr

/-- The result of an instruction. -/
abbrev Res := Except Stop State

/-- The result of an attempt of a waiting instruction: `none` while its condition does not hold. -/
abbrev Attempt := Except Stop (Option State)

/-! ### Performance counters (20 R367) -/

/-- The cycles, misses and other per-core events count whatever context bits are selected, unless none is. -/
def perCoreEvent (e : Nat) : Bool := e == 0 || e == 10 || e == 11 || e == 12

/-- A selector counts an event of a context. -/
def pmSelects (sel : Word) (e : Nat) (c : CtxId) : Bool :=
  sel.getLsbD 12 && bits sel.toNat 7 0 == e &&
    (if perCoreEvent e then bits sel.toNat 11 8 != 0 else sel.getLsbD (8 + c.val))

/-- `n` events of a core and context are counted, wrapping. -/
def Core.count (k : Core) (c : CtxId) (e n : Nat) : Core :=
  if k.pmsel.toList.any fun x => pmSelects x e c then
    { k with pmc := Vector.ofFn fun i => if pmSelects k.pmsel[i] e c then k.pmc[i] + BitVec.ofNat 64 n else k.pmc[i] }
  else k

/-- `n` events are counted at a context. -/
def State.count (s : State) (r : CtxRef) (e n : Nat) : State :=
  if (s.core r.core).pmsel.toList.any (fun x => pmSelects x e r.ctx) then s.modCore r.core fun k => k.count r.ctx e n else s

/-! ### Event latches (06 R123) -/

/-- The event latches of all four contexts of a core are set. -/
def Core.wake (k : Core) : Core :=
  { k with ctxs := Vector.ofFn fun c => { k.ctx c with evl := true } }

/-- The event latches of a core are set. -/
def State.wake (s : State) (g : Nat) : State := s.modCore g Core.wake

/-! ### Faults and traps -/

/-- EVAL of a trap or fault that a pass word raises: the frame state beside the value (07 R143). -/
def frameEval (pass pos : Nat) (val : Word) : Word :=
  BitVec.ofNat 64 (2 ^ 63 + pass % 64 * 2 ^ 57 + pos % 16 * 2 ^ 53 + val.toNat % 2 ^ 53)

/-- The page of 20 R353. -/
def pageOf (va : Word) : Nat := va.toNat / 49152

/-- A record joins the walk of its page, or opens one (20 R353, 14 R271). -/
def joinWalk (f : FaultRec) : List Walk → List Walk
  | [] => [⟨f.asid, pageOf f.addr, [f], none⟩]
  | w :: t =>
    if w.asid = f.asid ∧ w.page = pageOf f.addr then { w with joined := w.joined ++ [f] } :: t else w :: joinWalk f t

/-- The die whose walker holds the record that an XLATE joins: any with an outstanding record of its page, else the own one
(20 R353). -/
def State.walkDie (s : State) (f : FaultRec) : Nat :=
  ((s.dies.find? fun d => d.2.walks.any fun w =>
    w.asid == f.asid && w.page == pageOf f.addr && w.posted.isSome).map (·.1)).getD (dieOfCore f.core)

/-- A fault record is handed over: an XLATE, a miss that is counted, joins its walk (20 R353, R367); any other is queued to
be posted (20 R350). -/
def State.report (s : State) (f : FaultRec) : State :=
  if f.cause = 0x04 then
    (s.count ⟨f.core, f.ctx⟩ 11 1).modDie (s.walkDie f) fun d => { d with walks := joinWalk f d.walks }
  else s.modDie (dieOfCore f.core) fun d => { d with faults := d.faults ++ [f] }

/-- A fault record of a context with the fields that its state gives (20 R349). -/
def State.record (s : State) (r : CtxRef) (cause : BitVec 8) (agent : Agent) (epc value addr : Word) (kind : Kind) :
    FaultRec :=
  { tid := s.tidOf r.core, cause, agent, ctx := r.ctx, core := r.core, asid := s.asidOf r.core, epc, value, addr, kind,
    cyc := BitVec.ofNat 64 s.now }

/-- ECAUSE with the cause code replaced and UTA unchanged (20 R347). -/
def withCause (e : Word) (cause : BitVec 8) : Word := (e &&& 0x8000000000000000) ||| cause.setWidth 64

/-- TAKING A SYSTEM-LEVEL FAULT in a context (20 R347): EPC, EVAL and ECAUSE[7:0] are written, the context is suspended
with its firing and its active workspace, and the record is handed over. `pass` tells whether a pass word raised it
(07 R143). -/
def State.takeSys (s : State) (r : CtxRef) (f : FaultRec) (eval : Word) (pass : Bool) : State :=
  (s.modCtx r fun x =>
    { x with
      ws := { x.ws with epc := f.epc, eval := eval, ecause := withCause x.ws.ecause f.cause }
      suspended := true, fp := pass, frame := none, wait := none, resume := false, refusals := 0, linkFails := false }).report
    { f with frm := pass }

/-- A system-level fault that the executing instruction raises (06 R68): nothing else of it takes effect. -/
def State.sysFault (s : State) (cause : BitVec 8) (val addr : Word) (kind : Kind) : State :=
  let f := { s.record s.cur cause .context s.ia val addr kind with word := s.curWord }
  match s.cx.frame with
  | none => s.takeSys s.cur f val false
  | some fr => s.takeSys s.cur f (frameEval fr.pass fr.pos val) true

/-- UTVEC is a 4-byte-aligned address in own TCM (06 R118). -/
def utvecOk (v : Word) : Bool := v.toNat % 4 == 0 && decide (0x8000000000000000 ≤ v.toNat) && decide (v.toNat ≤ 0x800000000007FFFC)

/-- TAKING A USER-LEVEL TRAP in a context (06 R118): EPC, EVAL, ECAUSE and the PC; a UTVEC that is no own-TCM address
turns the entry into the system-level fault ACCESS, whose record names the trap. -/
def State.enterTrap (s : State) (r : CtxRef) (cause : BitVec 8) (epc eval val : Word) (pass : Bool) : State :=
  let v := (s.core r.core).utvec
  if utvecOk v then
    s.modCtx r fun x =>
      { x with
        ws := { x.ws with epc, eval, ecause := 0x8000000000000000 ||| cause.setWidth 64, pc := v }
        fp := pass, frame := none, wait := none, resume := false, refusals := 0 }
  else
    let s := s.modCtx r fun x => { x with ws := { x.ws with ecause := 0x8000000000000000 } }
    s.takeSys r { s.record r 0x03 .context epc val v .fetch with word := cause.setWidth 32 } v false

/-- A user-level trap that the executing instruction raises; in a frame EPC and EVAL are those of 07 R143. -/
def State.userTrap (s : State) (cause : BitVec 8) (val epc : Word) : State :=
  match s.cx.frame with
  | none => s.enterTrap s.cur cause epc val val false
  | some fr => s.enterTrap s.cur cause s.ia (frameEval fr.pass fr.pos val) val true

/-- THE RETURN FROM A USER-LEVEL TRAP (06 R120): PC ← EPC and UTA ← 0; a `rpt` issued next may resume its frame
(07 R144). -/
def State.returnTrap (s : State) : State :=
  s.modCx fun x =>
    { x with ws := { x.ws with pc := x.ws.epc, ecause := x.ws.ecause &&& 0x7FFFFFFFFFFFFFFF }, resume := true, refusals := 0 }

/-- A fault is charged to a context, to be taken before its next instruction (09 R184). -/
def State.charge (s : State) (f : FaultRec) (upcall : Bool := false) : State :=
  s.modCtx ⟨f.core, f.ctx⟩ fun x => { x with charged := x.charged ++ [⟨f, upcall⟩] }

/-- A refused request is counted at its core and at the slice (20 R367, R369). -/
def State.countRefusal (s : State) (r : CtxRef) (die slice : Nat) : State :=
  let s := s.count r 10 1
  let key := slice * 80 + s.asidOf r.core * 5 + 4
  s.modDie die fun d => { d with counters := SMap.put d.counters key (((SMap.find d.counters key).getD 0) + 1) }

/-- A slice refuses a request (14 R268): the context holds it until its retry hint expires. -/
def State.refuse (s : State) (die slice : Nat) : State :=
  (s.modCx fun x => { x with refused := true, refusals := x.refusals + 1, refusedAt := (die, slice) }).countRefusal
    s.cur die slice

/-- An instruction's stop becomes the next state; a WAITLIMIT is counted (20 R367). -/
def State.stop (s : State) : Stop → State
  | .user c v e => (if c = 0x06 then s.count s.cur 13 1 else s).userTrap c v e
  | .sys c v a k => s.sysFault c v a k
  | .busy d l => s.refuse d l

/-- A stop that an instruction finds in what it has read, whose requests its slices have accepted (22 R395). -/
def State.found (t : State) (e : Stop) : Res := .ok ((t.modCx fun x => { x with stalled := false, owing := false }).stop e)

/-- ILLEGAL that an instruction finds in what it has read. -/
def State.badData (t : State) (val : Word) : Res := t.found (.sys 0x01 val 0 .none)

/-- The outcome of an instruction: every stop is a next state. -/
def settle (s : State) (r : Res) : Outcome :=
  match r with
  | .ok t => .next t
  | .error e => .next (s.stop e)

/-- ILLEGAL on data (06 R68), with the value its description names. -/
def illegal {α : Type} (val : Word) : Except Stop α := .error (.sys 0x01 val 0 .none)

/-- MISALIGN with the effective address as EVAL. -/
def misalign {α : Type} (ea : Word) (k : Kind) : Except Stop α := .error (.sys 0x02 ea ea k)

/-- A failed check as a stop of the issuing context. -/
def Bad.stop (b : Bad) (k : Kind) : Stop := .sys b.cause b.addr b.addr k

/-- A check's failure is raised in the issuing context. -/
def orStop {α : Type} (k : Kind) : Except Bad α → Except Stop α
  | .ok x => .ok x
  | .error b => .error (b.stop k)

/-! ### The next instruction -/

/-- The frame after its current word, or none after the last (07 R142). -/
def Frame.next (f : Frame) : Option Frame :=
  if f.pos + 1 < f.words.length then some { f with pos := f.pos + 1 }
  else if f.pass + 1 < f.passes then some { f with pass := f.pass + 1, pos := 0 }
  else none

/-- The context moves past the executing instruction (01 R11), or to the next word of its frame (07 R142). -/
def Context.advance (x : Context) : Context :=
  match x.frame with
  | none => { x with ws := { x.ws with pc := x.ws.pc + 4 }, resume := false, refusals := 0, wait := none }
  | some f =>
    match f.next with
    | some g => { x with frame := some g, refusals := 0, wait := none }
    | none =>
      { x with frame := none, resume := false, refusals := 0, wait := none,
               ws := { x.ws with pc := f.ia + 4 + 4 * BitVec.ofNat 64 f.words.length } }

/-- The executing context moves past its instruction. -/
def State.advance (s : State) : State := s.modCx Context.advance

/-- The executing context goes on at an address. -/
def State.jump (s : State) (t : Word) : State :=
  s.modCx fun x => { x with ws := { x.ws with pc := t }, resume := false, refusals := 0, wait := none }

/-- A result is written and the context moves on. -/
def State.retire (s : State) (rd : Reg) (v : Word) : State := (s.setW rd v).advance

/-! ### Slices (14 R267-R268, 20 R369) -/

/-- A request is counted at the slice that owns its line (20 R369). -/
def State.countSlice (s : State) (g asid : Nat) (write : Bool) : Space → State
  | .hbm die slice _ _ =>
    let k := (if dieOfCore g = die then 0 else 2) + (if write then 1 else 0)
    let key := slice * 80 + asid * 5 + k
    s.modDie die fun d => { d with counters := SMap.put d.counters key (((SMap.find d.counters key).getD 0) + 1) }
  | _ => s

/-- The 64-byte blocks that a run touches. -/
def Run.blocks (r : Run) : Nat := if r.len = 0 then 0 else (r.addr + r.len - 1) / 64 - r.addr / 64 + 1

/-- Translations that walks found are cached, oldest last, 512 at most (14 R271), and each miss is counted. -/
def State.cacheEach (s : State) (g : Nat) (es : List TlbEntry) : State :=
  match es with
  | [] => s
  | e :: t =>
    let s := (s.modCluster (cluOfCore g) fun c =>
      if c.tlb.contains e then c else { c with tlb := (e :: c.tlb).take 512 })
    State.cacheEach (s.count ⟨g, s.cur.ctx⟩ 11 1) g t

/-- The translations of one access: a page that it misses is one miss, whatever bytes of the page it touches (20 R367). -/
def State.cache (s : State) (g : Nat) (es : List TlbEntry) : State := s.cacheEach g es.dedup

/-- The key of the line at a place, reached through a placement. -/
def lineKey (plc p : Nat) : Nat := p / 192 * 3 + plc

/-- The line of a sector, and its four sectors. -/
def lineOfSector (q : Nat) : Nat := q / 3 / 4 * 3 + q % 3

/-- The sectors of a line. -/
def sectorsOfLine (l : Nat) : List Nat := (List.range 4).map fun i => (l / 3 * 4 + i) * 3 + l % 3

/-- A sector as it stands in HBM (14 R261). -/
def State.hbmSector (s : State) (q : Nat) : List Byte := (List.range 48).map fun i => Memory.read s.mem (q / 3 * 48 + i)

/-- A sector is written back to HBM (14 R267) and stays cached clean. -/
def State.writeBack (s : State) (q : Nat) : State :=
  match SMap.find s.sectors q with
  | some x =>
    if x.dirty then
      { s with mem := (List.range 48).foldl (fun m i => Memory.write m (q / 3 * 48 + i) (x.bytes.getD i 0)) s.mem
               sectors := SMap.put s.sectors q { x with dirty := false } }
    else s
  | none => s

/-- A line is evicted (14 R267): its dirty sectors are written back. -/
def State.evict (s : State) (l : Nat) : State :=
  (sectorsOfLine l).foldl (fun s q => { s.writeBack q with sectors := SMap.del (s.writeBack q).sectors q }) s

/-- The lines that a slice caches. -/
def State.linesAt (s : State) (die slice : Nat) : List Nat :=
  ((s.sectors.filter fun x => x.2.die == die && x.2.slice == slice).map fun x => lineOfSector x.1).dedup

/-- A slice that holds its 8,192 lines evicts one, of its own choosing, before it takes another (14 R267). -/
def State.makeRoom (s : State) (die slice line : Nat) : State :=
  let ls := s.linesAt die slice
  if ls.length < 8192 ∨ ls.contains line then s
  else { s.evict (ls.getD (Config.pick s.freeCtr line % ls.length) 0) with freeCtr := s.freeCtr + 1 }

/-- A sector stands in its slice's cache (14 R267), clean when it was absent. -/
def State.fillSector (s : State) (die slice q : Nat) : State :=
  match SMap.find s.sectors q with
  | some _ => s
  | none =>
    let t := s.makeRoom die slice (lineOfSector q)
    { t with sectors := SMap.put t.sectors q ⟨t.hbmSector q, false, die, slice⟩ }

/-- The fill of a line ends (14 R268): its sectors stand in the slice, and every member's context may issue again that no release
holds. -/
def State.endFill (s : State) (line : Nat) : State :=
  match SMap.find s.dev.fills line with
  | none => s
  | some f =>
    let s := f.sectors.foldl (fun s q => s.fillSector f.die f.slice q) s
    let s := f.members.foldl (fun s m => s.modCtx ⟨m.1, m.2⟩ fun x => { x with stalled := x.owing }) s
    s.modDev fun v => { v with fills := SMap.del v.fills line }

/-! ### Reading bytes -/

/-- The PC word that a context shows (01 R11, R17): the address of the next instruction it issues, which lies after an
instruction that has issued and is not complete; in a frame the captured word's own address. Log entry 46. -/
def Context.shownPc (x : Context) (executes : Bool) : Word :=
  let next := match x.frame with
    | some f => f.ia + 4 + 4 * BitVec.ofNat 64 f.pos
    | none => x.ws.pc
  if executes || x.wait.isSome || x.refused || x.gather.isSome then next + 4 else next

/-- A register image as the core's own instructions load it. -/
def State.shownWs (s : State) (r : CtxRef) (exec : Bool) : Workspace :=
  { (s.ctx r).ws with pc := (s.ctx r).shownPc (exec && r == s.cur) }

/-- The image of an active workspace that another agent's read of a word returns: any it has had since it became active
(01 R22, log entry 4). -/
def State.heldWs (s : State) (r : CtxRef) (p : Nat) : Workspace :=
  let past := (s.ctx r).past
  (past[Config.pick s.freeCtr (p / 8) % (past.length + 1)]?).getD (s.shownWs r false)

/-- What an agent reads of a TCM byte: an instruction of the same core sees the register image of an active workspace
(01 R20), another agent some value the word has held (01 R22). -/
def State.tcmByte (s : State) (who : Who) (g p : Nat) : Byte :=
  match (s.core g).wsAt (p % 0x80000) with
  | some (c, o) =>
    if o < 8 then Memory.read s.mem p
    else if who.own && g == who.core then (s.shownWs ⟨g, c⟩ who.exec).byte o
    else (s.heldWs ⟨g, c⟩ p).byte o
  | none => Memory.read s.mem p

/-- A sector has been reached through another placement too, and written through one of them (14 R266). -/
def State.aliased (s : State) (plc p : Nat) : Bool :=
  let l := (SMap.find s.reached (p / 48)).getD []
  l.any (fun x => x % 3 != plc) && l.any (3 ≤ ·)

/-- An HBM byte as an access through a mapping reads it: any value where the byte has been reached through two mappings (14 R266,
15 R276). Log entry 59. -/
def State.mappedByte (s : State) (plc pol p : Nat) : Byte :=
  if s.aliased plc p then Config.freeByte s.freeCtr (p * 3 + plc) else s.hbmByte plc pol p

/-- The places of a space have been reached through its placement, by a write or a read (14 R266). -/
def State.noteMapped (s : State) (x : Space) (write : Bool) (ps : List Nat) : State :=
  match x with
  | .hbm _ _ plc _ =>
    let m := if write then plc + 3 else plc
    ps.foldl (fun s p =>
      let l := (SMap.find s.reached (p / 48)).getD []
      if l.contains m then s else { s with reached := SMap.put s.reached (p / 48) (l ++ [m]) }) s
  | _ => s

/-- The byte at a resolved place, as performed there. -/
def State.byteAt (s : State) (who : Who) (p : Nat) : Space → Byte
  | .tcm g => s.tcmByte who g p
  | .hbm _ _ plc pol => s.mappedByte plc pol p
  | .host => s.hostByte p
  | _ => Memory.read s.mem p

/-- The bytes of a run. -/
def State.readRun (s : State) (who : Who) (r : Run) : List Byte :=
  (List.range r.len).map fun i => s.byteAt who (r.place + i) r.space

/-- The places of runs. -/
def placesOf (rs : List Run) : List Nat := rs.flatMap fun r => (List.range r.len).map (r.place + ·)

/-- A run lies in the accessing core's own TCM. -/
def Run.isOwn (r : Run) (g : Nat) : Bool := r.space == .tcm g

/-- Correctable soft errors are corrected when they are read (20 R354), and counted in the core whose TCM held them (20
R367). -/
def State.correct (s : State) (ps : List Nat) : State :=
  if s.soft.isEmpty then s
  else
    let hit := s.soft.filter fun gr => ps.any fun p => granule p == gr
    let inTcm := fun gr => decide (tcmPlace 0 0 ≤ gr) && decide (gr < tcmPlace 8192 0)
    (hit.filter inTcm).foldl (fun s gr => s.count ⟨(gr - tcmPlace 0 0) / 0x80000, 0⟩ 12 1)
      { s with soft := s.soft.filter fun gr => !hit.contains gr }

/-! ### Writing bytes -/

/-- A TCM byte is written: a register of an active workspace by its own core's instruction (01 R20), else TCM. -/
def State.pokeTcm (s : State) (who : Who) (g p : Nat) (v m : Byte) : State :=
  let b := blend (s.tcmByte who g p) v m
  match (s.core g).wsAt (p % 0x80000) with
  | some (c, o) =>
    if o < 8 then { s with mem := Memory.write s.mem p b }
    else if who.own && g == who.core then s.modWsOf ⟨g, c⟩ fun w => w.setByte o b
    else s
  | none => { s with mem := Memory.write s.mem p b }

/-- A byte of a cached sector is written and the sector is dirty. -/
def State.pokeSector (s : State) (plc p : Nat) (v m : Byte) : State :=
  match SMap.find s.sectors (sectorKey plc p) with
  | some x =>
    { s with
      sectors := SMap.put s.sectors (sectorKey plc p)
        { x with bytes := x.bytes.set (p % 48) (blend (x.bytes.getD (p % 48) 0) v m), dirty := true } }
  | none => s

/-- An HBM byte is written through a placement and under a policy (14 R267, R269). -/
def State.pokeHbm (s : State) (die slice plc pol p : Nat) (v m : Byte) : State :=
  let q := sectorKey plc p
  if pol = 1 then
    let s := s.writeBack q
    { s with sectors := SMap.del s.sectors q, mem := Memory.write s.mem p (blend (Memory.read s.mem p) v m) }
  else if pol = 2 ∧ (SMap.find s.sectors q).isNone then
    { s with mem := Memory.write s.mem p (blend (Memory.read s.mem p) v m) }
  else (s.fillSector die slice q).pokeSector plc p v m

/-- A byte is written at its place. -/
def State.poke (s : State) (who : Who) (p : Nat) (v m : Byte) : Space → State
  | .tcm g => s.pokeTcm who g p v m
  | .hbm die slice plc pol => s.pokeHbm die slice plc pol p v m
  | _ => { s with mem := Memory.write s.mem p (blend (Memory.read s.mem p) v m) }

/-- Cells replace a granule whole. -/
def wholeGranule (cells : List (Nat × Byte × Byte)) (gr : Nat) : Bool :=
  (List.range (granuleSize gr)).all fun i => cells.any fun c => c.1 == gr + i && c.2.2 == 0xFF

/-- A granule that a write replaces whole loses its mark (20 R354), with the last write of the access that replaces it. -/
def State.cleanse (s : State) (w : PendWrite) : State :=
  if s.poison.isEmpty && s.soft.isEmpty then s
  else
    let gone := fun gr => wholeGranule w.cells gr ||
      (w.clears.contains gr && !(s.core w.core).writes.any fun v => v.clears.contains gr)
    { s with poison := s.poison.filter fun gr => !gone gr, soft := s.soft.filter fun gr => !gone gr }

/-! ### Lines at their slices -/

/-- A run of a slice-cached page reads a line at its home slice (14 R268). -/
def Run.cachedLine (r : Run) : Option (Nat × Nat × Nat) :=
  match r.space with
  | .hbm die slice plc 0 => some (die, slice, lineKey plc r.place)
  | _ => none

/-- The sectors that a run touches. -/
def Run.sectors (r : Run) : List Nat :=
  match r.space with
  | .hbm _ _ plc _ => ((List.range r.len).map fun i => sectorKey plc (r.place + i)).dedup
  | _ => []

/-- A slice's fills in flight. -/
def State.fillsAt (s : State) (die slice : Nat) : Nat :=
  (s.dev.fills.filter fun f => f.2.die == die && f.2.slice == slice).length

/-- The fill buffers that a slice has reserved for requests it has refused three times (14 R268). -/
def State.reservedAt (s : State) (die slice : Nat) : Nat :=
  (s.cores.flatMap fun k => k.2.ctxs.toList.filter fun x =>
    decide (3 ≤ x.refusals) && !x.refused && x.refusedAt == (die, slice)).length

/-- A slice has a fill buffer free. -/
def State.bufferFree (s : State) (die slice : Nat) : Bool := decide (s.fillsAt die slice + s.reservedAt die slice < 64)

/-! ### Locations -/

/-- A write touches one of some places' locations (15 R274). -/
def PendWrite.touches (ps : List Nat) (w : PendWrite) : Bool := w.cells.any fun c => ps.any fun p => p / 8 == c.1 / 8

/-- Two cells lie in a common location (15 R274): one 8-byte word, or for two sub-byte stores the bits that both write. -/
def cellsMeet (c e : Nat × Byte × Byte) : Bool :=
  c.1 / 8 == e.1 / 8 && (c.2.2 == 0xFF || e.2.2 == 0xFF || (c.1 == e.1 && c.2.2 &&& e.2.2 != 0))

/-- Two writes touch a common location (15 R274). -/
def PendWrite.meets (w v : PendWrite) : Bool := w.cells.any fun c => v.cells.any (cellsMeet c)

/-- A write of the same agent touches a common location, so that the two stay in order (15 R277). -/
def PendWrite.follows (w v : PendWrite) : Bool := w.agent == v.agent && w.meets v

/-- The writes that go, with every earlier one that must precede one of them, and the writes that stay. -/
def splitWrites (first : PendWrite → PendWrite → Bool) (go : PendWrite → Bool) : List PendWrite → List PendWrite × List PendWrite
  | [] => ([], [])
  | w :: t =>
    let (p, q) := splitWrites first go t
    if go w || p.any (first w) then (w :: p, q) else (p, w :: q)

/-! ### Releases that still owe writes (15 R278). Log entry 5 -/

/-- An agent lies within a scope of a core (15 R273). -/
def Who.within (who : Who) (g sc : Nat) : Bool :=
  decide (who.level ≤ sc) &&
    (if sc = 0 then who.at_ == g
     else if sc = 1 then quadOfCore who.at_ == quadOfCore g
     else if sc = 2 then cluOfCore who.at_ == cluOfCore g
     else if sc = 3 then dieOfCore who.at_ == dieOfCore g
     else true)

/-- A core lies within the scope of an agent's acquire (15 R278). -/
def Who.reaches (who : Who) (g : Nat) : Bool :=
  match who.acq with
  | some sc => ({ who with core := g, level := 0, pos := none } : Who).within who.at_ sc
  | none => true

/-- The core of a release still owes writes. -/
def State.tagOwes (s : State) (t : Tag) : Bool := (s.core t.1).writes.any (·.owed)

/-- What a release at a scope leaves with its write or message: its core and scope where earlier writes of the core are still
owed, and the releases that the core has read, each toward the agents of its own scope. -/
def State.relTags (s : State) (g sc : Nat) : List Tag :=
  (if sc < 4 ∧ s.tagOwes (g, sc) then [(g, sc)] else []) ++ (s.core g).owes.filter s.tagOwes

/-- What a write leaves, as a release where it is one. -/
def State.writeTags (s : State) (g : Nat) (rel : Option Nat) : List Tag := rel.elim [] (s.relTags g)

/-- An agent that acts for a core has read releases: its own next release passes them on, and those that synchronise with it bind its
later accesses. -/
def State.acquire (s : State) (who : Who) (ts : List Tag) : State :=
  match (ts.filter s.tagOwes).filter fun t => t.1 != who.core && decide (who.level < 4) with
  | [] => s
  | l => s.modCore who.core fun k =>
    { k with owes := (k.owes.filter s.tagOwes ++ l).dedup
             sees := (k.sees.filter s.tagOwes ++ l.filter fun t => who.within t.1 t.2 && who.reaches t.1).dedup }

/-- A write takes its place in its locations' coherence order: it starts a release sequence where it is a release, an atomic one
continues those that stand before it there, and any other ends them, but for a sub-byte store, which has a location of its own.
Its agent is ordered after the releases that it follows. -/
def State.retag (s : State) (who : Who) (w : PendWrite) (atomic : Bool) : State :=
  let new := w.tags.filter s.tagOwes
  if new.isEmpty && s.tags.isEmpty then s
  else ((w.cells.filter fun c => c.2.2 == 0xFF).map fun c => c.1 / 8).dedup.foldl (fun s k =>
    let past := (((SMap.find s.tags k).getD ([], [])).2).filter s.tagOwes
    let all := (past ++ new).dedup
    let s : State := { s with tags := if all.isEmpty then SMap.del s.tags k else SMap.put s.tags k (if atomic then all else new, all) }
    s.acquire who past) s

/-! ### Performing writes -/

/-- A write takes effect at its place (15 R275): the fill of its line ends first (14 R268), a read that a partial write makes of
a marked granule corrects it (20 R354), and a store-release to a core's TCM sets that core's event latches (06 R123). -/
def State.land (s : State) (who : Who) (w : PendWrite) : State :=
  let s := match w.space, w.cells with
    | .hbm _ _ plc _, c :: _ => s.endFill (lineKey plc c.1)
    | _, _ => s
  let s := w.cells.foldl (fun s c => s.poke who c.1 c.2.1 c.2.2 w.space) s
  let s := (s.cleanse w).correct (w.cells.map Prod.fst)
  match w.rel, w.space with
  | some _, .tcm g => s.wake g
  | _, _ => s

/-- Some posted stores are performed, in order, so that the host sees them (15 R281). -/
def State.pushSome (s : State) (go : PendWrite → Bool) : State :=
  let x := splitWrites PendWrite.meets go s.dev.posted
  if x.1.isEmpty then s
  else x.1.foldl (fun s w => s.land (s.whoAgent w.core) w) (s.modDev fun v => { v with posted := x.2 })

/-- A write is performed, after the posted stores to its locations. -/
def State.perform (s : State) (who : Who) (w : PendWrite) (atomic : Bool := false) : State :=
  ((s.pushSome fun v => v.touches (w.cells.map Prod.fst)).land who w).retag who w atomic

/-- A store that is posted toward the host (15 R281): to host memory or to a streamed page. -/
def PendWrite.posted (w : PendWrite) : Bool :=
  match w.space with
  | .host => true
  | .hbm _ _ _ pol => pol == 1
  | _ => false

/-- The slice that refuses a write of some bytes (14 R268): the line's fill is in flight, or a slice-cached write misses and
every fill buffer is busy. -/
def State.writeRefused (s : State) (x : Space) (ps : List Nat) : Option (Nat × Nat) :=
  match x, ps with
  | .hbm die slice plc pol, p :: _ =>
    let missing := decide (pol = 0) && ps.any fun p => (SMap.find s.sectors (sectorKey plc p)).isNone
    if (SMap.find s.dev.fills (lineKey plc p)).isSome || (missing && !s.bufferFree die slice) then some (die, slice)
    else none
  | _, _ => none

/-- Refusals of a request that its slice has accepted by now, at most `n` of them, are counted; how many there were is left open
(14 R268). -/
def State.countRefusals (s : State) (r : CtxRef) (n : Nat) : Option (Nat × Nat) → State
  | some (die, slice) => (List.range (Config.pick s.freeCtr slice % (n + 1))).foldl (fun s _ => s.countRefusal r die slice) s
  | none => s

/-- The running copy that a write belongs to ends with a cause (17 R306). -/
def State.failCopy (s : State) (w : PendWrite) (cause : BitVec 8) : State :=
  if w.agent = .copy then s.modCore w.core fun k => { k with copy := { k.copy with
    running := k.copy.running.map fun x =>
      if x.job.xid = w.xid ∧ x.status.isNone then { x with status := some 2, cause } else x } }
  else s

/-- A write on its way ends with a fault of the context that caused it, which ends a copy too. -/
def State.loseWrite (s : State) (w : PendWrite) (cause : BitVec 8) : State :=
  (s.failCopy w cause).charge
    { s.record ⟨w.core, w.ctx⟩ cause w.agent 0 w.addr w.addr .write with word := w.word, xid := w.xid }

/-- A store on its way arrives (15 R275): one into a workspace that has become active meanwhile is not performed and charges
WSFAULT and ends a copy that wrote it (01 R21, 17 R306), a posted one takes its place toward every agent but the host (15 R281), any other is performed. Its request is
counted here, where its slice accepts it (20 R369). -/
def State.arrive (s : State) (w : PendWrite) : State :=
  let who := s.whoAgent w.core
  let ps := w.cells.map Prod.fst
  match w.cells.find? fun c => s.wsBreach who .write c.1 w.space with
  | some _ => s.loseWrite w 0x11
  | none =>
    let s := (s.countRefusals ⟨w.core, w.ctx⟩ (3 - w.refusals) (s.writeRefused w.space ps)).noteMapped w.space true ps
    let s := if w.count then s.countSlice w.core who.asid true w.space else s
    if w.posted then ((s.modDev fun v => { v with posted := v.posted ++ [w] }).cleanse w).retag who w false
    else s.perform who w

/-- Some of a core's writes on their way are performed, those of one agent in order. -/
def State.performSome (s : State) (g : Nat) (go : PendWrite → Bool) : State :=
  let x := splitWrites PendWrite.follows go (s.core g).writes
  if x.1.isEmpty then s else x.1.foldl State.arrive (s.modCore g fun k => { k with writes := x.2 })

/-- The core's own writes on their way that touch a location (15 R274) are performed; its copy engine is another agent. -/
def State.performOver (s : State) (g : Nat) (ps : List Nat) : State := s.performSome g fun w => w.agent != .copy && w.touches ps

/-- What a core has seen released is performed where it touches some places. -/
def State.seenOver (s : State) (g : Nat) (ps : List Nat) : State :=
  (s.core g).sees.foldl (fun s t => s.performSome t.1 fun w => w.owed && w.touches ps) s

/-- Before an agent accesses some places (15 R275, R277, R278): an instruction's core performs its own writes to their locations,
an engine of the core those that a release covers, and both what they have seen released. -/
def State.before (s : State) (who : Who) (ps : List Nat) : State :=
  (if who.own then s.performOver who.core ps else s.performSome who.core fun w => w.owed && w.touches ps).seenOver who.core ps

/-- A release at `.dev` or wider (15 R277, R284): the core's earlier writes are performed first, in order, toward every agent of
the module; one at `.sys` also performs every posted store, so that the host sees them (15 R278, R281). Log entry 5. -/
def State.drain (s : State) (g : Nat) (host : Bool) : State :=
  let s := s.performSome g (·.agent != .copy)
  if host then s.pushSome fun _ => true else s

/-- A core is to be stopped: all its writes on their way are performed, its copy engine's among them, and every posted store. -/
def State.settleWrites (s : State) (g : Nat) : State := (s.performSome g fun _ => true).pushSome fun _ => true

/-- The earlier writes of a core are owed to the agents within the scope of its release that read it. -/
def State.owe (s : State) (g : Nat) : State :=
  if (s.core g).writes.isEmpty then s
  else s.modCore g fun k => { k with writes := k.writes.map fun w => { w with owed := w.owed || w.agent != .copy } }

/-- A release at a scope by an agent of a core: below `.dev` it carries what it owes with its write, message or record. -/
def State.releaseBy (s : State) (g sc : Nat) : State := if sc < 4 then s.owe g else s.drain g (sc == 6)

/-- A release at a scope by the executing context, which is held until what it covers is performed (03 R67, 15 R284). -/
def State.releaseWith (s : State) (sc : Nat) : State :=
  let t := s.releaseBy s.cur.core sc
  if t.me.writes.any (·.owed) then t.modCx fun x => { x with stalled := true, owing := true } else t

/-- Before an agent reads some places: what must be performed there is, posted stores among it, and the releases that stand there
are read. -/
def State.beforeRead (s : State) (who : Who) (rs : List Run) : State :=
  let ps := placesOf rs
  let s := (s.before who ps).pushSome (·.touches ps)
  let s := if s.tags.isEmpty then s
    else s.acquire who ((s.tags.filter fun x => ps.any fun p => p / 8 == x.1).flatMap (·.2.1))
  (rs.foldl (fun s r => s.noteMapped r.space false ((List.range r.len).map (r.place + ·))) s).correct ps

/-! ### Accesses of a context -/

/-- How a slice answers a read of a run: at once, by a fill that the context joins, or by a refusal (14 R268). `sure` tells that
the line or a fill buffer is reserved for the request, which one run uses. -/
def State.sliceRead (s : State) (sure : Bool) (r : Run) : Except Stop (Bool × State) :=
  match r.cachedLine with
  | none => .ok (sure, s)
  | some (die, slice, line) =>
    let me := (s.cur.core, s.cur.ctx)
    let kept := sure && s.cx.refusedAt == (die, slice)
    let qs := r.sectors
    match SMap.find s.dev.fills line with
    | some f =>
      let joins := decide (s.now ≤ f.opened + 64) && !(f.members.any fun m => cluOfCore m.1 == cluOfCore me.1)
      if joins || kept then
        .ok (sure && (joins || !kept), s.modDev fun v =>
          { v with fills := SMap.put v.fills line { f with members := f.members ++ [me], sectors := (f.sectors ++ qs).dedup } })
      else .error (.busy die slice)
    | none =>
      if qs.all fun q => (SMap.find s.sectors q).isSome then .ok (sure, s)
      else if kept || s.bufferFree die slice then
        .ok (sure && !kept, s.modDev fun v => { v with fills := SMap.put v.fills line ⟨die, slice, s.now, qs, [me]⟩ })
      else .error (.busy die slice)

/-- The runs of a read at their slices. -/
def State.sliceReads (s : State) (sure : Bool) : List Run → Except Stop State
  | [] => .ok s
  | r :: t => do
    let (sure, s) ← s.sliceRead sure r
    State.sliceReads s sure t

/-- An atomic access of the executing context is refused as a write is, three times at most. -/
def State.sliceAtom (s : State) (rs : List Run) : Except Stop Unit :=
  match rs.findSome? fun r => s.writeRefused r.space ((List.range r.len).map (r.place + ·)) with
  | some (die, slice) => if 3 ≤ s.cx.refusals then .ok () else .error (.busy die slice)
  | none => .ok ()

/-- The links drop a distant request of the executing context at the fourth failure of its parity: POISON, with the address
(20 R355). -/
def State.linkCheck (s : State) (k : Kind) (rs : List Run) : Except Stop Unit :=
  match s.cx.linkFails, rs.find? fun r => !r.isOwn s.cur.core with
  | true, some r => .error (.sys 0x05 (BitVec.ofNat 64 r.addr) (BitVec.ofNat 64 r.addr) k)
  | _, _ => .ok ()

/-- The context stalls until the value stands in its destination (03 R67), unless it read its own TCM. -/
def State.stallOn (s : State) (rs : List Run) : State :=
  if rs.all (·.isOwn s.cur.core) then s else s.modCx fun x => { x with stalled := true }

/-- An address in the own Lantern queue window (09 R166). -/
def inQueueWindow (ea : Word) : Bool := decide (0x8000000040000000 ≤ ea.toNat) && decide (ea.toNat < 0x8000000040010000)

/-- The access does not lie in the Lantern queue window (09 R166). -/
def noQueue (ea : Word) (k : Kind) : Except Stop Unit := if inQueueWindow ea then .error (.sys 0x03 ea ea k) else .ok ()

/-- A cell of a write: a place, its value and the bits written. -/
abbrev Cell := Nat × Byte × Byte

/-- The cells of a run's bytes with a mask. -/
def cellsOf (r : Run) (bs : List Byte) (m : Byte) : List Cell :=
  (List.range r.len).map fun i => (r.place + i, bs.getD i 0, m)

/-- Cells cut at 8-byte words: each word is written whole, the words in no fixed order (15 R282). -/
def wordCells (cs : List Cell) : List (List Cell) := cs.splitBy fun a b => a.1 / 8 == b.1 / 8

/-- Cells of one space at neighbouring addresses from `addr` on. -/
structure Cells where
  space : Space
  addr : Nat
  cells : List Cell
  deriving DecidableEq, Repr

/-- The writes of some words from an address on; the first of them counts as the request, and for an engine the first in each aligned
64-byte block (20 R369). -/
def wordWrites (w : PendWrite) (count : Bool) : Nat → List (List Cell) → List PendWrite
  | _, [] => []
  | a, cs :: t =>
    { w with cells := cs, addr := BitVec.ofNat 64 a, count := w.count && count } ::
      wordWrites w (w.agent == .copy && (a + cs.length) / 64 != a / 64) (a + cs.length) t

/-- Cells leave a core as writes like one: by an instruction to its own TCM at once (01 R10), elsewhere on their way (15 R275), after
what the core has seen released there, or released to its engine. -/
def State.sendCells (s : State) (own : Bool) (w : PendWrite) (x : Cells) : State :=
  let g := w.core
  let ps := x.cells.map Prod.fst
  let s := if w.agent = .copy then s.before (s.whoAgent g) ps else s.seenOver g ps
  let ws := wordWrites { w with space := x.space } true x.addr (wordCells x.cells)
  if own && x.space == .tcm g then ws.foldl (fun s w => s.perform (s.whoOwn g) w) s
  else s.modCore g fun k => { k with writes := k.writes ++ ws }

/-- The cells of one access leave the core as writes like one, with the marked sectors that it replaces whole; the first counts as
its request. -/
def State.sendAll (s : State) (own : Bool) (w : PendWrite) (xs : List Cells) : State :=
  let clears := (s.poison ++ s.soft).filter fun gr => inHbm gr && wholeGranule (xs.flatMap (·.cells)) gr
  xs.zipIdx.foldl (fun s x => s.sendCells own { w with clears, count := w.count && (x.2 == 0 || w.agent == .copy) } x.1) s

/-- The cells of the runs of an access, whose bytes go to them in order. -/
def runCells (m : Byte) : List Run → List Byte → List Cells
  | [], _ => []
  | r :: t, bs => ⟨r.space, r.addr, cellsOf r (bs.take r.len) m⟩ :: runCells m t (bs.drop r.len)

/-- Neighbouring cells of one space together, so that each word of a contiguous access is written whole (15 R282). -/
def mergeCells : List Cells → List Cells
  | [] => []
  | x :: t =>
    match mergeCells t with
    | [] => [x]
    | y :: u => if x.space = y.space then ⟨x.space, x.addr, x.cells ++ y.cells⟩ :: u else x :: y :: u

/-- A part of a store: an address, its bytes and the mask of each byte. -/
structure Part where
  ea : Word
  bytes : List Byte
  mask : Byte := 0xFF
  deriving DecidableEq, Repr

/-- The span of a part that is written whole. -/
def Part.span (p : Part) : List (Nat × Nat) := if p.mask = 0xFF then [(p.ea.toNat, p.bytes.length)] else []

/-- The parts of a store with their runs: all are checked before any is performed (06 R107, 07 R136). The parts of one
contiguous access replace granules together. -/
def State.resolveParts (s : State) (who : Who) (cover : List (Nat × Nat)) :
    List Part → Except Stop (List (Part × List Run) × List TlbEntry)
  | [] => .ok ([], [])
  | p :: t => do
    noQueue p.ea .write
    let (rs, es) ← orStop .write (s.resolvePieces who .write (p.span ++ cover) (pieces p.bytes.length p.ea.toNat p.bytes.length))
    let (ps, fs) ← State.resolveParts s who cover t
    return ((p, rs) :: ps, es ++ fs)

/-- A write by the executing instruction, before its cells are given. -/
def State.ownWrite (s : State) (rel : Option Nat) : PendWrite :=
  { cells := [], space := .host, core := s.cur.core, ctx := s.cur.ctx, rel, word := s.curWord, count := true
    tags := s.writeTags s.cur.core rel }

/-- A store by the executing context of parts, in order; the words of one contiguous access are each written whole. One request
counts for each part, or for all of them where they are one access (20 R369). -/
def State.storeParts (s : State) (ps : List Part) (rel : Option Nat := none) (whole : Bool := false) (once : Bool := whole) :
    Except Stop State := do
  let who := s.whoOwn s.cur.core
  let (xs, es) ← s.resolveParts who (if whole then ps.flatMap Part.span else []) ps
  orStop .write (s.wsCheck who .write (xs.flatMap (·.2)))
  let cs := xs.map fun x => runCells x.1.mask x.2 x.1.bytes
  return (if whole then [mergeCells cs.flatten] else cs).zipIdx.foldl
    (fun s x => s.sendAll true { s.ownWrite rel with count := !once || x.2 == 0 } x.1) (s.cache s.cur.core es)

/-- The parts of a load with their runs, each an address and a length. -/
def State.resolveReads (s : State) (who : Who) :
    List (Word × Nat) → Except Stop (List (List Run) × List TlbEntry)
  | [] => .ok ([], [])
  | (ea, n) :: t => do
    noQueue ea .read
    let (rs, es) ← orStop .read (s.resolve who .read ea.toNat n)
    let (ps, fs) ← State.resolveReads s who t
    return (rs :: ps, es ++ fs)

/-- A load by the executing context of parts (07 R136): the bytes of each. `acq` is the scope of an acquire that names
one. -/
def State.loadParts (s : State) (ps : List (Word × Nat)) (acq : Option Nat := none) :
    Except Stop (List (List Byte) × State) := do
  let who := { s.whoOwn s.cur.core with acq }
  let (xs, es) ← s.resolveReads who ps
  let rs := xs.flatten
  s.linkCheck .read rs
  let t ← s.sliceReads (decide (3 ≤ s.cx.refusals)) rs
  let t := t.beforeRead who rs
  return (xs.map fun x => x.flatMap (t.readRun who), (t.cache s.cur.core es).stallOn rs)

/-- One read request of the executing context is counted for the first byte of an access (20 R369). -/
def State.countAt (s : State) (ea : Word) : State :=
  let who := s.whoOwn s.cur.core
  match s.locate who .any ea.toNat with
  | .ok (l, _) => s.countSlice s.cur.core who.asid false l.space
  | .error _ => s

/-- A load of `n` bytes by the executing context (06 R107, 14 R258). One request is counted (20 R369). -/
def State.load (s : State) (ea : Word) (n : Nat) (acq : Option Nat := none) : Except Stop (List Byte × State) := do
  let (bs, t) ← s.loadParts [(ea, n)] acq
  return (bs.flatten, t.countAt ea)

/-- A store by the executing context of bytes at an address. -/
def State.store (s : State) (ea : Word) (bs : List Byte) (m : Byte := 0xFF) (rel : Option Nat := none) :
    Except Stop State := s.storeParts [⟨ea, bs, m⟩] rel

/-- What an atomic access found: the old bytes, where they lie and the state with earlier writes of the core to the
location performed (15 R284, R287). It counts as one write request (20 R369). -/
def State.atomRead (s : State) (ea : Word) (n : Nat) (acq : Option Nat := none) :
    Except Stop (List Byte × List Run × State) := do
  let who := { s.whoOwn s.cur.core with acq }
  noQueue ea .amo
  let (rs, es) ← orStop .amo (s.resolve who .amo ea.toNat n)
  orStop .amo (s.wsCheck who .amo rs)
  s.linkCheck .amo rs
  s.sliceAtom rs
  let s := s.beforeRead who rs
  let bs := rs.flatMap (s.readRun who)
  let s := match rs with
    | r :: _ => s.countSlice s.cur.core who.asid true r.space
    | [] => s
  return (bs, rs, (s.cache s.cur.core es).stallOn rs)

/-- Bytes are performed at runs at once; `tags` is what a release owes. -/
def State.performRuns (s : State) (who : Who) (rel : Option Nat) (atomic : Bool) (rs : List Run) (bs : List Byte)
    (tags : List Tag := []) : State :=
  match rs with
  | [] => s
  | r :: t =>
    let w : PendWrite := { cells := cellsOf r (bs.take r.len) 0xFF, space := r.space, core := who.core, rel, tags }
    State.performRuns ((s.noteMapped r.space true (w.cells.map Prod.fst)).perform who w atomic) who rel atomic t (bs.drop r.len) tags

/-- The write of an atomic access, in one step with its read (15 R287). -/
def State.atomWrite (s : State) (rs : List Run) (bs : List Byte) (rel : Option Nat) : State :=
  s.performRuns (s.whoOwn s.cur.core) rel true rs bs (s.writeTags s.cur.core rel)

/-! ### Accesses of other agents -/

/-- No byte lies in the Lantern queue window (09 R166), and the links drop no request to an address outside the agent's own TCM
(20 R355). -/
def State.agentMay (s : State) (who : Who) (a : Word) (rs : List Run) : Except Bad Unit :=
  let hit := fun (x : Nat) => rs.any fun r => !r.isOwn who.core && decide (r.addr ≤ x) && decide (x < r.addr + r.len)
  if rs.any (·.space == .queue) then .error ⟨0x03, a⟩
  else match s.dev.linkDrop with
    | some x => if hit x then .error ⟨0x05, BitVec.ofNat 64 x⟩ else .ok ()
    | none => .ok ()

/-- The slice that refuses a read of a run: its line's fill is in flight, or it misses and every fill buffer is busy (14 R268). -/
def State.readRefused (s : State) (r : Run) : Option (Nat × Nat) :=
  match r.cachedLine with
  | some (die, slice, line) =>
    if (SMap.find s.dev.fills line).isSome || (r.sectors.any (fun q => (SMap.find s.sectors q).isNone) && !s.bufferFree die slice) then
      some (die, slice)
    else none
  | none => none

/-- The requests of an engine's access: one for each aligned 64-byte block (20 R369), with the refusals of each run before. -/
def State.countRuns (s : State) (who : Who) (write : Bool) (rs : List Run) : State :=
  rs.foldl (fun s r =>
    let no := if write then s.writeRefused r.space ((List.range r.len).map (r.place + ·)) else s.readRefused r
    (List.range r.blocks).foldl (fun s _ => s.countSlice who.at_ who.asid write r.space)
      (s.countRefusals ⟨who.core, s.cur.ctx⟩ 3 no)) s

/-- Slice-cached bytes that an engine reads stand in their slice (14 R267). Log entry 14. -/
def State.fillRun (s : State) (r : Run) : State :=
  match r.cachedLine with
  | none => s
  | some (die, slice, _) => r.sectors.foldl (fun s q => s.fillSector die slice q) s

/-- A read of `n` bytes by an agent that is not an instruction. -/
def State.agentRead (s : State) (who : Who) (a : Word) (n : Nat) (need : Need := .read) :
    Except Bad (List Byte × State) := do
  let (rs, es) ← s.resolve who need a.toNat n
  s.agentMay who a rs
  let t := (s.countRuns who false rs).beforeRead who rs
  let bs := rs.flatMap (t.readRun who)
  return (bs, (rs.foldl State.fillRun t).cache who.core es)

/-- The scope of an engine's release, `.dev` unless one is given. -/
def engineRel (rel : Bool) : Option Nat := if rel then some 4 else none

/-- A release by an engine: its own accesses stand already; one at `.sys` performs every posted store (15 R281). -/
def State.releaseAt (s : State) (sc : Option Nat) : State := if sc = some 6 then s.pushSome fun _ => true else s

/-- What an engine's release owes: what it or its core has read, and `tags`. -/
def State.engineTags (s : State) (g : Nat) (sc : Option Nat) (tags : List Tag) : List Tag :=
  if sc.isSome then (tags ++ (s.core g).owes).dedup.filter s.tagOwes else []

/-- A write of bytes by an agent that is not an instruction, performed at once; `tags` is what its release owes beside what the agent
has read, and `count` tells whether it begins a request (20 R369). -/
def State.agentWrite (s : State) (who : Who) (a : Word) (bs : List Byte) (rel : Bool := false) (need : Need := .write)
    (sc : Option Nat := engineRel rel) (tags : List Tag := []) (count : Bool := true) : Except Bad State := do
  let (rs, es) ← s.resolve who need a.toNat bs.length
  s.agentMay who a rs
  let t := ((if count then s.countRuns who true rs else s).cache who.core es).releaseAt sc
  return (t.before who (placesOf rs)).performRuns who sc false rs bs (t.engineTags who.core sc tags)

/-- An atomic access of an agent: the old bytes become new ones. -/
def State.agentAtom (s : State) (who : Who) (a : Word) (n : Nat) (f : List Byte → List Byte) (rel : Bool := false)
    (sc : Option Nat := engineRel rel) (tags : List Tag := []) : Except Bad (List Byte × State) := do
  let (rs, es) ← s.resolve who .amo a.toNat n
  s.agentMay who a rs
  let t := (((s.countRuns who true rs).cache who.core es).releaseAt sc).beforeRead who rs
  let bs := rs.flatMap (t.readRun who)
  return (bs, t.performRuns who sc true rs (f bs) (t.engineTags who.core sc tags))

/-- Bytes leave an agent of a core on their way, as writes like one, unordered among themselves (17 R304). -/
def State.agentSend (s : State) (who : Who) (w : PendWrite) (a : Word) (bs : List Byte) : Except Bad State := do
  let (rs, es) ← s.resolve who .write a.toNat bs.length
  s.agentMay who a rs
  return (s.cache who.core es).sendAll false w (mergeCells (runCells 0xFF rs bs))

/-- The word at an address as an agent reads it, for a condition that a device checks (08 R151). -/
def State.peekWord (s : State) (who : Who) (a : Word) (n : Nat := 8) : Except Bad Nat :=
  (s.agentRead who a n).map fun x => ofBytes x.1

/-- Bytes that the network interface reads of its journal: a request that no counter names (22 R395). -/
def State.journalBytes (s : State) (g : Nat) (a : Word) : Except Bad (List Byte) := do
  let who := s.whoAgent g
  let (rs, _) ← s.resolve who .read a.toNat 16
  s.agentMay who a rs
  return rs.flatMap ((s.beforeRead who rs).readRun who)

/-! ### Waits (03 R67) -/

/-- The executing instruction waits: it goes on at once where its condition holds, else its context is not ready until
the condition holds or WAITLIM cycles have passed. With WAITLIM 0 it traps at once (01 R24). -/
def State.waitOn (s : State) (op : WaitOp) (val : Word) (bounded : Bool) : Attempt → Res
  | .error e => .error e
  | .ok (some t) => .ok t
  | .ok none =>
    let lim := s.me.waitlim.toNat
    if bounded && lim == 0 then .error (.user 0x06 val s.ia)
    else .ok (s.modCx fun x => { x with wait := some { op, word := s.curWord, since := s.now, limit := if bounded then some lim else none } })

/-! ### The replay journal (20 R364, R365) -/

/-- A core makes the recorded choices. -/
def Journal.replaying (j : Journal) : Bool := j.on && j.replay && !j.div

/-- The place after a record: the first one after the last under WRAP. -/
def Journal.after (j : Journal) : Nat := if j.wrap ∧ j.size < j.pos + 32 then 0 else j.pos + 16

/-- The network interface writes a journal record, a request that no counter names (22 R395): it leaves the core on its way, as
plain accesses do. -/
def State.recordAt (s : State) (g : Nat) (a : Word) (bs : List Byte) : Except Bad State :=
  s.agentSend (s.whoAgent g) { cells := [], space := .host, core := g, ctx := (s.core g).journal.ctx } a bs

/-- A record is written at the next place, and whether it is: not beyond the buffer, nor where it cannot be written (20 R364). A
record into an active workspace charges WSFAULT to the context that started the journal (01 R21). -/
def State.tryRecord (s : State) (g : Nat) (ty w1 : Nat) : Bool × State :=
  let j := (s.core g).journal
  if j.full ∨ j.size < j.pos + 16 then (false, s)
  else
    let bs := toBytes 8 (ty * 2 ^ 60 + s.now % 2 ^ 48) ++ toBytes 8 w1
    match s.recordAt g (j.base + BitVec.ofNat 64 j.pos) bs with
    | .ok s => (true, s.modCore g fun k => { k with journal := { k.journal with pos := j.after } })
    | .error b => (false, if b.cause = 0x11 then s.charge (s.record ⟨g, j.ctx⟩ 0x11 .network 0 b.addr b.addr .write) else s)

/-- A record is written, or it is lost: in a full buffer, or for the next GAP to count (20 R364). -/
def State.putRecord (s : State) (g : Nat) (ty w1 : Nat) : State :=
  match s.tryRecord g ty w1 with
  | (true, t) => t
  | (false, t) =>
    t.modCore g fun k =>
      let j := k.journal
      let full := j.full || decide (j.size < j.pos + 16)
      { k with journal := { j with full, drop := j.drop + 1, lost := if full then j.lost else j.lost + 1 } }

/-- The GAP record of the losses so far, which stay where it cannot be written (20 R364). -/
def State.putGap (s : State) (g : Nat) : State :=
  match s.tryRecord g 8 (s.core g).journal.lost with
  | (true, t) => t.modCore g fun k => { k with journal := { k.journal with lost := 0 } }
  | (false, t) => t

/-- The next recorded choice of a core that replays, with the offset after it; marks and gaps are no choices. -/
def State.nextRecord (s : State) (g : Nat) : Nat → Nat → Option (Nat × Nat × Nat)
  | 0, _ => none
  | fuel + 1, pos =>
    let j := (s.core g).journal
    if j.size < pos + 16 then none
    else match s.journalBytes g (j.base + BitVec.ofNat 64 pos) with
      | .error _ => none
      | .ok bs =>
        let w0 := ofBytes (bs.take 8)
        let ty := w0 / 2 ^ 60
        if ty = 7 ∨ ty = 8 then State.nextRecord s g fuel (pos + 16)
        else some (ty, ofBytes (bs.drop 8), pos + 16)

/-- The core stops replaying (20 R365). -/
def State.diverge (s : State) (g : Nat) : State :=
  s.modCore g fun k => { k with journal := { k.journal with div := true } }.wake

/-- The next recorded choice of a core that replays is of another type, whose turn comes first: an event of this type waits (20
R365). -/
def State.journalWaits (s : State) (g : Nat) (ty : Nat) : Bool :=
  let j := (s.core g).journal
  j.replaying && (match s.nextRecord g (j.size / 16 + 1) j.pos with
    | some (t, _, _) => t != ty
    | none => false)

/-- An event of a recorded type takes place: it is recorded, or compared with the recorded one (20 R364, R365). -/
def State.journal (s : State) (g : Nat) (ty w1 : Nat) : State :=
  let j := (s.core g).journal
  if !j.on then s
  else if j.replaying then
    match s.nextRecord g (j.size / 16 + 1) j.pos with
    | some (t, w, p) =>
      if t = ty ∧ w = w1 then s.modCore g fun k => { k with journal := { j with pos := p, since := s.now } }
      else s.diverge g
    | none => s.diverge g
  else if j.replay then s
  else
    (if j.lost = 0 then s else s.putGap g).putRecord g ty w1

/-- A core that replays allows only the recorded choice (20 R365). -/
def State.journalAllows (s : State) (g : Nat) (ty w1 : Nat) : Bool :=
  let j := (s.core g).journal
  !j.replaying || (match s.nextRecord g (j.size / 16 + 1) j.pos with
    | some (t, w, _) => t == ty && w == w1
    | none => true)

/-! ### Conversion counters (02 R50-R52, R416) -/

/-- What an operation counts: NaN, saturation and flush to zero (02 R51). -/
structure Counts where
  sat : Nat := 0
  ftz : Nat := 0
  nan : Nat := 0
  deriving DecidableEq, Repr

/-- Counts add up. -/
def Counts.plus (a b : Counts) : Counts := ⟨a.sat + b.sat, a.ftz + b.ftz, a.nan + b.nan⟩

/-- A command of the queue with a number takes a change. -/
def CmdQueue.modCmd (q : CmdQueue) (id : Nat) (f : Cmd → Cmd) : CmdQueue :=
  { q with cmds := q.cmds.map fun c => if c.id = id then f c else c }

/-- A meeting command of a quad's buffer with a number takes a change. -/
def Quad.modMeeting (q : Quad) (id : Nat) (f : Meeting → Meeting) : Quad :=
  { q with meetings := q.meetings.map fun m => if m.id = id then f m else m }

/-- A crossing waits to be taken: with its command while that is in its queue or buffer, else at the context (02 R52). -/
def State.pendCrossing (s : State) (r : CtxRef) (c : Crossing) (at_ : CrossAt) : State :=
  match at_ with
  | .command id =>
    if (s.cmdQueue r.core).cmds.any (·.id == id) then
      s.modCmdQueue r.core (·.modCmd id fun x => { x with crossings := x.crossings ++ [c] })
    else s.modCtx r fun x => { x with crossings := x.crossings ++ [c] }
  | .meeting k id =>
    if (s.quad k).meetings.any (·.id == id) then
      s.modQuad k (·.modMeeting id fun x => { x with crossings := x.crossings ++ [c] })
    else s.modCtx r fun x => { x with crossings := x.crossings ++ [c] }
  | .context => s.modCtx r fun x => { x with crossings := x.crossings ++ [c] }

/-- One atomic add to a conversion counter of the team's job control block, at `.dev`, saturating; a crossing sets its
bit and waits where `at_` says to be taken (02 R51, R52). A failed check is charged as a fault (02 R416); `word` is the instruction's
or command's (20 R349). DESIGN CHOICE: a limit word that cannot be read never
crosses, and a crossing-bit word that cannot be written stays as it is, without a fault (log entry 47). -/
def State.counterAdd (s : State) (r : CtxRef) (agent : Agent) (word : BitVec 32) (i : Fin 4) (n : Nat) (source : Fin 4)
    (at_ : CrossAt := .context) : State :=
  let who := s.whoAgent r.core
  let area := (s.core r.core).jcb + 0x40
  let a := area + BitVec.ofNat 64 (8 * i.val)
  let up := fun (bs : List Byte) => toBytes 8 (min (ofBytes bs + n) (2 ^ 64 - 1))
  match s.agentAtom who a 8 up with
  | .error b =>
    s.charge { s.record r b.cause agent 0 a a .amo with word, held := .counterAdd i n source at_ }
  | .ok (bs, s) =>
    let old := ofBytes bs
    let lim := match s.agentRead who (area + 0x18 + BitVec.ofNat 64 (8 * i.val)) 8 with
      | .ok (x, _) => ofBytes x
      | .error _ => 2 ^ 64 - 1
    if old ≤ lim ∧ lim < min (old + n) (2 ^ 64 - 1) then
      let s := match s.agentAtom who (area + 0x30) 8 (fun x => toBytes 8 (ofBytes x ||| 2 ^ i.val)) with
        | .ok (_, t) => t
        | .error _ => s
      s.pendCrossing r ⟨i, source⟩ at_
    else s

/-- The totals of one operation, one add per counter (02 R51). -/
def State.countCvt (s : State) (r : CtxRef) (agent : Agent) (word : BitVec 32) (c : Counts) (source : Fin 4)
    (at_ : CrossAt := .context) : State :=
  let s := if c.sat = 0 then s else s.counterAdd r agent word 0 c.sat source at_
  let s := if c.ftz = 0 then s else s.counterAdd r agent word 1 c.ftz source at_
  if c.nan = 0 then s else s.counterAdd r agent word 2 c.nan source at_

end Sys2Proof.Machine
end

