-- ==== Sys2Proof/Machine/Operands.lean ====
section
/-! DEFINITION. Operand forms and the values that scalar operations compute from them (02 R30-R31, 03 R66, 06 R101-R106,
15 R286). -/

namespace Sys2Proof.Machine

/-- 1 or 0. -/
def flag (b : Bool) : Word := if b then 1 else 0

/-- A shift or rotate amount: b[5:0] (06 R102). -/
def amount (b : Word) : Nat := b.toNat % 64

/-- `zext(x, n)` (03 R66). -/
def zextW (x : Word) (n : Nat) : Word := BitVec.ofNat 64 (x.toNat % 2 ^ n)

/-- `sext(x, n)` (03 R66). -/
def sextW (x : Word) (n : Nat) : Word := sextNat x.toNat n

/-- Natural and signed values, narrowed back to a register. -/
def wordOfInt (x : Int) : Word := BitVec.ofInt 64 x

/-- Integer quotient toward zero, a natural pattern of width `w` (02 R31). -/
def natQuot (w a b : Nat) : Nat := if b = 0 then 2 ^ w - 1 else a / b

/-- Natural remainder; the dividend where the divisor is 0 (02 R31). -/
def natRem (a b : Nat) : Nat := if b = 0 then a else a % b

/-- Signed quotient toward zero; −1 where the divisor is 0. The most negative value by −1 wraps to itself (02 R31). -/
def intQuot (a b : Int) : Int := if b = 0 then -1 else a.tdiv b

/-- Signed remainder with the sign of the dividend (02 R31). -/
def intRem (a b : Int) : Int := if b = 0 then a else a.tmod b

/-- Zero bits above the highest one bit of the low `n` bits. -/
def clzNat : Nat → Nat → Nat
  | 0, _ => 0
  | n + 1, x => if x.testBit n then 0 else clzNat n x + 1

/-- Zero bits below the lowest one bit, at most `n`, from bit `i`. -/
def ctzNat : Nat → Nat → Nat → Nat
  | 0, _, _ => 0
  | n + 1, i, x => if x.testBit i then 0 else ctzNat n (i + 1) x + 1

/-- One bits among the low `n`. -/
def popNat : Nat → Nat → Nat
  | 0, _ => 0
  | n + 1, x => (if x.testBit n then 1 else 0) + popNat n x

/-- An effective address of base and signed offset, wrapping (06 R107). -/
def effAddr (base : Word) (off : BitVec 13) : Word := base + off.signExtend 64

/-- A branch target: IA + sext(off)×4 (06 R111, R112). -/
def branchTarget {w : Nat} (ia : Word) (off : BitVec w) : Word := ia + (off.signExtend 64) * 4

/-- An access size: 4 or 8 bytes (15 R285). -/
def wdBytes (wd : Fin 2) : Nat := if wd = 0 then 4 else 8

/-- The value of `n` bytes, zero-extended. -/
def zbytes (bs : List Byte) : Word := BitVec.ofNat 64 (ofBytes bs)

/-- The value of `n` bytes, sign-extended. -/
def sbytes (bs : List Byte) : Word := sextNat (ofBytes bs) (8 * bs.length)

/-- An address is a multiple of a size. -/
def aligned (a : Word) (n : Nat) : Bool := a.toNat % n == 0

end Sys2Proof.Machine
end

