-- ==== Sys2Proof/Machine/Alu.lean ====
section
/-! DEFINITION. The register arithmetic and immediate instructions (06 R101-R106). Each reads its sources, writes rd and
moves on. -/

namespace Sys2Proof.Machine

/-- A register instruction: rd ← f of W(ra) and W(rb), read before the write (06 R100). -/
def State.alu (s : State) (rd ra rb : Reg) (f : Word → Word → Word) : Outcome :=
  .next (s.retire rd (f (s.getW ra) (s.getW rb)))

/-- A one-source instruction: rd ← f of W(ra). -/
def State.alu1 (s : State) (rd ra : Reg) (f : Word → Word) : Outcome := .next (s.retire rd (f (s.getW ra)))

/-- `add`: rd ← W(ra) + W(rb), wrapping (06 R101). -/
def execAdd (rd ra rb : Reg) (s : State) : Outcome := s.alu rd ra rb fun a b => a + b

/-- `sub`: rd ← W(ra) − W(rb), wrapping (06 R101). -/
def execSub (rd ra rb : Reg) (s : State) : Outcome := s.alu rd ra rb fun a b => a - b

/-- `and`: rd ← a and b (06 R101). -/
def execAnd (rd ra rb : Reg) (s : State) : Outcome := s.alu rd ra rb fun a b => a &&& b

/-- `or`: rd ← a or b (06 R101). -/
def execOr (rd ra rb : Reg) (s : State) : Outcome := s.alu rd ra rb fun a b => a ||| b

/-- `xor`: rd ← a xor b (06 R101). -/
def execXor (rd ra rb : Reg) (s : State) : Outcome := s.alu rd ra rb fun a b => a ^^^ b

/-- `andn`: rd ← a and not b (06 R101). -/
def execAndn (rd ra rb : Reg) (s : State) : Outcome := s.alu rd ra rb fun a b => a &&& ~~~b

/-- `sll`: rd ← a << b[5:0] (06 R101). -/
def execSll (rd ra rb : Reg) (s : State) : Outcome := s.alu rd ra rb fun a b => a <<< amount b

/-- `srl`: rd ← a >> b[5:0], filling with 0 (06 R101). -/
def execSrl (rd ra rb : Reg) (s : State) : Outcome := s.alu rd ra rb fun a b => a >>> amount b

/-- `sra`: rd ← int(a) shifted right by b[5:0], filling with a[63] (06 R101). -/
def execSra (rd ra rb : Reg) (s : State) : Outcome := s.alu rd ra rb fun a b => a.sshiftRight (amount b)

/-- `slt`: rd ← 1 if int(a) < int(b), else 0 (06 R101). -/
def execSlt (rd ra rb : Reg) (s : State) : Outcome := s.alu rd ra rb fun a b => flag (a.slt b)

/-- `sltn`: rd ← 1 if nat(a) < nat(b), else 0 (06 R101). -/
def execSltn (rd ra rb : Reg) (s : State) : Outcome := s.alu rd ra rb fun a b => flag (a.ult b)

/-- `mul`: rd ← (int(a) × int(b))[63:0] (06 R101). -/
def execMul (rd ra rb : Reg) (s : State) : Outcome := s.alu rd ra rb fun a b => wordOfInt (a.toInt * b.toInt)

/-- `mulh`: rd ← (int(a) × int(b))[127:64] (06 R101). -/
def execMulh (rd ra rb : Reg) (s : State) : Outcome := s.alu rd ra rb fun a b => wordOfInt (a.toInt * b.toInt / 2 ^ 64)

/-- `mulhn`: rd ← (nat(a) × nat(b))[127:64] (06 R101). -/
def execMulhn (rd ra rb : Reg) (s : State) : Outcome := s.alu rd ra rb fun a b => BitVec.ofNat 64 (a.toNat * b.toNat / 2 ^ 64)

/-- `div`: rd ← the signed quotient of 02 R31 (06 R101). -/
def execDiv (rd ra rb : Reg) (s : State) : Outcome := s.alu rd ra rb fun a b => wordOfInt (intQuot a.toInt b.toInt)

/-- `divn`: rd ← the natural quotient of 02 R31 (06 R101). -/
def execDivn (rd ra rb : Reg) (s : State) : Outcome := s.alu rd ra rb fun a b => BitVec.ofNat 64 (natQuot 64 a.toNat b.toNat)

/-- `rem`: rd ← the signed remainder of 02 R31 (06 R101). -/
def execRem (rd ra rb : Reg) (s : State) : Outcome := s.alu rd ra rb fun a b => wordOfInt (intRem a.toInt b.toInt)

/-- `remn`: rd ← the natural remainder of 02 R31 (06 R101). -/
def execRemn (rd ra rb : Reg) (s : State) : Outcome := s.alu rd ra rb fun a b => BitVec.ofNat 64 (natRem a.toNat b.toNat)

/-- `min`: rd ← the smaller of int(a), int(b) (06 R101). -/
def execMin (rd ra rb : Reg) (s : State) : Outcome := s.alu rd ra rb fun a b => if a.slt b then a else b

/-- `max`: rd ← the larger of int(a), int(b) (06 R101). -/
def execMax (rd ra rb : Reg) (s : State) : Outcome := s.alu rd ra rb fun a b => if a.slt b then b else a

/-- `minn`: rd ← the smaller of nat(a), nat(b) (06 R101). -/
def execMinn (rd ra rb : Reg) (s : State) : Outcome := s.alu rd ra rb fun a b => if a.ult b then a else b

/-- `maxn`: rd ← the larger of nat(a), nat(b) (06 R101). -/
def execMaxn (rd ra rb : Reg) (s : State) : Outcome := s.alu rd ra rb fun a b => if a.ult b then b else a

/-- `clz`: the zero bits above the highest one bit; 64 for 0 (06 R101). -/
def execClz (rd ra : Reg) (s : State) : Outcome := s.alu1 rd ra fun a => BitVec.ofNat 64 (clzNat 64 a.toNat)

/-- `ctz`: the zero bits below the lowest one bit; 64 for 0 (06 R101). -/
def execCtz (rd ra : Reg) (s : State) : Outcome := s.alu1 rd ra fun a => BitVec.ofNat 64 (ctzNat 64 0 a.toNat)

/-- `popc`: the number of one bits (06 R101). -/
def execPopc (rd ra : Reg) (s : State) : Outcome := s.alu1 rd ra fun a => BitVec.ofNat 64 (popNat 64 a.toNat)

/-- `sext`: sext(a, sh+1) (06 R101). -/
def execSext (rd ra : Reg) (sh : Fin 32) (s : State) : Outcome := s.alu1 rd ra fun a => sextW a (sh.val + 1)

/-- `zext`: zext(a, sh+1) (06 R101). -/
def execZext (rd ra : Reg) (sh : Fin 32) (s : State) : Outcome := s.alu1 rd ra fun a => zextW a (sh.val + 1)

/-- `addx`: a + (b << sh) (06 R101). -/
def execAddx (rd ra rb : Reg) (sh : Fin 32) (s : State) : Outcome := s.alu rd ra rb fun a b => a + (b <<< sh.val)

/-- `rotl`: a rotated left by (b[5:0] + sh) mod 64 (06 R101). -/
def execRotl (rd ra rb : Reg) (sh : Fin 32) (s : State) : Outcome :=
  s.alu rd ra rb fun a b => a.rotateLeft ((amount b + sh.val) % 64)

/-- `bext`: zext(a >> b[5:0], sh+1) (06 R101, R102). -/
def execBext (rd ra rb : Reg) (sh : Fin 32) (s : State) : Outcome :=
  s.alu rd ra rb fun a b => zextW (a >>> amount b) (sh.val + 1)

/-- `cmov`: a if b is not 0, else rd unchanged (06 R101). -/
def execCmov (rd ra rb : Reg) (s : State) : Outcome :=
  if s.getW rb = 0 then .next s.advance else .next (s.retire rd (s.getW ra))

/-- `addi`: W(ra) + sext(imm) (06 R103). -/
def execAddi (rd ra : Reg) (imm : BitVec 16) (s : State) : Outcome := s.alu1 rd ra fun a => a + imm.signExtend 64

/-- `andi`: W(ra) and zext(imm) (06 R103). -/
def execAndi (rd ra : Reg) (imm : BitVec 16) (s : State) : Outcome := s.alu1 rd ra fun a => a &&& imm.setWidth 64

/-- `ori`: W(ra) or zext(imm) (06 R103). -/
def execOri (rd ra : Reg) (imm : BitVec 16) (s : State) : Outcome := s.alu1 rd ra fun a => a ||| imm.setWidth 64

/-- `xori`: W(ra) xor zext(imm) (06 R103). -/
def execXori (rd ra : Reg) (imm : BitVec 16) (s : State) : Outcome := s.alu1 rd ra fun a => a ^^^ imm.setWidth 64

/-- `slti`: 1 if int(W(ra)) < sext(imm), else 0 (06 R103). -/
def execSlti (rd ra : Reg) (imm : BitVec 16) (s : State) : Outcome :=
  s.alu1 rd ra fun a => flag (a.slt (imm.signExtend 64))

/-- `sltni`: 1 if nat(W(ra)) < zext(imm), else 0 (06 R103). -/
def execSltni (rd ra : Reg) (imm : BitVec 16) (s : State) : Outcome :=
  s.alu1 rd ra fun a => flag (a.ult (imm.setWidth 64))

/-- `slli`: W(ra) << n (06 R104). -/
def execSlli (rd ra : Reg) (n : Fin 64) (s : State) : Outcome := s.alu1 rd ra fun a => a <<< n.val

/-- `srli`: W(ra) >> n, filling with 0 (06 R104). -/
def execSrli (rd ra : Reg) (n : Fin 64) (s : State) : Outcome := s.alu1 rd ra fun a => a >>> n.val

/-- `srai`: int(W(ra)) >> n, filling with bit 63 (06 R104). -/
def execSrai (rd ra : Reg) (n : Fin 64) (s : State) : Outcome := s.alu1 rd ra fun a => a.sshiftRight n.val

/-- `setq.z`: rd ← zext(imm) << 16N (06 R105). -/
def execSetqZ (rd : Reg) (q : Fin 4) (imm : BitVec 16) (s : State) : Outcome :=
  .next (s.retire rd (imm.setWidth 64 <<< (16 * q.val)))

/-- `setq.k`: quarter N of rd ← imm, the others kept (06 R105). -/
def execSetqK (rd : Reg) (q : Fin 4) (imm : BitVec 16) (s : State) : Outcome :=
  .next (s.retire rd ((s.getW rd &&& ~~~((0xFFFF : Word) <<< (16 * q.val))) ||| (imm.setWidth 64 <<< (16 * q.val))))

/-- `pcadd`: rd ← IA + sext(imm) × 4096 (06 R106). -/
def execPcadd (rd : Reg) (imm : BitVec 16) (s : State) : Outcome :=
  .next (s.retire rd (s.ia + imm.signExtend 64 * 4096))

end Sys2Proof.Machine
end

