-- ==== Sys2Proof/Machine/Float.lean ====
section
/-! DEFINITION. Number formats, exact values, the one rounding and its flags (02 R32-R36), the table formats q8 and q4
(02 R37-R42) and the block scales (02 R43). -/

namespace Sys2Proof.Machine

/-- A floating-point format (02 R32): exponent and fraction widths. -/
structure Fmt where
  ew : Nat
  fw : Nat
  deriving DecidableEq, Repr

/-- FP64. -/
def fp64 : Fmt := ⟨11, 52⟩

/-- FP32. -/
def fp32 : Fmt := ⟨8, 23⟩

/-- FP16. -/
def fp16 : Fmt := ⟨5, 10⟩

/-- BF16. -/
def bf16 : Fmt := ⟨8, 7⟩

/-- F19. -/
def f19 : Fmt := ⟨8, 10⟩

/-- The bias B. -/
def Fmt.bias (f : Fmt) : Nat := 2 ^ (f.ew - 1) - 1

/-- The place of the sign bit. -/
def Fmt.sign (f : Fmt) : Nat := f.ew + f.fw

/-- The exponent of the smallest normal, 1 − B. -/
def Fmt.emin (f : Fmt) : Int := 1 - (f.bias : Int)

/-- The pattern of +∞. -/
def Fmt.inf (f : Fmt) : Nat := (2 ^ f.ew - 1) * 2 ^ f.fw

/-- The default NaN (02 R33). -/
def Fmt.nan (f : Fmt) : Nat := f.inf + 2 ^ (f.fw - 1)

/-- The pattern of L, the largest finite value. -/
def Fmt.max (f : Fmt) : Nat := f.inf - 1

/-- A sign with a magnitude pattern. -/
def Fmt.signed (f : Fmt) (neg : Bool) (m : Nat) : Nat := (if neg then 2 ^ f.sign else 0) + m

/-- The value of a pattern: a number m × 2^e with a sign, so that zero has two signs. -/
inductive Val where
  | nan (signalling : Bool)
  | inf (neg : Bool)
  | num (neg : Bool) (m : Nat) (e : Int)
  deriving DecidableEq, Repr

/-- The value of a pattern (02 R32). -/
def Fmt.val (f : Fmt) (x : Nat) : Val :=
  let neg := x.testBit f.sign
  let e := x / 2 ^ f.fw % 2 ^ f.ew
  let fr := x % 2 ^ f.fw
  if e = 2 ^ f.ew - 1 then if fr = 0 then .inf neg else .nan (!fr.testBit (f.fw - 1))
  else if e = 0 then .num neg fr (f.emin - f.fw)
  else .num neg (2 ^ f.fw + fr) ((e : Int) - f.bias - f.fw)

/-- The sticky flags that an operation sets (02 R35). -/
structure Flags where
  nv : Bool := false
  dz : Bool := false
  of : Bool := false
  uf : Bool := false
  nx : Bool := false
  deriving DecidableEq, Repr

/-- The union of flags. -/
def Flags.or (a b : Flags) : Flags := ⟨a.nv || b.nv, a.dz || b.dz, a.of || b.of, a.uf || b.uf, a.nx || b.nx⟩

/-- What rounding delivers: the pattern, its flags, and whether it is ±L for a value beyond L (02 R51). -/
structure Rounded where
  bits : Nat
  flags : Flags := {}
  clamped : Bool := false
  deriving DecidableEq, Repr

/-- A magnitude m × 2^e as a multiple of 2^q, rounded under a mode, with what was lost (02 R34). -/
def quantum (mode : Nat) (neg : Bool) (m : Nat) (e q : Int) : Nat × Bool :=
  if q ≤ e then (m * 2 ^ (e - q).toNat, false)
  else
    let d := (q - e).toNat
    let k := m / 2 ^ d
    let r := m % 2 ^ d
    let up : Bool := match mode with
      | 0 => decide (2 ^ d < 2 * r) || (2 * r == 2 ^ d && k % 2 == 1)
      | 1 => false
      | 2 => !neg && r != 0
      | _ => neg && r != 0
    (if up then k + 1 else k, r != 0)

/-- `round(x, mode)` of a non-zero exact magnitude m × 2^e (02 R34), with the flags of 02 R35. -/
def Fmt.roundNum (f : Fmt) (mode : Nat) (neg : Bool) (m : Nat) (e : Int) : Rounded :=
  let top : Int := e + Nat.log2 m
  let q := (if top < f.emin then f.emin else top) - f.fw
  let (k, lost) := quantum mode neg m e q
  let body := ((q - (f.emin - f.fw)).toNat) * 2 ^ f.fw + k
  if f.inf ≤ body then
    let toInf : Bool := match mode with
      | 0 => true
      | 1 => false
      | 2 => !neg
      | _ => neg
    ⟨f.signed neg (if toInf then f.inf else f.max), { of := true, nx := true }, !toInf⟩
  else
    let tiny : Bool := decide (top < f.emin) &&
      decide ((quantum mode neg m e (top - f.fw)).1 < 2 ^ (f.emin - (top - f.fw)).toNat)
    let beyond : Bool := lost && body == f.max && decide (f.emin + f.bias + f.bias - 1 = top) &&
      decide (k * 2 ^ (q - e).toNat < m)
    ⟨f.signed neg body, { uf := tiny && lost, nx := lost }, beyond⟩

/-- An exact zero or a rounded number. -/
def Fmt.round (f : Fmt) (mode : Nat) (neg : Bool) (m : Nat) (e : Int) : Rounded :=
  if m = 0 then ⟨f.signed neg 0, {}, false⟩ else f.roundNum mode neg m e

/-- A value delivered in a format: NaN as the default NaN, infinities exactly, numbers rounded once. -/
def Fmt.deliver (f : Fmt) (mode : Nat) : Val → Rounded
  | .nan sn => ⟨f.nan, { nv := sn }, false⟩
  | .inf neg => ⟨f.signed neg f.inf, {}, false⟩
  | .num neg m e => f.round mode neg m e

/-! ### Exact arithmetic -/

/-- A value is a NaN. -/
def Val.isNan : Val → Bool
  | .nan _ => true
  | _ => false

/-- A value is a signalling NaN. -/
def Val.isSn : Val → Bool
  | .nan sn => sn
  | _ => false

/-- The sign of a value. -/
def Val.neg : Val → Bool
  | .nan _ => false
  | .inf n => n
  | .num n _ _ => n

/-- The value with its sign inverted. -/
def Val.negate : Val → Val
  | .nan sn => .nan sn
  | .inf n => .inf !n
  | .num n m e => .num (!n) m e

/-- A number as a signed multiple of 2^q, for q at or below its exponent. -/
def scaled (neg : Bool) (m : Nat) (e q : Int) : Int :=
  let k : Int := (m * 2 ^ (e - q).toNat : Nat)
  if neg then -k else k

/-- A result that may be invalid: the value, and whether the operation sets NV (02 R35). -/
structure Exact where
  val : Val
  nv : Bool := false
  dz : Bool := false
  deriving DecidableEq, Repr

/-- The default NaN, from an invalid operation or from NaN operands; a signalling operand sets NV. -/
def Exact.nan (nv : Bool) : Exact := ⟨.nan false, nv, false⟩

/-- Exact sum; an exact zero of opposite signs is −0 in mode 3 only (02 R34). -/
def Val.add (mode : Nat) (a b : Val) : Exact :=
  match a, b with
  | .nan x, .nan y => .nan (x || y)
  | .nan x, _ => .nan x
  | _, .nan y => .nan y
  | .inf x, .inf y => if x = y then ⟨.inf x, false, false⟩ else .nan true
  | .inf x, _ => ⟨.inf x, false, false⟩
  | _, .inf y => ⟨.inf y, false, false⟩
  | .num x m e, .num y n g =>
    let q := min e g
    let z := scaled x m e q + scaled y n g q
    if z = 0 then ⟨.num (if x = y then x else mode == 3) 0 q, false, false⟩
    else ⟨.num (decide (z < 0)) z.natAbs q, false, false⟩

/-- Exact product. -/
def Val.mul (a b : Val) : Exact :=
  match a, b with
  | .nan x, .nan y => .nan (x || y)
  | .nan x, _ => .nan x
  | _, .nan y => .nan y
  | .inf x, .inf y => ⟨.inf (x != y), false, false⟩
  | .inf x, .num y n _ => if n = 0 then .nan true else ⟨.inf (x != y), false, false⟩
  | .num x m _, .inf y => if m = 0 then .nan true else ⟨.inf (x != y), false, false⟩
  | .num x m e, .num y n g => ⟨.num (x != y) (m * n) (e + g), false, false⟩

/-- a × b + c in one exact value; an invalid product sets NV even where c is a quiet NaN (07 R131). -/
def Val.fma (mode : Nat) (a b c : Val) : Exact :=
  let p := a.mul b
  let t := p.val.add mode c
  { t with nv := t.nv || p.nv }

/-- A quotient to enough bits that one more rounding is the exact quotient's: its last bit is sticky. -/
def Val.div (a b : Val) : Exact :=
  match a, b with
  | .nan x, .nan y => .nan (x || y)
  | .nan x, _ => .nan x
  | _, .nan y => .nan y
  | .inf _, .inf _ => .nan true
  | .inf x, .num y _ _ => ⟨.inf (x != y), false, false⟩
  | .num x _ _, .inf y => ⟨.num (x != y) 0 0, false, false⟩
  | .num x m e, .num y n g =>
    if n = 0 then if m = 0 then .nan true else ⟨.inf (x != y), false, true⟩
    else
      let k := 64 + Nat.log2 n
      let t := m * 2 ^ k
      ⟨.num (x != y) (2 * (t / n) + (if t % n = 0 then 0 else 1)) (e - g - k - 1), false, false⟩

/-- The integer square root of `x`, from bit `n` down. -/
def isqrt (x : Nat) : Nat → Nat → Nat
  | 0, r => r
  | n + 1, r => isqrt x n (if (r + 2 ^ n) * (r + 2 ^ n) ≤ x then r + 2 ^ n else r)

/-- A square root to enough bits, its last bit sticky (07 R131). -/
def Val.sqrt (a : Val) : Exact :=
  match a with
  | .nan x => .nan x
  | .inf x => if x then .nan true else ⟨.inf false, false, false⟩
  | .num x m e =>
    if m = 0 then ⟨.num x 0 0, false, false⟩
    else if x then .nan true
    else
      let odd : Nat := (e % 2).toNat
      let t := m * 2 ^ (128 + odd)
      let r := isqrt t (Nat.log2 t / 2 + 1) 0
      ⟨.num false (2 * r + (if r * r = t then 0 else 1)) ((e - odd - 128) / 2 - 1), false, false⟩

/-- An exact result in a format, with all flags. -/
def Fmt.finish (f : Fmt) (mode : Nat) (x : Exact) : Nat × Flags :=
  let r := f.deliver mode x.val
  (r.bits, r.flags.or { nv := x.nv, dz := x.dz })

/-- Order of two numbers or infinities: `a < b`, with −0 equal to +0. -/
def Val.lt (a b : Val) : Bool :=
  match a, b with
  | .nan _, _ => false
  | _, .nan _ => false
  | .inf x, .inf y => x && !y
  | .inf x, _ => x
  | _, .inf y => !y
  | .num x m e, .num y n g => decide (scaled x m e (min e g) < scaled y n g (min e g))

/-- Equality of two numbers or infinities, with −0 equal to +0. -/
def Val.eq (a b : Val) : Bool :=
  match a, b with
  | .nan _, _ => false
  | _, .nan _ => false
  | .inf x, .inf y => x == y
  | .inf _, _ => false
  | _, .inf _ => false
  | .num x m e, .num y n g => decide (scaled x m e (min e g) = scaled y n g (min e g))

/-- The smaller or larger of two patterns, bit for bit; −0 is below +0 (07 R131). -/
def Fmt.minMax (f : Fmt) (larger : Bool) (a b : Nat) : Nat × Flags :=
  let x := f.val a
  let y := f.val b
  if x.isNan || y.isNan then (f.nan, { nv := x.isSn || y.isSn })
  else
    let below := x.lt y || (x.eq y && x.neg && !y.neg)
    (if below == larger then b else a, {})

/-- The class word of a pattern (07 R131). -/
def Fmt.classOf (f : Fmt) (a : Nat) : Nat :=
  match f.val a with
  | .nan sn => if sn then 2 ^ 8 else 2 ^ 9
  | .inf n => if n then 1 else 2 ^ 7
  | .num n _ _ =>
    let e := a / 2 ^ f.fw % 2 ^ f.ew
    let fr := a % 2 ^ f.fw
    if e = 0 then if fr = 0 then (if n then 2 ^ 3 else 2 ^ 4) else if n then 2 ^ 2 else 2 ^ 5
    else if n then 2 else 2 ^ 6

/-! ### Integers and floats (02 R36) -/

/-- The exact value of an integer. -/
def Val.ofInt (i : Int) : Val := .num (decide (i < 0)) i.natAbs 0

/-- A value as an integer between bounds: the nearest bound beyond the range, 0 for NaN; both set NV (02 R36). DESIGN CHOICE: they
set no NX beside it, whether or not the bound differs from the exact value (02 R35, log entry 57). The last component tells a
value that was out of range. -/
def Val.toIntIn (mode : Nat) (lo hi : Int) (x : Val) : Int × Flags × Bool :=
  match x with
  | .nan _ => (0, { nv := true }, false)
  | .inf n => (if n then lo else hi, { nv := true }, true)
  | .num n m e =>
    let (k, lost) := quantum mode n m e 0
    let z : Int := if n then -(k : Int) else k
    if z < lo then (lo, { nv := true }, true)
    else if hi < z then (hi, { nv := true }, true)
    else (z, { nx := lost }, false)

/-! ### The table formats (02 R37-R42) -/

/-- The entries N of a table: 128 for q8, 8 for q4. -/
def tableSize (q8 : Bool) : Nat := if q8 then 128 else 8

/-- NAN of an entry. -/
def entryNan (e : Nat) : Bool := bit e 19

/-- VAL of an entry. -/
def entryVal (e : Nat) : Nat := e % 2 ^ 19

/-- The F19 pattern of k × 2^e, exact. -/
def f19Of (k : Nat) (e : Int) : Nat := (f19.round 0 false k e).bits

/-- An entry of the E4M3 preset (02 R42). -/
def e4m3Entry (c : Nat) : Nat :=
  if c < 8 then f19Of c (-9) else if c < 127 then f19Of (8 + c % 8) ((c / 8 : Nat) - 10) else 2 ^ 19

/-- An entry of the E2M1 preset (02 R42). -/
def e2m1Entry (c : Nat) : Nat := f19Of (([0, 1, 2, 3, 4, 6, 8, 12] : List Nat).getD c 0) (-1)

/-- The preset that an all-zero table behaves as (02 R37). -/
def presetTable (q8 : Bool) : List Nat := (List.range (tableSize q8)).map (if q8 then e4m3Entry else e2m1Entry)

/-- The table in force for an image. -/
def tableOf (q8 : Bool) (image : List (BitVec 32)) : List Nat :=
  if image.all (· == 0) then presetTable q8 else image.map BitVec.toNat

/-- An entry alone breaks a rule of 02 R38, given the highest value before it (none before the first). -/
def entryBad (i e : Nat) (before : Option Nat) : Bool :=
  bits e 31 20 != 0 ||
  (if i = 0 then e != 0
   else !entryNan e && (bit e 18 || (f19.val (entryVal e)).isNan || before.any fun b => decide (entryVal e ≤ b)))

/-- A +∞ entry with a finite or infinite entry after it, which is not the highest-indexed one with NAN = 0. -/
def infBad (e : Nat) (later : List Nat) : Bool := !entryNan e && entryVal e == f19.inf && later.any fun x => !entryNan x

/-- The lowest entry from `i` that breaks a rule of 02 R38. -/
def badFrom : Nat → Option Nat → List Nat → Option Nat
  | _, _, [] => none
  | i, before, e :: t =>
    if entryBad i e before || infBad e t then some i
    else badFrom (i + 1) (if entryNan e then before else some (entryVal e)) t

/-- The lowest entry that breaks a rule of 02 R38; entry 1 where entry 0 is the only finite entry. Log entry 10. -/
def tableBad (image : List (BitVec 32)) : Option Nat :=
  let t := image.map BitVec.toNat
  match badFrom 0 none t with
  | some i => some i
  | none => if (t.filter fun e => !entryNan e && entryVal e != f19.inf).length < 2 then some 1 else none

/-- Decoding a code gives an F19 pattern (02 R39). -/
def decodeCode (q8 : Bool) (t : List Nat) (c : Nat) : Nat :=
  let n := tableSize q8
  let e := t.getD (c % n) 0
  if entryNan e then f19.nan else entryVal e + (if n ≤ c then 2 ^ 18 else 0)

/-- The finite entries of a table with their indices. -/
def finiteEntries (t : List Nat) : List (Nat × Nat) :=
  (t.zipIdx.filter fun e => !entryNan e.1 && entryVal e.1 != f19.inf).map fun e => (e.2, entryVal e.1)

/-- A non-negative F19 number as a multiple of 2^−137. -/
def f19Scaled (v : Nat) : Nat :=
  match f19.val v with
  | .num _ m e => m * 2 ^ (e + 137).toNat
  | _ => 0

/-- The nearest finite entry to m × 2^e: on a tie the even index, else the lower (02 R40). -/
def nearestEntry (m : Nat) (e : Int) : List (Nat × Nat) → Nat
  | [] => 0
  | (i, v) :: t =>
    let q := min e (-137)
    let x := scaled false m e q
    let dist := fun w => (x - scaled false (f19Scaled w) (-137) q).natAbs
    (t.foldl (fun (b : Nat × Nat) (c : Nat × Nat) =>
      let d0 := dist b.2
      let d1 := dist c.2
      if d1 < d0 then c
      else if d1 = d0 then (if c.1 % 2 = 0 ∧ b.1 % 2 = 1 then c else b)
      else b) (i, v)).1

/-- The outcome of an encode (02 R41). -/
inductive Counted where
  | nothing
  | sat
  | ftz
  | nan
  deriving DecidableEq, Repr

/-- One outcome as counts. -/
def Counted.counts : Counted → Counts
  | .nothing => {}
  | .sat => { sat := 1 }
  | .ftz => { ftz := 1 }
  | .nan => { nan := 1 }

/-- Encoding an exact value (02 R40), with what it counts (02 R41, R51). -/
def encodeVal (q8 qsat : Bool) (t : List Nat) (x : Val) : Nat × Counted :=
  let n := tableSize q8
  let nanCode := t.findIdx? entryNan
  let infCode := t.findIdx? fun e => !entryNan e && entryVal e == f19.inf
  let fin := finiteEntries t
  let m := fin.getLastD (0, 0)
  let p := (fin.dropLast).getLastD (0, 0)
  let u := 3 * f19Scaled m.2 - f19Scaled p.2
  let s := if x.neg then n else 0
  let outOfRange : Nat × Counted :=
    if qsat || (infCode.isNone && nanCode.isNone) then (s + m.1, .sat)
    else match infCode with
      | some i => (s + i, .nothing)
      | none => (nanCode.getD 0, .nan)
  match x with
  | .nan _ => (nanCode.getD 0, .nan)
  | .inf _ => outOfRange
  | .num _ k e =>
    let q := min e (-138)
    if scaled false u (-138) q ≤ scaled false k e q then outOfRange
    else
      let c := nearestEntry k e fin
      (s + c, if k ≠ 0 ∧ c = 0 then .ftz else .nothing)

/-! ### Block scales (02 R43) -/

/-- An element times an e8 scale, formed exactly; a scale of 0xFF makes it NaN. -/
def scaleVal (x : Val) (e8 : Nat) : Val :=
  if e8 = 255 then .nan false
  else match x with
    | .num n m e => .num n m (e + (e8 : Int) - 127)
    | v => v

end Sys2Proof.Machine
end

