-- ==== Sys2Proof/Machine/Flags.lean ====
section
/-! DEFINITION. The flag computations: CFLAGS (01 R18, 02 R35). -/

namespace Sys2Proof.Machine

/-- The CFLAGS bits that flags set: NX 8, UF 7, OF 6, DZ 5, NV 4 (01 R18). -/
def Flags.word (f : Flags) : Word :=
  (if f.nv then 0x10 else 0) ||| (if f.dz then 0x20 else 0) ||| (if f.of then 0x40 else 0) |||
    (if f.uf then 0x80 else 0) ||| (if f.nx then 0x100 else 0)

/-- Sticky flags of a context are set, never cleared (01 R18). -/
def State.raiseAt (s : State) (r : CtxRef) (f : Flags) : State :=
  s.modWsOf r fun w => { w with cflags := w.cflags ||| f.word }

/-- Sticky flags of the executing context are set. -/
def State.raise (s : State) (f : Flags) : State := s.raiseAt s.cur f

/-- A write of FPCTL, CFLAGS[8:0]; the reserved bits are ignored (01 R18, R24). -/
def fpctlWrite (v : Word) : Word := v &&& 0x1F7

end Sys2Proof.Machine
end

