-- ==== Sys2Proof/Machine/Atomics.lean ====
section
/-! DEFINITION. Acquire loads, release stores, atomic operations and fences (15 R284-R291, 11 R223). A read is performed
when its instruction issues, so that an acquire orders only what the releases that it reads still owe; a release performs
the core's earlier writes first, or owes them to the agents of a scope below `.dev` (log entry 5). -/

namespace Sys2Proof.Machine

/-- `lda`: rd ← mem(EA, 4 or 8, sc), an acquire (15 R285). -/
def execLda (rd ra : Reg) (sc : Fin 8) (wd : Fin 2) (s : State) : Outcome :=
  let ea := s.getW ra
  settle s <|
    if aligned ea (wdBytes wd) then do
      let (bs, t) ← s.load ea (wdBytes wd) (some sc.val)
      return t.retire rd (sbytes bs)
    else misalign ea .read

/-- `str`: a release at sc, then mem(EA, 4 or 8, sc) ← W(rb) (15 R285). -/
def execStr (ra rb : Reg) (sc : Fin 8) (wd : Fin 2) (s : State) : Outcome :=
  let ea := s.getW ra
  let bs := toBytes (wdBytes wd) (s.getW rb).toNat
  settle s <|
    if aligned ea (wdBytes wd) then do
      let _ ← s.store ea bs 0xFF (some sc.val)
      let t ← (s.releaseWith sc.val).store ea bs 0xFF (some sc.val)
      return t.advance
    else misalign ea .write

/-- The read of an atomic operation after its checks, and after its release where it has one (15 R287). -/
def State.atomBegin (s : State) (ea : Word) (n : Nat) (acq rel : Option Nat) :
    Except Stop (List Byte × List Run × State) :=
  if aligned ea n then do
    let _ ← s.atomRead ea n acq
    (match rel with
      | some sc => s.releaseWith sc
      | none => s).atomRead ea n acq
  else misalign ea .amo

/-- The scope of an acquire or release bit. -/
def orderAt (b : Fin 2) (sc : Fin 8) : Option Nat := if b = 1 then some sc.val else none

/-- Host memory performs only FetchAdd, Swap and CAS (15 R290). -/
def hostAtomic (ea : Word) (ok : Bool) (rs : List Run) : Except Stop Unit :=
  if !ok && rs.any (·.space == .host) then .error (.sys 0x03 ea ea .amo) else .ok ()

/-- An atomic operation of `n` bytes: the new value of the old one, and what rd receives (15 R286, R287). -/
def State.amo (s : State) (rd ra : Reg) (sc : Fin 8) (aq rl : Fin 2) (n : Nat) (hostOk : Bool) (new : Nat → Nat)
    (res : List Byte → Word) : Res := do
  let ea := s.getW ra
  let rel := orderAt rl sc
  let (bs, rs, t) ← s.atomBegin ea n (orderAt aq sc) rel
  hostAtomic ea hostOk rs
  return (t.atomWrite rs (toBytes n (new (ofBytes bs))) rel).retire rd (res bs)

/-- The signed value of a pattern of `n` bytes. -/
def signedOf (n x : Nat) : Int := (BitVec.ofNat (8 * n) x).toInt

/-- `amoadd`: the new value is o + b, wrapping; rd ← the old one (15 R286). -/
def execAmoadd (rd ra rb : Reg) (sc : Fin 8) (aq rl wd : Fin 2) (s : State) : Outcome :=
  let n := wdBytes wd
  let b := (s.getW rb).toNat % 2 ^ (8 * n)
  settle s (s.amo rd ra sc aq rl n true (fun o => o + b) sbytes)

/-- `amoswap`: the new value is b; rd ← the old one (15 R286). -/
def execAmoswap (rd ra rb : Reg) (sc : Fin 8) (aq rl wd : Fin 2) (s : State) : Outcome :=
  let n := wdBytes wd
  let b := (s.getW rb).toNat % 2 ^ (8 * n)
  settle s (s.amo rd ra sc aq rl n true (fun _ => b) sbytes)

/-- `amoand`: the new value is o and b; rd ← the old one (15 R286). -/
def execAmoand (rd ra rb : Reg) (sc : Fin 8) (aq rl wd : Fin 2) (s : State) : Outcome :=
  let n := wdBytes wd
  let b := (s.getW rb).toNat % 2 ^ (8 * n)
  settle s (s.amo rd ra sc aq rl n false (fun o => o &&& b) sbytes)

/-- `amoor`: the new value is o or b; rd ← the old one (15 R286). -/
def execAmoor (rd ra rb : Reg) (sc : Fin 8) (aq rl wd : Fin 2) (s : State) : Outcome :=
  let n := wdBytes wd
  let b := (s.getW rb).toNat % 2 ^ (8 * n)
  settle s (s.amo rd ra sc aq rl n false (fun o => o ||| b) sbytes)

/-- `amoxor`: the new value is o xor b; rd ← the old one (15 R286). -/
def execAmoxor (rd ra rb : Reg) (sc : Fin 8) (aq rl wd : Fin 2) (s : State) : Outcome :=
  let n := wdBytes wd
  let b := (s.getW rb).toNat % 2 ^ (8 * n)
  settle s (s.amo rd ra sc aq rl n false (fun o => o ^^^ b) sbytes)

/-- `amomin`: the new value is the signed smaller; rd ← the old one (15 R286). -/
def execAmomin (rd ra rb : Reg) (sc : Fin 8) (aq rl wd : Fin 2) (s : State) : Outcome :=
  let n := wdBytes wd
  let b := (s.getW rb).toNat % 2 ^ (8 * n)
  settle s (s.amo rd ra sc aq rl n false (fun o => if signedOf n b < signedOf n o then b else o) sbytes)

/-- `amomax`: the new value is the signed larger; rd ← the old one (15 R286). -/
def execAmomax (rd ra rb : Reg) (sc : Fin 8) (aq rl wd : Fin 2) (s : State) : Outcome :=
  let n := wdBytes wd
  let b := (s.getW rb).toNat % 2 ^ (8 * n)
  settle s (s.amo rd ra sc aq rl n false (fun o => if signedOf n o < signedOf n b then b else o) sbytes)

/-- `amominn`: the new value is the natural smaller; rd ← the old one (15 R286). -/
def execAmominn (rd ra rb : Reg) (sc : Fin 8) (aq rl wd : Fin 2) (s : State) : Outcome :=
  let n := wdBytes wd
  let b := (s.getW rb).toNat % 2 ^ (8 * n)
  settle s (s.amo rd ra sc aq rl n false (fun o => Nat.min o b) zbytes)

/-- `amomaxn`: the new value is the natural larger; rd ← the old one (15 R286). -/
def execAmomaxn (rd ra rb : Reg) (sc : Fin 8) (aq rl wd : Fin 2) (s : State) : Outcome :=
  let n := wdBytes wd
  let b := (s.getW rb).toNat % 2 ^ (8 * n)
  settle s (s.amo rd ra sc aq rl n false (fun o => Nat.max o b) zbytes)

/-- `amocas`: the new value is b where the old one equals W(rd) at the width, read before rd is written (15 R286). -/
def execAmocas (rd ra rb : Reg) (sc : Fin 8) (aq rl wd : Fin 2) (s : State) : Outcome :=
  let n := wdBytes wd
  let b := (s.getW rb).toNat % 2 ^ (8 * n)
  let e := (s.getW rd).toNat % 2 ^ (8 * n)
  settle s (s.amo rd ra sc aq rl n true (fun o => if o = e then b else o) sbytes)

/-- A release by an atomic operation to a core's TCM sets that core's latches even where nothing is written. -/
def State.wakeRuns (s : State) (rs : List Run) (rel : Option Nat) : State :=
  if rel.isSome then rs.foldl (fun s r => match r.space with
    | .tcm g => s.wake g
    | _ => s) s
  else s

/-- `amocasq`: 16 bytes become W(rb), W(rb+1) where they equal W(rd), W(rd+1); rd, rd+1 ← the old bytes (15 R288). -/
def execAmocasq (rd ra rb : Reg) (sc : Fin 8) (aq rl : Fin 2) (s : State) : Outcome :=
  let ea := s.getW ra
  let rel := orderAt rl sc
  let e := (s.getW rd).toNat + (s.getW (rd + 1)).toNat * 2 ^ 64
  let n := (s.getW rb).toNat + (s.getW (rb + 1)).toNat * 2 ^ 64
  settle s do
    let (bs, rs, t) ← s.atomBegin ea 16 (orderAt aq sc) rel
    hostAtomic ea false rs
    let t := if ofBytes bs = e then t.atomWrite rs (toBytes 16 n) rel else t.wakeRuns rs rel
    return ((t.setW rd (zbytes (bs.take 8))).setW (rd + 1) (zbytes (bs.drop 8))).advance

/-- A task record (10 R192) is well formed: its reserved bits are 0. -/
def taskOk (w0 : Word) : Bool := bits w0.toNat 31 21 == 0 && bits w0.toNat 7 6 == 0

/-- CORE of a task record. -/
def taskCore (w0 : Word) : Nat := bits w0.toNat 20 8

/-- A core belongs to the team of another core. -/
def State.sameTeam (s : State) (g h : Nat) : Bool := Team.hasClu (s.teamOf g) (cluOfCore h)

/-- What the zeroing of a dependency object causes (11 R223): RECORD is read and its push is sent, or REMOTE_ERROR is
charged where it is malformed or names a core outside the team. `tags` is what the push's release owes (15 R278). DESIGN CHOICE: where
RECORD cannot be read, that cause is charged with the failing byte's address (log entry 19). -/
def State.zeroed (s : State) (a : Word) (tags : List Tag) : State :=
  let r := s.cur
  match s.agentRead (s.whoAgent r.core) (a + 16) 16 with
  | .error b => s.charge { s.record r b.cause .network 0 b.addr b.addr .read with word := s.curWord }
  | .ok (bs, s) =>
    match wordsOf bs with
    | [w0, w1] =>
      if taskOk w0 && s.sameTeam r.core (taskCore w0) then
        s.modDev fun v => { v with pushes := v.pushes ++ [⟨w0, w1, r.core, r.ctx, taskCore w0, a, tags⟩] }
      else s.charge { s.record r 0x12 .network 0 a a .none with word := s.curWord }
    | _ => s

/-- `amodecp`: COUNT of the dependency object becomes o − b; RECORD is pushed exactly when it becomes 0 and o ≠ 0
(15 R286, R288, 11 R223). -/
def execAmodecp (rd ra rb : Reg) (sc : Fin 8) (aq rl wd : Fin 2) (s : State) : Outcome :=
  let n := wdBytes wd
  let ea := s.getW ra
  let rel := orderAt rl sc
  let b := (s.getW rb).toNat % 2 ^ (8 * n)
  settle s <|
    if aligned ea 32 then do
      let (bs, rs, t) ← s.atomBegin ea n (orderAt aq sc) rel
      hostAtomic ea false rs
      let o := ofBytes bs
      let x := (o + 2 ^ (8 * n) - b) % 2 ^ (8 * n)
      let t := t.atomWrite rs (toBytes n x) rel
      let t := if x = 0 ∧ o ≠ 0 then t.zeroed ea (t.writeTags s.cur.core rel) else t
      return t.retire rd (zbytes bs)
    else misalign ea .amo

/-- An atomic floating-point add in a format under RM; its flags are merged into CFLAGS (15 R289). -/
def State.amoFadd (s : State) (rd ra rb : Reg) (sc : Fin 8) (aq rl : Fin 2) (f : Fmt) (n : Nat) : Res := do
  let ea := s.getW ra
  let rel := orderAt rl sc
  let rm := s.cx.ws.rm
  let b := (s.getW rb).toNat % 2 ^ (8 * n)
  let (bs, rs, t) ← s.atomBegin ea n (orderAt aq sc) rel
  hostAtomic ea false rs
  let (x, fl) := f.finish rm ((f.val (ofBytes bs)).add rm (f.val b))
  return ((t.atomWrite rs (toBytes n x) rel).raise fl).retire rd (zbytes bs)

/-- `amofadd.s`: round(o + b, RM) in FP32 (15 R289). -/
def execAmofaddS (rd ra rb : Reg) (sc : Fin 8) (aq rl : Fin 2) (s : State) : Outcome :=
  settle s (s.amoFadd rd ra rb sc aq rl fp32 4)

/-- `amofadd.d`: round(o + b, RM) in FP64 (15 R289). -/
def execAmofaddD (rd ra rb : Reg) (sc : Fin 8) (aq rl : Fin 2) (s : State) : Outcome :=
  settle s (s.amoFadd rd ra rb sc aq rl fp64 8)

/-- `fence`: where a kind names earlier writes (`.sl`, `.ss`) they are performed first toward the agents of the module, and
the drain bit performs the posted ones and brings them to the host; reads are performed in order already (15 R281, R291). -/
def execFence (_sc : Fin 8) (kinds : Fin 32) (s : State) : Outcome :=
  let writes := bit kinds.val 2 || bit kinds.val 3
  let drain := bit kinds.val 4
  let t := s.performSome s.cur.core fun w => w.agent != .copy && (writes || (drain && w.posted))
  .next (if drain then t.pushSome fun w => w.core == s.cur.core else t).advance

end Sys2Proof.Machine
end

