-- ==== Sys2Proof/Machine/Sys.lean ====
section
/-! DEFINITION. The system instructions (06 R115-R125), an ILLEGAL word (03 R63) and what the end of a firing causes at
its source (10 R191, 11 R207, R212). -/

namespace Sys2Proof.Machine

/-- An ILLEGAL word: the system-level fault ILLEGAL with EVAL = the word and no effect (03 R63). -/
def execIllegalWord (w : BitVec 32) (s : State) : Outcome :=
  .next ({ s with curWord := w }.sysFault 0x01 (w.setWidth 64) 0 .none)

/-- `nop` has no effect (06 R124). -/
def execNop (s : State) : Outcome := .next s.advance

/-- `yield`: ctx1-ctx3 goes last in round-robin order; nothing in ctx0 (06 R117). -/
def execYield (s : State) : Outcome :=
  .next (if s.cur.ctx = 0 then s.advance else (s.modMe fun k => { k with rrLast := s.cur.ctx }).advance)

/-- `trap`: the user-level trap TRAP with EVAL = code and EPC = IA + 4 (06 R119). -/
def execTrap (code : BitVec 12) (s : State) : Outcome := .next (s.userTrap 0x10 (code.setWidth 64) (s.ia + 4))

/-- `tret`: PC ← EPC, UTA ← 0; ILLEGAL with EVAL = the word where UTA is 0 (06 R120). -/
def execTret (s : State) : Outcome :=
  settle s (if s.cx.ws.ecause.getLsbD 63 then .ok s.returnTrap else illegal (s.curWord.setWidth 64))

/-- `brk`: in INVASIVE the context halts, to go on at IA + 4; else the system-level fault BRK (06 R121, 24 R401). -/
def execBrk (code : BitVec 12) (s : State) : Outcome :=
  if s.dev.debug = .invasive then
    .next (s.modCx fun x =>
      { x with
        ws := { x.ws with epc := x.ws.pc, eval := code.setWidth 64, ecause := withCause x.ws.ecause 0x0F, pc := x.ws.pc + 4 }
        halted := true, haltedAt := s.now, fp := false })
  else .next (s.sysFault 0x0F (code.setWidth 64) 0 .none)

/-! ### The end of a firing -/

/-- VN of a header (11 R204). -/
def hdrVn (h : Word) : Bool := h.getLsbD 50

/-- The payload window closes (11 R212): its slot is free, and a reply's credit is back (11 R207). -/
def Core.closeWindow (k : Core) : Core :=
  match k.net.openMsg with
  | some m =>
    if m.window then
      { k with net := { k.net with
          openMsg := some { m with window := false }
          credits := if hdrVn m.arrival.hdr then k.net.credits + 1 else k.net.credits } }
    else k
  | none => k

/-- A credit-only return is on its way to a core (11 R207). -/
def State.returnCredit (s : State) (g : Nat) : State :=
  s.modCore g fun k => { k with net := { k.net with creditReturns := k.net.creditReturns + 1 } }

/-- The message firing of ctx0 ends (11 R207, R212): the window closes, a request that was not replied to sends a
credit-only return, and MSGHDR and MSGSRC read 0. -/
def State.endMessage (s : State) (g : Nat) : State :=
  match (s.core g).net.openMsg with
  | none => s
  | some m =>
    let s := s.modCore g fun k =>
      let k := k.closeWindow
      { k with net := { k.net with openMsg := none }, msghdr := 0, msgsrc := 0 }
    if !hdrVn m.arrival.hdr && !m.replied then s.returnCredit m.arrival.src else s

/-- The actor whose firing a context ran copies its descriptors back and re-arms, or disarms (10 R191). -/
def Core.endActor (k : Core) (c : CtxId) : Core :=
  match (k.ctx c).actorSlot with
  | none => k
  | some i =>
    let back := fun (x : Fin 8 × BitVec 128) => (x.1, (k.ctx c).ws.cb[x.1])
    let a := k.actors[i]
    let a := { a with cbs := a.cbs.map back, firing := false, armed := a.armed && !a.off, off := false }
    ({ k with actors := k.actors.set i.val a i.isLt }).modCtx c fun x => { x with actorSlot := none }

/-- `done`: the firing ends; the context is free, UTA and FP are 0, and its source learns of it (06 R116, 07 R143,
10 R189, R191, 11 R212). -/
def execDone (s : State) : Outcome :=
  let s := if s.cur.ctx = 0 then s.endMessage s.cur.core else s
  let s := s.modMe fun k => k.endActor s.cur.ctx
  .next ((s.modCx fun x =>
    { x with firing := false, fp := false, firingReg := x.firingReg &&& ~~~7
             ws := { x.ws with ecause := x.ws.ecause &&& 0x7FFFFFFFFFFFFFFF } }).advance)

/-! ### Waits on latches and the Lantern queue -/

/-- `wfe`'s condition: the event latch is set; it is then cleared (06 R123). -/
def State.tryWfe (s : State) : Attempt :=
  .ok (if s.cx.evl then some (s.modCx fun x => { x with evl := false }).advance else none)

/-- `wfe`: waits until the context's event latch is set, then clears it (06 R123). -/
def execWfe (s : State) : Outcome := settle s (s.waitOn .wfe 0 true s.tryWfe)

/-- The commands of the executing core that have not retired (06 R125). -/
def State.unretired (s : State) : Nat := (s.cmdQueue s.cur.core).cmds.length

/-- `mqwait`'s condition (06 R125). -/
def State.tryMqwait (s : State) (n : Nat) : Attempt := .ok (if s.unretired ≤ n then some s.advance else none)

/-- `mqwait`: waits until at most n commands of the core's Lantern queue have not retired (06 R125). -/
def execMqwait (n : Fin 16) (s : State) : Outcome :=
  settle s (s.waitOn (.mqwait n.val) (BitVec.ofNat 64 s.unretired) true (s.tryMqwait n.val))

/-! ### Changing the workspace -/

/-- A workspace stops being active: its register image reaches TCM (01 R23). -/
def State.flushWs (s : State) (r : CtxRef) : State :=
  let x := s.ctx r
  let put := fun (m : Memory) (o : Nat) => Memory.write m (tcmPlace r.core (x.wpOff + o)) (x.ws.byte o)
  { s with mem := ((List.range 1528).map (· + 8)).foldl put s.mem }

/-- The workspace that the bytes at an offset of a core's TCM hold. -/
def State.loadWs (s : State) (g off : Nat) : Workspace :=
  Workspace.ofBytes ((List.range 1536).map fun i => Memory.read s.mem (tcmPlace g (off + i)))

/-- An address may become a context's WP (01 R14): aligned, in own TCM with all 1,536 bytes, and clear of the other
contexts' active workspaces. -/
def Core.wpOk (k : Core) (c : CtxId) (n : Word) : Bool :=
  let a := n.toNat
  let clear := fun (m : CtxId) =>
    let w := (k.ctx m).wp.toNat
    m == c || !(k.ctx m).active || decide (w + 1536 ≤ a) || decide (a + 1536 ≤ w)
  a % 64 == 0 && decide (0x8000000000000000 ≤ a) && decide (a ≤ 0x800000000007FA00) && ([0, 1, 2, 3] : List CtxId).all clear

/-- `wpswap`: the context exchanges its workspace for the one at W(ra); rd of the new one receives the previous WP
(06 R122). -/
def execWpswap (rd ra : Reg) (s : State) : Outcome :=
  let n := s.getW ra
  let old := s.cx.wp
  settle s <|
    if !s.me.wpOk s.cur.ctx n then .error (.sys 0x11 n n .none)
    else if n = old then .ok (s.retire rd old)
    else
      let s := (s.modWs fun w => { w with pc := w.pc + 4 }).flushWs s.cur
      let ws := s.loadWs s.cur.core (n.toNat % 0x80000)
      let s := (s.modCx fun x => { x with wp := n, ws := ws, past := [], resume := false, refusals := 0 }).setW rd old
      .ok s

end Sys2Proof.Machine
end

