-- ==== Sys2Proof/Machine/Lanes.lean ====
section
/-! DEFINITION. Lanes, masks and the vector unit (03 R57-R59, 07 R140). -/

namespace Sys2Proof.Machine

/-- The width of a type code (03 R57). -/
def dtWidth (dt : Nat) : Nat := ([8, 16, 32, 64, 8, 16, 32, 64, 4, 8, 16, 16, 32, 64, 8] : List Nat).getD dt 64

/-- The lanes of a type code. -/
def dtLanes (dt : Nat) : Nat := 512 / dtWidth dt

/-- The floating-point format of type codes 10 to 13. -/
def dtFmt (dt : Nat) : Fmt := if dt = 10 then bf16 else if dt = 11 then fp16 else if dt = 12 then fp32 else fp64

/-- A type code is signed (02 R29). -/
def dtSigned (dt : Nat) : Bool := decide (dt < 4)

/-- `lane(v, i, t)` for width `w`. -/
def lane (v : VWord) (w i : Nat) : Nat := v.toNat / 2 ^ (w * i) % 2 ^ w

/-- A number from lanes of width `w`, lane 0 lowest. -/
def joinLanes (w : Nat) : List Nat → Nat
  | [] => 0
  | x :: t => x % 2 ^ w + 2 ^ w * joinLanes w t

/-- A vector from lanes of width `w`; missing lanes are 0. -/
def ofLanes (w : Nat) (xs : List Nat) : VWord := BitVec.ofNat 512 (joinLanes w xs)

/-- The lane's value as an integer, signed or natural. -/
def laneInt (sg : Bool) (w x : Nat) : Int := if sg && x.testBit (w - 1) then (x : Int) - 2 ^ w else x

/-- An integer kept to its low `w` bits. -/
def wrapInt (w : Nat) (x : Int) : Nat := (x % 2 ^ w).toNat

/-- The range of an integer type. -/
def rangeOf (sg : Bool) (w : Nat) : Int × Int := if sg then (-(2 ^ (w - 1)), 2 ^ (w - 1) - 1) else (0, 2 ^ w - 1)

/-- An integer clamped to a range. -/
def clampInt (r : Int × Int) (x : Int) : Int := if x < r.1 then r.1 else if r.2 < x then r.2 else x

/-- A lane is active: unmasked, or its mask bit is 1 (03 R59). -/
def State.active (s : State) (vm : VReg) (i : Nat) : Bool := vm == 0 || (s.getV vm).getLsbD i

/-- The lanes of a destination: active ones computed, inactive ones kept or all ones (03 R59). -/
def mergeLanes (w n : Nat) (old : VWord) (act : Nat → Bool) (ones : Bool) (f : Nat → Nat) : VWord :=
  ofLanes w ((List.range n).map fun i => if act i then f i else if ones then 2 ^ w - 1 else lane old w i)

/-- The union of the flags of the active lanes. -/
def unionFlags (n : Nat) (act : Nat → Bool) (f : Nat → Flags) : Flags :=
  (List.range n).foldl (fun a i => if act i then a.or (f i) else a) {}

/-- The vector unit is occupied for one cycle, or for a free number of cycles up to a bound (07 R140); bound 0 is open. -/
def State.vecBusy (s : State) (bound : Nat) : State :=
  if bound = 1 then s.count s.cur 3 1
  else
    let n := 1 + (if bound = 0 then Config.occupancy s.freeCtr else Config.occupancy s.freeCtr % bound)
    (s.count s.cur 3 n).modMe fun k => { k with vecUntil := s.now + n }

/-- A vector result is written and the context moves on. -/
def State.vretire (s : State) (vd : VReg) (v : VWord) (bound : Nat := 1) : State :=
  ((s.setV vd v).vecBusy bound).advance

/-- A lane-wise instruction on integer patterns: sources and mask are read before vd is written. -/
def State.lanewise (s : State) (vd : VReg) (vm : VReg) (mp : Fin 2) (w : Nat) (f : Nat → Nat) : Outcome :=
  .next (s.vretire vd (mergeLanes w (512 / w) (s.getV vd) (s.active vm) (mp == 1) f))

/-- A lane-wise floating-point instruction, with the union of its active lanes' flags (07 R130, R131). -/
def State.lanewiseF (s : State) (vd : VReg) (vm : VReg) (mp : Fin 2) (dt : Nat) (bound : Nat) (f : Nat → Nat × Flags) :
    Outcome :=
  let w := dtWidth dt
  let v := mergeLanes w (dtLanes dt) (s.getV vd) (s.active vm) (mp == 1) fun i => (f i).1
  let fl := unionFlags (dtLanes dt) (s.active vm) fun i => (f i).2
  .next ((s.raise fl).vretire vd v bound)

/-- The bits of a mask result: computed where active, else kept or 1; bits at and above L are 0 (07 R132). -/
def maskResult (l : Nat) (old : VWord) (act : Nat → Bool) (ones : Bool) (c : Nat → Bool) : VWord :=
  ofLanes 1 ((List.range l).map fun i =>
    if (if act i then c i else ones || old.getLsbD i) then 1 else 0)

end Sys2Proof.Machine
end

