-- ==== Sys2Proof/Machine/VecCvt.lean ====
section
/-! DEFINITION. Vector conversions and what they count (02 R36, R39-R43, R51, 08 R158-R162). -/

namespace Sys2Proof.Machine

/-- What converting one element gives: its pattern, its flags and its count. -/
structure Elem where
  bits : Nat
  flags : Flags := {}
  count : Counted := .nothing
  deriving DecidableEq, Repr

/-- An exact value delivered in a float format, with its count (02 R51): NaN, a clamp to ±L, or a non-zero source that
rounds to zero. `force` counts a NaN whatever the value. -/
def deliverElem (f : Fmt) (mode : Nat) (x : Val) (force : Bool := false) : Elem :=
  let r := f.deliver mode x
  let nz := match x with
    | .num _ m _ => decide (m ≠ 0)
    | _ => false
  let c : Counted :=
    if x.isNan || force then .nan
    else if r.clamped then .sat
    else if nz && r.bits % 2 ^ f.sign == 0 then .ftz
    else .nothing
  ⟨r.bits, r.flags, c⟩

/-- A value of an integer type from an exact integer, clamped; a clamp counts as saturation (08 R160, R162). -/
def clampElem (dt : Nat) (x : Int) : Elem :=
  let w := dtWidth dt
  let r := rangeOf (dtSigned dt) w
  ⟨wrapInt w (clampInt r x), {}, if clampInt r x = x then .nothing else .sat⟩

/-- A float converted to an integer type (02 R36): NaN gives 0, out of range gives the bound; both set NV. -/
def floatToInt (dt mode : Nat) (x : Val) : Elem :=
  let w := dtWidth dt
  let r := rangeOf (dtSigned dt) w
  let (i, fl, far) := x.toIntIn mode r.1 r.2
  ⟨wrapInt w i, fl, if x.isNan then .nan else if far then .sat else .nothing⟩

/-- `vcvt` of one element (08 R160). -/
def cvtElem (st dt mode a : Nat) : Elem :=
  if st < 8 then
    let i := laneInt (dtSigned st) (dtWidth st) a
    if dt < 8 then clampElem dt i else deliverElem (dtFmt dt) mode (Val.ofInt i)
  else if dt < 8 then floatToInt dt mode ((dtFmt st).val a)
  else deliverElem (dtFmt dt) mode ((dtFmt st).val a)

/-- The exact value of an element of types 8 to 13: a code is decoded through its table (02 R39). -/
def elemVal (q8 q4 : List Nat) (st a : Nat) : Val :=
  if st = 8 then f19.val (decodeCode false q4 a)
  else if st = 9 then f19.val (decodeCode true q8 a)
  else (dtFmt st).val a

/-- The q8 table in force for a core (02 R37, 07 R138). -/
def Core.tableQ8 (k : Core) : List Nat := tableOf true k.q8

/-- The q4 table in force for a core. -/
def Core.tableQ4 (k : Core) : List Nat := tableOf false k.q4

/-- A conversion (08 R159, R162): min(Ls, Ld) elements, the rest of vd 0, then the counts, one add per counter. -/
def State.convert (s : State) (vd va vm : VReg) (mp : Fin 2) (st dt : Nat) (bound : Nat) (f : Nat → Nat → Elem) : Outcome :=
  let e := min (dtLanes st) (dtLanes dt)
  let w := dtWidth dt
  let x := fun i => f i (lane (s.getV va) (dtWidth st) i)
  let v := mergeLanes w e (s.getV vd) (s.active vm) (mp == 1) fun i => (x i).bits
  let fl := unionFlags e (s.active vm) fun i => (x i).flags
  let n := (List.range e).foldl (fun (c : Counts) i => if s.active vm i then c.plus (x i).count.counts else c) {}
  .next (((((s.raise fl).setV vd v).vecBusy bound).countCvt s.cur .network s.curWord n 0).advance)

/-- `vcvt`: each active element converted (08 R160). -/
def execVcvt (vd va : VReg) (st : Fin 16) (vm : VReg) (mp : Fin 2) (dt : Fin 16) (s : State) : Outcome :=
  let rm := s.cx.ws.rm
  s.convert vd va vm mp st.val dt.val 1 fun _ a => cvtElem st.val dt.val rm a

/-- `vdec`: each active code decoded through the core's table, then converted (08 R160). -/
def execVdec (vd va : VReg) (st : Fin 16) (vm : VReg) (mp : Fin 2) (dt : Fin 16) (s : State) : Outcome :=
  let rm := s.cx.ws.rm
  let q8 := s.me.tableQ8
  let q4 := s.me.tableQ4
  s.convert vd va vm mp st.val dt.val 1 fun _ a => deliverElem (dtFmt dt.val) rm (elemVal q8 q4 st.val a)

/-- `venc`: each active element encoded through the core's table; no flag (08 R160). -/
def execVenc (vd va : VReg) (st : Fin 16) (vm : VReg) (mp : Fin 2) (dt : Fin 16) (s : State) : Outcome :=
  let big := dt == 9
  let t := if big then s.me.tableQ8 else s.me.tableQ4
  s.convert vd va vm mp st.val dt.val (if big then 4 else 1) fun _ a =>
    let r := encodeVal big s.cx.ws.qsat t ((dtFmt st.val).val a)
    ⟨r.1, {}, r.2⟩

/-- `vscl`: each active element times its e8 scale from V(va+1), rounded once (08 R160, R161). -/
def execVscl (vd va : VReg) (st : Fin 16) (vm : VReg) (mp : Fin 2) (dt : Fin 16) (s : State) : Outcome :=
  let rm := s.cx.ws.rm
  let q8 := s.me.tableQ8
  let q4 := s.me.tableQ4
  let sc := s.getV (va + 1)
  s.convert vd va vm mp st.val dt.val 1 fun i a =>
    let x := elemVal q8 q4 st.val a
    let r := deliverElem (dtFmt dt.val) rm (scaleVal x (lane sc 8 (i / 32)))
    { r with flags := r.flags.or { nv := x.isSn } }

end Sys2Proof.Machine
end

