-- ==== Sys2Proof/Machine/Msg.lean ====
section
/-! DEFINITION. Active messages: headers, sends, the payload window, the handler table, acceptance and credits
(11 R204-R217, 17 R316, 20 R355). -/

namespace Sys2Proof.Machine

/-! ### Headers (11 R204) -/

/-- DEST. -/
def hdrDest (h : Word) : Nat := bits h.toNat 63 51

/-- HIDX. -/
def hdrHidx (h : Word) : Nat := bits h.toNat 49 44

/-- XF. -/
def hdrXf (h : Word) : Nat := bits h.toNat 43 40

/-- LEN. -/
def hdrLen (h : Word) : Nat := bits h.toNat 39 36

/-- NOFIRE. -/
def hdrNofire (h : Word) : Bool := h.getLsbD 33

/-- DEP. -/
def hdrDep (h : Word) : Bool := h.getLsbD 32

/-- IMM. -/
def hdrImm (h : Word) : Nat := bits h.toNat 31 0

/-- The bytes that land: LEN × 8 times the size ratio of the transform. -/
def landedLen (h : Word) : Nat :=
  let n := hdrLen h * 8
  if hdrXf h = 1 ∨ hdrXf h = 3 then n * 2 else if hdrXf h = 2 ∨ hdrXf h = 4 then n / 2 else n

/-- The reply rule (11 R208). -/
def State.replyOk (s : State) (h : Word) : Bool :=
  s.cur.ctx == 0 &&
  match s.me.net.openMsg with
  | some m => !hdrVn m.arrival.hdr && hdrDest h == s.me.msgsrc.toNat && !m.replied
  | none => false

/-- The checks of a header, in order (11 R205). -/
def State.checkHeader (s : State) (h : Word) : Except Stop Unit :=
  let access : Except Stop Unit := .error (.sys 0x03 h 0 .none)
  if 8 < hdrLen h ∨ 5 < hdrXf h ∨ bits h.toNat 35 34 ≠ 0 ∨ (hdrNofire h ∧ ¬ hdrDep h) then illegal h
  else if hdrVn h ∧ ¬ s.replyOk h then illegal h
  else if !s.sameTeam s.cur.core (hdrDest h) then access
  else if hdrDep h ∧ (hdrImm h % 8 ≠ 0 ∨ 0x80000 < hdrImm h + landedLen h) then access
  else .ok ()

/-! ### Sends (11 R210, R211) -/

/-- A send whose queue entry and credit are free: the message is queued, as a release at its scope. -/
def State.trySend (s : State) (h : Word) (payload : List Word) (sc : Nat) : Attempt :=
  let n := s.me.net
  let t := s.releaseWith sc
  let m : Msg := ⟨h, payload, sc, s.cur.core, s.cur.ctx, t.relTags s.cur.core sc, s.curWord⟩
  let put := fun (f : Net → Net) => some ((t.modMe fun k => { k with net := f k.net }).count s.cur 5 1).advance
  if hdrVn h then
    .ok (if n.sendRep.length < 4 then
      put fun n => { n with sendRep := n.sendRep ++ [m], openMsg := n.openMsg.map fun o => { o with replied := true } }
    else none)
  else
    .ok (if n.sendReq.length < 4 ∧ 0 < n.credits then
      put fun n => { n with sendReq := n.sendReq ++ [m], credits := n.credits - 1 }
    else none)

/-- EVAL of a send that cannot enter: 2 for a reply, 0 where the request queue is full, 1 where no credit is free. -/
def State.sendVal (s : State) (h : Word) : Word :=
  if hdrVn h then 2 else if 4 ≤ s.me.net.sendReq.length then 0 else 1

/-- SENDFULL (11 R211): fa0-fa5 hold the header, the send word and payload words 0-3, and EPC = IA + 4. -/
def State.sendFull (s : State) (h : Word) (payload : List Word) : State :=
  let fa := [h, s.curWord.setWidth 64] ++ (List.range 4).map fun i => payload.getD i 0
  let t := (s.count s.cur 7 1).modWs fun w => { w with fa := Vector.ofFn fun i => fa.getD i.val 0 }
  t.userTrap 0x07 (s.sendVal h) (s.ia + 4)

/-- A send after its checks. -/
def State.sendMsg (s : State) (h : Word) (payload : List Word) (sc : Nat) : Res := do
  let a ← s.trySend h payload sc
  if !hdrVn h && (s.cur.ctx == 0 || s.me.sendq) && a.isNone then return s.sendFull h payload
  else s.waitOn (.send h payload sc (hdrVn h)) (s.sendVal h) true (.ok a)

/-- `send`: a message with its payload from registers (11 R210). -/
def execSend (ra rb : Reg) (sc : Fin 8) (s : State) : Outcome :=
  let h := s.getW ra
  settle s do
    s.checkHeader h
    if 0 < hdrLen h ∧ 31 < rb.val + hdrLen h - 1 then illegal h
    else s.sendMsg h ((List.range (hdrLen h)).map fun i => s.getW (rb + Fin.ofNat 32 i)) sc.val

/-- `sendv`: a message with its payload from a vector (11 R210). -/
def execSendv (ra : Reg) (vb : VReg) (sc : Fin 8) (s : State) : Outcome :=
  let h := s.getW ra
  settle s do
    s.checkHeader h
    s.sendMsg h ((List.range (hdrLen h)).map fun i => BitVec.ofNat 64 (lane (s.getV vb) 64 i)) sc.val

/-! ### The payload window (11 R212) -/

/-- Landed word `n` of the open window; 0 past the landed length, with the window closed and outside ctx0. -/
def State.landedWord (s : State) (n : Nat) : Word :=
  match s.me.net.openMsg with
  | some m =>
    if s.cur.ctx = 0 ∧ m.window then BitVec.ofNat 64 (ofBytes ((m.arrival.landed.drop (8 * n)).take 8)) else 0
  | none => 0

/-- `mget`: W(rd) ← landed word n (11 R212). -/
def execMget (rd : Reg) (n : Fin 16) (s : State) : Outcome := .next (s.retire rd (s.landedWord n.val))

/-- `vmget`: lane j of vd ← landed word 8h + j (11 R212). -/
def execVmget (vd : VReg) (half : Fin 2) (s : State) : Outcome :=
  .next ((s.setV vd (ofLanes 64 ((List.range 8).map fun j => (s.landedWord (8 * half.val + j)).toNat))).advance)

/-- `mrel`: the window closes and its slot is free (11 R212). -/
def execMrel (s : State) : Outcome :=
  .next (if s.cur.ctx = 0 then (s.modMe Core.closeWindow).advance else s.advance)

/-! ### The handler table (11 R213, R214) -/

/-- An entry address: 0 or a 4-byte-aligned own-TCM address. -/
def entryOk (e : Word) : Bool := e == 0 || utvecOk e

/-- `htset`: handler-table entry W(ra) ← W(rb) with its networks, whole (11 R213). -/
def execHtset (ra rb : Reg) (n : Fin 4) (s : State) : Outcome :=
  let i := s.getW ra
  let e := s.getW rb
  settle s <|
    if 63 < i.toNat then illegal i
    else if !entryOk e then illegal e
    else .ok (s.modMe fun k => { k with net := { k.net with
      handlers := SMap.put k.net.handlers i.toNat ⟨e, BitVec.ofNat 32 n.val⟩
      htGen := k.net.htGen + 1
      htSets := SMap.put k.net.htSets i.toNat (k.net.htGen + 1) } }).advance

/-- The messages of a core that have not ended and latched an entry that one of `sets` replaced. -/
def Net.outstanding (n : Net) (sets : SMap Nat) : Nat :=
  let old := fun (a : Arrival) => match SMap.find sets (hdrHidx a.hdr) with
    | some g => decide (a.latchGen < g)
    | none => false
  ((n.slotsReq ++ n.slotsRep ++ n.openMsg.toList.map (·.arrival)).filter old).length

/-- `htsync`'s condition. -/
def State.tryHtsync (s : State) (sets : SMap Nat) : Attempt :=
  .ok (if s.cur.ctx = 0 ∨ s.me.net.outstanding sets = 0 then some s.advance else none)

/-- `htsync`: waits until every message of the core has ended that latched a replaced entry; at once in ctx0 (11 R214). -/
def execHtsync (s : State) : Outcome :=
  let sets := s.me.net.htSets
  settle s (s.waitOn (.htsync sets) (BitVec.ofNat 64 (s.me.net.outstanding sets)) true (s.tryHtsync sets))

/-! ### Arrival transforms (17 R316) -/

/-- Halfwords of bytes. -/
def halves : List Byte → List Nat
  | a :: b :: t => (a.toNat + 256 * b.toNat) :: halves t
  | _ => []

/-- Elements as bytes of a width, and their counts. -/
def landElems (n : Nat) (xs : List (Nat × Counted)) : List Byte × Counts :=
  (xs.flatMap fun x => toBytes n x.1, xs.foldl (fun c x => c.plus x.2.counts) {})

/-- The landed bytes of a payload, with what its conversions count; to nearest even, QSAT 1. -/
def transformed (k : Core) (xf : Nat) (bs : List Byte) : List Byte × Counts :=
  let el := fun (e : Elem) => (e.bits, e.count)
  match xf with
  | 1 => landElems 2 (bs.map fun b => el (deliverElem bf16 0 (elemVal k.tableQ8 [] 9 b.toNat)))
  | 2 => landElems 1 ((halves bs).map fun x => encodeVal true true k.tableQ8 (bf16.val x))
  | 3 => (bs.flatMap fun b => [b &&& 0x0F, b >>> 4], {})
  | 4 => ((halves bs).map fun x => BitVec.ofNat 8 (x % 16 + x / 256 % 16 * 16), {})
  | 5 =>
    let e := (bs.headD 0).toNat
    let r := landElems 2 ((halves (bs.drop 8)).map fun x => el (deliverElem bf16 0 (scaleVal (bf16.val x) e)))
    (bs.take 8 ++ r.1, r.2)
  | _ => (bs, {})

/-! ### Transmission and acceptance (11 R206, R207) -/

/-- The messages on their way to a core on a network. -/
def State.flyingTo (s : State) (g : Nat) (vn : Bool) : Nat :=
  (s.cores.map fun c => (c.2.net.inFlight.filter fun m => hdrDest m.hdr == g && hdrVn m.hdr == vn).length).sum

/-- The arrival slots of a network that a core holds. -/
def Net.slotsHeld (n : Net) (vn : Bool) : Nat :=
  (if vn then n.slotsRep else n.slotsReq).length +
    (match n.openMsg with
      | some m => if m.window && hdrVn m.arrival.hdr == vn then 1 else 0
      | none => 0)

/-- A slot of the network is free at the destination. -/
def State.slotFree (s : State) (g : Nat) (vn : Bool) : Bool :=
  decide ((s.core g).net.slotsHeld vn + s.flyingTo g vn < 16)

/-- The head message of a send queue leaves once a slot is free at its destination (11 R206); one that a link drops after
four failed sends raises POISON in its sender, and a request's credit is back (20 R355). DESIGN CHOICE: the credit of a request whose
reply is dropped does not come back (log entry 49). -/
def execMessageTransmit (core : Nat) (vn : Fin 2) (dropped : Bool) (s : State) : Outcome :=
  let rep := vn == 1
  match (if rep then (s.core core).net.sendRep else (s.core core).net.sendReq) with
  | [] => .refused (.notEnabled "MESSAGE_TRANSMIT")
  | m :: t =>
    if !s.slotFree (hdrDest m.hdr) rep then .refused (.notEnabled "MESSAGE_TRANSMIT")
    else
      let s := s.modCore core fun k => { k with net :=
        if rep then { k.net with sendRep := t } else { k.net with sendReq := t } }
      if dropped then
        let s := if rep then s else s.modCore core fun k => { k with net := { k.net with credits := k.net.credits + 1 } }
        .next (s.charge { s.record ⟨core, m.ctx⟩ 0x05 .network 0 m.hdr 0 .none with word := m.word })
      else .next (s.modCore core fun k => { k with net := { k.net with inFlight := k.net.inFlight ++ [m] } })

/-- A request that ends without a reply returns its credit to the sender; a reply's slot returns the receiver's own. -/
def State.endSlot (s : State) (g : Nat) (m : Msg) : State :=
  if hdrVn m.hdr then s.modCore g fun k => { k with net := { k.net with credits := k.net.credits + 1 } }
  else s.returnCredit m.src

/-- The fault of a deposit that is not performed, charged to the sender (11 R206, 01 R21). -/
def State.chargeDeposit (s : State) (m : Msg) (b : Bad) : State :=
  s.charge { s.record ⟨m.src, m.ctx⟩ b.cause .network 0 (if b.cause = 0x11 then m.hdr else b.addr) b.addr .write with word := m.word }

/-- A message is accepted at its destination (11 R206): transform, latch, deposit, and its firing is pending, which ends a
back-off (10 R193). What its send owes waits for the dispatch (11 R217). -/
def State.accept (s : State) (g : Nat) (m : Msg) : State :=
  let k := s.core g
  let (bs, n) := transformed k (hdrXf m.hdr) (bytesOf m.payload)
  let h := (SMap.find k.net.handlers (hdrHidx m.hdr)).getD {}
  let a : Arrival := ⟨m.hdr, m.src, bs, h, k.net.htGen, s.now, m.tags⟩
  let s := (((s.countCvt ⟨g, 0⟩ .network 0 n 2).wake g).count ⟨g, 0⟩ 6 1).modCore g fun k =>
    { k with backoff := if hdrNofire m.hdr then k.backoff else none }
  let dep : Except Bad State :=
    if hdrDep m.hdr then s.agentWrite (s.whoAgent g) (0x8000000000000000 + BitVec.ofNat 64 (hdrImm m.hdr)) bs else .ok s
  match dep with
  | .error b => (s.chargeDeposit m b).endSlot g m
  | .ok s =>
    if hdrNofire m.hdr then s.endSlot g m
    else if hdrVn m.hdr then
      s.modCore g fun k => { k with net := { k.net with slotsRep := k.net.slotsRep ++ [a] } }
    else s.modCore g fun k => { k with net := { k.net with slotsReq := k.net.slotsReq ++ [a] } }

/-- Message `i` on its way from a core is accepted; messages of one pair on one network in send order (11 R217). -/
def execMessageAccept (core i : Nat) (s : State) : Outcome :=
  let fl := (s.core core).net.inFlight
  match fl[i]? with
  | none => .refused (.notEnabled "MESSAGE_ACCEPT")
  | some m =>
    if (fl.take i).any (fun e => hdrDest e.hdr == hdrDest m.hdr && hdrVn e.hdr == hdrVn m.hdr) then
      .refused (.notEnabled "MESSAGE_ACCEPT")
    else
      let s := s.modCore core fun k => { k with net := { k.net with inFlight := fl.eraseIdx i } }
      .next (s.accept (hdrDest m.hdr) m)

/-- A credit-only return reaches the core that sent the request (11 R207). -/
def execCreditReturn (core : Nat) (s : State) : Outcome :=
  if (s.core core).net.creditReturns = 0 then .refused (.notEnabled "CREDIT_RETURN")
  else .next (s.modCore core fun k => { k with net := { k.net with
    creditReturns := k.net.creditReturns - 1, credits := k.net.credits + 1 } })

end Sys2Proof.Machine
end

