-- ==== Sys2Proof/Machine/Streams.lean ====
section
/-! DEFINITION. Stream handles: descriptors, counter pairs, checks, waits and effects (08 R146-R153). -/

namespace Sys2Proof.Machine

/-- The upper doubleword of a descriptor. -/
def cbHi (d : BitVec 128) : Nat := d.toNat / 2 ^ 64

/-- V: the handle is bound. -/
def cbBound (d : BitVec 128) : Bool := bit (cbHi d) 63

/-- DIR: the producer side. -/
def cbProd (d : BitVec 128) : Bool := bit (cbHi d) 62

/-- SC. -/
def cbSc (d : BitVec 128) : Nat := bits (cbHi d) 61 59

/-- The slot size S. -/
def cbS (d : BitVec 128) : Nat := 2 ^ (bits (cbHi d) 58 55 + 6)

/-- The slot count N. -/
def cbN (d : BitVec 128) : Nat := 2 ^ bits (cbHi d) 54 51

/-- LCNT. -/
def cbLcnt (d : BitVec 128) : Nat := bits (cbHi d) 15 0

/-- The descriptor with LCNT replaced. -/
def cbWithLcnt (d : BitVec 128) (n : Nat) : BitVec 128 :=
  BitVec.ofNat 128 (d.toNat - cbLcnt d * 2 ^ 64 + n % 2 ^ 16 * 2 ^ 64)

/-- The address C of the counter pair (08 R147). -/
def cbPair (d : BitVec 128) : Word :=
  BitVec.ofNat 64 (0x8000000100000000 + bits (cbHi d) 46 34 * 0x80000 + bits (cbHi d) 31 16 * 8)

/-- No reserved bit, no malformed code and V = 1 (08 R146, R150 reason 3). -/
def cbSound (d : BitVec 128) : Bool :=
  bits d.toNat 5 0 == 0 && cbBound d && cbSc d != 7 && decide (bits (cbHi d) 58 55 < 9) &&
    decide (bits (cbHi d) 54 51 < 9) && bits (cbHi d) 50 47 == 0 && bits (cbHi d) 33 32 == 0

/-- The slot address A(off) (08 R147). -/
def cbAddr (d : BitVec 128) (off : Nat) : Word :=
  BitVec.ofNat 64 (d.toNat % 2 ^ 64 / 64 * 64 + (cbLcnt d % cbN d * cbS d + off) % (cbN d * cbS d))

/-- ILLEGAL with EVAL = (cb << 32) or the reason (08 R150). -/
def cbIllegal {α : Type} (cb : Fin 8) (reason : Nat) : Except Stop α :=
  illegal (BitVec.ofNat 64 (cb.val * 2 ^ 32 + reason))

/-- The occupied slots of the other side's counter: filled for a consumer, taken for a producer (08 R147). -/
def cbDiff (d : BitVec 128) (other : Nat) : Nat :=
  if cbProd d then (cbLcnt d + 2 ^ 16 - other % 2 ^ 16) % 2 ^ 16 else (other % 2 ^ 16 + 2 ^ 16 - cbLcnt d) % 2 ^ 16

/-- The ready count: filled for a consumer, free for a producer; none where the pair is inconsistent (08 R147). -/
def cbReady (d : BitVec 128) (other : Nat) : Option Nat :=
  let x := cbDiff d other
  if cbN d < x then none else some (if cbProd d then cbN d - x else x)

/-- The address of the other side's counter word: CCNT for a producer, PCNT for a consumer. -/
def cbOther (d : BitVec 128) : Word := if cbProd d then cbPair d + 4 else cbPair d

/-- The address of this side's counter word. -/
def cbOwn (d : BitVec 128) : Word := if cbProd d then cbPair d else cbPair d + 4

/-- The side of a minor: `cbget`, `cbpop` and `cbwfill` are the consumer's. -/
def cbSide (fn : Nat) : Bool := fn == 2 || fn == 4 || fn == 7

/-- The checks of 08 R150 before any wait, for the waiting minors. -/
def cbCheck (d : BitVec 128) (cb : Fin 8) (fn need off : Nat) : Except Stop Unit :=
  if !cbBound d then cbIllegal cb 1
  else if cbProd d != cbSide fn then cbIllegal cb 2
  else if !cbSound d then cbIllegal cb 3
  else if cbN d < need ∨ need * cbS d ≤ off then cbIllegal cb 4
  else .ok ()

/-- The ready count that a context reads, an acquire (08 R152), with the state after the read; none where the pair is
inconsistent. -/
def State.cbCount (s : State) (d : BitVec 128) : Except Stop (Option Nat × State) := do
  let (bs, t) ← s.load (cbOther d) 4 (some (cbSc d))
  return (cbReady d (ofBytes bs), t)

/-- An inconsistent pair has been read: reason 5 (08 R150). -/
def State.badPair (t : State) (cb : Fin 8) : Res := t.badData (BitVec.ofNat 64 (cb.val * 2 ^ 32 + 5))

/-- The effect of a waiting minor whose condition holds (08 R149). -/
def State.cbEffect (s : State) (d : BitVec 128) (fn : Nat) (x : Reg) (cb : Fin 8) (need off : Nat) : Res :=
  let a := cbAddr d off
  let l := (cbLcnt d + need) % 2 ^ 16
  if fn = 1 then do
    let (bs, t) ← s.load a 8
    return t.retire x (zbytes bs)
  else if fn = 2 then do
    let t ← s.store a (toBytes 8 (s.getW x).toNat)
    return t.advance
  else if fn = 3 ∨ fn = 4 then do
    let _ ← s.store (cbOwn d) (toBytes 4 l) 0xFF (some (cbSc d))
    let t ← (s.releaseWith (cbSc d)).store (cbOwn d) (toBytes 4 l) 0xFF (some (cbSc d))
    return (t.setCb cb (cbWithLcnt d l)).retire x (BitVec.ofNat 64 l)
  else .ok (s.retire x a)

/-- A waiting minor's attempt: its checks, its condition, its effect. -/
def State.tryStream (s : State) (fn : Nat) (x : Reg) (cb : Fin 8) (need off : Nat) : Attempt := do
  let d := s.getCb cb
  cbCheck d cb fn need off
  let (n, t) ← s.cbCount d
  match n with
  | none => (t.badPair cb).map some
  | some n =>
    if need ≤ n then
      match t.cbEffect d fn x cb need off with
      | .error (.sys c v a k) => (t.found (.sys c v a k)).map some
      | r => r.map some
    else return none

/-- EVAL of WAITLIMIT: (cb << 16) or the count last observed (08 R151). -/
def State.streamVal (s : State) (cb : Fin 8) : Word :=
  let n := match s.cbCount (s.getCb cb) with
    | .ok (some n, _) => n
    | _ => 0
  BitVec.ofNat 64 (cb.val * 2 ^ 16 + n)

/-- A waiting minor (08 R149). -/
def State.stream (s : State) (fn : Nat) (x : Reg) (cb : Fin 8) (need off : Nat) : Outcome :=
  settle s (s.waitOn (.stream fn x cb need off) (s.streamVal cb) true (s.tryStream fn x cb need off))

/-- `cbget`: waits for filled slots, then W(x) ← mem(A(off), 8) (08 R149). -/
def execCbget (x : Reg) (cb need : Fin 8) (off : BitVec 8) (s : State) : Outcome :=
  s.stream 1 x cb (need.val + 1) (off.toNat * 64)

/-- `cbput`: waits for free slots, then mem(A(off), 8) ← W(x) (08 R149). -/
def execCbput (x : Reg) (cb need : Fin 8) (off : BitVec 8) (s : State) : Outcome :=
  s.stream 2 x cb (need.val + 1) (off.toNat * 64)

/-- `cbpop`: waits for filled slots, advances LCNT and store-releases CCNT (08 R149). -/
def execCbpop (x : Reg) (cb need : Fin 8) (s : State) : Outcome := s.stream 3 x cb (need.val + 1) 0

/-- `cbpush`: waits for free slots, advances LCNT and store-releases PCNT (08 R149). -/
def execCbpush (x : Reg) (cb need : Fin 8) (s : State) : Outcome := s.stream 4 x cb (need.val + 1) 0

/-- `cbwfill`: waits for filled slots; W(x) ← A(off) (08 R149). -/
def execCbwfill (x : Reg) (cb need : Fin 8) (off : BitVec 8) (s : State) : Outcome :=
  s.stream 6 x cb (need.val + 1) (off.toNat * 64)

/-- `cbwfree`: waits for free slots; W(x) ← A(off) (08 R149). -/
def execCbwfree (x : Reg) (cb need : Fin 8) (off : BitVec 8) (s : State) : Outcome :=
  s.stream 7 x cb (need.val + 1) (off.toNat * 64)

/-- `cbstat`: W(x) ← the ready count, LCNT and DIR (08 R149, R150). DESIGN CHOICE: an inconsistent pair is reason 5 here too,
though `cbstat` has no wait (log entry 48). -/
def execCbstat (x : Reg) (cb : Fin 8) (s : State) : Outcome :=
  let d := s.getCb cb
  settle s <|
    if !cbBound d then cbIllegal cb 1
    else if !cbSound d then cbIllegal cb 3
    else do
      let (n, t) ← s.cbCount d
      match n with
      | none => t.badPair cb
      | some n => return t.retire x (BitVec.ofNat 64 (n + cbLcnt d * 2 ^ 16 + (if cbProd d then 2 ^ 32 else 0)))

/-- `cbbind`: the image at W(x) is checked and written to the descriptor, with LCNT from this side's own counter, read
with acquire (08 R149, R150). -/
def execCbbind (x : Reg) (cb : Fin 8) (s : State) : Outcome :=
  let a := s.getW x
  settle s <|
    if !aligned a 8 then misalign a .read
    else do
      let (bs, t) ← s.load a 16
      let d := BitVec.ofNat 128 (ofBytes bs)
      if !cbSound d then t.badData (BitVec.ofNat 64 (cb.val * 2 ^ 32 + 3))
      else match t.load (cbOwn d) 4 (some (cbSc d)) with
        | .ok (cs, u) => return (u.setCb cb (cbWithLcnt d (ofBytes cs))).advance
        | .error (.sys c v a k) => t.found (.sys c v a k)
        | .error e => .error e

end Sys2Proof.Machine
end

