-- ==== Sys2Proof/Machine/Sched.lean ====
section
/-! DEFINITION. Deques, actors, pending firings and dispatch (10 R187-R195, 11 R215-R216). A deque is listed from its local
end to its far end. -/

namespace Sys2Proof.Machine

/-! ### Deques (10 R192) -/

/-- The records that a core's deque may hold. -/
def Core.dequeCap (k : Core) : Nat := 64 + k.tspill / 16

/-- The deque is not full. -/
def Core.dequeRoom (k : Core) : Bool := decide (k.deque.length < k.dequeCap)

/-- The place of a slot of the spill region. -/
def Core.spillPlace (k : Core) (g j : Nat) : Nat := tcmPlace g ((k.spillAt + 16 * j) % 0x80000)

/-- Bytes of memory at a place, as the interface of their core reads them. -/
def State.rawBytes (s : State) (p n : Nat) : List Byte := (List.range n).map fun i => Memory.read s.mem (p + i)

/-- Bytes of memory at a place are written; the granules that they replace whole lose their marks (20 R354). -/
def State.setRaw (s : State) (p : Nat) (bs : List Byte) : State :=
  ({ s with mem := (bs.zipIdx p).foldl (fun m x => Memory.write m x.2 x.1) s.mem } : State).cleanse
    { cells := (bs.zipIdx p).map fun x => (x.2, x.1, 0xFF), space := .queue }

/-- The interface of a core writes a record to its spill slot; into an active workspace it is not performed and WSFAULT is
charged to the context whose push it is (01 R21). -/
def State.spill (s : State) (g j : Nat) (by_ : CtxRef) (r : TaskRec) : State :=
  let p := (s.core g).spillPlace g j
  match (List.range 16).find? fun i => ((s.core g).wsAt ((p + i) % 0x80000)).isSome with
  | some i =>
    let a := BitVec.ofNat 64 (p + i)
    s.charge (s.record by_ 0x11 .network 0 a a .write)
  | none => s.setRaw p (bytesOf [r.word0, r.arg1])

/-- Word 0 of a record without its reserved bits. -/
def taskClean (w : Word) : Word := w &&& 0xFFFFFFFF001FFF3F

/-- A record as it stands: in hardware, or in the bytes of its spill slot with the reserved bits read as 0. -/
def State.taskOf (s : State) (g : Nat) (r : TaskRec) : TaskRec :=
  match r.slot with
  | none => r
  | some j =>
    match wordsOf (s.rawBytes ((s.core g).spillPlace g j) 16) with
    | [a, b] => { r with word0 := taskClean a, arg1 := b, slot := none }
    | _ => r

/-- The first slot from `j` on that is not in use, in a circular array. -/
def freeSlot (cap : Nat) (used : List Nat) : Nat → Nat → Nat
  | 0, j => j % cap
  | n + 1, j => if used.contains (j % cap) then freeSlot cap used n (j + 1) else j % cap

/-- The spill slot of a record from position 64 on: next to a neighbour's in the circular array, or the next one not in use. -/
def spillSlot (cap : Nat) (used : List Nat) (before after : Option Nat) : Nat :=
  freeSlot cap used used.length (match before, after with
    | some j, _ => j + 1
    | none, some j => j + cap - 1
    | none, none => 0)

/-- Records from position `i`: the first 64 stand in hardware, the others in the spill region; `used` are its slots that hold a
record. -/
def State.spillFrom (s : State) (g : Nat) (by_ : CtxRef) (used : List Nat) :
    Nat → Option Nat → List TaskRec → List TaskRec × State
  | _, _, [] => ([], s)
  | i, before, r :: t =>
    if i < 64 then
      let (u, s') := State.spillFrom s g by_ used (i + 1) none t
      (s.taskOf g r :: u, s')
    else
      match r.slot with
      | some j =>
        let (u, s') := State.spillFrom s g by_ used (i + 1) (some j) t
        (r :: u, s')
      | none =>
        let k := s.core g
        let j := spillSlot (k.tspill / 16) used before (t.findSome? (·.slot))
        let s := s.spill g j by_ r
        let (u, s') := State.spillFrom s g by_ (j :: used) (i + 1) (some j) t
        ({ r with slot := some j } :: u, s')

/-- A deque is replaced, by a push of a context where one is named; its oldest records move to the spill region and back. -/
def State.setDeque (s : State) (g : Nat) (d : List TaskRec) (by_ : CtxRef := ⟨g, 0⟩) : State :=
  let (u, s) := s.spillFrom g by_ (d.filterMap (·.slot)) 0 none d
  s.modCore g fun k => { k with deque := u }

/-- A record is pushed at the local end. -/
def State.pushLocal (s : State) (g : Nat) (w0 w1 : Word) : State :=
  s.setDeque g ({ word0 := w0, arg1 := w1, since := s.now } :: (s.core g).deque) s.cur

/-- A record of a context is pushed at the far end, with what its push owes, which ends a back-off (10 R193). -/
def State.pushFar (s : State) (g : Nat) (w0 w1 : Word) (by_ : CtxRef) (tags : List Tag) : State :=
  (s.setDeque g ((s.core g).deque ++ [{ word0 := w0, arg1 := w1, since := s.now, tags }]) by_).modCore g fun k =>
    { k with backoff := none }

/-! ### Actors (10 R190) -/

/-- The terms of a declaration in the order I0, I1, O0, O1: handle, count, and whether it is the producer's side. -/
def actorTerms (d : Word) : List (Fin 8 × Nat × Bool) :=
  let x := d.toNat
  let h := fun (hi lo : Nat) => Fin.ofNat 8 (bits x hi lo)
  [(h 10 8, bits x 14 11, false), (h 18 16, bits x 22 19, false), (h 26 24, bits x 30 27, true),
    (h 34 32, bits x 38 35, true)].filter fun t => t.2.1 != 0

/-- No reserved bit is set and no count is malformed (05 R98). -/
def actorDeclOk (d : Word) : Bool :=
  d &&& 0xFFFFFF8080808080 == 0 && (actorTerms d).all fun t => decide (t.2.1 ≤ 8)

/-- AVAL. -/
def actorAval (d : Word) : Bool := d.getLsbD 6

/-- One term holds: filled or free slots of the slot's copy, whose counter read is an acquire at the descriptor's scope (08 R152). -/
def State.termHolds (s : State) (g : Nat) (a : Actor) (t : Fin 8 × Nat × Bool) : Except Bad (Bool × State) :=
  match a.cbs.find? (·.1 == t.1) with
  | none => .ok (false, s)
  | some (_, d) =>
    match s.agentRead { s.whoAgent g with acq := some (cbSc d) } (cbOther d) 4 with
    | .error b => .error ⟨b.cause, cbPair d⟩
    | .ok (bs, s) => .ok ((cbReady d (ofBytes bs)).elim false fun n => decide (t.2.1 ≤ n), s)

/-- Whether every term of an armed actor holds, and the state after its counter reads. -/
def State.actorReady (s : State) (g : Nat) (a : Actor) : Except Bad (Bool × State) :=
  (actorTerms a.decl).foldlM (fun x t => do
    let (b, s) ← x.2.termHolds g a t
    return (x.1 && b, s)) (true, s)

/-- An armed actor that holds no firing is ready: an actor firing is pending (10 R190). A counter read that fails disarms the
slot and is charged to the context that armed it. -/
def execActorReady (core : Nat) (slot : Fin 8) (s : State) : Outcome :=
  let a := (s.core core).actors[slot]
  let put := fun (f : Actor → Actor) (s : State) => s.modCore core fun k => { k with actors := modAt k.actors slot.val f }
  if !a.armed || a.firing then .refused (.notEnabled "ACTOR_READY")
  else match s.actorReady core a with
    | .ok (true, s) =>
      let p : Pending := { kind := 5, hidx := bits a.decl.toNat 5 0, aux := slot.val, fa := [BitVec.ofNat 64 slot.val], since := s.now }
      .next ((put (fun a => { a with firing := true }) s).modCore core fun k =>
        { k with firings := k.firings ++ [p], backoff := none })
    | .ok (false, _) => .refused (.notEnabled "ACTOR_READY")
    | .error b =>
      .next ((put (fun a => { a with armed := false }) s).charge
        (s.record ⟨core, a.byCtx⟩ b.cause .network 0 b.addr b.addr .read))

/-! ### Pending firings -/

/-- A firing of a kind may be posted: at most 16 completions and 16 meeting-notifies are pending (10 R195). -/
def Core.mayPost (k : Core) (kind : Fin 8) : Bool := decide ((k.firings.filter (·.kind == kind)).length < 16)

/-- A firing becomes pending. -/
def State.post (s : State) (g : Nat) (p : Pending) : State :=
  s.modCore g fun k => { k with firings := k.firings ++ [p], backoff := none }

/-- Where a firing that may be dispatched stands. -/
inductive CandAt where
  | message (rep : Bool) (i : Nat)
  | pending (i : Nat)
  | task (i : Nat)
  deriving DecidableEq, Repr

/-- A firing that may be dispatched; `word` is its journal word without the context (20 R364), `tags` what the release that its
dispatch acquires owes (15 R278). -/
structure Cand where
  kind : Nat
  hidx : Nat
  aux : Nat := 0
  xid : BitVec 16 := 0
  fa : List Word
  since : Nat
  promoted : Bool := false
  word : Nat
  place : CandAt
  tags : List Tag := []
  deriving DecidableEq, Repr

/-- A message firing. -/
def Cand.ofArrival (rep : Bool) (a : Arrival) (i : Nat) : Cand :=
  { kind := 1, hidx := hdrHidx a.hdr, fa := [a.hdr, BitVec.ofNat 64 a.src], since := a.since
    word := 1 + hdrHidx a.hdr * 2 ^ 5 + (if rep then 2 ^ 11 else 0) + a.src * 2 ^ 12, place := .message rep i, tags := a.tags }

/-- A pending firing has waited 4,096 cycles (10 R195). -/
def aged (now since : Nat) : Bool := decide (since + 4096 ≤ now)

/-- A posted firing. -/
def Cand.ofPending (now : Nat) (p : Pending) (i : Nat) : Cand :=
  let at4 := (p.fa.headD 0).toNat
  let mid := match p.kind with
    | 3 => p.xid.toNat
    | 4 => bits at4 4 0 + bits at4 16 8 * 32
    | 5 => p.aux
    | _ => 0
  { kind := p.kind.val, hidx := p.hidx, aux := if p.kind = 5 then p.aux else 0, xid := p.xid, fa := p.fa, since := p.since
    promoted := p.promoted || aged now p.since
    word := p.kind.val + p.hidx * 2 ^ 5 + (if p.kind = 7 then p.src * 2 ^ 12 else 0) + mid * 2 ^ 25, place := .pending i, tags := p.tags }

/-- A task record of the core's own deque. -/
def Cand.ofTask (now g : Nat) (r : TaskRec) (i : Nat) : Cand :=
  let h := bits r.word0.toNat 5 0
  { kind := 6, hidx := h, fa := [BitVec.ofNat 64 (bits r.word0.toNat 63 32), r.arg1, BitVec.ofNat 64 g], since := r.since
    promoted := r.promoted || aged now r.since, word := 6 + h * 2 ^ 5 + g * 2 ^ 12, place := .task i, tags := r.tags }

/-- The firings that ctx0 may take: replies, then requests, oldest first (11 R216). -/
def Core.messageCands (k : Core) : List Cand :=
  (k.net.slotsRep.zipIdx.map fun x => Cand.ofArrival true x.1 x.2) ++
    k.net.slotsReq.zipIdx.map fun x => Cand.ofArrival false x.1 x.2

/-- The layer records for which a context of a core waits in `stash` and may promote firings (18 R342). -/
def Core.stashWaits (k : Core) : List Word :=
  if k.stashctl.getLsbD 1 then [] else k.ctxs.toList.filterMap fun x => match x.wait with
    | some ⟨.stash _ l, _, _, _, _, _⟩ => some l
    | _ => none

/-- BHMASK of a record and the micro-batch of its oldest buffer, where the record's ring lies in a cluster. -/
def State.stashHint (s : State) (h clu : Nat) (l : Word) : Option (Nat × Nat) :=
  match s.agentRead (s.whoAgent h) l 256 with
  | .error _ => none
  | .ok (bs, _) =>
    let w := (wordsOf bs).map BitVec.toNat
    let occ := w.getD 21 0
    let n := bits (w.getD 20 0) 35 32 + 1
    let b := ((List.range n).map fun i => (bits occ 19 16 + i) % n).find? (bit occ)
    if ((s.teamOf h).bind fun t => t.clus[bits (w.headD 0) 6 0]?) = some clu then
      b.map fun b => (w.getD 26 0, ((bs.drop (0xB0 + b)).headD 0).toNat)
    else none

/-- What the waiting `stash` instructions of a team promote on a core. -/
def State.stashHints (s : State) (g : Nat) : List (Nat × Nat) :=
  (s.cores.filter fun c => s.tidOf c.1 == s.tidOf g).flatMap fun c =>
    c.2.stashWaits.filterMap fun l => s.stashHint c.1 (cluOfCore g) l

/-- A firing that a waiting `stash` promotes (18 R342). -/
def Cand.backward (x : Cand) (h : Nat × Nat) : Bool :=
  bit h.1 x.hidx && (x.kind == 4 || x.kind == 5 || ((x.kind == 6 || x.kind == 7) && (x.fa.headD 0).toNat % 256 == h.2))

/-- A candidate takes its place by age, after its equals. -/
def Cand.insert (c : Cand) : List Cand → List Cand
  | [] => [c]
  | d :: t => if c.since < d.since then c :: d :: t else d :: c.insert t

/-- Candidates, those pending longest first. -/
def byAge (cs : List Cand) : List Cand := cs.foldl (fun l c => c.insert l) []

/-- The firings that ctx1-ctx3 may take: posted ones by kind with the oldest first, and tasks in local-end order. -/
def State.workCands (s : State) (g : Nat) : List Cand :=
  let k := s.core g
  let ps := k.firings.zipIdx.map fun x => Cand.ofPending s.now x.1 x.2
  let ts := k.deque.zipIdx.map fun x => Cand.ofTask s.now g (s.taskOf g x.1) x.2
  let of := fun (n : Nat) => ps.filter (·.kind == n)
  let hints := s.stashHints g
  (of 2 ++ of 3 ++ of 4 ++ of 5 ++ ts ++ byAge (of 7)).map fun x => { x with promoted := x.promoted || hints.any x.backward }

/-- The candidate that has been pending longest; the first of equals. -/
def oldest : List Cand → Option Cand
  | [] => none
  | c :: t =>
    match oldest t with
    | none => some c
    | some d => if d.since < c.since then some d else some c

/-- The firing that a context takes next (10 R195, 11 R216). A core that replays takes the recorded one (20 R365). DESIGN CHOICE:
among those that its record does not tell apart, the first without regard to age, so that no timing decides (log entry 60). -/
def State.pickFiring (s : State) (g : Nat) (c : CtxId) : Option Cand :=
  let cs := (if c = 0 then (s.core g).messageCands else s.workCands g).filter fun x => s.journalAllows g 1 (x.word + c.val * 8)
  if c = 0 ∨ (s.core g).journal.replaying then cs.head?
  else match oldest (cs.filter (·.promoted)) with
    | some x => some x
    | none => cs.head?

/-- A context holds no firing. -/
def Core.isFree (k : Core) (c : CtxId) : Bool := !(k.ctx c).firing && !(k.ctx c).suspended

/-- The context to which a firing goes: the lowest free of ctx1-ctx3. -/
def Core.mayTake (k : Core) (c : CtxId) : Bool :=
  k.isFree c && (c == 0 || k.journal.replaying || ([1, 2, 3] : List CtxId).all fun d => decide (c ≤ d) || !k.isFree d)

/-- A dispatched firing leaves the place where it was pending; a message opens its window, an actor gives its descriptors. -/
def State.takeCand (s : State) (g : Nat) (c : CtxId) (x : Cand) : State :=
  match x.place with
  | .message rep i =>
    s.modCore g fun k =>
      match (if rep then k.net.slotsRep[i]? else k.net.slotsReq[i]?) with
      | none => k
      | some a =>
        { k with
          msghdr := a.hdr, msgsrc := BitVec.ofNat 13 a.src
          net := { k.net with
            openMsg := some { arrival := a }
            slotsRep := if rep then k.net.slotsRep.eraseIdx i else k.net.slotsRep
            slotsReq := if rep then k.net.slotsReq else k.net.slotsReq.eraseIdx i } }
  | .pending i =>
    let s := s.modCore g fun k => { k with firings := k.firings.eraseIdx i }
    if x.kind = 5 then
      let slot := Fin.ofNat 8 x.aux
      let cbs := (s.core g).actors[slot].cbs
      s.modCtx ⟨g, c⟩ fun y =>
        { y with actorSlot := some slot
                 ws := cbs.foldl (fun w d => { w with cb := w.cb.set d.1.val d.2 d.1.isLt }) y.ws }
    else s
  | .task i => s.setDeque g ((s.core g).deque.eraseIdx i)

/-- A message is orphaned: its latched entry is 0 or lacks its network (11 R215). -/
def Arrival.orphan (a : Arrival) : Bool := a.handler.entry == 0 || !a.handler.cls.getLsbD (if hdrVn a.hdr then 1 else 0)

/-- DISPATCHING a firing to a context (10 R188): FIRING, CPY_XID, fa0-fa5, ECAUSE[63] and the PC, or HANDLER_EMPTY. It acquires the
release that the firing carries (11 R217, R221, R223, 17 R305). -/
def State.dispatch (s : State) (g : Nat) (c : CtxId) (x : Cand) : State :=
  let k := s.core g
  let orphan := match x.place with
    | .message rep i => (if rep then k.net.slotsRep[i]? else k.net.slotsReq[i]?).elim false Arrival.orphan
    | _ => false
  let e := match x.place with
    | .message rep i =>
      ((if rep then k.net.slotsRep[i]? else k.net.slotsReq[i]?).map fun a => a.handler.entry).getD 0
    | _ => ((SMap.find k.net.handlers x.hidx).getD {}).entry
  let f := BitVec.ofNat 64 (x.kind + x.hidx * 256 + x.aux * 65536)
  let s := ((s.takeCand g c x).journal g 1 (x.word + c.val * 8)).acquire (s.whoOwn g) x.tags
  let s := s.modCtx ⟨g, c⟩ fun y =>
    { y with
      firing := true, firingReg := f, cpyXid := if x.kind = 3 then x.xid else 0
      wait := none, frame := none, fp := false, resume := false, refusals := 0, stagger := none
      ws := { y.ws with fa := Vector.ofFn fun i => x.fa.getD i.val 0
                        ecause := y.ws.ecause &&& 0x7FFFFFFFFFFFFFFF } }
  if orphan then s.enterTrap ⟨g, c⟩ 0x08 0 (x.fa.headD 0) (x.fa.headD 0) false
  else if e = 0 then s.enterTrap ⟨g, c⟩ 0x08 0 f f false
  else s.modCtx ⟨g, c⟩ fun y => { y with ws := { y.ws with pc := e } }

/-- No team is placed on a core, so that no dispatch and no steal takes place there. -/
def State.teamStopped (s : State) (g : Nat) : Bool := (s.teamOf g).isNone

/-- A pending firing is dispatched to a free context (10 R188, R195). -/
def execFiringDispatch (core : Nat) (ctx : CtxId) (s : State) : Outcome :=
  if s.teamStopped core || !(s.core core).mayTake ctx then .refused (.notEnabled "FIRING_DISPATCH")
  else match s.pickFiring core ctx with
    | none => .refused (.notEnabled "FIRING_DISPATCH")
    | some x => .next (s.dispatch core ctx x)

/-- A firing that has been pending 4,096 cycles is promoted: firing `i` of the posted ones and then the deque (10 R195). -/
def execFiringPromote (core i : Nat) (s : State) : Outcome :=
  let k := s.core core
  let n := k.firings.length
  match k.firings[i]?, k.deque[i - n]? with
  | some p, _ =>
    if aged s.now p.since && !p.promoted then
      .next (s.modCore core fun k => { k with firings := k.firings.set i { p with promoted := true } })
    else .refused (.notEnabled "FIRING_PROMOTE")
  | none, some r =>
    if aged s.now r.since && !r.promoted then
      .next (s.modCore core fun k => { k with deque := k.deque.set (i - n) { r with promoted := true } })
    else .refused (.notEnabled "FIRING_PROMOTE")
  | none, none => .refused (.notEnabled "FIRING_PROMOTE")

/-! ### Stealing (10 R193, R194) -/

/-- The steal LFSR advances once. -/
def lfsrNext (l : BitVec 32) : BitVec 32 := if l.getLsbD 0 then (l >>> 1) ^^^ 0x80200003 else l >>> 1

/-- A victim is asked for a record. -/
def stealAt (v : Nat) (random : Bool) (l : BitVec 32) (won : Bool) : Nat :=
  v + (if won then 2 ^ 13 else 0) + (if random then 2 ^ 14 + l.toNat * 2 ^ 16 else 0)

/-- Draws of a die-random victim: each advances the LFSR and is recorded; a core of the thief's cluster or of another team is
drawn again. -/
def State.drawVictim (s : State) (g : Nat) : Nat → Option Nat × State
  | 0 => (none, s)
  | fuel + 1 =>
    let l := lfsrNext (s.core g).lfsr
    let s := s.modCore g fun k => { k with lfsr := l }
    let v := dieOfCore g * 2048 + l.toNat % 2048
    if cluOfCore v ≠ cluOfCore g ∧ s.sameTeam g v then (some v, s)
    else State.drawVictim (s.journal g 2 (stealAt v true l false)) g fuel

/-- The lowest free context of ctx1-ctx3. -/
def Core.freeCtx (k : Core) : Option CtxId := ([1, 2, 3] : List CtxId).find? k.isFree

/-- The recorded victim of a core that replays, with the recorded LFSR value of a draw (20 R365); a discarded draw asks
none. A victim of the quad or the cluster after the last of a round begins another. -/
def State.replayVictim (s : State) (g : Nat) : Nat → Nat → Option (Nat × Nat) × State
  | 0, _ => (none, s)
  | fuel + 1, n =>
    let j := (s.core g).journal
    match s.nextRecord g (j.size / 16 + 1) j.pos with
    | some (2, w, _) =>
      let v := bits w 12 0
      if bit w 14 then
        let s := s.modCore g fun k => { k with lfsr := BitVec.ofNat 32 (bits w 47 16) }
        if cluOfCore v = cluOfCore g ∨ !s.sameTeam g v then State.replayVictim (s.journal g 2 w) g fuel n
        else (some (v, max (n + 1) 64), s)
      else if n < 63 then (some (v, n + 1), s)
      else (some (v, 1), s.count ⟨g, ((s.core g).freeCtx).getD 1⟩ 9 1)
    | _ => (none, s)

/-- The next victim of a round after `tried` of them: the quad, the cluster, eight die-random cores. -/
def State.nextVictim (s : State) (g : Nat) : Nat → Nat → Option (Nat × Nat) × State
  | 0, _ => (none, s)
  | fuel + 1, n =>
    if n < 3 then (some (g / 4 * 4 + (g + n + 1) % 4, n + 1), s)
    else if n < 63 then
      let cs := ((List.range 63).map fun i => g / 64 * 64 + (g + i + 1) % 64).filter fun v => quadOfCore v != quadOfCore g
      (some (cs.getD (n - 3) g, n + 1), s)
    else if n < 71 then
      match s.drawVictim g 16 with
      | (some v, s) => (some (v, n + 1), s)
      | (none, s) => State.nextVictim s g fuel (n + 1)
    else (none, s)

/-- A round goes on to its next victim, or fails: no new round for 1,024 cycles. One of a core that replays waits where the recorded
choice is another, until that is a steal (20 R365). -/
def State.goRound (s : State) (g n : Nat) : State :=
  match (if (s.core g).journal.replaying then s.replayVictim g 128 n else s.nextVictim g 9 n) with
  | (some (v, m), s) => s.modCore g fun k => { k with round := some { victim := some v, tried := m } }
  | (none, s) =>
    if (s.core g).journal.replaying ∧ n < 71 then s.modCore g fun k => { k with round := some { victim := none, tried := n } }
    else (s.modCore g fun k => { k with round := none, backoff := some (s.now + 1024) }).count
      ⟨g, ((s.core g).freeCtx).getD 1⟩ 9 1

/-- No actor of a core is ready. -/
def State.noActorReady (s : State) (g : Nat) : Bool :=
  (s.core g).actors.toList.all fun a => !(a.armed && !a.firing && ((s.actorReady g a).toOption.map (·.1)) == some true)

/-- The next recorded choice of a core that replays is a steal (20 R365). -/
def State.stealRecorded (s : State) (g : Nat) : Bool :=
  let j := (s.core g).journal
  !j.replaying || (match s.nextRecord g (j.size / 16 + 1) j.pos with
    | some (2, _, _) => true
    | _ => false)

/-- A core with a free context, no firing of kinds 2 to 6 pending or ready and an empty deque starts a round of steal
requests (10 R193); a round that waits for its recorded choice goes on (20 R365). -/
def execStealRound (core : Nat) (s : State) : Outcome :=
  let k := s.core core
  match k.round with
  | some ⟨none, n, _⟩ =>
    if s.stealRecorded core then .next (s.goRound core n) else .refused (.notEnabled "STEAL_ROUND")
  | _ =>
  if !s.teamStopped core && k.freeCtx.isSome && k.firings.all (·.kind == 7) && s.stealRecorded core && k.deque.isEmpty && k.round.isNone && k.backoff.isNone &&
      s.noActorReady core then
    .next ((s.modDie (dieOfCore core) fun d => { d with stealRounds := d.stealRounds + 1 }).goRound core 0)
  else .refused (.notEnabled "STEAL_ROUND")

/-- What a core that replays must see of a request (20 R365). -/
def State.stealAllowed (s : State) (g : Nat) (r : StealRound) (v : Nat) (won : Bool) : Bool :=
  s.journalAllows g 2 (stealAt v (decide (63 < r.tried)) (s.core g).lfsr won)

/-- A victim's interface gives up the record at its far end, or answers empty (10 R193, R194). -/
def execStealRequest (core : Nat) (s : State) : Outcome :=
  match (s.core core).round with
  | some ⟨some v, n, none⟩ =>
    let r : StealRound := { victim := some v, tried := n }
    let d := (s.core v).deque
    let give := if s.teamStopped core || !s.sameTeam core v then none else d.getLast?
    if !s.stealAllowed core r v give.isSome then .refused (.notEnabled "STEAL_REQUEST")
    else
      let s' := match give with
        | some _ => s.setDeque v d.dropLast
        | none => s
      .next (s'.modCore core fun k =>
        { k with round := some { r with answer := some (give.map (s.taskOf v)) } })
  | _ => .refused (.notEnabled "STEAL_REQUEST")

/-- The thief receives the answer: a record becomes its stolen-task firing, else it asks the next victim. -/
def execStealAnswer (core : Nat) (s : State) : Outcome :=
  match (s.core core).round with
  | some ⟨some v, n, some a⟩ =>
    let s := s.journal core 2 (stealAt v (decide (63 < n)) (s.core core).lfsr a.isSome)
    match a with
    | none => .next (s.goRound core n)
    | some t =>
      let p : Pending :=
        { kind := 7, hidx := bits t.word0.toNat 5 0, src := v, since := t.since, promoted := t.promoted, tags := t.tags
          fa := [BitVec.ofNat 64 (bits t.word0.toNat 63 32), t.arg1, BitVec.ofNat 64 v] }
      .next (((s.modCore core fun k => { k with round := none }).post core p).count
        ⟨core, ((s.core core).freeCtx).getD 1⟩ 8 1)
  | _ => .refused (.notEnabled "STEAL_ANSWER")

/-- The links drop a core's steal request at the fourth failure of its parity (20 R355): the victim keeps its record, the
round goes on, its request recorded, and POISON is charged to the context that would have taken the task. Log entry 49. -/
def State.dropSteal (s : State) (g : Nat) : Outcome :=
  match (s.core g).round with
  | some ⟨some v, n, none⟩ =>
    let r : CtxRef := ⟨g, (s.core g).freeCtx.getD 1⟩
    let s := s.journal g 2 (stealAt v (decide (63 < n)) (s.core g).lfsr false)
    .next ((s.charge (s.record r 0x05 .network 0 0 0 .none)).goRound g n)
  | _ => .refused (.notEnabled "STEAL_REQUEST")

/-- The 1,024 cycles after a failed round end (10 R193). -/
def execStealBackoffExpiry (core : Nat) (s : State) : Outcome :=
  match (s.core core).backoff with
  | some t =>
    if t ≤ s.now then .next (s.modCore core fun k => { k with backoff := none })
    else .refused (.notEnabled "STEAL_BACKOFF_EXPIRY")
  | none => .refused (.notEnabled "STEAL_BACKOFF_EXPIRY")

end Sys2Proof.Machine
end

