-- ==== Sys2Proof/Machine/Task.lean ====
section
/-! DEFINITION. Task records, spawns, actor instructions and dependency pushes (11 R219-R223). -/

namespace Sys2Proof.Machine

/-- The record at W(ra): MISALIGN, or its bytes (11 R220). -/
def State.readTask (s : State) (ra : Reg) : Except Stop (Word × Word × State) :=
  let a := s.getW ra
  if !aligned a 16 then misalign a .read
  else do
    let (bs, t) ← s.load a 16
    match wordsOf bs with
    | [w0, w1] => .ok (w0, w1, t)
    | _ => illegal a

/-- CORE of a record replaced. -/
def withCore (w0 : Word) (g : Nat) : Word := (w0 &&& 0xFFFFFFFFFFE000FF) ||| (BitVec.ofNat 64 (g % 8192) <<< 8)

/-- `dqpush`'s condition: room in the deque. -/
def State.tryDqpush (s : State) (w0 w1 : Word) : Attempt :=
  .ok (if s.me.dequeRoom then some ((s.pushLocal s.cur.core w0 w1).modMe fun k => { k with backoff := none }).advance
    else none)

/-- `dqpush`: the record is pushed at the local end of the core's deque, waiting for room; a reserved bit is ILLEGAL (11 R220). -/
def execDqpush (ra : Reg) (s : State) : Outcome :=
  settle s do
    let (w0, w1, t) ← s.readTask ra
    if !taskOk w0 then t.found (.sys 0x01 (s.getW ra) 0 .none)
    else
    let w0 := withCore w0 s.cur.core
    t.waitOn (.dqpush w0 w1) (BitVec.ofNat 64 s.me.dequeCap) true (t.tryDqpush w0 w1)

/-- `dqpop`: the local-end record goes to memory and rd ← 1; rd ← 0 where the deque is empty (11 R220). -/
def execDqpop (rd ra : Reg) (s : State) : Outcome :=
  let a := s.getW ra
  settle s <|
    if !aligned a 16 then misalign a .write
    else match s.me.deque with
      | [] => .ok (s.retire rd 0)
      | r :: t => do
        let x := s.taskOf s.cur.core r
        let u ← s.store a (bytesOf [x.word0, x.arg1])
        return (u.setDeque s.cur.core t).retire rd 1

/-- `dqstat`: the records held and the capacity (11 R220). -/
def execDqstat (rd : Reg) (s : State) : Outcome :=
  .next (s.retire rd (BitVec.ofNat 64 (s.me.deque.length % 2 ^ 16 + s.me.dequeCap % 2 ^ 16 * 2 ^ 16)))

/-! ### Spawns (11 R221) -/

/-- `spawn`: a record is sent to the far end of a team core's deque, as a release that the record carries; the context waits for the
acknowledgement (11 R221). -/
def execSpawn (ra : Reg) (sc : Fin 8) (s : State) : Outcome :=
  settle s do
    let (w0, w1, t) ← s.readTask ra
    if !taskOk w0 then t.found (.sys 0x01 (s.getW ra) 0 .none)
    else if !s.sameTeam s.cur.core (taskCore w0) then t.found (.sys 0x03 (s.getW ra) (s.getW ra) .none)
    else
      let t := t.releaseWith sc.val
      .ok (t.modCx fun x =>
      { x with spawn := some ⟨w0, w1, .flying, t.relTags s.cur.core sc.val⟩
               wait := some { op := .spawn, word := s.curWord, since := s.now, limit := some s.me.waitlim.toNat } })

/-- A context's spawn is replaced. -/
def State.setSpawn (s : State) (r : CtxRef) (x : Option Spawn) : State := s.modCtx r fun y => { y with spawn := x }

/-- The wait of a spawned record for room has ended without it (03 R67). -/
def Context.spawnLate (x : Context) : Bool := x.wait.any fun w => w.op == .spawn && w.mark == some false

/-- A spawned record reaches its target's interface: it is pushed at the far end where there is room, else held there, where
the wait for room begins (11 R221, 03 R67). One whose wait has ended is only pushed while its withdrawal is on its way. -/
def execSpawnPush (core : Nat) (ctx : CtxId) (s : State) : Outcome :=
  let c := s.ctx ⟨core, ctx⟩
  match c.spawn with
  | none => .refused (.notEnabled "SPAWN_PUSH")
  | some x =>
    let g := taskCore x.word0
    let room := (s.core g).dequeRoom
    match x.stage, room && (x.stage != .heldFull || !c.spawnLate) with
    | .flying, true | .heldFull, true | .withdrawing, true =>
      .next ((s.pushFar g x.word0 x.arg1 ⟨core, ctx⟩ x.tags).setSpawn ⟨core, ctx⟩ (some { x with stage := .pushed }))
    | .flying, false =>
      .next ((s.setSpawn ⟨core, ctx⟩ (some { x with stage := .heldFull })).modCtx ⟨core, ctx⟩ fun y =>
        { y with wait := y.wait.map fun w => { w with since := s.now } })
    | _, _ => .refused (.notEnabled "SPAWN_PUSH")

/-- The target drops a held record on withdrawal. -/
def execSpawnWithdraw (core : Nat) (ctx : CtxId) (s : State) : Outcome :=
  match (s.ctx ⟨core, ctx⟩).spawn with
  | some x =>
    if x.stage = .withdrawing then .next (s.setSpawn ⟨core, ctx⟩ (some { x with stage := .withdrawn }))
    else .refused (.notEnabled "SPAWN_WITHDRAW")
  | none => .refused (.notEnabled "SPAWN_WITHDRAW")

/-- The spawner receives the acknowledgement: of the push, and its `spawn` completes, or of the withdrawal, and WAITLIMIT is
taken with EVAL = r.CORE. -/
def execSpawnAck (core : Nat) (ctx : CtxId) (s : State) : Outcome :=
  let r : CtxRef := ⟨core, ctx⟩
  match (s.ctx r).spawn with
  | some ⟨_, _, .pushed, _⟩ =>
    .next ((s.setSpawn r none).modCtx r fun x => if x.wait.any (·.op == .spawn) then x.advance else x)
  | some ⟨a, _, .withdrawn, _⟩ =>
    let x := s.ctx r
    let v := BitVec.ofNat 64 (taskCore a)
    if x.wait.any (·.op == .spawn) then
      .next (((s.setSpawn r none).count r 13 1).enterTrap r 0x06 x.ws.pc v v false)
    else .next (s.setSpawn r none)
  | _ => .refused (.notEnabled "SPAWN_ACK")

/-! ### Actor instructions (11 R222) -/

/-- ILLEGAL of an actor instruction with a code. -/
def actorIllegal {α : Type} (n : Nat) : Except Stop α := illegal (BitVec.ofNat 64 n)

/-- `actdecl`: the slot's declaration ← W(ra) (11 R222). -/
def execActdecl (ra : Reg) (slot : Fin 8) (s : State) : Outcome :=
  let d := s.getW ra
  let a := s.me.actors[slot]
  settle s <|
    if !actorDeclOk d then illegal d
    else if a.armed || a.firing then actorIllegal (0x100 + slot.val)
    else .ok (s.modMe fun k => { k with actors := k.actors.set slot.val { decl := d } slot.isLt }).advance

/-- The first term whose handle is not bound on its side. -/
def State.actorUnbound (s : State) (d : Word) : Option (Fin 8) :=
  ((actorTerms d).find? fun t => !(cbBound (s.getCb t.1) && cbProd (s.getCb t.1) == t.2.2)).map (·.1)

/-- The counter pairs of an actor's terms pass the checks of an access (14 R258). -/
def State.actorPairs (s : State) : List (Fin 8 × Nat × Bool) → Except Stop Unit
  | [] => .ok ()
  | t :: u =>
    let c := cbPair (s.getCb t.1)
    match s.resolve (s.whoOwn s.cur.core) .read c.toNat 8 with
    | .error b => .error (.sys b.cause c b.addr .read)
    | .ok _ => State.actorPairs s u

/-- `actarm`: the slot is armed with copies of its handles; one that is armed or holds a firing is unchanged (11 R222). -/
def execActarm (slot : Fin 8) (s : State) : Outcome :=
  let a := s.me.actors[slot]
  settle s <|
    if !actorAval a.decl then actorIllegal (0x200 + slot.val)
    else if a.armed || a.firing then .ok s.advance
    else match s.actorUnbound a.decl with
      | some h => actorIllegal (0x300 + 8 * slot.val + h.val)
      | none => do
        s.actorPairs (actorTerms a.decl)
        let b : Actor := { a with
          armed := true, off := false, byCtx := s.cur.ctx
          cbs := (actorTerms a.decl).map fun t => (t.1, s.getCb t.1) }
        return (s.modMe fun k => { k with actors := k.actors.set slot.val b slot.isLt }).advance

/-- `actoff`: the slot is disarmed, at its firing's `done` where it holds one (11 R222). -/
def execActoff (slot : Fin 8) (s : State) : Outcome :=
  let f := fun (a : Actor) => if a.firing then { a with off := true } else { a with armed := false }
  .next (s.modMe fun k => { k with actors := modAt k.actors slot.val f }).advance

/-! ### Dependency pushes (11 R223) -/

/-- A zeroed object's record is pushed at the far end of its core's deque once there is room. -/
def execDependencyPush (i : Nat) (s : State) : Outcome :=
  match s.dev.pushes[i]? with
  | none => .refused (.notEnabled "DEPENDENCY_PUSH")
  | some p =>
    if (s.core p.target).dequeRoom then
      let s := s.modDev fun v => { v with pushes := v.pushes.eraseIdx i }
      .next (s.pushFar p.target p.word0 p.arg1 ⟨p.core, p.ctx⟩ p.tags)
    else .refused (.notEnabled "DEPENDENCY_PUSH")

end Sys2Proof.Machine
end

