-- ==== Sys2Proof/Machine/Bar.lean ====
section
/-! DEFINITION. Hardware barriers (10 R186, R201, 11 R224-R226) and barrier objects (15 R292-R294). -/

namespace Sys2Proof.Machine

/-! ### Links and the pod group (21 R374, R377) -/

/-- The base of a link's registers. -/
def linkReg (l : Nat) : Nat := 0x060000 + 0x20 * l

/-- UP. -/
def State.linkUp (s : State) (l : Nat) : Bool := (s.bar (linkReg l)).getLsbD 8

/-- A valid pairing of a link with a team. -/
def State.linkPaired (s : State) (l tid : Nat) : Bool :=
  let p := s.bar (linkReg l + 8)
  p.getLsbD 63 && p.toNat % 65536 == tid && tid != 0

/-- The pairing of a link is symmetric: the other end holds a valid pairing with LTID and PTID exchanged (21 R377). -/
def State.linkSymmetric (s : State) (l : Nat) : Bool :=
  let p := (s.bar (linkReg l + 8)).toNat
  let q := ((SMap.find s.dev.peerPairs l).getD 0).toNat
  bit p 63 && bit q 63 && bits q 15 0 == bits p 31 16 && bits q 31 16 == bits p 15 0

/-- The links whose peer teams belong to a team's pod group: its symmetric pairings (21 R377). -/
def State.podLinks (s : State) (tid : Nat) : List Nat :=
  (List.range 12).filter fun l => s.linkPaired l tid && s.linkSymmetric l

/-- The pairing register at the other end of a link is written. -/
def State.peerPairing (s : State) (l : Nat) (v : Word) : Outcome :=
  if l < 12 then .next (s.modDev fun d => { d with peerPairs := SMap.put d.peerPairs l v }) else .refused (.notEnabled "peerPairing")

/-! ### Hardware barriers -/

/-- The instance of a level that a core belongs to. -/
def barGroup (level g : Nat) : Nat :=
  match level with
  | 0 => quadOfCore g
  | 1 => cluOfCore g
  | 2 => dieOfCore g
  | _ => 0

/-- The key of a barrier instance. -/
def barKey (level g id : Nat) : Nat := level * 2 ^ 20 + barGroup level g * 16 + id

/-- The member cores of a barrier instance. -/
def Team.barMembers (t : Team) (level g : Nat) : List Nat :=
  (t.clus.flatMap fun c => (List.range 64).map (64 * c + ·)).filter fun m => barGroup level m == barGroup level g

/-- A barrier instance of the team on a core. -/
def State.barrier (s : State) (g key : Nat) : Barrier :=
  ((s.teamOf g).bind fun t => SMap.find t.bars key).getD {}

/-- The generation that a core knows of an instance, and when its release reached the core. -/
def Core.barKnown (k : Core) (key : Nat) : Nat × Nat := (SMap.find k.barSeen key).getD (0, 0)

/-- W(ra) as a barrier id (11 R224). -/
def barId (a : Word) : Except Stop Nat := if 15 < a.toNat then illegal a else .ok a.toNat

/-- EVAL of a barrier wait. -/
def barVal (level id : Nat) : Word := BitVec.ofNat 64 (level * 16 + id)

/-- The scope of a level (11 R226). -/
def barScope (level : Nat) : Nat := level + 1

/-- Every member has arrived, so that the generation ends; an instance that spans linked modules ends with its release
message instead. -/
def State.barEnds (s : State) (g level : Nat) (arrived : List Nat) : Bool :=
  match s.teamOf g with
  | none => true
  | some t => (t.barMembers level g).all (fun m => arrived.contains m) && !(level == 4 && !(s.podLinks (s.tidOf g)).isEmpty)

/-- The delay D of a core (10 R201). -/
def State.barDelay (s : State) (g : Nat) : Nat :=
  (s.core g).bstep.toNat * ((cluOfCore g % 32 * 16 + quadOfCore g % 16) % 128)

/-- The barrier after the arrivals of a generation have ended it. -/
def Barrier.next (b : Barrier) (tags : List Tag) : Barrier := { gen := (b.gen + 1) % 65536, done := (b.done ++ tags).dedup }

/-- `bar.wait`'s condition: the generation this core knows differs from the token; then it leaves D cycles after the release
reached it, and acquires what the arrivals released (11 R226). -/
def State.tryBarWait (s : State) (level id : Nat) (token : BitVec 16) : Attempt :=
  let g := s.cur.core
  let (gen, t) := s.me.barKnown (barKey level g id)
  let leave := t + s.barDelay g
  let acquired := s.acquire { s.whoOwn g with acq := some (barScope level) } (s.barrier g (barKey level g id)).done
  .ok (if gen = token.toNat then none
    else some (acquired.advance.modCx fun x => { x with stagger := if s.now < leave then some leave else none }))

/-- An arrival: once per core and generation, as a release; W(rd) ← the generation (11 R225, R226). -/
def State.tryBarArr (s : State) (level id : Nat) (rd : Reg) (thenWait : Bool) : Attempt :=
  let g := s.cur.core
  let key := barKey level g id
  let b := s.barrier g key
  if b.arrived.contains g || (s.me.barKnown key).1 != b.gen then .ok none
  else
    let arrived := b.arrived ++ [g]
    let t := s.releaseWith (barScope level)
    let tags := (b.tags ++ t.relTags g (barScope level)).dedup
    let b' : Barrier := if s.barEnds g level arrived then b.next tags else { b with arrived, tags }
    let t := t.modTeam (s.tidOf g) fun t => { t with bars := SMap.put t.bars key b' }
    let t := t.setW rd (BitVec.ofNat 64 b.gen)
    if thenWait then
      let token := BitVec.ofNat 16 b.gen
      let t := t.modCx fun x => { x with wait := none }
      match t.waitOn (.barWait level id token) (barVal level id) true (t.tryBarWait level id token) with
      | .ok u => .ok (some u)
      | .error e => .ok (some (t.stop e))
    else .ok (some t.advance)

/-- `bar.arr`: arrives, once the core's earlier arrival is released; W(rd) ← the generation (11 R225). -/
def execBarArr (rd ra : Reg) (level : Fin 32) (s : State) : Outcome :=
  settle s do
    let id ← barId (s.getW ra)
    s.waitOn (.barArr level.val id rd false) (barVal level.val id) true (s.tryBarArr level.val id rd false)

/-- `bar.arrw`: arrives and then waits with the token just written (11 R225). -/
def execBarArrw (rd ra : Reg) (level : Fin 32) (s : State) : Outcome :=
  settle s do
    let id ← barId (s.getW ra)
    s.waitOn (.barArr level.val id rd true) (barVal level.val id) true (s.tryBarArr level.val id rd true)

/-- `bar.wait`: waits until the generation differs from the token W(rb) (11 R225). -/
def execBarWait (ra rb : Reg) (level : Fin 32) (s : State) : Outcome :=
  let t := s.getW rb
  settle s do
    let id ← barId (s.getW ra)
    if 65535 < t.toNat then illegal t
    else
      let token : BitVec 16 := t.setWidth 16
      s.waitOn (.barWait level.val id token) (barVal level.val id) true (s.tryBarWait level.val id token)

/-- A release reaches a member core (11 R226); at pod level with linked modules it is their release message, which comes once
every member here has arrived and every link of the group is up (21 R417). -/
def execBarrierRelease (core : Nat) (level : Fin 5) (id : Fin 16) (s : State) : Outcome :=
  let key := barKey level.val core id.val
  let b := s.barrier core key
  let tid := s.tidOf core
  let learn := fun (s : State) (gen : Nat) =>
    (s.modCore core fun k => { k with barSeen := SMap.put k.barSeen key (gen, s.now) }).wake core
  match s.teamOf core with
  | none => .refused (.notEnabled "BARRIER_RELEASE")
  | some t =>
    if ((s.core core).barKnown key).1 ≠ b.gen then .next (learn s b.gen)
    else if level = 4 ∧ !(s.podLinks tid).isEmpty ∧ (s.podLinks tid).all s.linkUp ∧
        (t.barMembers 4 core).all (fun m => b.arrived.contains m) then
      let b' : Barrier := b.next b.tags
      .next (learn (s.modTeam tid fun t => { t with bars := SMap.put t.bars key b' }) b'.gen)
    else .refused (.notEnabled "BARRIER_RELEASE")

/-- The delay D of a core ends (10 R201). -/
def execBarrierStaggerExpiry (core : Nat) (ctx : CtxId) (s : State) : Outcome :=
  match (s.ctx ⟨core, ctx⟩).stagger with
  | some t =>
    if t ≤ s.now then .next (s.modCtx ⟨core, ctx⟩ fun x => { x with stagger := none })
    else .refused (.notEnabled "BARRIER_STAGGER_EXPIRY")
  | none => .refused (.notEnabled "BARRIER_STAGGER_EXPIRY")

/-! ### Barrier objects (15 R292-R294) -/

/-- EXP of an object. -/
def obExp (o : Nat) : Nat := bits o 15 0

/-- ARR. -/
def obArr (o : Nat) : Nat := bits o 31 16

/-- PH. -/
def obPh (o : Nat) : Nat := bits o 35 32

/-- An object lies in TCM, Pond or Lake (15 R292). -/
def objectPlace (ea : Word) (k : Kind) (rs : List Run) : Except Stop Unit :=
  if rs.all fun r => match r.space with
      | .tcm _ | .pond _ | .lake _ => true
      | _ => false
  then .ok () else .error (.sys 0x03 ea ea k)

/-- The object after an accepted arrival of `n` members by a core at a cycle. -/
def obAccept (o n core cyc : Nat) : Nat :=
  let arr := obArr o + n
  let low := if arr = obExp o then obExp o + (obPh o + 1) % 16 * 2 ^ 32 else obExp o + arr * 2 ^ 16 + obPh o * 2 ^ 32
  low + (if bit o 36 then 2 ^ 36 else 0) + cyc % 2 ^ 51 * 2 ^ 64 + core % 2 ^ 13 * 2 ^ 115

/-- `obar.arr`: arrives for W(rb) members in one 16-byte atomic operation with release; W(rd) ← the phase before, or
BARRIER_OVERRUN with OVR set (15 R293). -/
def execObarArr (rd ra rb : Reg) (sc : Fin 8) (s : State) : Outcome :=
  let ea := s.getW ra
  let n := (s.getW rb).toNat
  settle s <|
    if n = 0 ∨ 255 < n then illegal (s.getW rb)
    else do
      let (bs, rs, t) ← s.atomBegin ea 16 none (some sc.val)
      objectPlace ea .amo rs
      let o := ofBytes bs
      if bits o 63 37 ≠ 0 then t.found (.sys 0x01 ea 0 .none)
      else if obExp o < obArr o + n then
        let o' := if bit o 36 then o else o + 2 ^ 36
        return (t.atomWrite rs (toBytes 16 o') (some sc.val)).userTrap 0x0C (BitVec.ofNat 64 (n * 2 ^ 32 + o' % 2 ^ 32)) (s.ia + 4)
      else return (t.atomWrite rs (toBytes 16 (obAccept o n s.cur.core s.now)) (some sc.val)).retire rd (BitVec.ofNat 64 (obPh o))

/-- `obar.wait`'s condition: the object's phase, read with acquire, differs from the token. -/
def State.tryObarWait (s : State) (ea : Word) (phase : BitVec 4) (sc : Nat) : Attempt :=
  if !aligned ea 16 then misalign ea .read
  else do
    let (rs, _) ← orStop .read (s.resolve (s.whoOwn s.cur.core) .read ea.toNat 16)
    if rs.any fun r => match r.space with
        | .tcm g => (List.range r.len).any fun i => ((s.core g).wsAt ((r.place + i) % 0x80000)).isSome
        | _ => false
    then .error (.sys 0x11 ea ea .read)
    else
      objectPlace ea .read rs
      let (bs, t) ← s.load ea 16 (some sc)
      return if obPh (ofBytes bs) = phase.toNat then none else some t.advance

/-- `obar.wait`: waits until the object's phase differs from the token W(rb) (15 R294). -/
def execObarWait (ra rb : Reg) (sc : Fin 8) (s : State) : Outcome :=
  let ea := s.getW ra
  let t := s.getW rb
  settle s <|
    if 15 < t.toNat then illegal t
    else s.waitOn (.obarWait ea (t.setWidth 4) sc.val) ea true (s.tryObarWait ea (t.setWidth 4) sc.val)

end Sys2Proof.Machine
end

