-- ==== Sys2Proof/Machine/BitStream.lean ====
section
/-! DEFINITION. The bit buffer BSB, BSP, BSN and the `bs` instructions (08 R154-R157). -/

namespace Sys2Proof.Machine

/-- CNT, the bits held. -/
def Workspace.bsCnt (w : Workspace) : Nat := bits w.bsn.toNat 6 0

/-- DIR: writing. -/
def Workspace.bsDir (w : Workspace) : Bool := w.bsn.getLsbD 31

/-- BSN of a direction and a count. -/
def bsnOf (dir : Bool) (cnt : Nat) : BitVec 32 := BitVec.ofNat 32 ((if dir then 2 ^ 31 else 0) + cnt)

/-- The bits held, as a number. -/
def Workspace.bsHeld (w : Workspace) : Nat := w.bsb.toNat % 2 ^ w.bsCnt

/-- The address of the next block. -/
def Workspace.bsBlock (w : Workspace) : Word := 0x8000000000000000 + w.bsp.setWidth 64

/-- The count of a form: n mod 64 encodes n (08 R155). -/
def bsN (n : Fin 64) : Nat := if n.val = 0 then 64 else n.val

/-- The state checks of 08 R157: the direction, where the minor has one, then the state's form. -/
def Workspace.bsCheck (w : Workspace) (dir : Option Bool) : Except Stop Unit :=
  if dir.any fun d => d != w.bsDir then illegal 1
  else if 64 < w.bsCnt ∨ bits w.bsn.toNat 30 7 ≠ 0 ∨ w.bsp.toNat % 8 ≠ 0 then illegal 2
  else .ok ()

/-- `bsinit`: the buffer is empty at a TCM address in a direction; BSN[30:7] stays (08 R156). -/
def execBsinit (ra : Reg) (dir : Fin 2) (s : State) : Outcome :=
  let a := s.getW ra
  settle s <|
    if !aligned a 8 then misalign a .none
    else if a.toNat < 0x8000000000000000 ∨ 0x8000000000080000 ≤ a.toNat then .error (.sys 0x03 a a .none)
    else .ok (s.modWs fun w => { w with bsp := a.setWidth 32, bsb := 0, bsn := (w.bsn &&& 0x7FFFFF80) ||| bsnOf (dir == 1) 0 }).advance

/-- The first `n` bits of the stream, with the refilled bits, count and pointer, and the state after a block read
(08 R156). -/
def State.bsFetch (s : State) (n : Nat) : Except Stop (Nat × Nat × BitVec 32 × State) := do
  let w := s.cx.ws
  w.bsCheck (some false)
  let c := w.bsCnt
  if c < n then do
    let (bs, t) ← s.load w.bsBlock 8
    return (w.bsHeld + ofBytes bs * 2 ^ c, c + 64, w.bsp + 8, t)
  else return (w.bsHeld, c, w.bsp, s)

/-- The stream after `n` bits are consumed. -/
def State.bsConsume (s : State) (t m n : Nat) (p : BitVec 32) : State :=
  s.modWs fun w => { w with bsb := BitVec.ofNat 64 (t / 2 ^ n), bsn := bsnOf false (m - n), bsp := p }

/-- `bsget`: rd ← the next n bits, which are consumed (08 R156). -/
def execBsget (rd : Reg) (n : Fin 64) (s : State) : Outcome :=
  settle s do
    let (t, m, p, u) ← s.bsFetch (bsN n)
    return (u.bsConsume t m (bsN n) p).retire rd (BitVec.ofNat 64 (t % 2 ^ bsN n))

/-- `bspeek`: rd ← the next n bits; the state is unchanged (08 R156). -/
def execBspeek (rd : Reg) (n : Fin 64) (s : State) : Outcome :=
  settle s do
    let (t, _, _, u) ← s.bsFetch (bsN n)
    return u.retire rd (BitVec.ofNat 64 (t % 2 ^ bsN n))

/-- `bsskip`: the next n bits are consumed (08 R156). -/
def execBsskip (n : Fin 64) (s : State) : Outcome :=
  settle s do
    let (t, m, p, u) ← s.bsFetch (bsN n)
    return (u.bsConsume t m (bsN n) p).advance

/-- `bsput`: n bits are appended; 64 held bits are written as a block (08 R156). -/
def execBsput (ra : Reg) (n : Fin 64) (s : State) : Outcome :=
  settle s do
    let w := s.cx.ws
    w.bsCheck (some true)
    let c := w.bsCnt
    let t := w.bsHeld + (s.getW ra).toNat % 2 ^ bsN n * 2 ^ c
    if 64 ≤ c + bsN n then do
      let u ← s.store w.bsBlock (toBytes 8 t)
      return (u.modWs fun w => { w with
        bsp := w.bsp + 8, bsb := BitVec.ofNat 64 (t / 2 ^ 64), bsn := bsnOf true (c + bsN n - 64) }).advance
    else return (s.modWs fun w => { w with bsb := BitVec.ofNat 64 t, bsn := bsnOf true (c + bsN n) }).advance

/-- `bsflush`: the held bits are written as a block; the state is unchanged (08 R156). -/
def execBsflush (s : State) : Outcome :=
  settle s do
    let w := s.cx.ws
    w.bsCheck (some true)
    let u ← s.store w.bsBlock (toBytes 8 w.bsHeld)
    return u.advance

/-- `bsalign`: to a byte boundary, by dropping bits when reading and by zero bits when writing (08 R156). -/
def execBsalign (s : State) : Outcome :=
  settle s do
    let w := s.cx.ws
    w.bsCheck none
    let c := w.bsCnt
    if w.bsDir then
      let m := c + (8 - c % 8) % 8
      if m = 64 then do
        let u ← s.store w.bsBlock (toBytes 8 w.bsHeld)
        return (u.modWs fun w => { w with bsp := w.bsp + 8, bsb := 0, bsn := bsnOf true 0 }).advance
      else return (s.modWs fun x => { x with bsb := BitVec.ofNat 64 w.bsHeld, bsn := bsnOf true m }).advance
    else return (s.modWs fun x => { x with bsb := x.bsb >>> (c % 8), bsn := bsnOf false (c - c % 8) }).advance

/-- `bspos`: rd ← the stream's bit position from TCM byte 0 (08 R156). -/
def execBspos (rd : Reg) (s : State) : Outcome :=
  settle s do
    let w := s.cx.ws
    w.bsCheck none
    let b : Int := 8 * (w.bsp.toNat : Int)
    return s.retire rd (wordOfInt (if w.bsDir then b + w.bsCnt else b - w.bsCnt))

end Sys2Proof.Machine
end

