-- ==== Sys2Proof/Machine/Branch.lean ====
section
/-! DEFINITION. Branches and jumps (06 R111-R114). The target is checked at the next fetch (06 R114). -/

namespace Sys2Proof.Machine

/-- A branch: to IA + sext(off)×4 if the condition holds, else on (06 R111). -/
def State.branch (s : State) (ra rb : Reg) (off : BitVec 16) (cond : Word → Word → Bool) : Outcome :=
  .next (if cond (s.getW ra) (s.getW rb) then s.jump (branchTarget s.ia off) else s.advance)

/-- `beq`: branches when W(ra) = W(rb) (06 R111). -/
def execBeq (ra rb : Reg) (off : BitVec 16) (s : State) : Outcome := s.branch ra rb off fun a b => a == b

/-- `bne`: branches when W(ra) ≠ W(rb) (06 R111). -/
def execBne (ra rb : Reg) (off : BitVec 16) (s : State) : Outcome := s.branch ra rb off fun a b => a != b

/-- `blt`: branches when int(W(ra)) < int(W(rb)) (06 R111). -/
def execBlt (ra rb : Reg) (off : BitVec 16) (s : State) : Outcome := s.branch ra rb off fun a b => a.slt b

/-- `bge`: branches when int(W(ra)) ≥ int(W(rb)) (06 R111). -/
def execBge (ra rb : Reg) (off : BitVec 16) (s : State) : Outcome := s.branch ra rb off fun a b => !a.slt b

/-- `bltn`: branches when nat(W(ra)) < nat(W(rb)) (06 R111). -/
def execBltn (ra rb : Reg) (off : BitVec 16) (s : State) : Outcome := s.branch ra rb off fun a b => a.ult b

/-- `bgen`: branches when nat(W(ra)) ≥ nat(W(rb)) (06 R111). -/
def execBgen (ra rb : Reg) (off : BitVec 16) (s : State) : Outcome := s.branch ra rb off fun a b => !a.ult b

/-- `jal`: rd ← IA + 4, then PC ← IA + sext(off, 21)×4 (06 R112). -/
def execJal (rd : Reg) (off : BitVec 21) (s : State) : Outcome :=
  .next ((s.setW rd (s.ia + 4)).jump (branchTarget s.ia off))

/-- `jalr`: t ← W(ra) + sext(imm), read before rd ← IA + 4, then PC ← t (06 R113). -/
def execJalr (rd ra : Reg) (imm : BitVec 16) (s : State) : Outcome :=
  let t := s.getW ra + imm.signExtend 64
  .next ((s.setW rd (s.ia + 4)).jump t)

end Sys2Proof.Machine
end

