-- ==== Sys2Proof/Machine/Tiles.lean ====
section
/-! DEFINITION. What Lantern commands compute from tiles: element values, rows in memory, products, masks, norms and the
optimiser step (09 R169-R181, 02 R43-R44). -/

namespace Sys2Proof.Machine

/-! ### Elements and rows (09 R170, R171) -/

/-- The width in bits of a tile format: FP32, BF16, FP16, q8, q4, MASK. -/
def fmtWidth (f : Nat) : Nat := ([32, 16, 16, 8, 4, 1] : List Nat).getD f 32

/-- The byte size that an element aligns to. -/
def fmtAlign (f : Nat) : Nat := if f = 0 then 4 else if f = 1 ∨ f = 2 then 2 else 1

/-- A shape whose rows end on whole bytes. -/
def shapeOk (f cols : Nat) : Bool := !(f == 4 && cols % 2 != 0) && !(f == 5 && cols % 8 != 0)

/-- The exact value of an element through a format context. -/
def FormatCtx.val (c : FormatCtx) (f x : Nat) : Val :=
  match f with
  | 0 => fp32.val x
  | 1 => bf16.val x
  | 2 => fp16.val x
  | 3 => f19.val (decodeCode true (tableOf true c.q8) x)
  | 4 => f19.val (decodeCode false (tableOf false c.q4) x)
  | _ => .num false x 0

/-- Element (i, j). -/
def Tile.at (t : Tile) (i j : Nat) : Nat := t.els.getD (i * t.cols + j) 0

/-- A tile of a shape from its elements. -/
def Tile.build (t : Tile) (f : Nat → Nat → Nat) : Tile :=
  { t with els := (List.range t.rows).flatMap fun i => (List.range t.cols).map fun j => f i j }

/-- The bytes of a row. -/
def rowBytes (f cols : Nat) : Nat := cols * fmtWidth f / 8

/-- A row of elements as bytes, the lowest first. -/
def packRow (f : Nat) (xs : List Nat) : List Byte := toBytes (rowBytes f xs.length) (joinLanes (fmtWidth f) xs)

/-- The elements of a row. -/
def unpackRow (f cols : Nat) (bs : List Byte) : List Nat :=
  let x := ofBytes bs
  (List.range cols).map fun j => x / 2 ^ (fmtWidth f * j) % 2 ^ fmtWidth f

/-- Row `i` of a tile. -/
def Tile.row (t : Tile) (i : Nat) : List Nat := (t.els.drop (i * t.cols)).take t.cols

/-- Where logical byte `j` of a row that starts at `a` lies under the swizzle (09 R176, 17 R302). -/
def swizzled (a : Word) (c nch swb j : Nat) : Word :=
  let x := (j / c) ^^^ (a.toNat / 2 ^ swb % nch)
  a + BitVec.ofNat 64 (x * c + j % c)

/-! ### Products (09 R177, 02 R44) -/

/-- Zero in a sum of no terms. -/
def sumVals : List Val → Val
  | [] => .num false 0 0
  | v :: t => t.foldl (fun a b => (a.add 0 b).val) v

/-- rne32 of an exact value. -/
def rne32 (x : Val) : Nat := (fp32.deliver 0 x).bits

/-- The product of two operand tiles into TC: `tr` takes A along columns; scales are e8 bytes by row of A and column of B. -/
def mmaTile (c : FormatCtx) (tr : Bool) (sa sb : Option (List Nat)) (ta tb tc : Tile) : Tile :=
  let k := if tr then ta.rows else ta.cols
  let sc := fun (s : Option (List Nat)) (i : Nat) (v : Val) =>
    match s with
    | some l => scaleVal v (l.getD i 127)
    | none => v
  let a := fun i x => sc sa i (c.val ta.fmt (if tr then ta.at x i else ta.at i x))
  let b := fun x j => sc sb j (c.val tb.fmt (tb.at x j))
  tc.build fun i j =>
    let ps := (List.range k).map fun x => ((a i x).mul (b x j)).val
    rne32 (sumVals (if c.acct then ps else fp32.val (tc.at i j) :: ps))

/-- The shapes of a product agree. -/
def mmaShapes (tr : Bool) (ta tb tc : Tile) : Bool :=
  let m := if tr then ta.cols else ta.rows
  let k := if tr then ta.rows else ta.cols
  m == tc.rows && k == tb.rows && tb.cols == tc.cols

/-- The NaN counts of scale bytes of 0xFF: each operand element that one scales. -/
def scaleNans (k : Nat) (s : Option (List Nat)) : Nat := (s.elim 0 fun l => (l.filter (· == 255)).length) * k

/-! ### Masks and norms (09 R179, R180) -/

/-- Elements of TD where TK is 0 become 0. -/
def maskApply (td tk : Tile) : Tile := td.build fun i j => if tk.at i j = 0 then 0 else td.at i j

/-- TK marks the elements of TD above +0. -/
def maskMake (c : FormatCtx) (td tk : Tile) : Tile :=
  tk.build fun i j => if (Val.num false 0 0).lt (c.val td.fmt (td.at i j)) then 1 else 0

/-- The exact sum of the squares of a tile. -/
def normVal (c : FormatCtx) (t : Tile) : Val :=
  let vs := t.els.map (c.val t.fmt)
  if vs.any Val.isNan then .nan false else sumVals (vs.map fun v => (v.mul v).val)

/-! ### The optimiser step (09 R181) -/

/-- The square root of an exact value to 600 bits below its leading bit, the last one sticky. -/
def sqrtDeep : Val → Val
  | .num x m e =>
    if m = 0 then .num x 0 0
    else if x then .nan false
    else
      let odd : Nat := (e % 2).toNat
      let t := m * 2 ^ (1200 + odd)
      let r := isqrt t (Nat.log2 t / 2 + 1) 0
      .num false (2 * r + (if r * r = t then 0 else 1)) ((e - odd - 1200) / 2 - 1)
  | .inf x => if x then .nan false else .inf false
  | .nan _ => .nan false

/-- The FP32 scalars of an MOPT: LR, B1, B2, EPS, WD, CLIP. -/
structure OptArgs where
  lr : Nat
  b1 : Nat
  b2 : Nat
  eps : Nat
  wd : Nat
  clip : Nat
  deriving DecidableEq, Repr

/-- CLIP is not NaN and above 0. -/
def OptArgs.ok (o : OptArgs) : Bool := (Val.num false 0 0).lt (fp32.val o.clip)

/-- The clipping factor of a norm, or none where the norm is NaN, +∞ or below −0. -/
def optClip (o : OptArgs) (nrm : Nat) : Option Nat :=
  let n := fp32.val nrm
  if n.isNan || n == .inf false || n.lt (.num false 0 0) then none
  else if (fp32.val o.clip).lt n then some (rne32 ((fp32.val o.clip).div n).val)
  else some 0x3F800000

/-- One element: the new weight in its format with its count, and the new moments. -/
def optElem (o : OptArgs) (wfmt cl w g m v : Nat) : Elem × Nat × Nat :=
  let x := fp32.val
  let mul := fun (a b : Val) => (a.mul b).val
  let add := fun (a b : Val) => (a.add 0 b).val
  let one := Val.num false 1 0
  let g := rne32 (mul (x g) (x cl))
  let m := rne32 (add (mul (x o.b1) (x m)) (mul (add one (x o.b1).negate) (x g)))
  let v := rne32 (add (mul (x o.b2) (x v)) (mul (mul (add one (x o.b2).negate) (x g)) (x g)))
  let d := rne32 (add (sqrtDeep (x v)) (x o.eps))
  let u := rne32 ((x m).div (x d)).val
  let f := if wfmt = 1 then bf16 else fp32
  let wv := f.val w
  let step := mul (x o.lr) (add (x u) (mul (x o.wd) wv))
  (deliverElem f 0 (add wv step.negate), m, v)

/-- The optimiser step on the tiles TW, TG, TM and TV: the new TW, TM and TV, and what a BF16 TW counts. -/
def optTiles (o : OptArgs) (cl : Nat) (tw tg tm tv : Tile) : Tile × Tile × Tile × Counts :=
  let e := fun i j => optElem o tw.fmt cl (tw.at i j) (tg.at i j) (tm.at i j) (tv.at i j)
  let cells := (List.range tw.rows).flatMap fun i => (List.range tw.cols).map fun j => (e i j).1.count
  (tw.build fun i j => (e i j).1.bits, tm.build fun i j => (e i j).2.1, tv.build fun i j => (e i j).2.2,
    if tw.fmt = 1 then cells.foldl (fun n c => n.plus c.counts) {} else {})

end Sys2Proof.Machine
end

