-- ==== Sys2Proof/Machine/Layer.lean ====
section
/-! DEFINITION. Layer records and their registry (18 R322-R324, R419), match entries (12 R234), ring tiles (12 R229) and the
writes that engines make when their work ends (15 R418). -/

namespace Sys2Proof.Machine

/-! ### Completion writes (15 R418) -/

/-- The agent that a record names for an engine (20 R349). -/
def Engine.agent : Engine → Agent
  | .copy => .copy
  | .ring _ => .ring
  | _ => .dieEngine

/-- An engine's position (15 R273). -/
def Engine.level : Engine → Nat
  | .copy => 0
  | .ring _ => 2
  | _ => 3

/-- A record that an engine posts for a context that it does not suspend (20 R351). -/
def State.engineRecord (s : State) (r : CtxRef) (agent : Agent) (b : Bad) (kind : Kind) (held : Held) (xid : BitVec 16 := 0) :
    FaultRec :=
  { s.record r b.cause agent 0 b.addr b.addr kind with suspends := false, held, xid }

/-- An engine as an agent that acts for a core (15 R273). -/
def State.whoEngine (s : State) (g : Nat) : Engine → Who
  | .coll d | .reshard d | .prune d => s.whoDie g d
  | e => s.whoAgent g e.level

/-- An engine writes bytes, or adds a 32-bit value, with release at a scope where one is given, which owes `tags` beside what the
engine has read; it answers whether the access is made. XLATE holds it in a fault record, which names the
transfer or phase; another failure drops it and is charged to the context that named the address. -/
def State.tryComplete (s : State) (r : CtxRef) (e : Engine) (a : Word) (bs : List Byte) (sc : Option Nat)
    (add : Bool := false) (xid : BitVec 16 := 0) (tags : List Tag := []) : Bool × State :=
  let who := s.whoEngine r.core e
  let res := if add then
      (s.agentAtom who a bs.length (fun o => toBytes bs.length (ofBytes o + ofBytes bs)) (sc := sc) (tags := tags)).map (·.2)
    else s.agentWrite who a bs (sc := sc) (tags := tags)
  match res with
  | .ok s => (true, s)
  | .error b =>
    let kind : Kind := if add then .amo else .write
    (false, if b.cause = 0x04 then s.report (s.engineRecord r e.agent b kind (.completion a bs sc add e) xid)
    else s.charge { s.record r b.cause e.agent 0 a b.addr kind with xid })

/-- The state after a completion write. -/
def State.completeWrite (s : State) (r : CtxRef) (e : Engine) (a : Word) (bs : List Byte) (sc : Option Nat)
    (add : Bool := false) (xid : BitVec 16 := 0) (tags : List Tag := []) : State :=
  (s.tryComplete r e a bs sc add xid tags).2

/-- An engine that works for one core at a time, which names it; a die has one of each other kind. -/
def Engine.ofCore : Engine → Bool
  | .copy | .link _ | .ring _ => true
  | _ => false

/-- A record holds a completion write of an engine that acts for a core. -/
def FaultRec.holds (f : FaultRec) (g : Nat) (e : Engine) : Bool :=
  match f.held with
  | .completion _ _ _ _ x => x == e && (!e.ofCore || f.core == g)
  | _ => false

/-- Every record of a die that is not answered. -/
def Die.records (d : Die) : List FaultRec := d.walks.flatMap (·.joined) ++ d.faults ++ d.outstanding

/-- The records of all dies that are not answered. -/
def State.records (s : State) : List FaultRec := s.dies.flatMap fun d => d.2.records

/-- An engine is held by a completion write (15 R418). -/
def State.engineHeld (s : State) (g : Nat) (e : Engine) : Bool := s.records.any (·.holds g e)

/-! ### Ring tiles (12 R229) -/


/-- ID. -/
def tileId (h0 : Word) : Nat := bits h0.toNat 15 0

/-- MVER. -/
def tileVer (h0 : Word) : Nat := bits h0.toNat 31 16

/-- MB. -/
def tileMb (h0 : Word) : Nat := bits h0.toNat 39 32

/-- PHASE. -/
def tilePhase (h0 : Word) : Nat := bits h0.toNat 55 40

/-- FAM: west. -/
def tileWest (h0 : Word) : Bool := h0.getLsbD 56

/-- TRK. -/
def tileTrk (h0 : Word) : Nat := bits h0.toNat 57 57

/-- HOME. -/
def tileHome (h1 : Word) : Nat := bits h1.toNat 12 0

/-- LEN. -/
def tileLen (h1 : Word) : Nat := bits h1.toNat 22 16

/-- FMT. -/
def tileFmt (h1 : Word) : Nat := bits h1.toNat 26 24

/-- ROWS. -/
def tileRows (h1 : Word) : Nat := bits h1.toNat 31 27 + 1

/-- COLS. -/
def tileCols (h1 : Word) : Nat := bits h1.toNat 36 32 + 1

/-- ACC. -/
def tileAcc (h1 : Word) : Bool := h1.getLsbD 37

/-- A ring tile's data as a tile of its shape. -/
def RingTile.asTile (t : RingTile) (data : List Byte) : Tile :=
  let f := tileFmt t.hdr1
  let c := tileCols t.hdr1
  let rb := rowBytes f c
  { valid := true, fmt := f, rows := tileRows t.hdr1, cols := c
    els := (List.range (tileRows t.hdr1)).flatMap fun i => unpackRow f c ((data.drop (i * rb)).take rb) }

/-- The data with a tile's elements written into it. -/
def RingTile.withTile (t : RingTile) (x : Tile) : RingTile :=
  let bs := (List.range x.rows).flatMap fun i => packRow x.fmt (x.row i)
  { t with data := bs ++ t.data.drop bs.length }

/-! ### Match entries (12 R234) -/

/-- A field of an entry. -/
def entBits (e : BitVec 256) (hi lo : Nat) : Nat := bits e.toNat hi lo

/-- An entry with a field replaced. -/
def entPut (e : BitVec 256) (hi lo v : Nat) : BitVec 256 :=
  BitVec.ofNat 256 (e.toNat - entBits e hi lo * 2 ^ lo + v % 2 ^ (hi + 1 - lo) * 2 ^ lo)

/-- EID. -/
def entEid (e : BitVec 256) : Nat := entBits e 15 0

/-- WID. -/
def entWid (e : BitVec 256) : Nat := entBits e 31 16

/-- BORN. -/
def entBorn (e : BitVec 256) : Nat := entBits e 47 32

/-- DIED. -/
def entDied (e : BitVec 256) : Nat := entBits e 63 48

/-- SVn. -/
def entSv (e : BitVec 256) (n : Nat) : Bool := e.getLsbD (64 + 16 * (n % 4) + 15)

/-- SLOTn. -/
def entSlot (e : BitVec 256) (n : Nat) : Nat := entBits e (64 + 16 * (n % 4) + 14) (64 + 16 * (n % 4))

/-- TMPL. -/
def entTmpl (e : BitVec 256) : Nat := entBits e 131 128

/-- CAND. -/
def entCand (e : BitVec 256) : Bool := e.getLsbD 133

/-- NCORE. -/
def entNcore (e : BitVec 256) : Nat := entBits e 135 134

/-- NOTE. -/
def entNote (e : BitVec 256) : Bool := e.getLsbD 136

/-- MET. -/
def entMet (e : BitVec 256) : Bool := e.getLsbD 137

/-- MISSED. -/
def entMissed (e : BitVec 256) : Bool := e.getLsbD 138

/-- VALID. -/
def entValid (e : BitVec 256) : Bool := e.getLsbD 139

/-- MCNT. -/
def entMcnt (e : BitVec 256) : Nat := entBits e 159 144

/-- The entry with its status MCNT, MISSED and MET 0. -/
def entClear (e : BitVec 256) : BitVec 256 := entPut (entPut (entPut e 159 144 0) 138 138 0) 137 137 0

/-- The entry with status of another. -/
def entKeep (old e : BitVec 256) : BitVec 256 :=
  entPut (entPut (entPut e 159 144 (entMcnt old)) 138 138 (entBits old 138 138)) 137 137 (entBits old 137 137)

/-- A slot index for a version, or its removal. -/
def entSetSlot (e : BitVec 256) (n : Nat) (slot : Option Nat) : BitVec 256 :=
  let lo := 64 + 16 * (n % 4)
  match slot with
  | some k => entPut (entPut e (lo + 14) lo k) (lo + 15) (lo + 15) 1
  | none => entPut e (lo + 15) (lo + 15) 0

/-- The entry that a write leaves: its status is cleared where VALID, EID or WID change, else kept (12 R234, R247). -/
def entWrite (old new : BitVec 256) : BitVec 256 :=
  if entValid old != entValid new || entEid old != entEid new || entWid old != entWid new then entClear new
  else entKeep old new

/-! ### Rings (12 R227) -/

/-- The stations of each ring of a cluster. -/
def Cluster.ringLen (c : Cluster) : Nat := 4 * 2 ^ c.cut

/-- The rings of a cluster. -/
def Cluster.ringCount (c : Cluster) : Nat := 16 / c.ringLen

/-- The quad of a cluster at a station of a ring. -/
def Cluster.stationQuad (c : Cluster) (ring st : Nat) : Nat := ring * c.ringLen + st

/-- The key of an entry. -/
def Cluster.entKey (c : Cluster) (ring st trk ix : Nat) : Nat := (c.stationQuad ring st * 2 + trk) * 512 + ix

/-- An entry of a station. -/
def Cluster.entry (c : Cluster) (ring st trk ix : Nat) : BitVec 256 := (SMap.find c.entries (c.entKey ring st trk ix)).getD 0

/-- An entry is replaced; an all-zero entry is not listed. -/
def Cluster.setEntry (c : Cluster) (ring st trk ix : Nat) (e : BitVec 256) : Cluster :=
  let k := c.entKey ring st trk ix
  { c with entries := if e = 0 then SMap.del c.entries k else SMap.put c.entries k e }

/-- The key of a template. -/
def Cluster.tmplKey (c : Cluster) (ring st ix : Nat) : Nat := c.stationQuad ring st * 16 + ix

/-- A valid template of a station. -/
def Cluster.template (c : Cluster) (ring st ix : Nat) : Option VWord := SMap.find c.templates (c.tmplKey ring st ix)

/-- The track of a ring. -/
def Cluster.phase (c : Cluster) (ring trk : Nat) : Phase := (SMap.find c.phases (ring * 2 + trk)).getD {}

/-- A track of a ring is changed. -/
def State.modPhase (s : State) (clu ring trk : Nat) (f : Phase → Phase) : State :=
  s.modCluster clu fun c => { c with phases := SMap.put c.phases (ring * 2 + trk) (f (c.phase ring trk)) }

/-- The ring of a core, and its station there. -/
def State.ringOf (s : State) (g : Nat) : Nat × Nat :=
  let l := (s.cluster (cluOfCore g)).ringLen
  (quadOfCore g % 16 / l, quadOfCore g % 16 % l)

/-! ### Layer records (18 R322-R324) -/

/-- A layer record: its 32 doublewords. -/
abbrev LRec := List Word

/-- A field of a layer record. -/
def lr (r : LRec) (off hi lo : Nat) : Nat := bits (r.getD (off / 8) 0).toNat hi lo

/-- BS: the bytes of one block of a slot (18 R324). -/
def blockBytes (brows bcols : Nat) : Nat := ((brows + 1) * (bcols + 1) * 4 + 63) / 64 * 64

/-- The address of a block of a slot of a station (18 R324). -/
def slotBlock (poolb npool brows bcols st slot blk : Nat) : Word :=
  let bs := blockBytes brows bcols
  BitVec.ofNat 64 (poolb * 64 + (st * npool + slot) * 4 * bs + blk * bs)

/-- The ranges that a record covers: a track, the first entry and how many (18 R419). -/
def lrRanges (r : LRec) : List (Fin 2 × Nat × Nat) :=
  let pass := fun p => lr r (0x18 + 8 * p) 63 0
  let n := lr r 0x10 24 16 + 1
  let of := fun p => if bit (pass p) 15 then [(Fin.ofNat 2 (bits (pass p) 9 9), bits (pass p) 8 0, n)] else []
  let cand := (Fin.ofNat 2 (bits (pass 2) 9 9), lr r 0x38 8 0, lr r 0x38 41 32)
  (of 0 ++ of 1 ++ of 2 ++ of 3 ++ [cand]).filter fun x => x.2.2 != 0

/-- The registration of a record. -/
def lrLayer (a : Word) (r : LRec) : Layer :=
  { addr := a, ring := lr r 0 9 8, poolb := lr r 8 63 6, npool := lr r 0x10 14 0, brows := lr r 0 39 35
    bcols := lr r 0 44 40, bfmt := lr r 0 34 32, ranges := lrRanges r }

/-- Two ranges of entries of one track overlap. -/
def rangesMeet (a b : Fin 2 × Nat × Nat) : Bool :=
  a.1 == b.1 && decide (a.2.1 < b.2.1 + b.2.2) && decide (b.2.1 < a.2.1 + a.2.2)

/-- Two registrations overlap. -/
def Layer.meets (x y : Layer) : Bool := x.ring == y.ring && x.ranges.any fun a => y.ranges.any (rangesMeet a)

/-- A record is registered (18 R419), the newest last. -/
def Cluster.register (c : Cluster) (x : Layer) : Cluster :=
  let l := c.layers.filter fun y => !y.meets x
  { c with layers := (if l.length < 16 then l else l.drop 1) ++ [x] }

/-- The registration that covers an entry. -/
def Cluster.layerOf (c : Cluster) (ring trk ix : Nat) : Option Layer :=
  c.layers.find? fun x => x.ring == ring && x.ranges.any fun r => r.1.val == trk && decide (r.2.1 ≤ ix) && decide (ix < r.2.1 + r.2.2)

/-- The block of a slot that a layer's registration gives. -/
def Layer.block (x : Layer) (st slot blk : Nat) : Word := slotBlock x.poolb x.npool x.brows x.bcols st slot blk

/-- The format of a block: BFMT for weights, FP32 for the others. -/
def Layer.blockFmt (x : Layer) (blk : Nat) : Nat := if blk = 0 then x.bfmt else 0

/-- The bytes that a block's elements take. -/
def Layer.blockLen (x : Layer) (blk : Nat) : Nat := (x.brows + 1) * rowBytes (x.blockFmt blk) (x.bcols + 1)

/-- A block's bytes as a tile. -/
def Layer.blockTile (x : Layer) (blk : Nat) (bs : List Byte) : Tile :=
  let f := x.blockFmt blk
  let rb := rowBytes f (x.bcols + 1)
  { valid := true, fmt := f, rows := x.brows + 1, cols := x.bcols + 1
    els := (List.range (x.brows + 1)).flatMap fun i => unpackRow f (x.bcols + 1) ((bs.drop (i * rb)).take rb) }

/-- A tile's bytes, rows packed. -/
def Tile.bytes (t : Tile) : List Byte := (List.range t.rows).flatMap fun i => packRow t.fmt (t.row i)

end Sys2Proof.Machine
end

