-- ==== Sys2Proof/Machine/Phys.lean ====
section
/-! DEFINITION. Accesses by address that no team translates: BAR 0 registers with their fields (21 R374), device
accesses to HBM under placement 00 or to host memory (20 R350, 21 R374, R375). -/

namespace Sys2Proof.Machine

/-- The host link serves writes of BAR 0: the module is on and has verified firmware. -/
def State.hostUp (s : State) : Bool := s.dev.power == .on && s.dev.boot == .ready

/-- A host write that acts: in recovery it changes nothing (24 R404), and without a host link it does not take place. -/
def State.hostAct (s : State) (name : String) (t : State) : Outcome :=
  if s.hostUp then .next t else if s.dev.boot = .recovery then .next s else .refused (.notEnabled name)

/-- A field of a BAR 0 register. -/
def State.barBits (s : State) (off hi lo : Nat) : Nat := bits (s.bar off).toNat hi lo

/-- A field of a BAR 0 register is replaced. -/
def State.setBarBits (s : State) (off hi lo v : Nat) : State :=
  let old := (s.bar off).toNat
  s.setBar off (BitVec.ofNat 64 (old - bits old hi lo * 2 ^ lo + v % 2 ^ (hi + 1 - lo) * 2 ^ lo))

/-- The place of a device address: [63] host, else a physical address under placement 00; none beyond the end of HBM. -/
def devPlace (a : Nat) : Option Nat :=
  if 2 ^ 63 ≤ a then some (hostPlace (a - 2 ^ 63)) else if a < 4 * dieSize then some (paPlace a) else none

/-- The space of a device access: host memory, or HBM as an uncached-strong access. -/
def devSpace (a : Nat) : Space := if 2 ^ 63 ≤ a then .host else .hbm 0 0 0 2

/-- A byte as an agent of the module reads it by a device access. -/
def State.devByte (s : State) (a : Nat) : Byte :=
  match devPlace a with
  | some p => if 2 ^ 63 ≤ a then s.hostByte p else s.hbmByte 0 2 p
  | none => 0

/-- Bytes as a device access reads them. -/
def State.devRead (s : State) (a n : Nat) : List Byte := (List.range n).map fun i => s.devByte (a + i)

/-- A word as a device access reads it. -/
def State.devWord (s : State) (a : Nat) : Nat := ofBytes (s.devRead a 8)

/-- One byte is written by a device access. -/
def State.devPoke (s : State) (a : Nat) (b : Byte) : State :=
  match devPlace a with
  | some p => s.perform { core := 0, own := false, asid := 0, team := none, level := 6 } { cells := [(p, b, 0xFF)], space := devSpace a }
  | none => s

/-- The cells of bytes written by a device access. -/
def devCells (a : Nat) (bs : List Byte) : List (Nat × Byte × Byte) :=
  bs.zipIdx.filterMap fun x => (devPlace (a + x.2)).map fun p => (p, x.1, 0xFF)

/-- Bytes are written by a device access. -/
def State.devWrite (s : State) (a : Nat) (bs : List Byte) : State :=
  (bs.zipIdx.foldl (fun s x => s.devPoke (a + x.2) x.1) s).cleanse { cells := devCells a bs, space := devSpace a }

end Sys2Proof.Machine
end

