-- ==== Sys2Proof/Machine/Fault.lean ====
section
/-! DEFINITION. Faults between instructions: those charged to a context, crossings of conversion counters, faults of a
fetch (09 R184, 02 R52, 01 R11, 07 R143), and the posting of fault records (20 R349, R350, R353). -/

namespace Sys2Proof.Machine

/-! ### Before an instruction -/

/-- A context is ready (01 R9): it holds a firing and nothing keeps it. -/
def Context.ready (x : Context) : Bool :=
  x.firing && !x.suspended && !x.halted && x.wait.isNone && !x.stalled && !x.refused && x.stagger.isNone && x.gather.isNone

/-- A system-level fault is taken before the next instruction: EPC is its address, or the `rpt` with the frame form in a
frame (07 R143). -/
def State.takeBefore (s : State) (r : CtxRef) (f : FaultRec) : State :=
  let x := s.ctx r
  match x.frame with
  | none => s.takeSys r { f with epc := x.ws.pc } f.value false
  | some fr => s.takeSys r { f with epc := x.ws.pc } (frameEval fr.pass fr.pos f.value) true

/-- A user-level trap is taken before the next instruction. -/
def State.trapBefore (s : State) (r : CtxRef) (cause : BitVec 8) (val : Word) : State :=
  let x := s.ctx r
  match x.frame with
  | none => s.enterTrap r cause x.ws.pc val val false
  | some fr => s.enterTrap r cause x.ws.pc (frameEval fr.pass fr.pos val) val true

/-- A charged fault, or the trap of an UPCALL that acted on an engine (20 R351), is taken. -/
def State.takeCharged (s : State) (r : CtxRef) (c : Charged) : State :=
  if c.upcall then s.trapBefore r c.record.cause c.record.value else s.takeBefore r c.record

/-- The first charged fault of a Lantern queue, and the others. -/
def lanternCharge : List Charged → Option (Charged × List Charged)
  | [] => none
  | c :: t =>
    if c.record.agent = .lantern ∧ !c.upcall then some (c, t)
    else (lanternCharge t).map fun x => (x.1, c :: x.2)

/-- A charged fault is taken before its context's next instruction (09 R184); one of a Lantern queue whose context is
already suspended posts a second record (20 R352). -/
def execChargedFault (core : Nat) (ctx : CtxId) (s : State) : Outcome :=
  let r : CtxRef := ⟨core, ctx⟩
  let x := s.ctx r
  match x.charged with
  | [] => .refused (.notEnabled "CHARGED_FAULT")
  | c :: t =>
    if x.ready then .next ((s.modCtx r fun y => { y with charged := t }).takeCharged r c)
    else if x.suspended then
      match lanternCharge x.charged with
      | some (c, t) =>
        .next ((s.modCtx r fun y => { y with charged := t }).report { c.record with epc := x.ws.epc })
      | none => .refused (.notEnabled "CHARGED_FAULT")
    else .refused (.notEnabled "CHARGED_FAULT")

/-- The crossing that is taken first: the lowest counter. -/
def firstCrossing (cs : List Crossing) : Option Crossing :=
  ([0, 1, 2, 3] : List (Fin 4)).findSome? fun i => cs.find? (·.counter == i)

/-- A pending crossing is taken as CVT_THRESHOLD while ECAUSE[63] = 0 (02 R52). -/
def execCvtThreshold (core : Nat) (ctx : CtxId) (s : State) : Outcome :=
  let r : CtxRef := ⟨core, ctx⟩
  let x := s.ctx r
  match firstCrossing x.crossings with
  | none => .refused (.notEnabled "CVT_THRESHOLD")
  | some c =>
    if x.ready && x.charged.isEmpty && !x.ws.ecause.getLsbD 63 then
      .next ((s.modCtx r fun y => { y with crossings := y.crossings.erase c }).trapBefore r 0x09
        (BitVec.ofNat 64 (c.counter.val + 4 * c.source.val)))
    else .refused (.notEnabled "CVT_THRESHOLD")

/-- What is wrong with a fetch at an address (01 R11, 20 R354): its cause. -/
def State.fetchFlaw (s : State) (g : Nat) (pc : Word) : Option (BitVec 8) :=
  if pc.toNat % 4 ≠ 0 then some 0x02
  else if pc.toNat < 0x8000000000000000 ∨ 0x800000000007FFFC < pc.toNat then some 0x03
  else if s.poison.contains (granule (tcmPlace g (pc.toNat % 0x80000))) then some 0x05
  else none

/-- A fetch that cannot be made: MISALIGN, ACCESS or POISON at the target (01 R11). -/
def execFetchFault (core : Nat) (ctx : CtxId) (s : State) : Outcome :=
  let r : CtxRef := ⟨core, ctx⟩
  let x := s.ctx r
  let pc := x.ws.pc
  match s.fetchFlaw core pc with
  | some cause =>
    if x.ready && x.frame.isNone && x.charged.isEmpty && (x.crossings.isEmpty || x.ws.ecause.getLsbD 63) then
      .next (s.takeSys r (s.record r cause .context pc pc pc .fetch) pc false)
    else .refused (.notEnabled "FETCH_FAULT")
  | none => .refused (.notEnabled "FETCH_FAULT")

/-! ### Walks (20 R353) -/

/-- A walk that ends in XLATE: its coalesced record names the first access that joined. -/
def Walk.record (w : Walk) : Option FaultRec := w.joined.head?.map fun f => { f with coalesced := true }

/-- The walks that go on at a die: 64 at most, oldest first (14 R271). -/
def Die.walking (d : Die) : List Walk := (d.walks.filter (·.posted.isNone)).take 64

/-- A failed walk ends and its one record is queued. -/
def execWalkComplete (die asid page : Nat) (s : State) : Outcome :=
  match (s.die die).walking.find? fun w => w.asid == asid && w.page == page with
  | none => .refused (.notEnabled "WALK_COMPLETE")
  | some w =>
    .next (s.modDie die fun d =>
      { d with
        walks := d.walks.map fun v => if v.asid = asid ∧ v.page = page then { v with posted := some 0 } else v
        faults := d.faults ++ w.record.toList })

/-! ### The fault queue (20 R349, R350) -/

/-- The registers of a die's fault queue. -/
def fqReg (die : Nat) : Nat := 0x040000 + 0x40 * die

/-- The code of an agent. -/
def Agent.code : Agent → Nat
  | .context => 0
  | .lantern => 1
  | .copy => 2
  | .ring => 3
  | .network => 4
  | .dieEngine => 5

/-- The code of a kind. -/
def Kind.code : Kind → Nat
  | .none => 0
  | .read => 1
  | .write => 2
  | .amo => 3
  | .fetch => 4

/-- The eight words of a record, VALID in the last. -/
def FaultRec.words (f : FaultRec) : List Word :=
  [BitVec.ofNat 64 (f.tid % 2 ^ 16 * 2 ^ 48 + f.cause.toNat * 2 ^ 40 + f.agent.code * 2 ^ 36 + f.ctx.val * 2 ^ 34 +
      f.core % 2 ^ 13 * 2 ^ 21 + (if f.coalesced then 2 ^ 20 else 0) + f.asid % 16 * 2 ^ 16 + f.seq % 2 ^ 16),
    f.epc, f.value, f.addr,
    BitVec.ofNat 64 (f.kind.code * 2 ^ 48 + f.xid.toNat * 2 ^ 32 + f.word.toNat),
    f.cyc, BitVec.ofNat 64 ((if f.frm then 2 ^ 16 else 0) + f.nwait % 2 ^ 16), 1]

/-- A fault queue is enabled and has a free slot. -/
def State.fqRoom (s : State) (die : Nat) : Bool :=
  let r := fqReg die
  let n := s.barBits (r + 8) 4 0
  decide (4 ≤ n) && decide (n ≤ 16) && (s.barBits (r + 0x10) 31 0 + 2 ^ 32 - s.barBits (r + 0x18) 31 0) % 2 ^ 32 != 2 ^ n

/-- The accesses that have joined a coalesced record when it is posted; 1 of any other (20 R349). -/
def Die.nwait (d : Die) (f : FaultRec) : Nat :=
  if f.coalesced then
    ((d.walks.find? fun w => w.asid == f.asid && w.page == pageOf f.addr).map fun w => w.joined.length).getD 1
  else 1

/-- The record number after one: from 1, wrapping 0xFFFF to 1. -/
def nextSeq (n : Nat) : Nat := if 0xFFFF ≤ n then 1 else n + 1

/-- The oldest unposted record of a die is written to its queue and its vector signalled. -/
def execFaultRecordPost (die : Nat) (s : State) : Outcome :=
  match (s.die die).faults with
  | [] => .refused (.notEnabled "FAULT_RECORD_POST")
  | f :: t =>
    if s.fqRoom die then
      let r := fqReg die
      let n := s.barBits (r + 8) 4 0
      let prod := s.barBits (r + 0x10) 31 0
      let seq := (s.die die).seq
      let f := { f with seq, nwait := (s.die die).nwait f }
      let at_ := ((s.bar r).toNat + 64 * (prod % 2 ^ n)) % 2 ^ 64
      let s := (s.devWrite at_ (bytesOf f.words)).setBarBits (r + 0x10) 31 0 ((prod + 1) % 2 ^ 32)
      let mark := fun (w : Walk) =>
        if f.coalesced ∧ w.asid = f.asid ∧ w.page = pageOf f.addr then { w with posted := some seq } else w
      let s := s.modDie die fun d =>
        { d with faults := t, seq := nextSeq seq, outstanding := d.outstanding ++ [f], walks := d.walks.map mark }
      .next (s.emit (.msix (s.barBits (r + 0x20) 10 0)))
    else .refused (.notEnabled "FAULT_RECORD_POST")

/-- FQSZ is written and both indices go to 0 (20 R350). -/
def execFqszWrite (die : Nat) (v : Word) (s : State) : Outcome :=
  if 4 ≤ die then .refused (.notEnabled "FQSZ_WRITE")
  else
    let r := fqReg die
    s.hostAct "FQSZ_WRITE" (((s.setBar (r + 8) (v &&& 0x1F)).setBar (r + 0x10) 0).setBar (r + 0x18) 0)

/-! ### Invalidation (14 R271, 21 R374) -/

/-- A cached entry covers some of the invalidated pages. -/
def TlbEntry.hit (e : TlbEntry) (asid page n : Nat) : Bool :=
  let lo := if e.level = 3 then e.page * 4096 / 49152 else e.page * 2 ^ (11 * e.level)
  let hi := if e.level = 3 then lo else lo + 2 ^ (11 * e.level) - 1
  e.asid == asid && (n == 0 || (decide (page ≤ hi) && decide (lo < page + n)))

/-- The entries of an invalidation are dropped on every cluster and IBUSY reads 0. -/
def State.invalidate (s : State) : State :=
  match s.dev.invalidating with
  | none => s
  | some (asid, page, n) =>
    let drop := fun (c : Nat × Cluster) => (c.1, { c.2 with tlb := c.2.tlb.filter fun e => !e.hit asid page n })
    (({ s with clusters := s.clusters.map drop } : State).setBar 0x030010 0).modDev fun d => { d with invalidating := none }

/-- IGO written 1: the invalidation of IVA, IASID and ICNT starts; one in progress completes first. -/
def execInvalidateStart (v : Word) (s : State) : Outcome :=
  let t := s.setBar 0x030008 (v &&& 0xFFFFFFFFF)
  s.hostAct "INVALIDATE_START" <|
    if v.getLsbD 63 then
      (t.invalidate.setBar 0x030010 1).modDev fun d =>
        { d with invalidating := some (bits v.toNat 35 32, (s.bar 0x030000).toNat / 49152, bits v.toNat 31 0) }
    else t

/-- The invalidation completes on every cluster. -/
def execInvalidateDone (s : State) : Outcome :=
  if s.dev.invalidating.isSome then .next s.invalidate else .refused (.notEnabled "INVALIDATE_DONE")

end Sys2Proof.Machine
end

