-- ==== Sys2Proof/Machine/Lantern.lean ====
section
/-! DEFINITION. Lantern commands: their layout, their refusals, and what each does to tiles and memory (09 R172-R185). -/

namespace Sys2Proof.Machine

/-! ### The layout (09 R172) -/

/-- Word Dn of a command. -/
def cmdD (v : VWord) (n : Nat) : Nat := v.toNat / 2 ^ (64 * n) % 2 ^ 64

/-- CODE. -/
def cmdCode (v : VWord) : Nat := cmdD v 0 % 256

/-- TMASK. -/
def cmdTmask (v : VWord) : Nat := bits (cmdD v 0) 15 8

/-- The tile number of field 1 to 4. -/
def cmdTile (v : VWord) (f : Nat) : Nat := cmdD v 0 / 2 ^ (4 * f + 4) % 8

/-- The tile fields that a command has. -/
def cmdFields (code : Nat) : List Nat :=
  match code with
  | 3 | 7 | 13 => [1]
  | 4 | 5 | 6 => [1, 2, 3]
  | 10 => [1, 2, 3, 4]
  | 12 => [1, 2]
  | _ => []

/-- The bits of D0 that a command assigns, and the words after it that may be non-zero. -/
def cmdShape (code : Nat) : Nat × List Nat :=
  match code with
  | 1 => (0x3FFFFFFF, [])
  | 2 => (0x3FFF, [1, 2])
  | 3 | 7 => (0x1FFFF07FF, [1, 2])
  | 4 | 5 => (0x777FF, [])
  | 6 => (0x7777FF, [1, 2])
  | 8 | 9 => (0xFFFF, [])
  | 10 => (0xFF77777FF, [1, 2, 3])
  | 11 => (0x1FFF, [1, 2])
  | 12 => (0x177FF, [])
  | 13 => (0xF07FF, [1])
  | _ => (0xFF, [])

/-- The scalars of an MOPT. -/
def cmdOpt (v : VWord) : OptArgs :=
  let w := fun n hi => cmdD v n / (if hi then 2 ^ 32 else 1) % 2 ^ 32
  ⟨w 1 false, w 1 true, w 2 false, w 2 true, w 3 false, w 3 true⟩

/-- No field value that the layout marks malformed. -/
def cmdFieldsOk (v : VWord) : Bool :=
  let d0 := cmdD v 0
  match cmdCode v with
  | 1 => cmdTmask v != 0 && decide (bits d0 19 16 < 6)
  | 2 => bits d0 12 11 != 3 && (bit d0 8 || cmdD v 1 == 0) && (bit d0 9 || cmdD v 2 == 0)
  | 3 => bits d0 32 30 != 7 && decide (bits d0 19 17 < 6) && bits d0 29 26 == 0 && decide (cmdD v 2 < 2 ^ 32)
  | 7 => bits d0 32 30 != 7 && decide (bits d0 19 17 < 6) && !bit d0 16 && decide (cmdD v 2 < 2 ^ 32)
  | 6 => bits d0 22 20 != 7
  | 8 | 9 => cmdTmask v != 0
  | 10 => (cmdOpt v).ok
  | 11 => bits d0 10 8 != 7 && (bit d0 12 || decide (cmdD v 2 < 2 ^ 32))
  | 13 => bits d0 19 17 != 7
  | _ => true

/-- No reserved bit is set and no field is malformed; reason 2 otherwise. -/
def cmdSound (v : VWord) : Bool :=
  let s := cmdShape (cmdCode v)
  cmdD v 0 &&& s.1 == cmdD v 0 && ([1, 2, 3, 4, 5, 6, 7].all fun n => s.2.contains n || cmdD v n == 0) && cmdFieldsOk v

/-! ### What a command meets -/

/-- How a command ends. `done` gives the tiles it wrote by field, what it counted and the state. -/
inductive CmdRes where
  | refuse (reason detail : Nat)
  | fault (b : Bad)
  | done (tiles : List (Nat × Tile)) (n : Counts) (s : State)

/-- Where a command runs: as whom it accesses memory, its format context, the tiles of its fields, and the descriptor that an
MOPT took along. -/
structure CmdSite where
  who : Who
  fc : FormatCtx
  tile : Nat → Option Tile
  same : Nat → Nat → Bool
  num : Nat → Nat
  cb : BitVec 128

/-- Reads of an agent at addresses, in order. -/
def State.agentReads (s : State) (who : Who) : List (Word × Nat) → Except Bad (List Byte × State)
  | [] => .ok ([], s)
  | (a, n) :: t => do
    let (x, s) ← s.agentRead who a n
    let (y, s) ← State.agentReads s who t
    return (x ++ y, s)

/-- Writes of an agent at addresses, in order. -/
def State.agentWrites (s : State) (who : Who) : List (Word × List Byte) → Except Bad State
  | [] => .ok s
  | (a, bs) :: t => do State.agentWrites (← s.agentWrite who a bs) who t

/-- An address that an alignment rule of the command governs. -/
def mustAlign (a : Word) (n : Nat) : Except Bad Unit := if aligned a n then .ok () else .error ⟨0x02, a⟩

/-- A failed check ends the command, else its continuation's result. -/
def cmdTry {α : Type} (x : Except Bad α) (f : α → CmdRes) : CmdRes :=
  match x with
  | .ok a => f a
  | .error b => .fault b

/-! ### Tiles and memory (09 R175, R176) -/

/-- The row starts of an MLD or MST are aligned. -/
def rowAlign (a stride : Word) (rows f : Nat) : Except Bad Unit := do
  mustAlign a (fmtAlign f)
  if 1 < rows then mustAlign (a + stride) (fmtAlign f)

/-- The addresses and lengths of row `i` of an MLD. -/
def mldRow (v : VWord) (rb i : Nat) : List (Word × Nat) :=
  let d0 := cmdD v 0
  let a := BitVec.ofNat 64 (cmdD v 1) + BitVec.ofNat 64 (i * cmdD v 2)
  if bit d0 16 then
    let c := 16 * 2 ^ bits d0 19 17
    (List.range (rb / c)).map fun j => (swizzled a c (rb / c) (bits d0 25 20) (j * c), c)
  else [(a, rb)]

/-- MLD: the shape of TILE from memory, without conversion. -/
def runMld (s : State) (x : CmdSite) (v : VWord) (t : Tile) : CmdRes :=
  let d0 := cmdD v 0
  let rb := rowBytes t.fmt t.cols
  if bit d0 16 && (t.cols != 32 || decide (rb < 16 * 2 ^ bits d0 19 17)) then .refuse 2 0
  else
    cmdTry (do
      rowAlign (BitVec.ofNat 64 (cmdD v 1)) (BitVec.ofNat 64 (cmdD v 2)) t.rows t.fmt
      s.agentReads x.who ((List.range t.rows).flatMap (mldRow v rb))) fun (bs, s) =>
    let row := fun i => unpackRow t.fmt t.cols ((bs.drop (i * rb)).take rb)
    .done [(1, { t with els := (List.range t.rows).flatMap row })] {} s

/-- An element in the memory format of an MST, with its count. -/
def storeElem (c : FormatCtx) (src dst x : Nat) : Nat × Counted :=
  if src = dst then (x, .nothing)
  else
    let y := fp32.val x
    match dst with
    | 1 => let e := deliverElem bf16 0 y; (e.bits, e.count)
    | 2 => let e := deliverElem fp16 0 y; (e.bits, e.count)
    | 3 => encodeVal true c.qsat (tableOf true c.q8) y
    | _ => encodeVal false c.qsat (tableOf false c.q4) y

/-- MST: the shape of TILE to memory in OFMT. -/
def runMst (s : State) (x : CmdSite) (v : VWord) (t : Tile) : CmdRes :=
  let f := bits (cmdD v 0) 29 26
  let a := BitVec.ofNat 64 (cmdD v 1)
  let stride := BitVec.ofNat 64 (cmdD v 2)
  if !(f == t.fmt || (t.fmt == 0 && decide (1 ≤ f) && decide (f ≤ 4))) || !shapeOk f t.cols then .refuse 4 (x.num 1)
  else
    let cells := t.els.map (storeElem x.fc t.fmt f)
    let row := fun i => packRow f (((cells.drop (i * t.cols)).take t.cols).map (·.1))
    cmdTry (do
      rowAlign a stride t.rows f
      s.agentWrites x.who ((List.range t.rows).map fun i => (a + BitVec.ofNat 64 i * stride, row i))) fun s =>
    .done [] (cells.foldl (fun n c => n.plus c.2.counts) {}) s

/-! ### Products, masks, norms (09 R177-R180) -/

/-- The tile whose format or shape a product refuses. -/
def mmaFlaw (x : CmdSite) (tr : Bool) (tc ta tb : Tile) : Option Nat :=
  if tc.fmt ≠ 0 then some 1
  else if ta.fmt = 5 then some 2
  else if tb.fmt = 5 then some 3
  else if x.same 1 2 || x.same 1 3 || !mmaShapes tr ta tb tc then some 1
  else none

/-- MMA, MMAT and MMAS. -/
def runMma (s : State) (x : CmdSite) (v : VWord) (tc ta tb : Tile) : CmdRes :=
  let code := cmdCode v
  let tr := code == 5
  match mmaFlaw x tr tc ta tb with
  | some f => .refuse 4 (x.num f)
  | none =>
    if code ≠ 6 then .done [(1, mmaTile x.fc tr none none ta tb tc)] {} s
    else
      let scales := fun (s : State) (on : Bool) (a n : Nat) => (do
        if on then
          let (bs, s) ← s.agentRead x.who (BitVec.ofNat 64 a) n
          return (some (bs.map BitVec.toNat), s)
        else return (none, s) : Except Bad (Option (List Nat) × State))
      cmdTry (do
        let (sa, s) ← scales s (x.fc.smode != 2) (cmdD v 1) tc.rows
        let (sb, s) ← scales s (x.fc.smode != 1) (cmdD v 2) tc.cols
        return (sa, sb, s)) fun (sa, sb, s) =>
      .done [(1, mmaTile x.fc false sa sb ta tb tc)] { nan := scaleNans ta.cols sa + scaleNans ta.cols sb } s

/-- MMASK. -/
def runMmask (s : State) (x : CmdSite) (v : VWord) (td tk : Tile) : CmdRes :=
  if tk.fmt ≠ 5 then .refuse 4 (x.num 2)
  else if td.fmt = 5 ∨ td.rows ≠ tk.rows ∨ td.cols ≠ tk.cols then .refuse 4 (x.num 1)
  else if bit (cmdD v 0) 16 then .done [(2, maskMake x.fc td tk)] {} s
  else .done [(1, maskApply td tk)] {} s

/-- An atomic access that host memory does not perform is ACCESS (15 R290). -/
def State.agentAtomOwn (s : State) (who : Who) (a : Word) (n : Nat) (f : List Byte → List Byte) (rel : Bool := false) :
    Except Bad (List Byte × State) := do
  let (rs, _) ← s.resolve who .amo a.toNat n
  if rs.any (·.space == .host) then .error ⟨0x03, a⟩ else s.agentAtom who a n f rel

/-- rne32 of two FP32 patterns' sum. -/
def addF32 (a b : Nat) : Nat := rne32 ((fp32.val a).add 0 (fp32.val b)).val

/-- MNORM. -/
def runMnorm (s : State) (x : CmdSite) (v : VWord) (t : Tile) : CmdRes :=
  let a := BitVec.ofNat 64 (cmdD v 1)
  let n := rne32 (normVal x.fc t)
  cmdTry (do
    mustAlign a 4
    if bit (cmdD v 0) 16 then
      let (_, s) ← s.agentAtomOwn x.who a 4 fun bs => toBytes 4 (addF32 (ofBytes bs) n)
      return s
    else s.agentWrite x.who a (toBytes 4 n)) fun s => .done [] {} s

/-! ### The optimiser step (09 R181) -/

/-- The descriptor and offset of an MOPT are sound; reason 2 otherwise. -/
def optHandleOk (v : VWord) (cb : BitVec 128) : Bool :=
  cbBound cb && !cbProd cb && cbSound cb && decide (bits (cmdD v 0) 35 28 * 64 + 4 ≤ cbS cb)

/-- The tile whose format or shape an MOPT refuses. -/
def optFlaw (x : CmdSite) (tw tg tm tv : Tile) : Option Nat :=
  let shape := fun (t : Tile) => t.rows == tw.rows && t.cols == tw.cols
  if 1 < tw.fmt then some 1
  else if tg.fmt ≠ 0 ∨ !shape tg then some 2
  else if tm.fmt ≠ 0 ∨ !shape tm then some 3
  else if tv.fmt ≠ 0 ∨ !shape tv then some 4
  else if x.same 1 2 || x.same 1 3 || x.same 1 4 then some 1
  else if x.same 2 3 || x.same 2 4 then some 2
  else if x.same 3 4 then some 3
  else none

/-- The norm of an MOPT has arrived: its stream has a filled slot. -/
def State.optArrived (s : State) (who : Who) (cb : BitVec 128) : Except Bad Bool := do
  let p ← s.peekWord who (cbPair cb) 4
  return (p + 2 ^ 16 - cbLcnt cb) % 2 ^ 16 != 0

/-- MOPT, once its norm has arrived. -/
def runMopt (s : State) (x : CmdSite) (v : VWord) (tw tg tm tv : Tile) : CmdRes :=
  if !optHandleOk v x.cb then .refuse 2 0
  else match optFlaw x tw tg tm tv with
    | some f => .refuse 4 (x.num f)
    | none =>
      cmdTry (do
        let (_, s) ← s.agentRead { x.who with acq := some (cbSc x.cb) } (cbPair x.cb) 4
        s.agentRead x.who (cbAddr x.cb (bits (cmdD v 0) 35 28 * 64)) 4) fun (bs, s) =>
      match optClip (cmdOpt v) (ofBytes bs) with
      | none => .done [] { nan := 1 } s
      | some cl =>
        let r := optTiles (cmdOpt v) cl tw tg tm tv
        .done [(1, r.1), (3, r.2.1), (4, r.2.2.1)] r.2.2.2 s

/-! ### MSYNC (09 R182) -/

/-- MSYNC: a release at SC, then VALUE is stored or added. -/
def runMsync (s : State) (x : CmdSite) (v : VWord) : CmdRes :=
  let d0 := cmdD v 0
  let n := if bit d0 12 then 8 else 4
  let sc := some (bits d0 10 8)
  let a := BitVec.ofNat 64 (cmdD v 1)
  cmdTry (do
    mustAlign a n
    if bit d0 11 then
      let (_, s) ← s.agentAtom x.who a n (fun bs => toBytes n (ofBytes bs + cmdD v 2)) (sc := sc)
      return s
    else s.agentWrite x.who a (toBytes n (cmdD v 2)) (sc := sc)) fun s => .done [] {} s

/-! ### Any command on tiles -/

/-- A command with a sound layout runs on the tiles of its fields; one that has no tile is refused with reason 3. -/
def runTiles (s : State) (x : CmdSite) (v : VWord) : CmdRes :=
  match (cmdFields (cmdCode v)).find? fun f => (x.tile f).isNone with
  | some f => .refuse 3 (x.num f)
  | none =>
    match cmdCode v, x.tile 1, x.tile 2, x.tile 3, x.tile 4 with
    | 3, some t, _, _, _ => runMld s x v t
    | 7, some t, _, _, _ => runMst s x v t
    | 4, some c, some a, some b, _ => runMma s x v c a b
    | 5, some c, some a, some b, _ => runMma s x v c a b
    | 6, some c, some a, some b, _ => runMma s x v c a b
    | 10, some w, some g, some m, some u => runMopt s x v w g m u
    | 12, some d, some k, _, _ => runMmask s x v d k
    | 13, some t, _, _, _ => runMnorm s x v t
    | 11, _, _, _, _ => runMsync s x v
    | _, _, _, _, _ => .refuse 1 0

end Sys2Proof.Machine
end

