-- ==== Sys2Proof/Machine/Ring.lean ====
section
/-! DEFINITION. Rings: the ring instructions, beats, meetings, phases and recovery (12 R227-R253). A match entry is located
by ring, station, track and index; stations of events count over the quads of the cluster. -/

namespace Sys2Proof.Machine

/-! ### Locators (12 R244) -/

/-- A locator. -/
structure Loct where
  ix : Nat
  trk : Nat
  st : Nat
  tmpl : Bool
  deriving DecidableEq, Repr

/-- A register value as a locator of a ring of length `l`. -/
def locator (v : Word) (l : Nat) : Except Stop Loct :=
  let x : Loct := ⟨bits v.toNat 8 0, bits v.toNat 9 9, bits v.toNat 13 10, v.getLsbD 14⟩
  if 2 ^ 15 ≤ v.toNat ∨ l ≤ x.st ∨ (x.tmpl ∧ (15 < x.ix ∨ x.trk ≠ 0)) then illegal v else .ok x

/-- A locator that must name an entry. -/
def entLocator (v : Word) (l : Nat) : Except Stop Loct := do
  let x ← locator v l
  if x.tmpl then illegal v else .ok x

/-- The cluster of the executing core. -/
def State.myClu (s : State) : Nat := cluOfCore s.cur.core

/-- The ring length of the executing core. -/
def State.myLen (s : State) : Nat := (s.cluster s.myClu).ringLen

/-! ### Configuration and staging (12 R245, R246) -/

/-- Every track of a cluster is IDLE. -/
def Cluster.quiet (c : Cluster) : Bool := c.phases.all fun p => p.2.st == .idle

/-- Every entry becomes invalid with status 0, and every template invalid. -/
def Cluster.wipe (c : Cluster) : Cluster :=
  { c with templates := []
           entries := (c.entries.map fun e => (e.1, entClear (entPut e.2 139 139 0))).filter fun e => e.2 != 0 }

/-- `rcfg`'s condition and effect. DESIGN CHOICE: the last phases stay under the numbers of their rings, whatever the cut (log entry
22). -/
def State.tryRcfg (s : State) (c : Word) : Attempt :=
  let k := s.cluster s.myClu
  .ok (if k.quiet && k.staging.isEmpty then
    let cut := bits c.toNat 1 0
    some (s.modCluster s.myClu fun k =>
      { (if cut = k.cut then k else k.wipe) with cut, beat := bits c.toNat 15 8 }).advance
  else none)

/-- `rcfg`: sets the cluster's cut and beat once its tracks are IDLE and nothing is staged (12 R245). -/
def execRcfg (ra : Reg) (s : State) : Outcome :=
  let c := s.getW ra
  settle s <|
    if bits c.toNat 1 0 = 3 ∨ bits c.toNat 15 8 < 32 ∨ bits c.toNat 7 2 ≠ 0 ∨ 2 ^ 16 ≤ c.toNat then illegal c
    else s.waitOn (.rcfg c) 0 true (s.tryRcfg c)

/-- An address in own TCM or the own cluster's Pond, with the last of `n` bytes. -/
def State.inHome (s : State) (g : Nat) (a : Word) (n : Nat) : Bool :=
  let near := fun (x : Word) => match localLoc (s.whoAgent g) x.toNat with
    | .ok l => l.space == .tcm g || l.space == .pond (cluOfCore g)
    | .error _ => false
  a.getLsbD 63 && near a && near (a + BitVec.ofNat 64 (n - 1))

/-- An address in own TCM, with the last of `n` bytes. -/
def State.inOwnTcm (s : State) (g : Nat) (a : Word) (n : Nat) : Bool :=
  let near := fun (x : Word) => match localLoc (s.whoAgent g) x.toNat with
    | .ok l => l.space == .tcm g
    | .error _ => false
  a.getLsbD 63 && near a && near (a + BitVec.ofNat 64 (n - 1))

/-- An injection descriptor that `rinj` takes (12 R246). -/
def injectOk (h0 h1 src dst : Word) : Bool :=
  let f := tileFmt h1
  let need := tileRows h1 * tileCols h1 * fmtWidth f
  bits h0.toNat 63 58 == 0 && bits h0.toNat 39 16 == 0 && bits h1.toNat 63 38 == 0 && !h1.getLsbD 23 && bits h1.toNat 15 0 == 0 &&
    decide (f < 6) && decide (1 ≤ tileLen h1) && decide (tileLen h1 ≤ 64) && decide (need ≤ tileLen h1 * 512) &&
    shapeOk f (tileCols h1) && (!tileAcc h1 || tileWest h0) && (dst == 0 || tileAcc h1) && aligned src 64 && aligned dst 64

/-- The staging place of a tile at a station (12 R230). -/
def stageKey (quad : Nat) (h0 : Word) : Nat := quad * 4 + (if tileWest h0 then 2 else 0) + tileTrk h0

/-- `rinj`: stages a tile from an injection descriptor, or answers why it cannot (12 R246). It reads SRC after the core's
own earlier writes there (01 R10). -/
def execRinj (rd ra : Reg) (s : State) : Outcome :=
  let d := s.getW ra
  let g := s.cur.core
  settle s <|
    if !aligned d 32 then misalign d .read
    else if !s.inOwnTcm g d 32 then .error (.sys 0x03 d d .read)
    else do
      let (bs, s) ← s.load d 32
      match wordsOf bs with
      | [h0, h1, src, dst] =>
        let n := tileLen h1 * 64
        let c := s.cluster s.myClu
        let (ring, st) := s.ringOf g
        let ph := c.phase ring (tileTrk h0)
        let key := stageKey (quadOfCore g % 16) h0
        if !injectOk h0 h1 src dst then illegal d
        else if !s.inHome g src n then .error (.sys 0x03 src src .read)
        else if tileAcc h1 && !s.inHome g dst n then .error (.sys 0x03 dst dst .write)
        else if ph.st != .idle && ph.num.toNat == tilePhase h0 then .ok (s.retire rd 2)
        else if (SMap.find c.staging key).isSome then .ok (s.retire rd 1)
        else if c.beat < tileLen h1 then .ok (s.retire rd 3)
        else do
          let (rs, _) ← orStop .read (s.resolve (s.whoAgent g) .read src.toNat n)
          let (data, s) ← orStop .read ((s.performOver g (placesOf rs)).agentRead (s.whoAgent g) src n)
          let h0 := h0 ||| (s.cx.mver.setWidth 64 <<< 16) ||| (s.cx.mbatch.setWidth 64 <<< 32)
          let t : RingTile := ⟨h0, h1 ||| BitVec.ofNat 64 g, src, dst, data, st⟩
          return (s.modCluster s.myClu fun c => { c with staging := SMap.put c.staging key t }).retire rd 0
      | _ => illegal d

/-! ### Match entries and templates (12 R234-R236, R247) -/

/-- An entry image that `rmset` takes. -/
def entImageOk (e : BitVec 256) : Bool :=
  entBits e 191 160 == 0 && entBits e 143 140 == 0 && !e.getLsbD 132 && entBits e 255 192 == 0 && decide (entBorn e ≤ entDied e)

/-- The selector of a tile field. -/
def tmplSel (v : VWord) (f : Nat) : Nat := bits (cmdD v 7) (3 * f - 1) (3 * f - 3)

/-- TCORE. -/
def tmplCore (v : VWord) : Nat := bits (cmdD v 7) 13 12

/-- NHIDX. -/
def tmplNhidx (v : VWord) : Nat := bits (cmdD v 7) 19 14

/-- The fields that a template's command writes (12 R236). -/
def tmplWrites (v : VWord) : List Nat :=
  match cmdCode v with
  | 4 | 5 | 6 => [1]
  | 10 => [1, 3, 4]
  | 12 => if bit (cmdD v 0) 16 then [2] else [1]
  | _ => []

/-- A written field's selector is allowed; `acc` tells whether the met west tile is an accumulator. -/
def tmplWriteOk (v : VWord) (acc : Bool) (f : Nat) : Bool :=
  let sel := tmplSel v f
  let prod := cmdCode v == 4 || cmdCode v == 5 || cmdCode v == 6
  sel == 0 || decide (4 ≤ sel) || (sel == 2 && prod && acc) || (sel == 3 && cmdCode v == 10 && f == 1)

/-- A template image that `rmset` takes. -/
def tmplImageOk (v : VWord) : Bool :=
  ([4, 5, 6, 10, 12, 13] : List Nat).contains (cmdCode v) && decide (cmdD v 7 < 2 ^ 20) &&
    (([1, 2, 3, 4] : List Nat).all fun f => (cmdFields (cmdCode v)).contains f || tmplSel v f == 0) &&
    (tmplWrites v).all (tmplWriteOk v true)

/-- `rmset`: writes one entry or template of the ring, whole (12 R247). -/
def execRmset (ra rb : Reg) (s : State) : Outcome :=
  let a := s.getW ra
  let ring := (s.ringOf s.cur.core).1
  settle s do
    let x ← locator (s.getW rb) s.myLen
    let n := if x.tmpl then 64 else 32
    if !aligned a n then misalign a .read
    else
      let (bs, s) ← s.load a n
      if x.tmpl then
        let v := BitVec.ofNat 512 (ofBytes bs)
        if !tmplImageOk v then s.found (.sys 0x01 a 0 .none)
        else
          return (s.modCluster s.myClu fun c => { c with templates := SMap.put c.templates (c.tmplKey ring x.st x.ix) v }).advance
      else
        let e := BitVec.ofNat 256 (ofBytes bs)
        if !entImageOk e then s.found (.sys 0x01 a 0 .none)
        else
          return (s.modCluster s.myClu fun c =>
            c.setEntry ring x.st x.trk x.ix (entWrite (c.entry ring x.st x.trk x.ix) e)).advance

/-- `rmclr`: W(ra) entries from the locator's, or one template, become invalid (12 R247). -/
def execRmclr (ra rb : Reg) (s : State) : Outcome :=
  let n := (s.getW ra).toNat
  let ring := (s.ringOf s.cur.core).1
  settle s do
    let x ← locator (s.getW rb) s.myLen
    if x.tmpl then
      if n ≠ 1 then illegal (s.getW ra)
      else return (s.modCluster s.myClu fun c => { c with templates := SMap.del c.templates (c.tmplKey ring x.st x.ix) }).advance
    else if n = 0 ∨ 512 < x.ix + n then illegal (s.getW ra)
    else return (s.modCluster s.myClu fun c => (List.range n).foldl (fun c i =>
      c.setEntry ring x.st x.trk (x.ix + i) (entClear (entPut (c.entry ring x.st x.trk (x.ix + i)) 139 139 0))) c).advance

/-! ### Phases (12 R248-R251) -/

/-- Every entry of a track of a ring is changed. -/
def Cluster.mapEntries (c : Cluster) (ring trk : Nat) (f : BitVec 256 → BitVec 256) : Cluster :=
  let here := fun (k : Nat) => k / 1024 / c.ringLen == ring && k / 512 % 2 == trk
  { c with entries := c.entries.map fun e => if here e.1 then (e.1, f e.2) else e }

/-- The MISSED entries of a track of a ring: station and index, ascending. -/
def Cluster.missedEntries (c : Cluster) (ring trk : Nat) : List (Nat × Nat) :=
  (c.entries.filter fun e => e.1 / 1024 / c.ringLen == ring && e.1 / 512 % 2 == trk && entMissed e.2).map fun e =>
    (e.1 / 1024 % c.ringLen, e.1 % 512)

/-- A phase that opens: the staged tiles of its track and number enter at beat 0, and it takes along what its opening owes (12
R252). -/
def State.openPhase (s : State) (p recAddr : Word) (trk sc : Nat) : State :=
  let g := s.cur.core
  let opened := s.relTags g 2
  let (ring, _) := s.ringOf g
  s.modCluster s.myClu fun c =>
    let mine := fun (x : Nat × RingTile) =>
      x.1 / 4 / c.ringLen == ring && tileTrk x.2.hdr0 == trk && tilePhase x.2.hdr0 == bits p.toNat 15 0
    let tiles := (c.staging.filter mine).map (·.2)
    let c := c.mapEntries ring trk fun e => entPut (entPut e 137 137 0) 138 138 0
    let old := c.phase ring trk
    let ph : Phase :=
      { st := .running, num := BitVec.ofNat 16 p.toNat, nb := bits p.toNat 23 16, recov := p.getLsbD 24
        expect := bits p.toNat 63 32, sc, recAddr, core := g, ctx := s.cur.ctx, lastRec := old.lastRec
        east := tiles.filter fun t => !tileWest t.hdr0, west := tiles.filter fun t => tileWest t.hdr0
        opened }
    { c with staging := c.staging.filter fun x => !mine x, phases := SMap.put c.phases (ring * 2 + trk) ph }

/-- `rphase`'s condition and effect. -/
def State.tryRphase (s : State) (p recAddr : Word) (trk sc : Nat) : Attempt :=
  let (ring, _) := s.ringOf s.cur.core
  .ok (if ((s.cluster s.myClu).phase ring trk).st = .idle then some ((s.releaseWith 2).openPhase p recAddr trk sc).advance else none)

/-- The number of the open phase of a track, as EVAL. -/
def State.phaseVal (s : State) (trk : Nat) : Word :=
  ((s.cluster s.myClu).phase (s.ringOf s.cur.core).1 trk).num.setWidth 64

/-- A record address passes the checks of an access (15 R418). -/
def State.recordOk (s : State) (a : Word) (n : Nat) (need : Need := .write) : Except Stop Unit :=
  match s.resolve (s.whoAgent s.cur.core) need a.toNat n with
  | .ok (rs, _) => if rs.any (·.space == .queue) then .error (.sys 0x03 a a .write) else .ok ()
  | .error b => .error (.sys b.cause a b.addr (if need = .amo then .amo else .write))

/-- `rphase`: opens a phase on the core's ring once its track is IDLE (12 R248). -/
def execRphase (ra rb : Reg) (trk : Fin 2) (sc : Fin 8) (s : State) : Outcome :=
  let p := s.getW ra
  let a := s.getW rb
  settle s <|
    if bits p.toNat 23 16 = 0 ∨ bits p.toNat 31 25 ≠ 0 then illegal p
    else if !aligned a 8 then misalign a .write
    else do
      s.recordOk a 16
      s.waitOn (.rphase p a trk sc.val) (s.phaseVal trk.val) true (s.tryRphase p a trk.val sc.val)

/-- The code of a phase state (12 R240). -/
def PhaseState.code : PhaseState → Nat
  | .idle => 0
  | .running => 1
  | .draining => 2
  | .recover => 3

/-- `rcnt`: reads the counts or the state of a phase, or an entry's status (12 R249). -/
def execRcnt (rd ra : Reg) (sel : Fin 4) (trk : Fin 2) (s : State) : Outcome :=
  let c := s.cluster s.myClu
  let ring := (s.ringOf s.cur.core).1
  let ph := c.phase ring trk.val
  settle s <|
    if sel.val = 0 then .ok (s.retire rd (BitVec.ofNat 64 (ph.expect * 2 ^ 32 + ph.c % 2 ^ 32)))
    else if sel.val = 1 then
      .ok (s.retire rd (BitVec.ofNat 64
        (ph.st.code * 2 ^ 48 + ph.num.toNat * 2 ^ 32 + (c.missedEntries ring trk.val).length)))
    else do
      let x ← entLocator (s.getW ra) s.myLen
      return s.retire rd (BitVec.ofNat 64 (entBits (c.entry ring x.st x.trk x.ix) 159 128))

/-- What a release left at an address is acquired at a scope (15 R278); an address that no longer resolves holds none. -/
def State.acquireAt (s : State) (a : Word) (n sc : Nat) : State :=
  let who := { s.whoOwn s.cur.core with acq := some sc }
  match s.resolve who .any a.toNat n with
  | .ok (rs, _) => s.beforeRead who rs
  | .error _ => s

/-- `rdrain`'s condition: the track is IDLE; rd ← word 0 of its last record, whose release it acquires (12 R251). -/
def State.tryRdrain (s : State) (rd : Reg) (trk : Nat) : Attempt :=
  let ph := (s.cluster s.myClu).phase (s.ringOf s.cur.core).1 trk
  .ok (if ph.st = .idle then some ((s.acquireAt ph.recAddr 16 ph.sc).retire rd ph.lastRec) else none)

/-- `rdrain`: waits until the track is IDLE (12 R251). -/
def execRdrain (rd : Reg) (trk : Fin 2) (s : State) : Outcome :=
  settle s (s.waitOn (.rdrain rd trk) (s.phaseVal trk.val) true (s.tryRdrain rd trk.val))

/-- An entry is marked as met and recovered or accepted. -/
def entMeet (e : BitVec 256) : BitVec 256 :=
  entPut (entPut (entPut e 138 138 0) 137 137 1) 159 144 (entMcnt e + 1)

/-- `rfetch`: starts the recovery of a MISSED entry of a phase with RECOV 1 (12 R250). -/
def execRfetch (rd rb : Reg) (s : State) : Outcome :=
  let c := s.cluster s.myClu
  let ring := (s.ringOf s.cur.core).1
  settle s do
    let x ← entLocator (s.getW rb) s.myLen
    let ph := c.phase ring x.trk
    let e := c.entry ring x.st x.trk x.ix
    if ph.st != .recover || ph.faulted || !ph.recov then return s.retire rd 2
    else if !entMissed e then return s.retire rd 1
    else
      let s := s.modCluster s.myClu fun c => { c.setEntry ring x.st x.trk x.ix (entMeet e) with fetches := c.fetches + 1 }
      let m := (ph.missed.filter fun m => m.station == x.st && m.entryIx == x.ix).map fun m =>
        { m with entry := entMeet e, tmpl := c.template ring x.st (entTmpl e), seq := c.fetches }
      return (s.modPhase s.myClu ring x.trk fun p =>
        { p with fetchQ := p.fetchQ ++ m, pendingRecoveries := p.pendingRecoveries + m.length }).retire rd 0

/-! ### The end of a phase (12 R242, R243) -/

/-- Word 0 of a completion record. -/
def Phase.record (p : Phase) (status : Nat) : Word :=
  BitVec.ofNat 64 (p.c % 2 ^ 32 * 2 ^ 32 + status * 2 ^ 16 + p.num.toNat)

/-- The track becomes IDLE; the opener's event latches are set. -/
def State.idlePhase (s : State) (clu ring trk : Nat) : State :=
  let p := (s.cluster clu).phase ring trk
  (s.modPhase clu ring trk fun p =>
    { p with st := .idle, faulted := false, closing := none, east := [], west := [], missed := []
             fetchQ := [], pendingRecoveries := 0 }).wake p.core

/-- The completion record is written with release at the phase's scope, and the track becomes IDLE; while XLATE holds the
write, it does not (15 R418). The last record is one that is written (R251). -/
def State.closePhase (s : State) (clu ring trk status : Nat) : State :=
  let p := (s.cluster clu).phase ring trk
  let e : Engine := .ring (Fin.ofNat 2 trk)
  let (ok, s) := s.tryComplete ⟨p.core, p.ctx⟩ e p.recAddr
    (bytesOf [p.record status, BitVec.ofNat 64 (p.late * 2 ^ 32 + p.missedAtEnd)]) (some p.sc) false p.num (p.opened ++ p.tags)
  if s.engineHeld p.core e then s.modPhase clu ring trk fun p => { p with closing := some status }
  else (if ok then s.modPhase clu ring trk fun p => { p with lastRec := p.record status } else s).idlePhase clu ring trk

/-- EVAL of RING_FAULT (12 R243). -/
def ringEval (num : BitVec 16) (ix st trk reason : Nat) : Word :=
  BitVec.ofNat 64 (num.toNat * 2 ^ 48 + ix * 2 ^ 16 + st * 2 ^ 9 + trk * 2 ^ 8 + reason)

/-- Late adds of an ended phase are not applied. -/
def State.dropLate (s : State) (clu ring trk : Nat) : State :=
  s.modCluster clu fun c => { c with lateAdds := c.lateAdds.filter fun a => !(a.ring == ring && a.trk.val == trk) }

/-- The meetings of a track of a ring that have not retired. -/
def State.meetingsOf (s : State) (clu ring trk : Nat) : List Meeting :=
  (List.range 16).flatMap fun q => (s.quad (clu * 16 + q)).meetings.filter fun m => m.ring == ring && m.trk.val == trk

/-- A phase that a fault has ended writes its record once its accepted meetings have retired (12 R243, R252). -/
def State.closeFaulted (s : State) (clu ring trk : Nat) : State :=
  let p := (s.cluster clu).phase ring trk
  if p.faulted && p.closing.isNone && (s.meetingsOf clu ring trk).isEmpty then s.closePhase clu ring trk 2 else s

/-- A fault ends a phase (12 R243): it is charged to the opener, beats, matches, deliveries, late adds and recoveries stop,
and accepted meetings retire. Until then the track reads DRAINING. Log entry 50. -/
def State.endByFault (s : State) (clu ring trk : Nat) (f : FaultRec) : State :=
  let c := s.cluster clu
  let p := c.phase ring trk
  if p.st = .idle ∨ p.faulted ∨ p.closing.isSome then s
  else
    let s := ((s.dropLate clu ring trk).charge { f with xid := p.num }).modPhase clu ring trk fun p =>
      { p with faulted := true, st := .draining, fetchQ := []
               missedAtEnd := if p.st = .running then (c.missedEntries ring trk).length else p.missedAtEnd }
    s.closeFaulted clu ring trk

/-- RING_FAULT ends a phase. -/
def State.ringFault (s : State) (clu ring trk st ix reason : Nat) (bad : Option Bad := none) : State :=
  let p := (s.cluster clu).phase ring trk
  let f := s.record ⟨p.core, p.ctx⟩ 0x0D .ring 0 (ringEval p.num ix st trk reason) ((bad.map Bad.addr).getD 0) .none
  s.endByFault clu ring trk { f with word := ((bad.map Bad.cause).getD 0).setWidth 32 }

/-- A parity error on a ring link ends the phase and raises POISON (12 R243); the manual states no EVAL. -/
def State.ringParity (s : State) (clu ring trk : Nat) : State :=
  let p := (s.cluster clu).phase ring trk
  let f := s.record ⟨p.core, p.ctx⟩ 0x05 .ring 0 (Config.freeWord s.freeCtr) 0 .none
  { s with freeCtr := s.freeCtr + 1 }.endByFault clu ring trk f

/-- A count above EXPECT ends the phase (12 R242). -/
def State.countTest (s : State) (clu ring trk : Nat) : State :=
  let p := (s.cluster clu).phase ring trk
  if p.expect < p.c then s.ringFault clu ring trk 0 0 5 else s

/-- A recovery counts. -/
def State.countRecovery (s : State) (clu ring trk : Nat) : State :=
  (s.modPhase clu ring trk fun p =>
    { p with c := p.c + 1, late := p.late + 1, pendingRecoveries := p.pendingRecoveries - 1 }).countTest clu ring trk

/-! ### Meeting commands (12 R235-R238) -/

/-- What a tile field of a meeting command names. -/
inductive FieldSrc where
  | literal (n : Nat)
  | east
  | west
  | block (blk : Nat) (slot : Nat)
  deriving DecidableEq, Repr

/-- The global quad of a station. -/
def stationGlobal (c : Cluster) (clu ring st : Nat) : Nat := clu * 16 + c.stationQuad ring st

/-- The version of a meeting. -/
def Meeting.ver (m : Meeting) : Nat := tileVer m.west.hdr0

/-- The weights of an MOPT come from a slot, so that its moments go to the fresh slot (18 R324). -/
def Meeting.freshens (m : Meeting) : Bool :=
  cmdCode m.tmpl == 10 && (tmplSel m.tmpl 1 == 3 || tmplSel m.tmpl 1 == 4)

/-- What field `f` reads. -/
def Meeting.reads (m : Meeting) (f : Nat) : FieldSrc :=
  let slot := entSlot m.entry (m.ver % 4)
  match tmplSel m.tmpl f with
  | 0 => .literal (cmdTile m.tmpl f)
  | 1 => .east
  | 2 => .west
  | 3 => .block 0 slot
  | 4 => .block 0 (entSlot m.entry ((m.ver + 1) % 4))
  | n => .block (n - 4) slot

/-- What field `f` writes: codes 3, 6 and 7 go to the fresh slot where TW selects code 3 or 4 (12 R236, 18 R324). -/
def Meeting.writes (m : Meeting) (f : Nat) : FieldSrc :=
  match m.reads f with
  | .block b n =>
    if m.freshens && tmplSel m.tmpl f != 5 then .block b (entSlot m.entry ((m.ver + 1) % 4)) else .block b n
  | x => x

/-- The meeting accumulates into the met west tile. -/
def Meeting.accumulates (m : Meeting) : Bool := (tmplWrites m.tmpl).any fun f => tmplSel m.tmpl f == 2

/-- The meeting names the met west tile. -/
def Meeting.usesWest (m : Meeting) : Bool := (cmdFields (cmdCode m.tmpl)).any fun f => tmplSel m.tmpl f == 2

/-- The literal tiles that a meeting names. -/
def Meeting.literals (m : Meeting) : List Nat :=
  (cmdFields (cmdCode m.tmpl)).filterMap fun f => match m.reads f with
    | .literal n => some n
    | _ => none

/-- The slot blocks that a meeting names. -/
def Meeting.slots (m : Meeting) : List Nat :=
  (cmdFields (cmdCode m.tmpl)).flatMap fun f => ([m.reads f, m.writes f] : List FieldSrc).filterMap fun x => match x with
    | .block _ n => some n
    | _ => none

/-- The west tile as it travels now. -/
def State.westNow (s : State) (m : Meeting) : RingTile :=
  let p := (s.cluster m.clu).phase m.ring m.trk.val
  (p.west.find? fun t => t.station == m.west.station).getD m.west

/-- The shape of what a field names, without its data. -/
def State.fieldShape (s : State) (m : Meeting) (f : Nat) : Option Tile :=
  match m.reads f with
  | .literal n =>
    let q := s.quad (stationGlobal (s.cluster m.clu) m.clu m.ring m.station)
    match q.tiles[n]? with
    | some t => if t.valid && t.owner.val == tmplCore m.tmpl then some t else none
    | none => none
  | .east => some (m.east.asTile [])
  | .west => some (m.west.asTile [])
  | .block b _ => m.layer.map fun l => l.blockTile b []

/-- A command's site for a meeting: tiles as given, the format context of TCORE. -/
def State.meetSite (s : State) (m : Meeting) (tile : Nat → Option Tile) : CmdSite :=
  let q := stationGlobal (s.cluster m.clu) m.clu m.ring m.station
  let k := tmplCore m.tmpl
  { who := s.whoAgent (q * 4 + k) 1, fc := (s.quad q).fctx[(Fin.ofNat 4 k)], tile
    same := fun a b => m.reads a == m.reads b, num := fun _ => 0, cb := m.cb }

/-- The command of a template: its D0-D6. -/
def tmplCmd (v : VWord) : VWord := v &&& BitVec.ofNat 512 (2 ^ 448 - 1)

/-- The substituted command would be refused (12 R237). -/
def cmdRefused (x : CmdSite) (v : VWord) : Bool :=
  !cmdSound v || (cmdFields (cmdCode v)).any (fun f => (x.tile f).isNone) ||
  match cmdCode v, x.tile 1, x.tile 2, x.tile 3, x.tile 4 with
  | 10, some w, some g, some m, some u => !optHandleOk v x.cb || (optFlaw x w g m u).isSome
  | 12, some d, some k, _, _ => k.fmt != 5 || d.fmt == 5 || d.rows != k.rows || d.cols != k.cols
  | 13, _, _, _, _ => false
  | _, some c, some a, some b, _ => (mmaFlaw x (cmdCode v == 5) c a b).isSome
  | _, _, _, _, _ => true

/-- SHADV of a layer's version header as the station reads it. -/
def State.shadv (s : State) (who : Who) (l : Layer) : Except Bad (Nat × State) := do
  let (bs, s) ← s.agentRead who (l.addr + 0x70) 8
  return (bits (ofBytes bs) 31 16, s)

/-- An agent of a core acquires the opening of a phase (12 R252). -/
def State.phaseAcquire (s : State) (clu ring trk g level : Nat) : State :=
  s.acquire (s.whoAgent g level) ((s.cluster clu).phase ring trk).opened

/-- What an agent of a core has read for a phase is released by the phase's record (12 R252). -/
def State.phaseSaw (s : State) (clu ring trk g : Nat) : State :=
  let l := (s.core g).owes.filter s.tagOwes
  if l.isEmpty then s else s.modPhase clu ring trk fun p => { p with tags := (p.tags ++ l).dedup }

/-- Every slot that a meeting's selectors name exists (18 R324), with the read of the version header that this may take. -/
def State.slotsExist (s : State) (m : Meeting) : Except Bad (Bool × State) :=
  let sels := (cmdFields (cmdCode m.tmpl)).map (tmplSel m.tmpl)
  let fresh := sels.any (· == 4) || m.freshens
  let own := sels.any fun x => x == 3 || decide (5 ≤ x)
  match m.layer with
  | none => .ok (!(fresh || own), s)
  | some l =>
    if own && !entSv m.entry (m.ver % 4) then .ok (false, s)
    else if fresh then do
      let (v, s) ← s.shadv (s.whoAgent m.core 2) l
      return (v == m.ver + 1 && entSv m.entry ((m.ver + 1) % 4), s)
    else .ok (true, s)

/-- The flaw that ends the phase instead of a meeting: its reason and a failed access, with the state after the reads. -/
def State.meetFlaw (s : State) (m : Meeting) : Option (Nat × Option Bad) × State :=
  match s.slotsExist m with
  | .error b => (some (6, some b), s)
  | .ok (false, s) => (some (2, none), s)
  | .ok (true, s) =>
    (if !(tmplWrites m.tmpl).all (tmplWriteOk m.tmpl (tileAcc m.west.hdr1)) then some (4, none)
    else if cmdRefused (s.meetSite m (s.fieldShape m)) (tmplCmd m.tmpl) then some (3, none)
    else none, s)

/-- A meeting of two tiles at an entry, with a copy of its template. -/
def State.meeting (s : State) (clu ring st : Nat) (trk : Fin 2) (ix rank : Nat) (e : BitVec 256) (t : VWord)
    (east west : RingTile) (recovery : Bool) : Meeting :=
  let c := s.cluster clu
  let p := c.phase ring trk.val
  { clu, ring, station := st, trk, phase := p.num, entryIx := ix, entry := e, tmpl := t, east, west
    layer := c.layerOf ring trk.val ix
    cb := (s.ctx ⟨p.core, p.ctx⟩).ws.cb[(Fin.ofNat 8 (bits (cmdD t 0) 26 24))]
    core := p.core, ctx := p.ctx, rank, recovery, headSince := s.now
    id := 8 * s.freeCtr + 4 * trk.val + rank % 4 }

/-! ### Beats (12 R231-R233) -/

/-- The tile of a family in latch `k` of a station during beat `b`. -/
def latch (l b k st : Nat) (west : Bool) (ts : List RingTile) : Option RingTile :=
  if b < k then none
  else ts.find? fun t =>
    (if west then (t.station + l * 256 - (b - k)) % l else (t.station + (b - k)) % l) == st

/-- The lowest entry of a station that a candidate pair matches. -/
def Cluster.matching (c : Cluster) (ring st trk : Nat) (e w : RingTile) : Option Nat :=
  let base := c.entKey ring st trk 0
  let v := tileVer e.hdr0
  if v = tileVer w.hdr0 ∧ tileMb e.hdr0 = tileMb w.hdr0 then
    (c.entries.find? fun x => decide (base ≤ x.1) && decide (x.1 < base + 512) && entValid x.2 && !entMet x.2 &&
      entEid x.2 == tileId e.hdr0 && entWid x.2 == tileId w.hdr0 && decide (entBorn x.2 ≤ v) && decide (v < entDied x.2)).map
      fun x => x.1 - base
  else none

/-- Word 1 of a MEET or LATEADD record (20 R364). -/
def meetWord (ring st trk ix : Nat) (accepted recovery : Bool) (num : BitVec 16) : Nat :=
  st + trk * 2 ^ 4 + ix * 2 ^ 5 + (if accepted then 2 ^ 14 else 0) + (if recovery then 2 ^ 15 else 0) + num.toNat * 2 ^ 16 +
    ring * 2 ^ 32

/-- A caught pair is missed: the buffer is full (12 R232). -/
def State.missPair (s : State) (clu ring st trk ix : Nat) (e w : RingTile) : State :=
  let p := (s.cluster clu).phase ring trk
  let s := s.modCluster clu fun c => c.setEntry ring st trk ix (entPut (c.entry ring st trk ix) 138 138 1)
  (s.modPhase clu ring trk fun p =>
    { p with missed := (p.missed.filter fun m => !(m.station == st && m.entryIx == ix)) ++ [{ station := st, entryIx := ix, east := e, west := w }] }).journal p.core 3
      (meetWord ring st trk ix false false p.num)

/-- A meeting command enters its station's buffer, unless its template is invalid or it has a flaw, which ends the phase. -/
def State.placeMeeting (s : State) (clu ring st : Nat) (trk : Fin 2) (ix rank : Nat) (e : BitVec 256) (t : Option VWord)
    (east west : RingTile) (recovery : Bool) : State :=
  match t with
  | none => s.ringFault clu ring trk.val st ix 1
  | some t =>
    let m := s.meeting clu ring st trk ix rank e t east west recovery
    match s.meetFlaw m with
    | (some (reason, bad), s) => s.ringFault clu ring trk.val st ix reason bad
    | (none, s) => s.modQuad (stationGlobal (s.cluster clu) clu ring st) fun q => { q with meetings := q.meetings ++ [m] }

/-- A caught pair is accepted (12 R232, R237): its entry is MET, the phase counts it, and its command enters the buffer. Of
several flaws the template's or the command's ends the phase, not the count. Log entry 50. -/
def State.acceptPair (s : State) (clu ring st trk ix rank : Nat) (e w : RingTile) : State :=
  let c := s.cluster clu
  let p := c.phase ring trk
  let x := c.entry ring st trk ix
  let s := s.modCluster clu fun c => c.setEntry ring st trk ix (entMeet x)
  let s := s.modPhase clu ring trk fun p =>
    { p with c := p.c + 1, missed := p.missed.filter fun m => !(m.station == st && m.entryIx == ix) }
  let s := s.journal p.core 3 (meetWord ring st trk ix true false p.num)
  (s.placeMeeting clu ring st (Fin.ofNat 2 trk) ix rank (entMeet x) (c.template ring st (entTmpl x)) e w false).countTest
    clu ring trk

/-- One candidate pair of a station is tested; none where the opener replays and the recorded acceptance has no room yet, or another
recorded choice comes first (20 R365). -/
def State.testPair (s : State) (clu ring st trk : Nat) (i ke kw : Nat) : Option State :=
  let c := s.cluster clu
  let p := c.phase ring trk
  if p.st != .running then some s
  else
    let l := c.ringLen
    match latch l p.beat ke st false p.east, latch l p.beat kw st true p.west with
    | some e, some w =>
      match c.matching ring st trk e w with
      | none => some s
      | some ix =>
        let room := decide ((s.quad (stationGlobal c clu ring st)).meetings.length < 8)
        let rep := (s.core p.core).journal.replaying
        if s.journalWaits p.core 3 then none
        else if rep && s.journalAllows p.core 3 (meetWord ring st trk ix true false p.num) then
          if room then some (s.acceptPair clu ring st trk ix (p.beat * 4 + i) e w) else none
        else if rep && s.journalAllows p.core 3 (meetWord ring st trk ix false false p.num) then
          some (s.missPair clu ring st trk ix e w)
        else if room then some (s.acceptPair clu ring st trk ix (p.beat * 4 + i) e w)
        else some (s.missPair clu ring st trk ix e w)
    | _, _ => some s

/-- The pairs of a ring in the order in which they are tested (12 R231). DESIGN CHOICE: the stations in ascending order (log entry
50). -/
def beatTests (l : Nat) : List (Nat × Nat × Nat × Nat × Nat) :=
  (List.range l).flatMap fun st => ([0, 1] : List Nat).flatMap fun trk =>
    ([(0, 1, 0), (1, 0, 0), (2, 0, 1)] : List (Nat × Nat × Nat)).map fun x => (st, trk, x)

/-- A beat of a track ends; after the last one the phase drains (12 R240). -/
def State.endBeat (s : State) (clu ring trk : Nat) : State :=
  let c := s.cluster clu
  let p := c.phase ring trk
  if p.st != .running then s
  else if p.beat + 1 < p.nb then s.modPhase clu ring trk fun p => { p with beat := p.beat + 1 }
  else s.modPhase clu ring trk fun p =>
    { p with beat := p.beat + 1, st := .draining, missedAtEnd := (c.missedEntries ring trk).length }

/-- A track of a ring runs. -/
def State.trackRuns (s : State) (clu ring trk : Nat) : Bool := ((s.cluster clu).phase ring trk).st == .running

/-- One beat of a ring: latches, candidate pairs, and parity errors of its links on the tracks named (12 R231, R243). -/
def execRingBeat (clu ring : Nat) (parity : List (Fin 2)) (s : State) : Outcome :=
  let c := s.cluster clu
  if c.ringCount ≤ ring || !(s.trackRuns clu ring 0 || s.trackRuns clu ring 1) then .refused (.notEnabled "RING_BEAT")
  else
    let bad := fun (s : State) (t : Fin 2) => if s.trackRuns clu ring t.val then s.ringParity clu ring t.val else s
    let s := parity.foldl bad s
    match (beatTests c.ringLen).foldlM (fun s x => s.testPair clu ring x.1 x.2.1 x.2.2.1 x.2.2.2.1 x.2.2.2.2) s with
    | none => .refused (.notEnabled "RING_BEAT")
    | some s => .next ((s.endBeat clu ring 0).endBeat clu ring 1)

/-! ### Draining, delivery and completion (12 R239-R242) -/

/-- Every ACC tile is delivered and every accepted meeting has retired. -/
def State.drained (s : State) (clu ring trk : Nat) : Bool :=
  let p := (s.cluster clu).phase ring trk
  (s.meetingsOf clu ring trk).all (·.recovery) && p.west.all fun t => !tileAcc t.hdr1 || p.delivered.contains t.station

/-- Nothing of a phase is outstanding and no entry is MISSED. -/
def State.settled (s : State) (clu ring trk : Nat) : Bool :=
  let c := s.cluster clu
  let p := c.phase ring trk
  !p.faulted && p.closing.isNone && ((p.st == .draining && s.drained clu ring trk) || (p.st == .recover && p.pendingRecoveries == 0)) &&
    (c.missedEntries ring trk).isEmpty

/-- Draining ends with MISSED entries, or nothing is outstanding and the count falls short (12 R240, R242). -/
def execRingDrainEnd (clu ring : Nat) (trk : Fin 2) (s : State) : Outcome :=
  let c := s.cluster clu
  let p := c.phase ring trk.val
  if p.st = .draining ∧ !p.faulted ∧ s.drained clu ring trk.val ∧ !(c.missedEntries ring trk.val).isEmpty then
    .next (s.modPhase clu ring trk.val fun p => { p with st := .recover })
  else if s.settled clu ring trk.val ∧ p.c ≠ p.expect then .next (s.ringFault clu ring trk.val 0 0 5)
  else .refused (.notEnabled "RING_DRAIN_END")

/-- The completion record is written with release, and the track becomes IDLE (12 R242), or it does so once a record that
XLATE held has been answered (15 R418). -/
def execPhaseComplete (clu ring : Nat) (trk : Fin 2) (s : State) : Outcome :=
  let p := (s.cluster clu).phase ring trk.val
  if p.closing.isSome then
    if s.engineHeld p.core (.ring trk) then .refused (.notEnabled "PHASE_COMPLETE")
    else .next (s.idlePhase clu ring trk.val)
  else if s.settled clu ring trk.val ∧ p.c = p.expect then .next (s.closePhase clu ring trk.val 1)
  else .refused (.notEnabled "PHASE_COMPLETE")

/-- The ring writes an ACC tile to its DST once its meetings have retired (12 R239). -/
def execAccDelivery (clu ring : Nat) (trk : Fin 2) (i : Nat) (s : State) : Outcome :=
  let p := (s.cluster clu).phase ring trk.val
  match p.west[i]? with
  | none => .refused (.notEnabled "ACC_DELIVERY")
  | some t =>
    if p.st != .draining || p.faulted || !tileAcc t.hdr1 || p.delivered.contains t.station ||
        (s.meetingsOf clu ring trk.val).any (fun m => m.west.station == t.station && !m.recovery) then
      .refused (.notEnabled "ACC_DELIVERY")
    else match s.agentWrite (s.whoAgent (tileHome t.hdr1) 2) t.dst t.data with
      | .ok s => .next (s.modPhase clu ring trk.val fun p => { p with delivered := p.delivered ++ [t.station] })
      | .error b => .next (s.ringFault clu ring trk.val 0 0 6 (some b))

/-! ### Recovery (12 R241) -/

/-- The entry that a station recovers next on a track: the first `rfetch` of it, or its lowest MISSED entry. -/
def State.nextRecovery (s : State) (clu ring st trk : Nat) : Option Missed :=
  let c := s.cluster clu
  let p := c.phase ring trk
  if p.st != .recover || p.faulted then none
  else if p.recov then p.fetchQ.find? fun m => m.station == st
  else ((c.missedEntries ring trk).find? fun x => x.1 == st).bind fun x =>
    p.missed.find? fun m => m.station == st && m.entryIx == x.2

/-- The recovery of track 0 goes before that of track 1 at a station: it always does where a track recovers on its own, and
fetched ones go in the order of their fetches (12 R241, R250). -/
def State.zeroFirst (s : State) (clu ring st : Nat) : Bool :=
  let c := s.cluster clu
  match s.nextRecovery clu ring st 0, s.nextRecovery clu ring st 1 with
  | some a, some b => !((c.phase ring 0).recov && (c.phase ring 1).recov) || decide (a.seq < b.seq)
  | a, _ => a.isSome

/-- A tile as its original stands now. -/
def State.original (s : State) (clu ring trk : Nat) (t : RingTile) : Except Bad (RingTile × State) := do
  let g := tileHome t.hdr1
  let (bs, s) ← (s.phaseAcquire clu ring trk g 2).agentRead (s.whoAgent g 2) t.src (tileLen t.hdr1 * 64)
  return ({ t with data := bs }, s.phaseSaw clu ring trk g)

/-- A recovery is under way: an automatic one marks its entry now. -/
def State.beginRecovery (s : State) (clu ring trk : Nat) (m : Missed) : State :=
  let p := (s.cluster clu).phase ring trk
  let s := if p.recov then s
    else (s.modCluster clu fun c => c.setEntry ring m.station trk m.entryIx (entMeet (c.entry ring m.station trk m.entryIx))).modPhase
      clu ring trk fun p => { p with pendingRecoveries := p.pendingRecoveries + 1 }
  let gone := fun (x : Missed) => x.station == m.station && x.entryIx == m.entryIx
  s.modPhase clu ring trk fun p =>
    { p with missed := p.missed.filter fun x => !gone x, fetchQ := p.fetchQ.filter fun x => !gone x }

/-- A station recovers a missed entry: the originals are read and its command is placed (12 R241). -/
def execRecoveryStart (clu station : Nat) (trk : Fin 2) (entry : Nat) (s : State) : Outcome :=
  let c := s.cluster clu
  let ring := station / c.ringLen
  let st := station % c.ringLen
  let p := c.phase ring trk.val
  let first := (trk == 0) == s.zeroFirst clu ring st
  let word := meetWord ring st trk.val entry true true p.num
  match s.nextRecovery clu ring st trk.val with
  | none => .refused (.notEnabled "RECOVERY_START")
  | some m =>
    if m.entryIx ≠ entry ∨ !first ∨ 8 ≤ (s.quad (clu * 16 + station)).meetings.length ∨ !s.journalAllows p.core 3 word then
      .refused (.notEnabled "RECOVERY_START")
    else
      let x := c.entry ring st trk.val entry
      let (e, t) := if p.recov then (m.entry, m.tmpl) else (entMeet x, c.template ring st (entTmpl x))
      let s := (s.beginRecovery clu ring trk.val m).journal p.core 3 word
      match (do
        let (e, s) ← s.original clu ring trk.val m.east
        let (w, s) ← s.original clu ring trk.val m.west
        return (e, w, s) : Except Bad (RingTile × RingTile × State)) with
      | .error b => .next (s.ringFault clu ring trk.val st entry 6 (some b))
      | .ok (east, west, s) => .next (s.placeMeeting clu ring st trk entry 0 e t east west true)

/-- A tile's elements plus a product's, each rounded once (12 R241). -/
def addTiles (t p : Tile) : Tile := t.build fun i j => addF32 (t.at i j) (p.at i j)

/-- The home core's interface adds a late product into the delivered tile (12 R241). -/
def execLateAddApply (core i : Nat) (s : State) : Outcome :=
  let clu := cluOfCore core
  let c := s.cluster clu
  match c.lateAdds[i]? with
  | none => .refused (.notEnabled "LATE_ADD_APPLY")
  | some a =>
    let p := c.phase a.ring a.trk.val
    let word := meetWord a.ring a.station a.trk.val a.entryIx false false p.num
    if a.home ≠ core ∨ !p.delivered.contains a.west ∨ (c.lateAdds.take i).any (fun b => b.dst == a.dst) ∨
        !s.journalAllows core 6 word then .refused (.notEnabled "LATE_ADD_APPLY")
    else
      let s := s.modCluster clu fun c => { c with lateAdds := c.lateAdds.eraseIdx i }
      let who := s.whoAgent core 2
      match (do
        let (bs, s) ← s.agentRead who a.dst a.product.bytes.length
        let rb := rowBytes 0 a.product.cols
        let old := { a.product with
          els := (List.range a.product.rows).flatMap fun r => unpackRow 0 a.product.cols ((bs.drop (r * rb)).take rb) }
        s.agentWrite who a.dst (addTiles old a.product).bytes : Except Bad State) with
      | .error b => .next (s.ringFault clu a.ring a.trk.val a.station a.entryIx 6 (some b))
      | .ok s => .next (((s.phaseSaw clu a.ring a.trk.val core).journal core 6 word).countRecovery clu a.ring a.trk.val)

end Sys2Proof.Machine
end

