-- ==== Sys2Proof/Machine/Spr.lean ====
section
/-! DEFINITION. Special registers (01 R24-R26, 06 R126, 20 R367). `sprd` of CPY_LAUNCH is an instruction of its own. -/

namespace Sys2Proof.Machine

/-- JCTL (20 R367). -/
def Journal.ctl (j : Journal) : Word :=
  flag j.on ||| (flag j.replay <<< 1) ||| (flag j.div <<< 2) ||| (flag j.full <<< 3)

/-- `SPR(n)` of the executing context; none where 01 R24 assigns no number. -/
def State.sprRead (s : State) (n : Nat) : Option Word :=
  let k := s.me
  let x := s.cx
  let ctx0 := s.cur.ctx == 0
  match n with
  | 0x000 => some x.wp
  | 0x001 => some (BitVec.ofNat 64 s.cur.ctx.val)
  | 0x002 => some (BitVec.ofNat 64 s.cur.core)
  | 0x003 => some (BitVec.ofNat 64 (s.cur.core * 4))
  | 0x004 => some k.team
  | 0x005 => some (BitVec.ofNat 64 s.now)
  | 0x006 => some (k.waitlim.setWidth 64)
  | 0x007 => some k.utvec
  | 0x008 => some x.ws.ecause
  | 0x009 => some x.ws.epc
  | 0x00A => some x.ws.eval
  | 0x00B => some (fpctlWrite x.ws.cflags)
  | 0x00C => some (flag k.sendq)
  | 0x00D => some (if ctx0 then k.msghdr else 0)
  | 0x00E => some (if ctx0 then k.msgsrc.setWidth 64 else 0)
  | 0x00F => some x.firingReg
  | 0x019 => some (x.cpyXid.setWidth 64)
  | 0x01A => some (k.bstep.setWidth 64)
  | 0x01B => some (s.die (dieOfCore s.cur.core)).forecast
  | 0x01C => some k.jcb
  | 0x01D => some (x.mver.setWidth 64)
  | 0x01E => some (x.mbatch.setWidth 64)
  | 0x01F => some (k.stashctl.setWidth 64)
  | 0x050 => some k.journal.ctl
  | 0x051 => some (BitVec.ofNat 64 k.journal.pos)
  | 0x052 => some (BitVec.ofNat 64 k.journal.drop)
  | n =>
    if 0x010 ≤ n ∧ n < 0x018 then k.copy.shadow[n - 0x010]?
    else if 0x040 ≤ n ∧ n < 0x048 then k.pmc[n - 0x040]?
    else if 0x048 ≤ n ∧ n < 0x050 then k.pmsel[n - 0x048]?
    else none

/-- The bits of the copy shadow registers that are not reserved (17 R298). -/
def shadowMask (i : Nat) : Word :=
  match i with
  | 2 => 0x0000FFFF01FFFFFF
  | 5 => 0x7FF
  | 6 => 0x7
  | _ => 0xFFFFFFFFFFFFFFFF

/-- `SPR(n) ← v`: reserved bits are ignored (00 R8); none where the number is read-only or not assigned. -/
def State.sprWrite (s : State) (n : Nat) (v : Word) : Option State :=
  match n with
  | 0x006 => some (s.modMe fun k => { k with waitlim := v.setWidth 32 })
  | 0x007 => some (s.modMe fun k => { k with utvec := v &&& ~~~3 })
  | 0x008 => some (s.modWs fun w => { w with ecause := v &&& 0x80000000000000FF })
  | 0x009 => some (s.modWs fun w => { w with epc := v })
  | 0x00A => some (s.modWs fun w => { w with eval := v })
  | 0x00B => some (s.modWs fun w => { w with cflags := fpctlWrite v })
  | 0x00C => some (s.modMe fun k => { k with sendq := v.getLsbD 0 })
  | 0x01A => some (s.modMe fun k => { k with bstep := v.setWidth 4 })
  | 0x01D => some (s.modCx fun x => { x with mver := v.setWidth 16 })
  | 0x01E => some (s.modCx fun x => { x with mbatch := v.setWidth 8 })
  | 0x01F => some (s.modMe fun k => { k with stashctl := v.setWidth 2 })
  | n =>
    if 0x010 ≤ n ∧ n < 0x018 then
      some (s.modMe fun k => { k with copy := { k.copy with
        shadow := modAt k.copy.shadow (n - 0x010) fun _ => v &&& shadowMask (n - 0x010) } })
    else if 0x040 ≤ n ∧ n < 0x048 then some (s.modMe fun k => { k with pmc := modAt k.pmc (n - 0x040) fun _ => v })
    else if 0x048 ≤ n ∧ n < 0x050 then
      some (s.modMe fun k => { k with pmsel := modAt k.pmsel (n - 0x048) fun _ => v &&& 0x1FFF })
    else none

/-- `sprd`: rd ← SPR(imm); ILLEGAL where the number is not assigned (06 R126). -/
def execSprd (rd : Reg) (imm : BitVec 16) (s : State) : Outcome :=
  settle s (match s.sprRead imm.toNat with
    | some v => .ok (s.retire rd v)
    | none => illegal (s.curWord.setWidth 64))

/-- `spwr`: SPR(imm) ← W(ra); ILLEGAL where the number is read-only or not assigned (06 R126). -/
def execSpwr (ra : Reg) (imm : BitVec 16) (s : State) : Outcome :=
  settle s (match s.sprWrite imm.toNat (s.getW ra) with
    | some t => .ok t.advance
    | none => illegal (s.curWord.setWidth 64))

end Sys2Proof.Machine
end

