-- ==== Sys2Proof/Machine/Copy.lean ====
section
/-! DEFINITION. The copy engine (17 R298-R310). -/

namespace Sys2Proof.Machine

/-! ### The shadow set and the block (17 R298, R299) -/

/-- Register `i` of a shadow set. -/
def sh (x : List Word) (i : Nat) : Nat := (x.getD i 0).toNat

/-- ROWS. -/
def cpyRows (x : List Word) : Nat := bits (sh x 2) 47 32

/-- RB. -/
def cpyRb (x : List Word) : Nat := bits (sh x 2) 24 0

/-- The chunk of a swizzle. -/
def cpyChunk (x : List Word) : Nat := 16 * 2 ^ bits (sh x 5) 4 2

/-- The granule of a transpose. -/
def cpyGran (x : List Word) : Nat := 2 ^ bits (sh x 6) 2 1

/-- REC of a block. -/
def blkRec (b : List Word) : Word := b.getD 0 0

/-- CNT of a block. -/
def blkCnt (b : List Word) : Word := b.getD 1 0

/-- CINC, SC, FIRE and HIDX. -/
def blkMisc (b : List Word) : Nat := (b.getD 2 0).toNat

/-- The reason for which a launch is refused (17 R300). DESIGN CHOICE: the lowest number where several conditions hold (log entry
23). -/
def State.launchReason (s : State) (x b : List Word) : Option Nat :=
  let rb := cpyRb x
  let swz := bit (sh x 5) 0
  let xpos := bit (sh x 6) 0
  let tcm := fun i => s.inOwnTcm s.cur.core (x.getD i 0) 1
  let n := rb / cpyChunk x
  if cpyRows x = 0 ∨ rb = 0 then some 1
  else if swz && (decide (5 < bits (sh x 5) 4 2) || rb % cpyChunk x != 0 || !([1, 2, 4, 8] : List Nat).contains n) then some 2
  else if xpos && (rb % cpyGran x != 0 || swz || !(tcm 0 || tcm 1)) then some 3
  else if bits (blkMisc b) 63 42 ≠ 0 ∨ b.getD 3 0 ≠ 0 ∨ bits (blkMisc b) 34 32 = 7 ∨ !aligned (blkRec b) 8 ∨
      !aligned (blkCnt b) 4 then some 4
  else none

/-- A copy is in flight (17 R301). -/
def CopyEngine.inFlight (e : CopyEngine) (x : BitVec 16) : Bool :=
  e.queue.any (·.xid == x) || e.running.any (·.job.xid == x) || e.ending.any (·.job.xid == x)

/-- `sprd` of CPY_LAUNCH once the launch queue, which holds two copies, has a free entry: a release that the copy acquires (15 R280). -/
def State.tryLaunch (s : State) (rd : Reg) (block shadow : List Word) : Attempt :=
  let x := s.me.copy.nextId
  let sc := bits (blkMisc block) 34 32
  .ok (if s.me.copy.queue.length < 2 then
    let t := s.releaseWith sc
    some ((t.modMe fun k =>
      { k with copy := { k.copy with
          nextId := if x = 0xFFFF then 1 else x + 1
          queue := k.copy.queue ++ [⟨shadow, block, x, s.cur.ctx, t.relTags s.cur.core sc⟩] } }).retire rd (x.setWidth 64))
  else none)

/-- `sprd` of CPY_LAUNCH: launches a copy from the shadow set and the parameter block (17 R300). -/
def execCpyLaunch (rd : Reg) (s : State) : Outcome :=
  let shadow := s.me.copy.shadow.toList
  let p := shadow.getD 7 0
  settle s <|
    if !aligned p 32 then misalign p .read
    else if !s.inOwnTcm s.cur.core p 32 then .error (.sys 0x03 p p .read)
    else do
      let (bs, s) ← s.load p 32
      let block := wordsOf bs
      match s.launchReason shadow block with
      | some r => s.found (.sys 0x01 (BitVec.ofNat 64 r) 0 .none)
      | none =>
        if blkRec block != 0 then s.recordOk (blkRec block) 8
        if blkCnt block != 0 then s.recordOk (blkCnt block) 4 .amo
        s.waitOn (.launch rd block shadow) 2 true (s.tryLaunch rd block shadow)

/-! ### Moving rows (17 R301-R303) -/

/-- The segments of row `r`: source, destination and bytes. -/
def cpySegs (x : List Word) (r : Nat) : List (Word × Word × Nat) :=
  let rb := cpyRb x
  let src := x.getD 0 0 + BitVec.ofNat 64 r * x.getD 3 0
  let dst := x.getD 1 0 + BitVec.ofNat 64 r * x.getD 4 0
  if bit (sh x 6) 0 then
    let g := cpyGran x
    (List.range (rb / g)).map fun e =>
      (src + BitVec.ofNat 64 (e * g), x.getD 1 0 + BitVec.ofNat 64 e * x.getD 4 0 + BitVec.ofNat 64 (r * g), g)
  else if bit (sh x 5) 0 then
    let c := cpyChunk x
    let n := rb / c
    let swb := bits (sh x 5) 10 5
    (List.range n).map fun j =>
      let flat := BitVec.ofNat 64 (j * c)
      if bit (sh x 5) 1 then (swizzled src c n swb (j * c), dst + flat, c)
      else (src + flat, swizzled dst c n swb (j * c), c)
  else [(src, dst, rb)]

/-- How far a segment or row came: the bytes written, and the failed access with whether it was the write. -/
structure Moved where
  s : State
  bytes : Nat := 0
  bad : Option (Bad × Kind) := none

/-- The remap entry that a copy's write to a run goes through: the lowest-numbered that matches (17 R308). -/
def State.remapOf (s : State) (r : Run) : Option Remap :=
  match r.space with
  | .tcm g =>
    s.dev.remaps.find? fun m => m.core == g && decide (m.base * 64 ≤ r.place % 0x80000) && decide (r.place % 0x80000 < (m.base + m.len) * 64)
  | _ => none

/-- A remapped write goes to the save area, and so to the TCM that is saved there (17 R308). -/
def State.remapped (s : State) (m : Remap) (r : Run) (bs : List Byte) : State :=
  let a := m.save + (r.place % 0x80000 - m.base * 64)
  let put := fun (x : Saved) =>
    if (SMap.find x.cores m.core).isSome then
      { x with
        mem := bs.zipIdx.foldl (fun (n : Memory) (b : Byte × Nat) => Memory.write n (r.place + b.2) b.1) x.mem
        later := bs.zipIdx.foldl (fun (n : Memory) (b : Byte × Nat) => SMap.put n (a + b.2) b.1) x.later }
    else x
  (s.devWrite a bs).modDev fun v => { v with saved := v.saved.map put }

/-- The bytes of a copy's write at its runs leave the engine on their way, unordered among themselves (17 R304); those of a core that
is saved meanwhile go to its save area (17 R308). -/
def State.copyRuns (s : State) (w : PendWrite) : List Run → List Byte → State
  | [], _ => s
  | r :: t, bs =>
    let u := match s.remapOf r with
      | some m => s.remapped m r (bs.take r.len)
      | none => s.sendAll false w (runCells 0xFF [r] bs)
    State.copyRuns u w t (bs.drop r.len)

/-- A write of a copy of a core, before its cells are given. -/
def CopyJob.write (j : CopyJob) (g : Nat) : PendWrite :=
  { cells := [], space := .host, core := g, ctx := j.ctx, agent := .copy, xid := j.xid, count := true }

/-- A copy engine writes bytes. -/
def State.copyWrite (s : State) (who : Who) (w : PendWrite) (a : Word) (bs : List Byte) : Except Bad State := do
  let (rs, es) ← s.resolve who .write a.toNat bs.length
  s.agentMay who a rs
  return (s.cache who.core es).copyRuns w rs bs

/-- One segment: read, then written; at a failing byte the bytes before it are written. -/
def State.moveSeg (s : State) (who : Who) (w : PendWrite) (src dst : Word) (n : Nat) : Moved :=
  let before := fun (s : State) (k : Nat) =>
    if k = 0 ∨ n ≤ k then (s, 0)
    else match (do let (bs, s) ← s.agentRead who src k; s.copyWrite who w dst bs : Except Bad State) with
      | .ok t => (t, k)
      | .error _ => (s, 0)
  match s.agentRead who src n with
  | .error b =>
    let r := before s (b.addr - src).toNat
    ⟨r.1, r.2, some (b, .read)⟩
  | .ok (bs, t) =>
    match t.copyWrite who w dst bs with
    | .ok u => ⟨u, n, none⟩
    | .error b =>
      let r := before s (b.addr - dst).toNat
      ⟨r.1, r.2, some (b, .write)⟩

/-- The segments of a row in order. -/
def State.moveSegs (s : State) (who : Who) (w : PendWrite) : List (Word × Word × Nat) → Moved
  | [] => ⟨s, 0, none⟩
  | (a, d, n) :: t =>
    let m := s.moveSeg who w a d n
    match m.bad with
    | some _ => m
    | none =>
      let r := State.moveSegs m.s who w t
      { r with bytes := r.bytes + m.bytes }

/-- Rows from `r` on, while none fails: how many were moved whole, and the row that failed. -/
def State.moveRows (s : State) (who : Who) (w : PendWrite) (x : List Word) : Nat → Nat → Nat × Moved
  | 0, _ => (0, ⟨s, 0, none⟩)
  | n + 1, r =>
    let m := s.moveSegs who w (cpySegs x r)
    match m.bad with
    | some _ => (0, m)
    | none =>
      let (k, z) := State.moveRows m.s who w x n (r + 1)
      (k + 1, z)

/-- The running copy of a core goes on from its row: to the end of its data, to a hold on XLATE, or to a fault (17 R306). -/
def State.runCopy (s : State) (g : Nat) : State :=
  match (s.core g).copy.running with
  | none => s
  | some c =>
    let x := c.job.shadow
    let (k, m) := s.moveRows (s.whoAgent g) (c.job.write g) x (cpyRows x - c.row) c.row
    let row := c.row + k
    let c := { c with row, bytes := row * cpyRb x + m.bytes }
    let put := fun (s : State) (c : CopyRun) => s.modCore g fun k => { k with copy := { k.copy with running := some c } }
    let r : CtxRef := ⟨g, c.job.ctx⟩
    match m.bad with
    | none => put m.s { c with status := some 1, held := false }
    | some (b, kind) =>
      if b.cause = 0x04 then
        (put m.s { c with held := true }).report (m.s.engineRecord r .copy b kind .copyRun c.job.xid)
      else
        (put m.s { c with status := some 2, cause := b.cause, held := false }).charge
          { m.s.record r b.cause .copy 0 b.addr b.addr kind with xid := c.job.xid }

/-- The engine starts the next queued copy, acquires its launch (15 R280) and moves its rows (17 R301). -/
def execCopyStart (core : Nat) (s : State) : Outcome :=
  let e := (s.core core).copy
  match e.running, e.queue with
  | none, j :: t =>
    if s.engineHeld core .copy then .refused (.notEnabled "COPY_START")
    else .next (((s.acquire (s.whoAgent core) j.tags).modCore core fun k =>
      { k with copy := { k.copy with queue := t, running := some { job := j } } }).runCopy core)
  | _, _ => .refused (.notEnabled "COPY_START")

/-! ### Completion (17 R305) -/

/-- The completion record of an ended copy. -/
def CopyRun.record (c : CopyRun) (status : Fin 4) : List Byte :=
  bytesOf [BitVec.ofNat 64 (c.row % 2 ^ 32 * 2 ^ 32 + c.cause.toNat * 2 ^ 24 + status.val * 2 ^ 16 + c.job.xid.toNat),
    BitVec.ofNat 64 c.bytes]

/-- The copy that an engine completes first, and whether it was cancelled before it ran. -/
def CopyEngine.completing (e : CopyEngine) : Option (CopyRun × Fin 4 × Bool) :=
  match e.ending, e.running with
  | c :: _, _ => some (c, 3, true)
  | [], some c => c.status.map fun x => (c, x, false)
  | [], none => none

/-- The completing copy is replaced, or leaves the engine. -/
def State.setCompleting (s : State) (g : Nat) (early : Bool) (c : Option CopyRun) : State :=
  s.modCore g fun k =>
    { k with copy := if early then { k.copy with ending := c.toList ++ k.copy.ending.drop 1 } else { k.copy with running := c } }

/-- The last actions of a copy: its firing, its place in the history and its journal record. -/
def State.endCopy (s : State) (g : Nat) (c : CopyRun) (status : Fin 4) (early : Bool) : State :=
  let misc := blkMisc c.job.block
  let p : Pending :=
    { kind := 3, hidx := bits misc 41 36, xid := c.job.xid, fa := [c.job.xid.setWidth 64, blkRec c.job.block], since := s.now
      tags := if blkRec c.job.block = 0 then [] else s.engineTags g (some (bits misc 34 32)) c.job.tags }
  let s := if bit misc 35 then s.post g p else s
  let e : CopyEnd := ⟨c.job.xid, status, c.cause, bits misc 34 32, blkRec c.job.block⟩
  ((s.setCompleting g early none).modCore g fun k =>
    { k with copy := { k.copy with history := (e :: k.copy.history).take 8 } }).journal g 4 (c.job.xid.toNat + status.val * 2 ^ 16)

/-- The counter add of a copy, and what follows unless XLATE holds it. -/
def State.addCopy (s : State) (g : Nat) (c : CopyRun) (status : Fin 4) (early : Bool) : State :=
  let b := c.job.block
  let misc := blkMisc b
  if blkCnt b = 0 ∨ status ≠ 1 then s.endCopy g c status early
  else
    let s := s.completeWrite ⟨g, c.job.ctx⟩ .copy (blkCnt b) (toBytes 4 misc) (some (bits misc 34 32)) true c.job.xid c.job.tags
    if s.engineHeld g .copy then s.setCompleting g early (some { c with stage := 2 }) else s.endCopy g c status early

/-- The completion actions of a copy from its stage on, in their order (17 R305); one that XLATE holds holds those after it
(15 R418). -/
def State.finishCopy (s : State) (g : Nat) (c : CopyRun) (status : Fin 4) (early : Bool) : State :=
  let b := c.job.block
  if c.stage = 2 then s.endCopy g c status early
  else if blkRec b = 0 then s.addCopy g c status early
  else if c.stage = 1 then (s.wake g).addCopy g c status early
  else
    let s := s.completeWrite ⟨g, c.job.ctx⟩ .copy (blkRec b) (c.record status) (some (bits (blkMisc b) 34 32)) false c.job.xid c.job.tags
    if s.engineHeld g .copy then s.setCompleting g early (some { c with stage := 1 })
    else (s.wake g).addCopy g c status early

/-- A copy whose completion actions may run: its firing finds room, and a core that replays recorded it. -/
def State.mayFinish (s : State) (g : Nat) (c : CopyRun) (status : Fin 4) : Bool :=
  (!bit (blkMisc c.job.block) 35 || (s.core g).mayPost 3) &&
    s.journalAllows g 4 (c.job.xid.toNat + status.val * 2 ^ 16)

/-- A copy ends when its last data write has been performed: its record, its counter add, its firing (17 R305). -/
def execCopyComplete (core : Nat) (s : State) : Outcome :=
  let s := s.performSome core (·.agent == .copy)
  match (s.core core).copy.completing with
  | some (c, x, early) =>
    if s.mayFinish core c x && !s.engineHeld core .copy then .next (s.finishCopy core c x early)
    else .refused (.notEnabled "COPY_COMPLETE")
  | none => .refused (.notEnabled "COPY_COMPLETE")

/-! ### The cpy major (17 R310) -/

/-- A transfer id in a register. -/
def copyId (v : Word) : Except Stop (BitVec 16) := if 65535 < v.toNat then illegal v else .ok (v.setWidth 16)

/-- `cwait`'s condition: the copy is not in flight; rd ← its status and cause, with an acquire at its scope, or 0. -/
def State.tryCwait (s : State) (rd : Reg) (x : BitVec 16) : Attempt :=
  let e := s.me.copy
  .ok (if e.inFlight x then none
    else some (match e.history.find? (·.xid == x) with
      | some h =>
        (if h.rec_ = 0 then s else s.acquireAt h.rec_ 16 h.sc).retire rd (BitVec.ofNat 64 (h.status.val + h.cause.toNat * 256))
      | none => s.retire rd 0))

/-- `cwait`: waits until a copy is no longer in flight (17 R310). -/
def execCwait (rd ra : Reg) (s : State) : Outcome :=
  settle s do
    let x ← copyId (s.getW ra)
    s.waitOn (.cwait rd x) (x.setWidth 64) true (s.tryCwait rd x)

/-- `cstat`: the engine's state (17 R310). -/
def execCstat (rd : Reg) (s : State) : Outcome :=
  let e := s.me.copy
  let id := e.running.elim 0 fun c => c.job.xid.toNat
  .next (s.retire rd (BitVec.ofNat 64
    ((if e.running.isSome then 1 else 0) + e.queue.length * 4 + id * 2 ^ 16 + e.nextId.toNat * 2 ^ 32)))

/-- `ccancel`: a queued or running copy ends with STATUS 3 (17 R310). -/
def execCcancel (rd ra : Reg) (s : State) : Outcome :=
  settle s do
    let x ← copyId (s.getW ra)
    let e := s.me.copy
    let put := fun (f : CopyEngine → CopyEngine) => (s.modMe fun k => { k with copy := f k.copy }).retire rd 1
    match e.queue.find? (·.xid == x), e.running with
    | some j, _ =>
      return put fun e => { e with queue := e.queue.filter fun j => j.xid != x, ending := e.ending ++ [{ job := j }] }
    | none, some c =>
      if c.job.xid = x then
        return put fun e => { e with running := some { c with held := false, status := if c.status = some 2 ∨ c.stage ≠ 0 then c.status else some 3 } }
      else return s.retire rd 0
    | none, none => return s.retire rd 0

end Sys2Proof.Machine
end

