-- ==== Sys2Proof/Machine/VecMem.lean ====
section
/-! DEFINITION. Vector memory accesses, command placement, table loads and lane moves (07 R135-R139, 09 R166, R167). -/

namespace Sys2Proof.Machine

/-- The active lanes below `n`. -/
def State.activeLanes (s : State) (vm : VReg) (n : Nat) : List Nat := (List.range n).filter (s.active vm)

/-- Read requests of the executing context are counted, one at each address (20 R369). -/
def State.countEach (s : State) (eas : List Word) : State := eas.foldl State.countAt s

/-- The first address that is not a multiple of a size (07 R136). -/
def firstMisaligned (n : Nat) (eas : List Word) : Option Word := eas.find? fun a => !aligned a n

/-- The lanes of a contiguous access: 64 bytes at once where unmasked. -/
def contiguous (ea : Word) (w : Nat) (vm : VReg) (ls : List Nat) : List (Word × Nat) :=
  if vm = 0 then [(ea, 64)] else ls.map fun i => (ea + BitVec.ofNat 64 (i * (w / 8)), w / 8)

/-- Lanes of a loaded register: the loaded values where active, else kept or all ones (03 R59, 07 R135). -/
def State.loadLanes (s : State) (vd vm : VReg) (mp : Fin 2) (w : Nat) (f : Nat → Nat) (bound : Nat) : State :=
  s.vretire vd (mergeLanes w (512 / w) (s.getV vd) (s.active vm) (mp == 1) f) bound

/-- The value of lane `i` among the loaded parts of the active lanes. -/
def partOf (ls : List Nat) (parts : List (List Byte)) (i : Nat) : Nat :=
  ((ls.zip parts).find? fun x => x.1 == i).elim 0 fun x => ofBytes x.2

/-- `vld`: the active lanes of 64 contiguous bytes (07 R135, R136). -/
def execVld (vd : VReg) (ra rb : Reg) (vm : VReg) (mp : Fin 2) (dt : Fin 8) (s : State) : Outcome :=
  let w := dtWidth dt.val
  let ea := s.getW ra + s.getW rb
  let ls := s.activeLanes vm (512 / w)
  settle s <|
    if ls.isEmpty then .ok (s.loadLanes vd vm mp w (fun _ => 0) 1)
    else if !aligned ea 64 then misalign ea .read
    else if inQueueWindow ea then .error (.sys 0x03 ea ea .read)
    else do
      let (bs, t) ← s.loadParts (contiguous ea w vm ls)
      let t := t.countAt ea
      let f := if vm = 0 then fun i => ofBytes bs.flatten / 2 ^ (w * i) % 2 ^ w else partOf ls bs
      return t.loadLanes vd vm mp w f 1

/-- `vlds`: each active lane at W(ra) + i × int(W(rb)) (07 R135, R136). -/
def execVlds (vd : VReg) (ra rb : Reg) (vm : VReg) (mp : Fin 2) (dt : Fin 8) (s : State) : Outcome :=
  let w := dtWidth dt.val
  let ls := s.activeLanes vm (512 / w)
  let eas := ls.map fun i => s.getW ra + BitVec.ofNat 64 i * s.getW rb
  settle s <|
    match firstMisaligned (w / 8) eas with
    | some a => misalign a .read
    | none => do
      let (bs, t) ← s.loadParts (eas.map fun a => (a, w / 8))
      return (t.countEach eas).loadLanes vd vm mp w (partOf ls bs) 0

/-- `vldb`: one element, read once and given to every active lane (07 R135, R136). -/
def execVldb (vd : VReg) (ra rb : Reg) (vm : VReg) (mp : Fin 2) (dt : Fin 8) (s : State) : Outcome :=
  let w := dtWidth dt.val
  let ea := s.getW ra + s.getW rb
  settle s <|
    if (s.activeLanes vm (512 / w)).isEmpty then .ok (s.loadLanes vd vm mp w (fun _ => 0) 1)
    else if !aligned ea (w / 8) then misalign ea .read
    else do
      let (bs, t) ← s.load ea (w / 8)
      return t.loadLanes vd vm mp w (fun _ => ofBytes bs) 1

/-- `vtbl`: the core's q8 or q4 table ← the image at W(ra); an invalid image is ILLEGAL with the index of the lowest entry
that breaks a rule (02 R38, 07 R138). -/
def execVtbl (ra : Reg) (dt : Fin 2) (s : State) : Outcome :=
  let a := s.getW ra
  let q8 := dt == 1
  settle s <|
    if !aligned a 4 then misalign a .read
    else do
      let (bs, t) ← s.load a (4 * tableSize q8)
      let image := (List.range (tableSize q8)).map fun i => BitVec.ofNat 32 (ofBytes ((bs.drop (4 * i)).take 4))
      match tableBad image with
      | some i => t.found (.sys 0x01 (BitVec.ofNat 64 i) 0 .none)
      | none =>
        let t := t.modMe fun k => if q8 then { k with q8 := image } else { k with q4 := image }
        return (t.vecBusy 0).advance

/-! ### Command placement (09 R166, R167) -/

/-- Placement: where an entry is free the command is queued with its context, as a release at `.quad` (09 R183). -/
def State.tryPlace (s : State) (cmd : VWord) (cb : BitVec 128) : Attempt :=
  let q := s.cmdQueue s.cur.core
  if q.cmds.length < 8 then
    let t := s.releaseWith 1
    let c : Cmd :=
      { bytes := cmd, ctx := s.cur.ctx, cb, headSince := s.now, id := s.freeCtr, tags := t.relTags s.cur.core 1 }
    .ok (some ((t.modCmdQueue s.cur.core fun q => { q with cmds := q.cmds ++ [c] }).vecBusy 1).advance)
  else .ok none

/-- The descriptor that an MOPT takes along (09 R181). -/
def State.cmdHandle (s : State) (cmd : VWord) : BitVec 128 :=
  if cmd.toNat % 256 = 0x0A then s.getCb (⟨cmd.toNat / 2 ^ 24 % 8, Nat.mod_lt _ (by decide)⟩ : Fin 8) else 0

/-- `vst`: the active lanes of 64 contiguous bytes (07 R135, R136); an unmasked one to the queue window places a command,
waiting while the queue is full (09 R166, R167). -/
def execVst (vd : VReg) (ra rb : Reg) (vm : VReg) (dt : Fin 8) (s : State) : Outcome :=
  let w := dtWidth dt.val
  let ea := s.getW ra + s.getW rb
  let v := s.getV vd
  let ls := s.activeLanes vm (512 / w)
  settle s <|
    if ls.isEmpty then .ok (s.vecBusy 1).advance
    else if !aligned ea 64 then misalign ea .write
    else if inQueueWindow ea then
      if vm = 0 then s.waitOn (.place v (s.cmdHandle v)) 8 true (s.tryPlace v (s.cmdHandle v))
      else .error (.sys 0x03 ea ea .write)
    else do
      let ps := (contiguous ea w vm ls).map fun x =>
        Part.mk x.1 (toBytes x.2 (v.toNat / 2 ^ (8 * (x.1 - ea).toNat))) 0xFF
      let t ← s.storeParts ps none true
      return (t.vecBusy 1).advance

/-- `vsts`: each active lane to W(ra) + i × int(W(rb)), in lane order (07 R135, R136). -/
def execVsts (vd : VReg) (ra rb : Reg) (vm : VReg) (dt : Fin 8) (s : State) : Outcome :=
  let w := dtWidth dt.val
  let ls := s.activeLanes vm (512 / w)
  let addr := fun i => s.getW ra + BitVec.ofNat 64 i * s.getW rb
  settle s <|
    match firstMisaligned (w / 8) (ls.map addr) with
    | some a => misalign a .write
    | none => do
      let t ← s.storeParts (ls.map fun i => Part.mk (addr i) (toBytes (w / 8) (lane (s.getV vd) w i)) 0xFF)
      return (t.vecBusy 0).advance

/-- `vstnib`: the active q4 lanes as nibbles, each a masked read-modify-write (07 R135, R137). -/
def execVstnib (vd : VReg) (ra rb : Reg) (vm : VReg) (s : State) : Outcome :=
  let ea := s.getW ra + s.getW rb
  let v := s.getV vd
  let mask := fun i => (if s.active vm (2 * i) then 0x0F else 0) + (if s.active vm (2 * i + 1) then 0xF0 else 0)
  let bytes := (List.range 64).filter fun i => mask i != 0
  settle s <|
    if bytes.isEmpty then .ok (s.vecBusy 0).advance
    else if !aligned ea 64 then misalign ea .write
    else if inQueueWindow ea then .error (.sys 0x03 ea ea .write)
    else do
      let t ← s.storeParts (bytes.map fun i => Part.mk (ea + BitVec.ofNat 64 i) [byteOf v i] (BitVec.ofNat 8 (mask i))) none false true
      return (t.vecBusy 0).advance

/-! ### Lane moves (07 R139) -/

/-- The lane index W(rb) mod L. -/
def State.laneIx (s : State) (rb : Reg) (dt : Nat) : Nat := (s.getW rb).toNat % dtLanes dt

/-- `vins`: lane j of vd ← W(ra)[w−1:0]; the others unchanged (07 R139). -/
def execVins (vd : VReg) (ra rb : Reg) (dt : Fin 8) (s : State) : Outcome :=
  let w := dtWidth dt.val
  let j := s.laneIx rb dt.val
  .next (s.vretire vd (mergeLanes w (512 / w) (s.getV vd) (· == j) false fun _ => (s.getW ra).toNat))

/-- `vext`: W(ra) ← lane j of vd, sign- or zero-extended (07 R139). -/
def execVext (vd : VReg) (ra rb : Reg) (dt : Fin 8) (s : State) : Outcome :=
  let w := dtWidth dt.val
  let x := lane (s.getV vd) w (s.laneIx rb dt.val)
  .next ((s.vecBusy 1).retire ra (wordOfInt (laneInt (dtSigned dt.val) w x)))

/-- `vsplat`: every active lane of vd ← W(ra)[w−1:0] (07 R139). -/
def execVsplat (vd : VReg) (ra : Reg) (vm : VReg) (dt : Fin 8) (s : State) : Outcome :=
  s.lanewise vd vm 0 (dtWidth dt.val) fun _ => (s.getW ra).toNat

end Sys2Proof.Machine
end

