-- ==== Sys2Proof/Machine/Gs.lean ====
section
/-! DEFINITION. Gathers and scatters: their checks, and the lanes that the owners perform (17 R311-R315). -/

namespace Sys2Proof.Machine

/-- The bytes of one lane's access: w/8, or 8 for `vgathw` (17 R312). -/
def gsBytes (fn dt : Nat) : Nat := if fn = 3 then 8 else dtWidth dt / 8

/-- The type of the index lanes: dt, natural for `vscadd` (17 R311). -/
def gsIndex (fn dt x : Nat) : Int := laneInt (fn != 2 && dtSigned dt) (dtWidth dt) x

/-- What a lane does to memory. -/
def gsKind (fn : Nat) : Kind := if fn = 1 then .write else if fn = 2 then .amo else .read

/-- What a lane needs. -/
def gsNeed (fn : Nat) : Need := if fn = 1 then .write else if fn = 2 then .amo else .read

/-- The core whose network interface performs an access (17 R313); none outside the TCM and Pond windows. -/
def gsOwner (who : Who) (a : Word) : Except Bad (Nat × Loc) :=
  if a.toNat < 2 ^ 63 then .error ⟨0x03, a⟩
  else do
    let l ← localLoc who a.toNat
    match l.space with
    | .tcm g => return (g, l)
    | .pond c => return (c * 64 + (l.place - pondPlace c 0) / 8 % 64, l)
    | _ => .error ⟨0x03, a⟩

/-- Rule 1 of 17 R314 over the active lanes in lane order, then rule 2, then rule 3. -/
def State.gsCheck (s : State) (fn n : Nat) (ls : List (Nat × Word)) : Except Stop Unit :=
  let who := s.whoAgent s.cur.core
  let k := gsKind fn
  let sys := fun (c : BitVec 8) (a : Word) => (.error (.sys c a a k) : Except Stop Unit)
  let covered := fun (a : Word) => match gsOwner who a with
    | .ok (g, ⟨p, .tcm _⟩) => (List.range n).any fun i => ((s.core g).wsAt ((p + i) % 0x80000)).isSome
    | _ => false
  match ls.find? fun x => !aligned x.2 n with
  | some x => sys 0x02 x.2
  | none =>
    match ls.find? fun x => (gsOwner who x.2).toOption.isNone with
    | some x => sys 0x03 x.2
    | none =>
      match (if fn = 1 ∨ fn = 2 then ls.find? fun x => covered x.2 else none) with
      | some x => sys 0x11 x.2
      | none => .ok ()

/-- The places that lanes touch, whose earlier writes by the core come before them (01 R10, 15 R277). -/
def State.gsPlaces (s : State) (n : Nat) (ls : List (Nat × Word)) : List Nat :=
  ls.flatMap fun x => match gsOwner (s.whoAgent s.cur.core) x.2 with
    | .ok (_, l) => (List.range n).map (l.place + ·)
    | .error _ => []

/-- A gather or scatter issues: its operands are read, every active lane is checked, and the lanes are sent; one without an
active lane completes (17 R312, R314). -/
def State.gsIssue (s : State) (fn : Nat) (vd : VReg) (ra : Reg) (sc : Nat) (vm : VReg) (mp : Fin 2) (dt : Nat) : Outcome :=
  let w := dtWidth dt
  let n := gsBytes fn dt
  let old := s.getV vd
  let up := s.getV (vd + 1)
  let ix := fun i => gsIndex fn dt (lane old w i)
  let ls := (s.activeLanes vm (512 / w)).map fun i => (i, s.getW ra + wordOfInt (ix i * n))
  let keep := fun (v : VWord) (w from_ : Nat) => mergeLanes w (512 / w) v (fun i => s.active vm (from_ + i)) (mp == 1) fun _ => 0
  let (lo, hi) := match fn with
    | 0 => (keep old w 0, 0)
    | 3 => (keep old 64 0, keep up 64 8)
    | _ => (up, 0)
  let g : Gather :=
    { word := s.curWord, fn, vd, dt, sc, rm := s.cx.ws.rm, left := ls, got := [], lo, hi }
  settle s do
    s.gsCheck fn n ls
    let s := (if fn = 1 ∨ fn = 2 then s.releaseWith sc else s).performOver s.cur.core (s.gsPlaces n ls)
    let s := s.vecBusy 1
    if ls.isEmpty then
      let s := if fn = 0 ∨ fn = 3 then s.setV vd lo else s
      return (if fn = 3 then s.setV (vd + 1) hi else s).advance
    else return s.modCx fun x => { x with gather := some g }

/-- `vgath`: each active lane ← mem(B + index × e), as an acquire (17 R312). -/
def execVgath (vd : VReg) (ra : Reg) (sc : Fin 8) (vm : VReg) (mp : Fin 2) (dt : Fin 8) (s : State) : Outcome :=
  s.gsIssue 0 vd ra sc.val vm mp dt.val

/-- `vscat`: mem(B + index × e) ← each active lane of vd + 1, as a release (17 R312). -/
def execVscat (vd : VReg) (ra : Reg) (sc : Fin 8) (vm : VReg) (dt : Fin 8) (s : State) : Outcome :=
  s.gsIssue 1 vd ra sc.val vm 0 dt.val

/-- `vscadd`: mem(B + index × e) ← round(mem + each active lane of vd + 1, RM), atomically, as a release (17 R312). -/
def execVscadd (vd : VReg) (ra : Reg) (sc : Fin 8) (vm : VReg) (dt : Fin 8) (s : State) : Outcome :=
  s.gsIssue 2 vd ra sc.val vm 0 (dt.val + 8)

/-- `vgathw`: 8-byte words at 16 indices into vd and vd + 1, as an acquire (17 R312). -/
def execVgathw (vd : VReg) (ra : Reg) (sc : Fin 8) (vm : VReg) (mp : Fin 2) (dt : Fin 2) (s : State) : Outcome :=
  s.gsIssue 3 vd ra sc.val vm mp (if dt = 0 then 2 else 6)

/-! ### The owners (17 R312, R313) -/

/-- What one lane does at its owner, and the value a gather receives; the flags of `vscadd` are not kept. -/
def State.gsPerform (s : State) (who : Who) (g : Gather) (x : Nat × Word) : Except Bad (Nat × State) := do
  let n := gsBytes g.fn g.dt
  let d := lane g.lo (dtWidth g.dt) x.1
  if g.fn = 1 then
    let t ← s.agentWrite who x.2 (toBytes n d) true .write (some g.sc) (s.relTags who.core g.sc)
    return (0, t)
  else if g.fn = 2 then
    let f := dtFmt g.dt
    let add := fun (bs : List Byte) => toBytes n (f.finish g.rm ((f.val (ofBytes bs)).add g.rm (f.val d))).1
    let (_, t) ← s.agentAtom who x.2 n add true (some g.sc) (s.relTags who.core g.sc)
    return (0, t)
  else
    let (bs, t) ← s.agentRead { who with acq := some g.sc } x.2 n
    return (ofBytes bs, t)

/-- A lane is answered: its value or its poison; another failed check at the owner is charged to the context (01 R21). -/
def State.gsAnswer (s : State) (r : CtxRef) (g : Gather) (x : Nat × Word) : Gather × State :=
  let h := { g with left := g.left.filter fun y => y.1 != x.1 }
  match s.gsPerform (s.whoAgent r.core) g x with
  | .ok (v, t) => ({ h with got := h.got ++ [(x.1, v)] }, t)
  | .error b =>
    if b.cause = 0x05 then ({ h with poisoned := h.poisoned ++ [x] }, s)
    else (h, s.charge { s.record r b.cause .network 0 x.2 b.addr (gsKind g.fn) with word := g.word })

/-- The value of an answered lane. -/
def Gather.value (g : Gather) (i : Nat) : Option Nat := (g.got.find? fun x => x.1 == i).map (·.2)

/-- A destination with the answered lanes from `i0` on. -/
def Gather.merge (g : Gather) (v : VWord) (w i0 : Nat) : VWord :=
  ofLanes w ((List.range (512 / w)).map fun i => (g.value (i0 + i)).getD (lane v w i))

/-- The poisoned lane with the lowest index. -/
def lowestLane : List (Nat × Word) → Option (Nat × Word)
  | [] => none
  | x :: t =>
    match lowestLane t with
    | none => some x
    | some y => if x.1 < y.1 then some x else some y

/-- Every lane is answered: the instruction completes, or raises POISON with its destination unchanged (17 R314). -/
def State.gsFinish (s : State) (g : Gather) : State :=
  let s := { s with curWord := g.word }.modCx fun x => { x with gather := none }
  match lowestLane g.poisoned with
  | some x => s.sysFault 0x05 x.2 x.2 (gsKind g.fn)
  | none =>
    match g.fn with
    | 0 => (s.setV g.vd (g.merge g.lo (dtWidth g.dt) 0)).advance
    | 3 => ((s.setV g.vd (g.merge g.lo 64 0)).setV (g.vd + 1) (g.merge g.hi 64 8)).advance
    | _ => s.advance

/-- A lane may be performed: no lower lane of its owner is still to be (17 R312). -/
def State.gsFirst (s : State) (g : Nat) (h : Gather) (x : Nat × Word) : Bool :=
  let who := s.whoAgent g
  let own := fun (a : Word) => (gsOwner who a).toOption.map (·.1)
  !h.left.any fun y => decide (y.1 < x.1) && own y.2 == own x.2

/-- An owner performs one lane and answers; the last answer completes the instruction (17 R312, R313). -/
def execGsLane (core : Nat) (ctx : CtxId) (lane : Nat) (s : State) : Outcome :=
  match (s.ctx ⟨core, ctx⟩).gather with
  | none => .refused (.notEnabled "GS_LANE")
  | some g =>
    match g.left.find? fun x => x.1 == lane with
    | none => .refused (.notEnabled "GS_LANE")
    | some x =>
      if !s.gsFirst core g x then .refused (.notEnabled "GS_LANE")
      else
        let s := { s with cur := ⟨core, ctx⟩ }
        let (h, s) := s.gsAnswer ⟨core, ctx⟩ g x
        .next (if h.left.isEmpty then s.gsFinish h else s.modCx fun y => { y with gather := some h })

/-- The lanes that a context of a core has issued are performed, in lane order. -/
def State.lanesOf (s : State) (g : Nat) (c : CtxId) : Nat → State
  | 0 => s
  | n + 1 =>
    match ((s.ctx ⟨g, c⟩).gather.bind fun a => a.left.head?).map fun x => execGsLane g c x.1 s with
    | some (.next t) => State.lanesOf t g c n
    | _ => s

/-- Before a context of a core accesses memory or releases, the lanes that the other contexts have issued are performed: a core's
effects are seen in its issue order (01 R10, 11 R226). Log entry 61. -/
def State.lanesBefore (s : State) (g : Nat) (c : CtxId) : State :=
  ([0, 1, 2, 3] : List CtxId).foldl (fun s d => if d = c then s else s.lanesOf g d 64) s

end Sys2Proof.Machine
end

