-- ==== Sys2Proof/Machine/LanternServe.lean ====
section
/-! DEFINITION. A Lantern serves its five sources: commands take effect, are refused, wait, time out and retire (09 R168,
R173-R174, R184-R185, 12 R237-R241). A command takes effect whole when it is served. -/

namespace Sys2Proof.Machine

/-! ### Tiles of a quad -/

/-- A tile of a quad. -/
def Quad.tile (q : Quad) (n : Nat) : Tile := (q.tiles[n]?).getD {}

/-- A core's own allocated tile. -/
def Quad.owned (q : Quad) (k n : Nat) : Option Tile :=
  let t := q.tile n
  if t.valid && t.owner.val == k then some t else none

/-- A quad with a tile replaced. -/
def Quad.setTile (q : Quad) (n : Nat) (t : Tile) : Quad := { q with tiles := modAt q.tiles n fun _ => t }

/-- The tiles that a command names. -/
def cmdTiles (v : VWord) : List Nat :=
  let c := cmdCode v
  if c = 1 ∨ c = 8 ∨ c = 9 then (List.range 8).filter fun n => bit (cmdTmask v) n else (cmdFields c).map (cmdTile v)

/-- A tile is in use (09 R173): an unretired meeting, or a served and unretired core command, names it. -/
def Quad.inUse (q : Quad) (n : Nat) : Bool :=
  (q.meetings.any fun m => m.literals.contains n) ||
    q.queues.toList.any fun u => u.cmds.any fun c => c.served && (cmdTiles c.bytes).contains n

/-! ### Configuration commands (09 R173, R174) -/

/-- The refusal of a command on the tiles of TMASK: reason and tile. -/
def maskRefusal (q : Quad) (k : Nat) (v : VWord) : Option (Nat × Nat) :=
  let ns := cmdTiles v
  if cmdCode v = 1 then
    if !shapeOk (bits (cmdD v 0) 19 16) (bits (cmdD v 0) 29 25 + 1) then some (4, ns.headD 0)
    else (ns.find? fun n => (q.tile n).valid && (q.tile n).owner.val != k).map fun n => (3, n)
  else (ns.find? fun n => (q.owned k n).isNone).map fun n => (3, n)

/-- A tile after MCFG: kept where its format and shape stay, else +0. -/
def cfgTile (k : Nat) (v : VWord) (t : Tile) : Tile :=
  let f := bits (cmdD v 0) 19 16
  let r := bits (cmdD v 0) 24 20 + 1
  let c := bits (cmdD v 0) 29 25 + 1
  if t.valid ∧ t.fmt = f ∧ t.rows = r ∧ t.cols = c then { t with owner := Fin.ofNat 4 k }
  else ⟨true, Fin.ofNat 4 k, f, r, c, List.replicate (r * c) 0⟩

/-- MCFG, MREL or MZERO on one tile. -/
def maskTile (k : Nat) (v : VWord) (t : Tile) : Tile :=
  match cmdCode v with
  | 1 => cfgTile k v t
  | 9 => { t with valid := false, els := List.replicate (t.rows * t.cols) 0 }
  | _ => { t with els := List.replicate (t.rows * t.cols) 0 }

/-- A table image that MCTX loads: its entries, or the lowest entry that breaks a rule. -/
def State.ctxTable (s : State) (who : Who) (on q8 : Bool) (a : Nat) (old : List (BitVec 32)) :
    Except Bad ((List (BitVec 32) ⊕ Nat) × State) := do
  if !on then return (.inl old, s)
  else
    mustAlign (BitVec.ofNat 64 a) 4
    let (bs, s) ← s.agentRead who (BitVec.ofNat 64 a) (4 * tableSize q8)
    let t := (List.range (tableSize q8)).map fun i => BitVec.ofNat 32 (ofBytes ((bs.drop (4 * i)).take 4))
    return (match tableBad t with
      | some i => .inr i
      | none => .inl t, s)

/-- MCTX (09 R174). -/
def runMctx (s : State) (quad k : Nat) (v : VWord) : CmdRes :=
  let who := s.whoAgent (4 * quad + k) 1
  let d0 := cmdD v 0
  let f := (s.quad quad).fctx[(Fin.ofNat 4 k)]
  cmdTry (do
    let (x, s) ← s.ctxTable who (bit d0 8) true (cmdD v 1) f.q8
    let (y, s) ← s.ctxTable who (bit d0 9) false (cmdD v 2) f.q4
    return (x, y, s)) fun (x, y, s) =>
  match x, y with
  | .inr i, _ => .refuse 5 i
  | _, .inr i => .refuse 5 i
  | .inl a, .inl b =>
    .done [] {} (s.modQuad quad fun q => { q with fctx := modAt q.fctx k fun _ =>
      { q8 := a, q4 := b, qsat := bit d0 10, smode := bits d0 12 11, acct := bit d0 13 } })

/-! ### A core's command -/

/-- The site of a core's command. -/
def State.coreSite (s : State) (quad k : Nat) (c : Cmd) : CmdSite :=
  let q := s.quad quad
  { who := s.whoAgent (4 * quad + k) 1, fc := q.fctx[(Fin.ofNat 4 k)], tile := fun f => q.owned k (cmdTile c.bytes f)
    same := fun a b => cmdTile c.bytes a == cmdTile c.bytes b, num := cmdTile c.bytes, cb := c.cb }

/-- A core's command as it runs once it need not wait. DESIGN CHOICE: of several flaws the first of unknown code, layout,
tile, handle, format or shape gives the reason (log entry 21). -/
def State.runCmd (s : State) (quad k : Nat) (c : Cmd) : CmdRes :=
  let v := c.bytes
  let code := cmdCode v
  if code = 0 ∨ 13 < code then .refuse 1 0
  else if !cmdSound v then .refuse 2 0
  else if code = 1 ∨ code = 8 ∨ code = 9 then
    match maskRefusal (s.quad quad) k v with
    | some (r, n) => .refuse r n
    | none => .done [] {} (s.modQuad quad fun q => (cmdTiles v).foldl (fun q n => q.setTile n (maskTile k v (q.tile n))) q)
  else if code = 2 then runMctx s quad k v
  else runTiles s (s.coreSite quad k c) v

/-- A sound MOPT whose norm has not arrived. -/
def State.optWaits (s : State) (x : CmdSite) (v : VWord) : Bool :=
  cmdCode v == 10 && !cmdRefused x v && (match s.optArrived x.who x.cb with
    | .ok b => !b
    | .error _ => false)

/-- A core's head command waits (09 R168): MCFG and MREL for their tiles, MOPT for its norm. -/
def State.cmdWaits (s : State) (quad k : Nat) (c : Cmd) : Bool :=
  let v := c.bytes
  let q := s.quad quad
  ((cmdCode v == 1 || cmdCode v == 9) && cmdSound v && (maskRefusal q k v).isNone && (cmdTiles v).any q.inUse) ||
    s.optWaits (s.coreSite quad k c) v

/-! ### The fault of a command (09 R184, R185) -/

/-- What a command's failing access does. -/
def cmdKind (v : VWord) : Kind :=
  match cmdCode v with
  | 7 => .write
  | 11 => if bit (cmdD v 0) 11 then .amo else .write
  | 13 => if bit (cmdD v 0) 16 then .amo else .write
  | _ => .read

/-- A command's queue halts, and a fault is charged to the context that placed it. -/
def State.haltQueue (s : State) (g : Nat) (c : Cmd) (cause : BitVec 8) (value addr : Word) (kind : Kind) : State :=
  let s := s.modCmdQueue g fun q => { q with halted := true }
  s.charge { s.record ⟨g, c.ctx⟩ cause .lantern 0 value addr kind with word := BitVec.ofNat 32 (cmdD c.bytes 0) }

/-- A refused command: MQ_ILLEGAL. -/
def State.refuseCmd (s : State) (g : Nat) (c : Cmd) (reason detail : Nat) : State :=
  s.haltQueue g c 0x0E (BitVec.ofNat 64 (detail * 2 ^ 16 + cmdCode c.bytes * 2 ^ 8 + reason)) 0 .none

/-- A core's head command is marked as served. -/
def CmdQueue.serve (q : CmdQueue) : CmdQueue :=
  match q.cmds with
  | [] => q
  | c :: t => { q with cmds := { c with served := true } :: t }

/-- A core's head command takes effect, with an acquire of its placement (09 R183). -/
def State.serveCore (s : State) (quad k : Nat) (c : Cmd) : State :=
  let g := 4 * quad + k
  let s := s.acquire (s.whoAgent g 1) c.tags
  match s.runCmd quad k c with
  | .refuse r d => s.refuseCmd g c r d
  | .fault b => s.haltQueue g c b.cause b.addr b.addr (cmdKind c.bytes)
  | .done ts n s =>
    let s := s.modQuad quad fun q => ts.foldl (fun q x => q.setTile (cmdTile c.bytes x.1) x.2) q
    (s.countCvt ⟨g, c.ctx⟩ .lantern (BitVec.ofNat 32 (cmdD c.bytes 0)) n 1 (.command c.id)).modCmdQueue g CmdQueue.serve

/-! ### A meeting command (12 R237, R238) -/

/-- The tile that a field reads, with the reads of slot blocks. -/
def State.fieldTile (s : State) (m : Meeting) (quad f : Nat) : Except Bad (Tile × State) :=
  match m.reads f with
  | .literal n => .ok ((s.quad quad).tile n, s)
  | .east => .ok (m.east.asTile m.east.data, s)
  | .west =>
    let t := m.west.asTile []
    if m.recovery && m.accumulates && (tmplWrites m.tmpl).contains f then
      .ok ({ t with els := List.replicate (t.rows * t.cols) 0 }, s)
    else if m.recovery then .ok (m.west.asTile m.west.data, s)
    else .ok (m.west.asTile (s.westNow m).data, s)
  | .block b n =>
    match m.layer with
    | none => .ok ({}, s)
    | some l => do
      let (bs, s) ← s.agentRead (s.whoAgent (quad * 4 + tmplCore m.tmpl) 1) (l.block m.station n b) (l.blockLen b)
      return (l.blockTile b bs, s)

/-- The tiles of a meeting's fields. -/
def State.fieldTiles (s : State) (m : Meeting) (quad : Nat) : List Nat → Except Bad (List (Nat × Tile) × State)
  | [] => .ok ([], s)
  | f :: t => do
    let (x, s) ← s.fieldTile m quad f
    let (xs, s) ← State.fieldTiles s m quad t
    return ((f, x) :: xs, s)

/-- The west tile of a phase is replaced. -/
def State.setWest (s : State) (m : Meeting) (t : RingTile) : State :=
  s.modPhase m.clu m.ring m.trk.val fun p =>
    { p with west := p.west.map fun x => if x.station == m.west.station then t else x }

/-- The tiles that a meeting wrote go where its fields name; the product of a recovery into an ACC tile is kept. -/
def State.fieldWrites (s : State) (m : Meeting) (quad : Nat) : List (Nat × Tile) → Except Bad (Option Tile × State)
  | [] => .ok (none, s)
  | (f, t) :: u =>
    match m.writes f with
    | .literal n => State.fieldWrites (s.modQuad quad fun q => q.setTile n { t with valid := (q.tile n).valid }) m quad u
    | .west =>
      if m.recovery then do
        let (_, s) ← State.fieldWrites s m quad u
        return (some t, s)
      else State.fieldWrites (s.setWest m ((s.westNow m).withTile t)) m quad u
    | .block b n =>
      match m.layer with
      | none => State.fieldWrites s m quad u
      | some l => do
        let s ← s.agentWrite (s.whoAgent (quad * 4 + tmplCore m.tmpl) 1) (l.block m.station n b) t.bytes
        State.fieldWrites s m quad u
    | .east => State.fieldWrites s m quad u

/-- The commands of a queue with the head gone; the next one is the head from now on. -/
def CmdQueue.dropHead (q : CmdQueue) (now : Nat) : CmdQueue :=
  match q.cmds.drop 1 with
  | [] => { q with cmds := [] }
  | c :: t => { q with cmds := { c with headSince := now } :: t }

/-- The meetings of a buffer with the head gone. -/
def Quad.dropMeeting (q : Quad) (now : Nat) : Quad :=
  match q.meetings.drop 1 with
  | [] => { q with meetings := [] }
  | m :: t => { q with meetings := { m with headSince := now } :: t }

/-- The head meeting of a buffer leaves it without effect, and its phase ends. -/
def State.dropMeeting (s : State) (m : Meeting) (quad reason : Nat) (bad : Option Bad) : State :=
  ((s.modQuad quad fun q => q.dropMeeting s.now).ringFault m.clu m.ring m.trk.val m.station m.entryIx reason bad).closeFaulted
    m.clu m.ring m.trk.val

/-- The head meeting of a buffer takes effect, with an acquire of its phase's opening (12 R252). -/
def State.serveMeeting (s : State) (quad : Nat) (m : Meeting) : State :=
  let k := quad * 4 + tmplCore m.tmpl
  let s := s.phaseAcquire m.clu m.ring m.trk.val k 1
  match s.fieldTiles m quad (cmdFields (cmdCode m.tmpl)) with
  | .error b => s.dropMeeting m quad 6 (some b)
  | .ok (ts, t) =>
    match runTiles t (t.meetSite m fun f => (ts.find? (·.1 == f)).map (·.2)) (tmplCmd m.tmpl) with
    | .refuse _ _ => s.dropMeeting m quad 3 none
    | .fault b => s.dropMeeting m quad 6 (some b)
    | .done ws n u =>
      match u.fieldWrites m quad ws with
      | .error b => s.dropMeeting m quad 6 (some b)
      | .ok (p, u) =>
        ((u.phaseSaw m.clu m.ring m.trk.val k).modQuad quad fun q =>
          { q with meetings := { m with served := true, product := p } :: q.meetings.drop 1 }).countCvt
            ⟨m.core, m.ctx⟩ .lantern (BitVec.ofNat 32 (cmdD m.tmpl 0)) n 1 (.meeting quad m.id)

/-- A meeting waits: for earlier meetings of its west tile (12 R238), or for its norm. -/
def State.meetWaits (s : State) (m : Meeting) : Bool :=
  (m.usesWest && !m.recovery && (s.meetingsOf m.clu m.ring m.trk.val).any fun x =>
    x.usesWest && !x.recovery && x.west.station == m.west.station && decide (x.rank < m.rank) &&
      !x.served) ||
    s.optWaits (s.meetSite m (s.fieldShape m)) (tmplCmd m.tmpl)

/-! ### Turns (09 R168) -/

/-- The head of a core's queue that may be served. -/
def State.headCmd (s : State) (quad k : Nat) : Option Cmd :=
  let q := s.cmdQueue (4 * quad + k)
  match q.cmds with
  | c :: _ => if q.halted || c.served || decide (4 ≤ k) then none else some c
  | [] => none

/-- The head of a meeting buffer that may be served. -/
def State.headMeeting (s : State) (quad : Nat) : Option Meeting :=
  match (s.quad quad).meetings with
  | m :: _ => if m.served then none else some m
  | [] => none

/-- A source's head command is ready; one whose wait has outlasted WAITLIM is only refused (09 R173, R181). -/
def State.srcReady (s : State) (quad : Nat) (src : Fin 5) : Bool :=
  if src.val < 4 then (s.headCmd quad src.val).any fun c => !c.late && !s.cmdWaits quad src.val c
  else (s.headMeeting quad).any fun m => !m.late && !s.meetWaits m

/-- It is a source's turn: no source after the last served one and before it is ready. -/
def State.srcTurn (s : State) (quad : Nat) (src : Fin 5) : Bool :=
  let order := (List.range 5).map fun i => (s.quad quad).lastSrc + 1 + Fin.ofNat 5 i
  order.find? (s.srcReady quad) == some src

/-- CODE of a source's head command. -/
def State.srcCode (s : State) (quad : Nat) (src : Fin 5) : Option Nat :=
  if src.val < 4 then (s.headCmd quad src.val).map fun c => cmdCode c.bytes
  else (s.headMeeting quad).map fun m => cmdCode m.tmpl

/-- A source's head command takes effect, where its CODE is the event's and it is its turn. -/
def State.serve (s : State) (quad : Nat) (src : Fin 5) (code : Nat → Bool) (name : String) : Outcome :=
  if (s.srcCode quad src).any code && s.srcTurn quad src then
    let s := s.modQuad quad fun q => { q with lastSrc := src }
    match s.headCmd quad src.val, s.headMeeting quad with
    | some c, _ => if src.val < 4 then .next (s.serveCore quad src.val c) else .refused (.notEnabled name)
    | none, some m => if src.val = 4 then .next (s.serveMeeting quad m) else .refused (.notEnabled name)
    | none, none => .refused (.notEnabled name)
  else .refused (.notEnabled name)

/-- MCFG; a CODE outside 0x01-0x0D is refused at this step too, since the table names no other. -/
def execMcfg (quad : Nat) (src : Fin 5) (s : State) : Outcome :=
  s.serve quad src (fun c => c == 1 || c == 0 || decide (13 < c)) "MCFG"

/-- MCTX (09 R174). -/
def execMctx (quad : Nat) (src : Fin 5) (s : State) : Outcome := s.serve quad src (· == 2) "MCTX"

/-- MLD (09 R175, R176). -/
def execMld (quad : Nat) (src : Fin 5) (s : State) : Outcome := s.serve quad src (· == 3) "MLD"

/-- MST (09 R175). -/
def execMst (quad : Nat) (src : Fin 5) (s : State) : Outcome := s.serve quad src (· == 7) "MST"

/-- MMA (09 R177). -/
def execMma (quad : Nat) (src : Fin 5) (s : State) : Outcome := s.serve quad src (· == 4) "MMA"

/-- MMAT (09 R177). -/
def execMmat (quad : Nat) (src : Fin 5) (s : State) : Outcome := s.serve quad src (· == 5) "MMAT"

/-- MMAS (09 R177). -/
def execMmas (quad : Nat) (src : Fin 5) (s : State) : Outcome := s.serve quad src (· == 6) "MMAS"

/-- MZERO (09 R173). -/
def execMzero (quad : Nat) (src : Fin 5) (s : State) : Outcome := s.serve quad src (· == 8) "MZERO"

/-- MREL (09 R173). -/
def execLanternMrel (quad : Nat) (src : Fin 5) (s : State) : Outcome := s.serve quad src (· == 9) "LANTERN_MREL"

/-- MOPT (09 R181). -/
def execMopt (quad : Nat) (src : Fin 5) (s : State) : Outcome := s.serve quad src (· == 10) "MOPT"

/-- MSYNC (09 R182). -/
def execMsync (quad : Nat) (src : Fin 5) (s : State) : Outcome := s.serve quad src (· == 11) "MSYNC"

/-- MMASK (09 R179). -/
def execMmask (quad : Nat) (src : Fin 5) (s : State) : Outcome := s.serve quad src (· == 12) "MMASK"

/-- MNORM (09 R180). -/
def execMnorm (quad : Nat) (src : Fin 5) (s : State) : Outcome := s.serve quad src (· == 13) "MNORM"

/-! ### Timeouts and retirement -/

/-- The tile that a refusal with reason 6 names. -/
def State.waitTile (s : State) (quad : Nat) (c : Cmd) : Nat :=
  if cmdCode c.bytes = 10 then cmdTile c.bytes 1 else ((cmdTiles c.bytes).find? (s.quad quad).inUse).getD 0

/-- WAITLIM of a core has passed since a command became the head of its queue. -/
def State.headLate (s : State) (g since : Nat) : Bool := decide (since + (s.core g).waitlim.toNat ≤ s.now)

/-- A meeting waits for its norm. -/
def State.normWaits (s : State) (m : Meeting) : Bool := s.optWaits (s.meetSite m (s.fieldShape m)) (tmplCmd m.tmpl)

/-- As time passes, it is settled for a quad's head commands whether their waits have outlasted WAITLIM (09 R173, R181). -/
def State.markHeads (s : State) (quad : Nat) : State :=
  let s := ([0, 1, 2, 3] : List Nat).foldl (fun s k =>
    let g := 4 * quad + k
    match s.headCmd quad k with
    | some c =>
      if !c.late && s.headLate g c.headSince && s.cmdWaits quad k c then
        s.modCmdQueue g (·.modCmd c.id fun c => { c with late := true })
      else s
    | none => s) s
  match s.headMeeting quad with
  | some m =>
    if !m.late && s.headLate m.core m.headSince && s.normWaits m then
      s.modQuad quad (·.modMeeting m.id fun m => { m with late := true })
    else s
  | none => s

/-- A head command that has waited longer than WAITLIM of its core is refused with reason 6 (09 R173, R181). -/
def execLanternWaitTimeout (quad : Nat) (src : Fin 5) (s : State) : Outcome :=
  match s.headCmd quad src.val, s.headMeeting quad with
  | some c, _ =>
    let g := 4 * quad + src.val
    if src.val < 4 ∧ (c.late ∨ (s.cmdWaits quad src.val c ∧ s.headLate g c.headSince)) then .next (s.refuseCmd g c 6 (s.waitTile quad c))
    else .refused (.notEnabled "LANTERN_WAIT_TIMEOUT")
  | none, some m =>
    if src.val = 4 ∧ (m.late ∨ (s.normWaits m ∧ s.headLate m.core m.headSince)) then
      .next (s.dropMeeting m quad 3 none)
    else .refused (.notEnabled "LANTERN_WAIT_TIMEOUT")
  | none, none => .refused (.notEnabled "LANTERN_WAIT_TIMEOUT")

/-- The meeting-notify firing of a retired meeting (12 R237). -/
def Meeting.notify (m : Meeting) (now : Nat) : Pending :=
  { kind := 4, hidx := tmplNhidx m.tmpl, since := now
    fa := [BitVec.ofNat 64 (m.station + m.trk.val * 2 ^ 4 + m.entryIx * 2 ^ 8), m.phase.setWidth 64] }

/-- A retired recovery counts, or sends its product as a late add (12 R241). DESIGN CHOICE: one whose phase a fault has ended does
not count (log entry 50). -/
def State.retireRecovery (s : State) (m : Meeting) : State :=
  let p := (s.cluster m.clu).phase m.ring m.trk.val
  if !m.recovery || p.faulted then s
  else match m.product with
    | none => s.countRecovery m.clu m.ring m.trk.val
    | some t =>
      s.modCluster m.clu fun c => { c with lateAdds := c.lateAdds ++
        [⟨m.clu, m.ring, m.trk, m.station, m.entryIx, tileHome m.west.hdr1, m.west.dst, m.west.station, t⟩] }

/-- The crossings of a retired command wait at the context that they charge (02 R52). -/
def State.giveCrossings (s : State) (r : CtxRef) (cs : List Crossing) : State :=
  if cs.isEmpty then s else s.modCtx r fun x => { x with crossings := x.crossings ++ cs }

/-- The head meeting of a buffer retires. -/
def State.retireMeeting (s : State) (quad : Nat) : Outcome :=
  match (s.quad quad).meetings with
  | [] => .refused (.notEnabled "LANTERN_RETIRE")
  | m :: _ =>
    let n := quad * 4 + entNcore m.entry
    let note := entNote m.entry
    if !m.served || (note && !(s.core n).mayPost 4) then .refused (.notEnabled "LANTERN_RETIRE")
    else
      let s := (s.modQuad quad fun q => q.dropMeeting s.now).giveCrossings ⟨m.core, m.ctx⟩ m.crossings
      let tags := s.engineTags (quad * 4 + tmplCore m.tmpl) (some 1) []
      .next (((if note then s.post n { m.notify s.now with tags } else s).retireRecovery m).closeFaulted m.clu m.ring m.trk.val)

/-- The head command of a core's queue retires. -/
def State.retireCore (s : State) (g : Nat) : Outcome :=
  match (s.cmdQueue g).cmds with
  | [] => .refused (.notEnabled "LANTERN_RETIRE")
  | c :: _ =>
    if c.served then
      .next ((((s.modCmdQueue g fun q => q.dropHead s.now).giveCrossings ⟨g, c.ctx⟩ c.crossings).wake g).count ⟨g, c.ctx⟩ 4 1)
    else .refused (.notEnabled "LANTERN_RETIRE")

/-- A served command retires: its entry frees; a core's event latches are set, and a meeting with NOTE posts its firing
(09 R167, 12 R232, R237), whose dispatch acquires it (12 R252). -/
def execLanternRetire (quad : Nat) (src : Fin 5) (s : State) : Outcome :=
  if src.val < 4 then s.retireCore (4 * quad + src.val) else s.retireMeeting quad

end Sys2Proof.Machine
end

