-- ==== Sys2Proof/Machine/Perf.lean ====
section
/-! DEFINITION. The perf major: performance counters, the replay journal, and the forecast of a die (20 R364-R371). -/

namespace Sys2Proof.Machine

/-- `pmcfg`: PMSEL(n) ← W(ra) and PMC(n) ← 0 (20 R369). -/
def execPmcfg (ra : Reg) (n : Fin 8) (s : State) : Outcome :=
  let x := s.getW ra
  settle s <|
    if bits x.toNat 63 13 ≠ 0 ∨ 13 < bits x.toNat 7 0 then illegal x
    else .ok (s.modMe fun k => { k with pmsel := k.pmsel.set n.val x n.isLt, pmc := k.pmc.set n.val 0 n.isLt }).advance

/-- `pmrd` of the core: rd ← PMC(W(ra)) (20 R369). -/
def execPmrdCore (rd ra : Reg) (s : State) : Outcome :=
  let x := s.getW ra
  settle s (match s.me.pmc[x.toNat]? with
    | some v => .ok (s.retire rd v)
    | none => illegal x)

/-- `pmrd` of a slice: rd ← a request counter of an address space (20 R369). -/
def execPmrdSlice (rd ra : Reg) (s : State) : Outcome :=
  let x := s.getW ra
  let n := x.toNat
  let k := bits n 9 7
  let asid := bits n 13 10
  settle s <|
    if bits n 63 14 ≠ 0 ∨ 4 < k then illegal x
    else if asid ≠ s.asidOf s.cur.core ∧ s.dev.debug = .none then .error (.sys 0x03 x 0 .none)
    else .ok (s.retire rd ((SMap.find (s.die (bits n 6 5)).counters (bits n 4 0 * 80 + asid * 5 + k)).getD 0))

/-- A journal descriptor is well formed (20 R364). -/
def jrnlOk (base w : Word) : Bool :=
  base.toNat % 64 == 0 && bits w.toNat 63 35 == 0 && !w.getLsbD 32 && bits w.toNat 31 0 % 64 == 0 && bits w.toNat 31 0 != 0

/-- `jrnl` start: the journal records or replays under the descriptor at W(ra) (20 R370). -/
def execJrnlStart (rd ra : Reg) (s : State) : Outcome :=
  let d := s.getW ra
  settle s <|
    if !aligned d 16 then misalign d .read
    else do
      let (bs, t) ← s.load d 16
      match wordsOf bs with
      | [base, w] =>
        if s.me.journal.on || !jrnlOk base w then t.badData d
        else
          let j : Journal :=
            { on := true, replay := w.getLsbD 33, wrap := w.getLsbD 34, base, size := bits w.toNat 31 0, since := s.now
              ctx := s.cur.ctx }
          return (t.modMe fun k => { k with journal := j }).retire rd 0
      | _ => illegal d

/-- `jrnl` stop: every record left the core as a store at its event, so that nothing is left to wait for (20 R370, log entry 15). -/
def State.tryJrnlStop (s : State) (rd : Reg) : Attempt :=
  let pos := BitVec.ofNat 64 s.me.journal.pos
  .ok (some ((s.modMe fun k => { k with journal := { k.journal with on := false } }).retire rd pos))

/-- `jrnl` stop: ON ← 0; rd ← JPOS (20 R370). -/
def execJrnlStop (rd : Reg) (_ra : Reg) (s : State) : Outcome :=
  settle s (s.waitOn (.jrnlStop rd) (BitVec.ofNat 64 s.me.journal.pos) true (s.tryJrnlStop rd))

/-- `jrnl` mark: a MARK record with W(ra) where the journal records (20 R370). -/
def execJrnlMark (rd ra : Reg) (s : State) : Outcome :=
  let j := s.me.journal
  .next (if !j.on || j.replay then s.retire rd 1
    else (s.journal s.cur.core 7 (s.getW ra).toNat).retire rd 0)

/-- `jrnl` status: rd ← JCTL (20 R370). -/
def execJrnlStatus (rd : Reg) (_ra : Reg) (s : State) : Outcome := .next (s.retire rd s.me.journal.ctl)

/-- The code of a die's power state (20 R371). -/
def DiePower.code : DiePower → Nat
  | .run => 0
  | .throttled => 1
  | .parked => 2

/-- `fcstrd`: rd ← FORECAST of a die, or its clock limit and power state (20 R371). -/
def execFcstrd (rd ra : Reg) (sel : Fin 2) (s : State) : Outcome :=
  let x := s.getW ra
  let d := s.die x.toNat
  settle s <|
    if 3 < x.toNat then illegal x
    else .ok (s.retire rd (if sel = 0 then d.forecast else BitVec.ofNat 64 (d.clock % 2 ^ 16 + d.power.code * 2 ^ 16)))

end Sys2Proof.Machine
end

