-- ==== Sys2Proof/Machine/Life.lean ====
section
/-! DEFINITION. Lifetime regions and the Snuffers that drop them (14 R270, 17 R317-R321). -/

namespace Sys2Proof.Machine

/-- All ones, the answer of an instruction that gives no value. -/
def noValue : Word := 0xFFFFFFFFFFFFFFFF

/-- A declaration that 17 R317 allows: BASE, SIZE, USES and the reserved bits. -/
def regionOk (base size uses rest : Nat) : Bool :=
  base % 192 == 0 && size % 192 == 0 && decide (192 ≤ size) && decide (base + size ≤ 2 ^ 48) && decide (1 ≤ uses) &&
    decide (uses ≤ 65535) && rest == 0

/-- The lowest free region of a die's Snuffer. -/
def Die.freeRegion (d : Die) : Option Nat := (List.range 256).find? fun i => (SMap.find d.regions i).isNone

/-- A region becomes live for the team of a core (17 R319). -/
def State.declare (s : State) (die i g : Nat) (base : Word) (size uses : Nat) : State :=
  s.modDie die fun d => { d with regions := SMap.put d.regions i { base, size, uses, tid := s.tidOf g, core := g } }

/-- A region handle with its die and region; ILLEGAL where a reserved bit is set (17 R318). -/
def regionHandle (v : Word) : Except Stop (Nat × Nat) :=
  if v.toNat < 1024 then .ok (v.toNat / 256, v.toNat % 256) else illegal v

/-- The region that is live for the team of the executing core. -/
def State.liveRegion (s : State) (die i : Nat) : Option Region :=
  (SMap.find (s.die die).regions i).filter fun r => r.tid == s.tidOf s.cur.core && !r.dropping

/-- `ltdecl`: the lowest free region of the own die's Snuffer becomes live; rd ← its handle, or all ones (17 R319). -/
def execLtdecl (rd ra : Reg) (s : State) : Outcome :=
  let d := s.getW ra
  let g := s.cur.core
  let die := dieOfCore g
  settle s <|
    if !aligned d 32 then misalign d .read
    else if !s.inOwnTcm g d 32 then .error (.sys 0x03 d d .read)
    else do
      let (bs, t) ← s.load d 32
      match wordsOf bs with
      | [b, n, u, r] =>
        let uses := u.toNat % 65536
        if !regionOk b.toNat n.toNat uses (u.toNat / 65536 + r.toNat) then illegal d
        else match (s.die die).freeRegion with
          | some i => return (t.declare die i g b n.toNat uses).retire rd (BitVec.ofNat 64 (die * 256 + i))
          | none => return t.retire rd noValue
      | _ => illegal d

/-- The region's drop has ended: rd receives its value. -/
def State.tryDrop (s : State) (rd : Reg) (v : Word) (die i : Nat) : Attempt :=
  .ok (if ((SMap.find (s.die die).regions i).map (·.dropping)) = some true then none else some (s.retire rd v))

/-- A live region starts to drop. -/
def State.startDrop (s : State) (die i : Nat) (stash : Option (Word × Nat × Nat × CtxId) := none) : State :=
  s.modDie die fun d => match SMap.find d.regions i with
    | some r => { d with regions := SMap.put d.regions i { r with uses := 0, dropping := true, stash } }
    | none => d

/-- `ltuse` after its checks, also of `unstash`: `n` uses retire, and the last drops the region and waits (17 R319). -/
def State.useRegion (s : State) (rd : Reg) (die i n : Nat) (stash : Option (Word × Nat × Nat × CtxId)) : Res :=
  let s := s.releaseWith 4
  match s.liveRegion die i with
  | none => .ok (s.retire rd noValue)
  | some r =>
    if n < r.uses then
      .ok ((s.modDie die fun d => { d with regions := SMap.put d.regions i { r with uses := r.uses - n } }).retire rd
        (BitVec.ofNat 64 (r.uses - n)))
    else
      let v := if n = r.uses then 0 else noValue - 1
      let t := s.startDrop die i stash
      t.waitOn (.drop rd v die i) 0 false (t.tryDrop rd v die i)

/-- `ltuse`: retires W(rb) uses of a region; rd ← the uses that remain (17 R319). -/
def execLtuse (rd ra rb : Reg) (s : State) : Outcome :=
  let n := s.getW rb
  settle s do
    let (die, i) ← regionHandle (s.getW ra)
    if n = 0 ∨ 65535 < n.toNat then illegal n else s.useRegion rd die i n.toNat none

/-- `ltdrop`: drops a live region and waits, or frees it without a discard; a dropping region is waited for (17 R319). -/
def execLtdrop (ra : Reg) (mode : Fin 2) (s : State) : Outcome :=
  settle s do
    let (die, i) ← regionHandle (s.getW ra)
    let s := s.releaseWith 4
    let s := match s.liveRegion die i with
      | none => s
      | some _ =>
        if mode = 0 then s.startDrop die i else s.modDie die fun d => { d with regions := SMap.del d.regions i }
    s.waitOn (.drop 0 0 die i) 0 false (s.tryDrop 0 0 die i)

/-- `ltstat`: rd ← USES and the state of a region of the core's team (17 R319). -/
def execLtstat (rd ra : Reg) (s : State) : Outcome :=
  settle s do
    let (die, i) ← regionHandle (s.getW ra)
    let v := match (SMap.find (s.die die).regions i).filter fun r => r.tid == s.tidOf s.cur.core with
      | some r => r.uses + (if r.dropping then 2 else 1) * 65536
      | none => 0
    return s.retire rd (BitVec.ofNat 64 v)

/-- The four sectors of a line leave their slice without being written back. -/
def State.discardLine (s : State) (plc p : Nat) : State :=
  (sectorsOfLine (lineKey plc p)).foldl (fun s q => { s with sectors := SMap.del s.sectors q }) s

/-- The drop of one line: only where its page translates to HBM homed on the Snuffer's die (17 R320). -/
def State.dropLine (s : State) (who : Who) (die va : Nat) : State :=
  match s.translate who .any va with
  | .ok (⟨p, .hbm d _ plc _⟩, _) => if d = die then s.discardLine plc p else s
  | _ => s

/-- STOCC[b] of the stash fields at +0xA8 of a layer record is cleared (18 R343); an access that fails its checks clears
nothing, and one into an active workspace charges WSFAULT to the context of the `unstash` (01 R21). Log entry 52. -/
def State.clearStash (s : State) (who : Who) (r : CtxRef) (l : Word) (b : Nat) : State :=
  let clear := fun bs => toBytes 8 (if bit (ofBytes bs) b then ofBytes bs - 2 ^ b else ofBytes bs)
  match s.agentAtom who (l + 0xA8) 8 clear with
  | .ok (_, t) => t
  | .error x => if x.cause = 0x11 then s.charge (s.record r 0x11 .dieEngine 0 x.addr x.addr .amo) else s

/-- A drop ends: its lines are discarded, the region is free, and the buffer of an `unstash` that dropped it (17 R320). -/
def execSnufferDropEnd (die region : Nat) (s : State) : Outcome :=
  match (SMap.find (s.die die).regions region).filter (·.dropping) with
  | none => .refused (.notEnabled "SNUFFER_DROP_END")
  | some r =>
    let who := s.whoDie r.core die
    let s := (List.range (r.size / 192)).foldl (fun s i => s.dropLine who die (r.base.toNat + 192 * i)) s
    let s := s.modDie die fun d => { d with regions := SMap.del d.regions region }
    .next (match r.stash with
      | some (l, b, g, c) => s.clearStash who ⟨g, c⟩ l b
      | none => s)

end Sys2Proof.Machine
end

