-- ==== Sys2Proof/Machine/Vers.lean ====
section
/-! DEFINITION. Mask versions, the `sp` instructions and the activation stash (18 R325-R332, R341-R343). -/

namespace Sys2Proof.Machine

/-! ### The version block (18 R325) -/

/-- The version block as its five doublewords. -/
structure VBlock where
  hdr : Nat
  vts : List Nat
  deriving DecidableEq, Repr

/-- The version block of 40 bytes. -/
def VBlock.ofBytes (bs : List Byte) : VBlock :=
  let w := (wordsOf bs).map BitVec.toNat
  ⟨w.headD 0, (List.range 4).map fun i => w.getD (i + 1) 0⟩

/-- The bytes of a version block. -/
def VBlock.bytes (b : VBlock) : List Byte := (b.hdr :: b.vts).flatMap (toBytes 8)

/-- NEWEST. -/
def VBlock.newest (b : VBlock) : Nat := bits b.hdr 15 0

/-- SHADV. -/
def VBlock.shad (b : VBlock) : Nat := bits b.hdr 31 16

/-- NLIVE. -/
def VBlock.nlive (b : VBlock) : Nat := bits b.hdr 34 32

/-- RETP. -/
def VBlock.retp (b : VBlock) : Bool := bit b.hdr 35

/-- VTn. -/
def VBlock.vt (b : VBlock) (v : Nat) : Nat := b.vts.getD (v % 4) 0

/-- VER of a version word. -/
def vtVer (x : Nat) : Nat := bits x 15 0

/-- REFS of a version word. -/
def vtRefs (x : Nat) : Nat := bits x 31 16

/-- STATE of a version word. -/
def vtState (x : Nat) : Nat := bits x 33 32

/-- A version word. -/
def vtMake (ver refs st : Nat) : Nat := ver + refs * 2 ^ 16 + st * 2 ^ 32

/-- A version word with its state replaced. -/
def vtWith (x st : Nat) : Nat := vtMake (vtVer x) (vtRefs x) st

/-- The block with the word of a version replaced. -/
def VBlock.setVt (b : VBlock) (v x : Nat) : VBlock := { b with vts := b.vts.set (v % 4) x }

/-- A version header. -/
def vhdr (newest shad nlive : Nat) (retp : Bool) : Nat :=
  newest + shad * 2 ^ 16 + nlive * 2 ^ 32 + (if retp then 2 ^ 35 else 0)

/-- The header with RETP 1. -/
def VBlock.pend (b : VBlock) : VBlock := { b with hdr := vhdr b.newest b.shad b.nlive true }

/-- The block is well formed (18 R325); a reserved bit makes it malformed (00 R8). -/
def VBlock.ok (b : VBlock) : Bool :=
  let v := b.newest
  decide (b.hdr < 2 ^ 36) && b.vts.all (fun x => decide (x < 2 ^ 34)) && v != 0xFFFF &&
    vtState (b.vt v) == 1 && vtVer (b.vt v) == v &&
    (([0, 1, 2, 3] : List Nat).all fun n => n == v % 4 || vtState (b.vt n) == 0 ||
      (vtState (b.vt n) != 1 && decide (vtVer (b.vt n) < v))) &&
    b.nlive == (b.vts.filter fun x => vtState x != 0).length

/-- The closing versions without holders. -/
def VBlock.idle (b : VBlock) : List Nat := (b.vts.filter fun x => vtState x == 2 && vtRefs x == 0).map vtVer

/-- Versions begin retirement: STATE 3 and RETP 1 (18 R330). -/
def VBlock.retire (b : VBlock) (us : List Nat) : VBlock :=
  if us.isEmpty then b else (us.foldl (fun b u => b.setVt u (vtWith (b.vt u) 3)) b).pend

/-! ### Records (18 R322, R326) -/

/-- The record address W(ra), checked: MISALIGN, or ACCESS outside the Pond windows and the translated space. -/
def State.layerAddr (s : State) (ra : Reg) (k : Kind) : Except Stop Word :=
  let l := s.getW ra
  if !aligned l 256 then misalign l k
  else if l.getLsbD 63 then
    match localLoc (s.whoOwn s.cur.core) l.toNat with
    | .ok ⟨_, .pond _⟩ => .ok l
    | _ => .error (.sys 0x03 l l k)
  else if l.toNat < 2 ^ 48 then .ok l
  else .error (.sys 0x03 l l k)

/-- The cluster of a team that CLU names, as a core of the team sees it. -/
def State.cluOf (s : State) (g n : Nat) : Option Nat := (s.teamOf g).bind fun t => t.clus[n]?

/-- The die whose engine serves a record, as a read of CLU gives it; the core's own where CLU names no cluster or cannot be read. -/
def State.layerDie (s : State) (g : Nat) (l : Word) : Nat × State :=
  match s.agentRead (s.whoAgent g) l 8 with
  | .ok (bs, t) => (((s.cluOf g (bits (ofBytes bs) 6 0)).map dieOfClu).getD (dieOfCore g), t)
  | .error _ => (dieOfCore g, s)

/-- Retirement jobs are queued at the layer's engine (18 R330). -/
def State.queueRetire (s : State) (g : Nat) (l : Word) (us : List Nat) : State :=
  if us.isEmpty then s
  else
    let (die, s) := s.layerDie g l
    s.modDie die fun d => { d with retire := d.retire ++ us.map fun u => { l, version := u, core := g } }

/-- The version block as one atomic access. -/
def State.readBlock (s : State) (l : Word) : Except Stop (VBlock × List Run × State) := do
  let (bs, rs, t) ← s.atomRead (l + 0x70) 40
  return (VBlock.ofBytes bs, rs, t)

/-- VERSION_LIMIT (18 R327). -/
def State.versionLimit (t : State) (v : Nat) : Res := t.found (.user 0x0B (BitVec.ofNat 64 v) t.ia)

/-- `mver.open` once RETP is 0. -/
def State.tryMverOpen (s : State) (rd : Reg) (l : Word) : Attempt := do
  let (b0, _, _) ← s.readBlock l
  if b0.retp then return none
  else
    let (b, rs, t) ← (s.releaseWith 4).readBlock l
    let v := b.newest
    if !b.ok then some <$> t.badData l
    else if v = 0xFFFE then some <$> t.versionLimit (0x10000 + v)
    else if b.nlive = 4 then some <$> t.versionLimit v
    else if b.shad ≠ v + 1 then return some (t.retire rd noValue)
    else
      let b := (b.setVt v (vtWith (b.vt v) 2)).setVt (v + 1) (vtMake (v + 1) 0 1)
      let b := { b with hdr := vhdr (v + 1) 0xFFFF (b.nlive + 1) false }
      let us := b.idle
      let t := (t.atomWrite rs (b.retire us).bytes none).queueRetire s.cur.core l us
      return some (t.retire rd (BitVec.ofNat 64 (v + 1)))

/-- `mver.open`: opens the version after the newest, once no retirement is pending (18 R327). -/
def execMverOpen (rd ra : Reg) (s : State) : Outcome :=
  settle s do
    let l ← s.layerAddr ra .amo
    s.waitOn (.mverOpen rd l) l true (s.tryMverOpen rd l)

/-- `mver.tag`: a hold on the newest version; MVER and rd receive it (18 R328). -/
def execMverTag (rd ra : Reg) (s : State) : Outcome :=
  settle s do
    let l ← s.layerAddr ra .amo
    let (b, rs, t) ← s.readBlock l
    let v := b.newest
    let x := b.vt v
    if !b.ok || vtRefs x == 0xFFFF then t.badData l
    else
      let t := t.atomWrite rs (b.setVt v (vtMake (vtVer x) (vtRefs x + 1) (vtState x))).bytes none
      return (t.modCx fun y => { y with mver := BitVec.ofNat 16 v }).retire rd (BitVec.ofNat 64 v)

/-- `mver.done`: gives up one hold on a version; the last hold of a closing one begins its retirement (18 R329). -/
def execMverDone (ra rb : Reg) (s : State) : Outcome :=
  let u := s.getW rb
  settle s do
    let l ← s.layerAddr ra .amo
    if 65535 < u.toNat then illegal u
    else
      let (b, rs, t) ← (s.releaseWith 4).readBlock l
      let x := b.vt u.toNat
      if vtVer x ≠ u.toNat ∨ (vtState x ≠ 1 ∧ vtState x ≠ 2) ∨ vtRefs x = 0 then t.badData u
      else
        let b := b.setVt u.toNat (vtMake (vtVer x) (vtRefs x - 1) (vtState x))
        let us := if vtRefs x = 1 ∧ vtState x = 2 then [u.toNat] else []
        return ((t.atomWrite rs (b.retire us).bytes none).queueRetire s.cur.core l us).advance

/-- `mver.stat`: rd ← VHDR or VTn, read with acquire (18 R331). -/
def execMverStat (rd ra : Reg) (sel : Fin 8) (s : State) : Outcome :=
  settle s do
    let l ← s.layerAddr ra .read
    let (bs, t) ← s.load (l + 0x70 + 8 * BitVec.ofNat 64 sel.val) 8
    return t.retire rd (zbytes bs)

/-! ### Jobs of the prune/regrow engine (18 R332) -/

/-- The engine is held by a completion write of its last job (15 R418). -/
def State.prgHeld (s : State) (die : Nat) : Bool := s.engineHeld 0 (.prune die)

/-- The engine has a free queue entry: eight jobs, retirements among them, wait behind the running one. -/
def State.prgRoom (s : State) (die : Nat) : Bool :=
  let d := s.die die
  decide (d.prgQueue.length + d.retire.length < if d.repack.isSome || d.draw.isSome || s.prgHeld die then 8 else 9)

/-- `prg.go` once the queue has room. -/
def State.tryPrgGo (s : State) (rd : Reg) (l : Word) (op : Nat) : Attempt := do
  let (die, s) := s.layerDie s.cur.core l
  if !s.prgRoom die then return none
  else
    let (bs, rs, t) ← s.atomRead (l + 0xE0) 8
    let seq := (bits (ofBytes bs) 15 0 + 1) % 65536
    let t := t.atomWrite rs (toBytes 8 (seq + op * 2 ^ 16)) none
    let j : PrgJob := ⟨l, op, seq, s.cur.core, s.cur.ctx⟩
    return some ((t.modDie die fun d => { d with prgQueue := d.prgQueue ++ [j] }).retire rd (BitVec.ofNat 64 seq))

/-- `prg.go`: queues a job for the record's engine; rd ← its number (18 R332). -/
def execPrgGo (rd ra : Reg) (op : Fin 4) (s : State) : Outcome :=
  settle s do
    let l ← s.layerAddr ra .amo
    s.recordOk l 256 .amo
    let s := s.releaseWith 4
    s.waitOn (.prgGo rd l op.val) l true (s.tryPrgGo rd l op.val)

/-- `prg.stat`: rd ← the record's word +0xE0, read with acquire (18 R332). -/
def execPrgStat (rd ra : Reg) (s : State) : Outcome :=
  settle s do
    let l ← s.layerAddr ra .read
    let (bs, t) ← s.load (l + 0xE0) 8
    return t.retire rd (zbytes bs)

/-! ### Weight shadows (18 R341) -/

/-- `wshad`: rd ← the address of a block of an entry for a version, or all ones (18 R341). -/
def execWshad (rd ra rb : Reg) (blk : Fin 4) (s : State) : Outcome :=
  let loc := (s.getW rb).toNat
  let u := bits loc 31 16
  settle s do
    let l ← s.layerAddr ra .read
    if bits loc 63 32 ≠ 0 ∨ bits loc 15 14 ≠ 0 then illegal (s.getW rb)
    else
      let (bs, t) ← s.loadParts [(l, 24), (l + 0x70, 40)]
      let t := (t.countAt l).countAt (l + 0x70)
      let r := wordsOf (bs.headD [])
      let b := VBlock.ofBytes (bs.getD 1 [])
      match s.cluOf s.cur.core (lr r 0 6 0) with
      | none => return t.retire rd noValue
      | some clu =>
        let c := s.cluster clu
        let st := bits loc 13 10
        if c.ringLen ≤ st then t.badData (s.getW rb)
        else
          let e := c.entry (lr r 0 9 8) st (bits loc 9 9) (bits loc 8 0)
          let kept := (vtState (b.vt u) != 0 && vtVer (b.vt u) == u) || b.shad == u
          if entValid e && decide (entBorn e ≤ u) && decide (u < entDied e) && entSv e u && kept then
            return t.retire rd (slotBlock (lr r 8 63 6) (lr r 0x10 14 0) (lr r 0 39 35) (lr r 0 44 40) st (entSlot e u) blk.val)
          else return t.retire rd noValue

/-! ### The activation stash (18 R342, R343) -/

/-- What `stash` and `unstash` read of a record: the words at +0x98 and +0xA0, and the stash fields at +0xA8. -/
structure Stash where
  base : Word
  sizes : Nat
  occ : Nat
  mbs : List Byte
  regions : List Byte
  deriving DecidableEq, Repr

/-- The stash fields of their bytes. -/
def Stash.of (base : Word) (sizes : Nat) (bs : List Byte) : Stash :=
  ⟨base, sizes, ofBytes (bs.take 8), (bs.drop 8).take 16, (bs.drop 24).take 16⟩

/-- The bytes from +0xA8 on. -/
def Stash.bytes (x : Stash) : List Byte := toBytes 8 x.occ ++ x.mbs ++ x.regions

/-- STSZ. -/
def Stash.size (x : Stash) : Nat := bits x.sizes 31 0

/-- NSB + 1. -/
def Stash.count (x : Stash) : Nat := bits x.sizes 35 32 + 1

/-- STUSES. -/
def Stash.uses (x : Stash) : Nat := bits x.sizes 51 36

/-- STNEXT. -/
def Stash.next (x : Stash) : Nat := bits x.occ 19 16

/-- Buffer b is taken. -/
def Stash.taken (x : Stash) (b : Nat) : Bool := bit x.occ b

/-- The address of a buffer. -/
def Stash.buffer (x : Stash) (b : Nat) : Word := x.base + BitVec.ofNat 64 (b * x.size)

/-- The stash fields are well formed. -/
def Stash.ok (x : Stash) : Bool :=
  decide (x.sizes < 2 ^ 52) && decide (x.occ < 2 ^ 20) &&
    ((List.range x.count).all fun b => regionOk (x.buffer b).toNat x.size x.uses 0)

/-- The buffers in circular order from STNEXT. -/
def Stash.order (x : Stash) : List Nat := (List.range x.count).map fun i => (x.next + i) % x.count

/-- The buffer that a micro-batch holds. -/
def Stash.find (x : Stash) (m : Byte) : Option Nat := (List.range 16).find? fun b => x.taken b && x.mbs.getD b 0 == m

/-- The oldest buffer. -/
def Stash.oldest (x : Stash) : Option Nat := x.order.find? x.taken

/-- EVAL of STASHFULL. -/
def Stash.fullVal (x : Stash) : Word :=
  BitVec.ofNat 64 ((x.oldest.elim 0 fun b => (x.mbs.getD b 0).toNat) + popNat 16 x.occ * 256)

/-- The stash fields of a record, the ones at +0xA8 as one atomic access, with the cluster of CLU. -/
def State.readStash (s : State) (l : Word) : Except Stop (Stash × Option Nat × List Run × State) := do
  let (p, t) ← s.loadParts [(l, 8), (l + 0x98, 16)]
  let t := (t.countAt l).countAt (l + 0x98)
  let (bs, rs, t) ← t.atomRead (l + 0xA8) 40
  let w := wordsOf (p.getD 1 [])
  return (Stash.of (w.headD 0) (w.getD 1 0).toNat bs, s.cluOf s.cur.core (bits (ofBytes (p.headD [])) 6 0), rs, t)

/-- `stash` where a buffer is held already or free; its region is declared on the die of CLU. -/
def State.tryStash (s : State) (rd : Reg) (l : Word) : Attempt := do
  let (x, clu, rs, t) ← s.readStash l
  let m := s.cx.mbatch
  if !x.ok then some <$> t.badData l
  else match clu, x.find m with
  | none, _ => some <$> t.badData l
  | some _, some b => return some (t.retire rd (x.buffer b))
  | some clu, none =>
    match x.order.find? fun b => !x.taken b with
    | none => return none
    | some b =>
      let die := dieOfClu clu
      match (s.die die).freeRegion with
      | none => return some (t.retire rd noValue)
      | some i =>
        let y : Stash := { x with
          occ := bits x.occ 15 0 + 2 ^ b + (b + 1) % x.count * 2 ^ 16
          mbs := x.mbs.set b m, regions := x.regions.set b (BitVec.ofNat 8 i) }
        let t := (t.atomWrite rs y.bytes none).declare die i s.cur.core (x.buffer b) x.size x.uses
        return some (t.retire rd (x.buffer b))

/-- STASHFULL of the executing context (18 R342). -/
def State.stashFull (s : State) (l : Word) : Res := do
  let (x, _, _, t) ← s.readStash l
  if x.ok then t.found (.user 0x0A x.fullVal s.ia) else t.badData l

/-- `stash`: takes a stash buffer for the micro-batch MBATCH, waiting while none is free (18 R342). -/
def execStash (rd ra : Reg) (s : State) : Outcome :=
  settle s do
    let l ← s.layerAddr ra .amo
    let a ← s.tryStash rd l
    if a.isNone && (s.me.stashctl.getLsbD 0 || s.me.waitlim == 0) then s.stashFull l
    else s.waitOn (.stash rd l) 0 true (.ok a)

/-- `unstash`: rd ← the buffer of a micro-batch; with ret 1 one use of its region retires, and its drop gives the buffer
back (18 R343). -/
def execUnstash (rd ra rb : Reg) (ret : Fin 2) (s : State) : Outcome :=
  let m := s.getW rb
  settle s do
    let l ← s.layerAddr ra .amo
    if 255 < m.toNat then illegal m
    else
      let (x, clu, _, t) ← s.readStash l
      if !x.ok then t.badData l
      else match x.find (m.setWidth 8) with
      | none => return t.retire rd 0
      | some b =>
        if ret = 0 then return t.retire rd (x.buffer b)
        else t.useRegion rd ((clu.map dieOfClu).getD (dieOfCore s.cur.core)) (x.regions.getD b 0).toNat 1 (some (l, b, s.cur.core, s.cur.ctx))

end Sys2Proof.Machine
end

