-- ==== Sys2Proof/Machine/Prune.lean ====
section
/-! DEFINITION. The prune/regrow engine of a die: STEP, DRAW, REPACK and retirement jobs (18 R330-R340, R419). -/

namespace Sys2Proof.Machine

/-! ### The layer that a job works on -/

/-- A job's layer: its record as read, the core that issued the job, its cluster and the ring length there. -/
structure Lay where
  a : Word
  r : LRec
  g : Nat
  clu : Nat
  len : Nat
  deriving DecidableEq, Repr

/-- GR. -/
def Lay.gr (y : Lay) : Nat := lr y.r 0 23 16

/-- GC. -/
def Lay.gc (y : Lay) : Nat := lr y.r 0 31 24

/-- RING. -/
def Lay.ring (y : Lay) : Nat := lr y.r 0 9 8

/-- NPOOL. -/
def Lay.npool (y : Lay) : Nat := lr y.r 0x10 14 0

/-- NENT + 1. -/
def Lay.nent (y : Lay) : Nat := lr y.r 0x10 24 16 + 1

/-- BS. -/
def Lay.bs (y : Lay) : Nat := blockBytes (lr y.r 0 39 35) (lr y.r 0 44 40)

/-- A pass descriptor. -/
def Lay.pass (y : Lay) (p : Nat) : Nat := lr y.r (0x18 + 8 * p) 63 0

/-- PV. -/
def Lay.pv (y : Lay) (p : Nat) : Bool := bit (y.pass p) 15

/-- The passes in use. -/
def Lay.passes (y : Lay) : List Nat := ([0, 1, 2, 3] : List Nat).filter y.pv

/-- TRK of a pass. -/
def Lay.trk (y : Lay) (p : Nat) : Nat := bits (y.pass p) 9 9

/-- ENTB of a pass. -/
def Lay.entb (y : Lay) (p : Nat) : Nat := bits (y.pass p) 8 0

/-- TMPL of a pass. -/
def Lay.tmpl (y : Lay) (p : Nat) : Nat := bits (y.pass p) 13 10

/-- NCE. -/
def Lay.nce (y : Lay) : Nat := lr y.r 0x38 41 32

/-- NSAMP. -/
def Lay.nsamp (y : Lay) : Nat := lr y.r 0x38 25 16

/-- CENTB. -/
def Lay.centb (y : Lay) : Nat := lr y.r 0x38 8 0

/-- NEWEST when the record was read. -/
def Lay.newest (y : Lay) : Nat := lr y.r 0x70 15 0

/-- The address of a block of a slot. -/
def Lay.block (y : Lay) (st n blk : Nat) : Word := slotBlock (lr y.r 8 63 6) y.npool (lr y.r 0 39 35) (lr y.r 0 44 40) st n blk

/-- The tile ids of block (i, j) in a pass (18 R322). -/
def Lay.ids (y : Lay) (p i j : Nat) : Nat × Nat :=
  let d := y.pass p
  if bit d 14 then (bits d 31 16 + i, bits d 47 32 + j) else (bits d 31 16 + j, bits d 47 32 + i)

/-- The block index that an entry's tile ids name in a pass. -/
def Lay.blockOf (y : Lay) (p : Nat) (e : BitVec 256) : Option Nat :=
  let d := y.pass p
  let x := entEid e - bits d 31 16
  let z := entWid e - bits d 47 32
  let (i, j) := if bit d 14 then (x, z) else (z, x)
  if bits d 31 16 ≤ entEid e ∧ bits d 47 32 ≤ entWid e ∧ i < y.gr ∧ j < y.gc then some (i * y.gc + j) else none

/-- s(i, j): the first catch station for pass 0 (18 R333). -/
def Lay.station (y : Lay) (b : Nat) : Nat :=
  let i := b / y.gc
  let j := b % y.gc
  let (x, z) := if bit (y.pass 0) 14 then (i, j) else (j, i)
  let e := x % y.len
  let d := (z % y.len + y.len - e) % y.len
  (e + (d + 1) / 2) % y.len

/-- The layer of a record as read; none where CLU names no cluster of the team. -/
def State.layOf (s : State) (g : Nat) (a : Word) (r : LRec) : Option Lay :=
  (s.cluOf g (lr r 0 6 0)).map fun clu => ⟨a, r, g, clu, (s.cluster clu).ringLen⟩

/-- The reserved bits of a record's doublewords (18 R322). -/
def lrReserved : List (Nat × Nat × Nat) :=
  [(0x00, 63, 45), (0x00, 15, 10), (0x00, 7, 7), (0x08, 5, 0), (0x10, 63, 25), (0x10, 15, 15), (0x18, 63, 48),
   (0x20, 63, 48), (0x28, 63, 48), (0x30, 63, 48), (0x38, 63, 42), (0x38, 31, 26), (0x38, 15, 14), (0x38, 9, 9),
   (0x40, 63, 32)] ++
  [(0x68, 63, 32), (0xA0, 63, 52), (0xA8, 63, 20), (0xE0, 63, 32), (0xE0, 23, 19), (0xF0, 63, 0), (0xF8, 63, 0)]

/-- A prune fraction: no NaN, not negative, below 1. -/
def fracOk (x : Nat) : Bool :=
  match fp32.val x with
  | .num neg m _ => !(neg && m != 0) && (Val.lt (fp32.val x) (.num false 1 0))
  | _ => false

/-- Ranges that do not overlap. -/
def rangesApart : List (Fin 2 × Nat × Nat) → Bool
  | [] => true
  | x :: t => t.all (fun z => !rangesMeet x z) && rangesApart t

/-- The pool lies in the Pond of the record's cluster and does not pass its end (18 R323). A Pond outside the team is let by:
the job's accesses there fail (19 R345, log entry 27). -/
def Lay.poolOk (y : Lay) (team : Option Team) : Bool :=
  let a := lr y.r 8 63 6 * 64
  let o := a - pondPlace 0 0
  let p := o / 0x400000
  decide (pondPlace 0 0 ≤ a) && decide (p < 128) && (p == y.clu || !Team.hasClu team p) &&
    decide (o % 0x400000 + y.len * y.npool * 4 * y.bs ≤ 0x400000)

/-- No tile id of a pass exceeds 0xFFFF. -/
def Lay.idsOk (y : Lay) (p : Nat) : Bool :=
  let x := y.ids p (y.gr - 1) (y.gc - 1)
  decide (x.1 < 65536) && decide (x.2 < 65536)

/-- The record is well formed (18 R323, R325). -/
def Lay.ok (y : Lay) (team : Option Team) : Bool :=
  let r := y.r
  let vb : VBlock := ⟨lr r 0x70 63 0, (List.range 4).map fun n => lr r (0x78 + 8 * n) 63 0⟩
  let x := Stash.of (r.getD 19 0) (lr r 0xA0 63 0) []
  lrReserved.all (fun f => lr r f.1 f.2.1 f.2.2 == 0) && decide (lr r 0 34 32 < 2) && y.gc != 0 && y.gr != 0 &&
    decide (y.ring < 16 / y.len) && y.npool != 0 && y.pv 0 && decide (y.nce ≤ 512) && lr r 0x40 31 0 != 0 &&
    fracOk (lr r 0x48 63 32) && lr r 0xD8 2 0 == 0 && x.base.toNat % 192 == 0 && x.size % 192 == 0 && decide (192 ≤ x.size) &&
    x.uses != 0 && (lrRanges r).all (fun z => decide (z.2.1 + z.2.2 ≤ 512)) && rangesApart (lrRanges r) &&
    (y.passes ++ (if y.nce = 0 then [] else [2])).all y.idsOk && y.poolOk team && vb.ok

/-! ### Entries and slots in use (18 R324, R333) -/

/-- The keys of the layer's entries at a station: track and index. -/
def Lay.keys (y : Lay) : List (Nat × Nat) :=
  (lrRanges y.r).flatMap fun x => (List.range x.2.2).map fun i => (x.1.val, x.2.1 + i)

/-- The candidate entries. -/
def Lay.candKeys (y : Lay) : List (Nat × Nat) := (List.range y.nce).map fun i => (y.trk 2, y.centb + i)

/-- An entry of the layer at a station. -/
def Lay.get (y : Lay) (c : Cluster) (st : Nat) (k : Nat × Nat) : BitVec 256 := c.entry y.ring st k.1 k.2

/-- An entry is written whole (18 R333). -/
def Lay.put (y : Lay) (c : Cluster) (st : Nat) (k : Nat × Nat) (e : BitVec 256) : Cluster :=
  c.setEntry y.ring st k.1 k.2 (entWrite (y.get c st k) e)

/-- The slots of a station in use. -/
def Lay.used (y : Lay) (c : Cluster) (st : Nat) : List Nat :=
  y.keys.flatMap fun k =>
    let e := y.get c st k
    (([0, 1, 2, 3] : List Nat).filter (entSv e)).map (entSlot e)

/-- The pinned slots of a station: those that a meeting in its buffer names. -/
def State.pinned (s : State) (y : Lay) (st : Nat) : List Nat :=
  let ms := (s.quad (y.clu * 16 + (s.cluster y.clu).stationQuad y.ring st)).meetings
  (ms.filter fun m => m.layer.any fun l => l.poolb == lr y.r 8 63 6).flatMap Meeting.slots

/-- The lowest free slot of a station. -/
def State.freeSlot (s : State) (y : Lay) (c : Cluster) (st : Nat) : Option Nat :=
  let busy := y.used c st ++ s.pinned y st
  (List.range y.npool).find? fun n => !busy.contains n

/-- The stations of the ring. -/
def Lay.stations (y : Lay) : List Nat := List.range y.len

/-- The entry is a block's that lives at a version. -/
def entLives (e : BitVec 256) (v : Nat) : Bool := entValid e && !entCand e && decide (entBorn e ≤ v) && decide (v < entDied e)

/-- A block that lives: its index, station and number among the entries of a pass. -/
structure Blk where
  b : Nat
  st : Nat
  n : Nat
  deriving DecidableEq, Repr

/-- The blocks that live at a version, in ascending entry order. -/
def Lay.live (y : Lay) (c : Cluster) (v : Nat) : List Blk :=
  y.stations.flatMap fun st => (List.range y.nent).filterMap fun n =>
    let e := y.get c st (y.trk 0, y.entb 0 + n)
    if entLives e v then (y.blockOf 0 e).map fun b => ⟨b, st, n⟩ else none

/-- The candidates of a version: `n` is the index of the entry. -/
def Lay.cands (y : Lay) (c : Cluster) (v : Nat) : List Blk :=
  y.stations.flatMap fun st => y.candKeys.filterMap fun k =>
    let e := y.get c st k
    if entValid e && entCand e && entBorn e == v then (y.blockOf 2 e).map fun b => ⟨b, st, k.2⟩ else none

/-- The entries of a block: number `n` in every pass in use. -/
def Lay.blockKeys (y : Lay) (n : Nat) : List (Nat × Nat) := y.passes.map fun p => (y.trk p, y.entb p + n)

/-- An entry for a version on a slot. -/
def mkEntry (ids : Nat × Nat) (born died v slot tmpl : Nat) (cand : Bool) : BitVec 256 :=
  let e := BitVec.ofNat 256 (ids.1 + ids.2 * 2 ^ 16 + born * 2 ^ 32 + died * 2 ^ 48 + tmpl * 2 ^ 128 +
    (if cand then 2 ^ 133 else 0) + 2 ^ 139)
  entSetSlot e v (some slot)

/-- An entry without slots. -/
def entNoSlots (e : BitVec 256) : BitVec 256 := ([0, 1, 2, 3] : List Nat).foldl (fun e n => entSetSlot e n none) e

/-! ### Memory of a job -/

/-- A step of a job, which ends with the writes made so far where an access fails. -/
abbrev JobM (α : Type) := Except State α

/-- The engine of the layer's die as it works for a core. -/
def Lay.who (y : Lay) (s : State) : Who := s.whoDie y.g (dieOfClu y.clu)

/-- The engine reads bytes. -/
def Lay.read (y : Lay) (s : State) (a : Word) (n : Nat) : JobM (List Byte × State) :=
  match s.agentRead (y.who s) a n with
  | .ok x => .ok x
  | .error _ => .error s

/-- The engine writes bytes. -/
def Lay.write (y : Lay) (s : State) (a : Word) (bs : List Byte) : JobM State :=
  match s.agentWrite (y.who s) a bs with
  | .ok t => .ok t
  | .error _ => .error s

/-- A write that a plan holds: bytes, a copy, an entry at a track and index of a station, or a template. -/
inductive JobWrite where
  | bytes (a : Word) (bs : List Byte)
  | copy (src dst : Word) (len : Nat)
  | entry (st : Nat) (k : Nat × Nat) (e : BitVec 256)
  | template (st ix : Nat) (v : VWord)
  deriving DecidableEq, Repr

/-- The writes of a plan, in order; those made before one that fails stand (18 R339). -/
def Lay.perform (y : Lay) : List JobWrite → State → JobM State
  | [], s => .ok s
  | .bytes a bs :: t, s => do Lay.perform y t (← y.write s a bs)
  | .copy a b n :: t, s => do
    let (bs, s) ← y.read s a n
    Lay.perform y t (← y.write s b bs)
  | .entry st k e :: t, s => Lay.perform y t (s.modCluster y.clu fun c => y.put c st k e)
  | .template st ix v :: t, s =>
    Lay.perform y t (s.modCluster y.clu fun c => { c with templates := SMap.put c.templates (c.tmplKey y.ring st ix) v })

/-! ### Scores (18 R335) -/

/-- The default NaN, the score of a block without a slot for its version. -/
def nanScore : Nat := 0x7FC00000

/-- A score is NaN. -/
def isNanScore (x : Nat) : Bool := decide (0x7F800000 < x % 2 ^ 31)

/-- The MNORM sum of a block's W or G in the slot of a version. -/
def Lay.score (y : Lay) (s : State) (e : BitVec 256) (v st blk : Nat) : JobM (Nat × State) :=
  if entSv e v then do
    let x := lrLayer y.a y.r
    let (bs, s) ← y.read s (y.block st (entSlot e v) blk) (x.blockLen blk)
    return (rne32 (normVal {} (x.blockTile blk bs)), s)
  else .ok (nanScore, s)

/-- The scores of blocks with their entries. -/
def Lay.scores (y : Lay) (v blk : Nat) (key : Blk → Nat × Nat) : List Blk → State → JobM (List (Nat × Blk) × State)
  | [], s => .ok ([], s)
  | x :: t, s => do
    let (n, s) ← y.score s (y.get (s.cluster y.clu) x.st (key x)) v x.st blk
    let (u, s) ← Lay.scores y v blk key t s
    return ((n, x) :: u, s)

/-- Insertion before the first element that comes later. -/
def insertBy {α : Type} (before : α → α → Bool) (x : α) : List α → List α
  | [] => [x]
  | y :: t => if before x y then x :: y :: t else y :: insertBy before x t

/-- A list in an order. -/
def sortBy {α : Type} (before : α → α → Bool) (l : List α) : List α := l.foldr (insertBy before) []

/-- The order in which blocks are dropped: NaN first, then ascending scores, the higher index first among equals. -/
def dropsBefore (a b : Nat × Blk) : Bool :=
  let x := isNanScore a.1
  let y := isNanScore b.1
  if x != y then x else if !x && a.1 != b.1 then decide (a.1 < b.1) else decide (b.2.b < a.2.b)

/-- The order in which candidates are taken: descending scores, the lower index first among equals, NaN last. -/
def growsBefore (a b : Nat × Blk) : Bool :=
  let x := isNanScore a.1
  let y := isNanScore b.1
  if x != y then y else if !x && a.1 != b.1 then decide (b.1 < a.1) else decide (a.2.b < b.2.b)

/-- ⌊PFRAC × n⌋. -/
def fracOf (pfrac n : Nat) : Nat :=
  match fp32.val pfrac with
  | .num _ m e => if 0 ≤ e then m * n * 2 ^ e.toNat else m * n / 2 ^ (-e).toNat
  | _ => 0

/-! ### STEP (18 R334, R335) -/

/-- A plan: the cluster as its entries will stand, the writes that lead there, the blocks regrown and the counts. -/
structure Plan where
  c : Cluster
  ws : List JobWrite := []
  grown : List Blk := []
  pruned : Nat := 0
  scored : Nat := 0
  deriving DecidableEq, Repr

/-- An entry is to be written. -/
def Lay.set (y : Lay) (st : Nat) (k : Nat × Nat) (e : BitVec 256) (p : Plan) : Plan :=
  { p with c := y.put p.c st k e, ws := p.ws ++ [.entry st k e] }

/-- The entries of a dropped block die at v + 1. -/
def Lay.drop (y : Lay) (v : Nat) (p : Plan) (x : Blk) : Plan :=
  (y.blockKeys x.n).foldl (fun p k => y.set x.st k (entPut (y.get p.c x.st k) 63 48 (v + 1)) p) p

/-- Every candidate entry becomes invalid and frees its slot (18 R335). -/
def Lay.clearCands (y : Lay) (p : Plan) : Plan :=
  y.stations.foldl (fun p st => y.candKeys.foldl (fun p k =>
    let e := y.get p.c st k
    if entValid e || e != entNoSlots e then y.set st k (entPut (entNoSlots e) 139 139 0) p else p) p) p

/-- WINIT in the weight format. -/
def Lay.winit (y : Lay) : List Byte :=
  let w := lr y.r 0x68 31 0
  let n := (lr y.r 0 39 35 + 1) * (lr y.r 0 44 40 + 1)
  if lr y.r 0 34 32 = 1 then (List.replicate n (toBytes 2 (bf16.deliver 0 (fp32.val w)).bits)).flatten
  else (List.replicate n (toBytes 4 w)).flatten

/-- A candidate is regrown, or passed over where its station has no free slot or entry. -/
def State.regrow (s : State) (y : Lay) (v : Nat) (p : Plan) (x : Nat × Blk) : Plan :=
  let st := y.station x.2.b
  let free := fun n => (y.blockKeys n).all fun k => !entValid (y.get p.c st k)
  match (List.range y.nent).find? free, s.freeSlot y p.c st with
  | some n, some f =>
    let ent := fun q => mkEntry (y.ids q (x.2.b / y.gc) (x.2.b % y.gc)) (v + 1) 0xFFFF (v + 1) f (y.tmpl q) false
    let w := y.winit
    let p := { p with
      ws := p.ws ++ [.bytes (y.block st f 0) (w ++ List.replicate (4 * y.bs - w.length) 0)]
      grown := p.grown ++ [⟨x.2.b, st, n⟩] }
    y.passes.foldl (fun p q => y.set st (y.trk q, y.entb q + n) (ent q) p) p
  | _, _ => p

/-- The candidates in order, until `d` are regrown. -/
def State.regrowAll (s : State) (y : Lay) (v d : Nat) : List (Nat × Blk) → Plan → Plan
  | [], p => p
  | x :: t, p =>
    if isNanScore x.1 || decide (d ≤ p.grown.length) then p else State.regrowAll s y v d t (s.regrow y v p x)

/-- The report of the scored candidates. -/
def Lay.report (y : Lay) (cs : List (Nat × Blk)) (grown : List Blk) : List Byte :=
  (List.range y.nsamp).flatMap fun i => match cs[i]? with
    | some (n, x) => toBytes 8 (n + x.b * 2 ^ 32 + (if grown.any fun z => z.b == x.b then 2 ^ 48 else 0))
    | none => toBytes 8 0

/-- Pruning and regrowth at v, planned. -/
def Lay.prune (y : Lay) (v : Nat) (s : State) : JobM (Plan × State) := do
  let c := s.cluster y.clu
  let (live, s) ← y.scores v 0 (fun x => (y.trk 0, y.entb 0 + x.n)) (y.live c v) s
  let (cs, s) ← y.scores v 1 (fun x => (y.trk 2, x.n)) (y.cands c v) s
  let d := fracOf (lr y.r 0x48 63 32) live.length
  let gone := (sortBy dropsBefore live).take d
  let cs := sortBy growsBefore cs
  let p := y.clearCands (s.regrowAll y v d cs (gone.foldl (fun p x => y.drop v p x.2) { c }))
  let score := y.r.getD 27 0
  return ({ p with
    ws := p.ws ++ (if score = 0 then [] else [.bytes score (y.report cs p.grown)])
    pruned := gone.length, scored := live.length + cs.length }, s)

/-- The fresh slots of the blocks that live at v + 1 and were not regrown, from SLOT(v mod 4) whether or not SV(v mod 4) stands;
none where a station has no slot left. -/
def State.freshen (s : State) (y : Lay) (v : Nat) : List Blk → Plan → Option Plan
  | [], p => some p
  | x :: t, p =>
    let e := y.get p.c x.st (y.trk 0, y.entb 0 + x.n)
    if p.grown.contains x then State.freshen s y v t p
    else match s.freeSlot y p.c x.st with
      | none => none
      | some f =>
        let from_ := fun b => y.block x.st (entSlot e v) b
        let to_ := fun b => y.block x.st f b
        let p := { p with
          ws := p.ws ++ [.copy (from_ 0) (to_ 0) y.bs, .bytes (to_ 1) (List.replicate y.bs 0), .copy (from_ 2) (to_ 2) (2 * y.bs)] }
        State.freshen s y v t
          ((y.blockKeys x.n).foldl (fun p k => y.set x.st k (entSetSlot (y.get p.c x.st k) (v + 1) (some f)) p) p)

/-- The optimiser values go into the update template of each station that holds an MOPT. -/
def Lay.optimiser (y : Lay) (c : Cluster) : List JobWrite :=
  if y.pv 3 then
    y.stations.filterMap fun st => match c.template y.ring st (y.tmpl 3) with
      | some t =>
        if cmdCode t = 10 then
          let d := (y.r.getD 10 0).toNat + (y.r.getD 11 0).toNat * 2 ^ 64 + (y.r.getD 12 0).toNat * 2 ^ 128
          let keep := t.toNat % 2 ^ 64 + t.toNat / 2 ^ 256 * 2 ^ 256
          some (.template st (y.tmpl 3) (BitVec.ofNat 512 (keep + d * 2 ^ 64)))
        else none
      | none => none
  else []

/-- A doubleword of the record with some of its bits replaced, in one access. -/
def Lay.patch (y : Lay) (s : State) (off : Nat) (f : Nat → Nat) : JobM State :=
  match s.agentAtom (y.who s) (y.a + BitVec.ofNat 64 off) 8 fun bs => toBytes 8 (f (ofBytes bs)) with
  | .ok (_, t) => .ok t
  | .error _ => .error s

/-- A number with the bits from `lo` to `hi` replaced. -/
def putBits (x hi lo v : Nat) : Nat := x - bits x hi lo * 2 ^ lo + v * 2 ^ lo

/-- The result of a job: RESULT, PRUNED, REGROWN and SCORED. -/
structure JobEnd where
  result : Nat
  pruned : Nat := 0
  regrown : Nat := 0
  scored : Nat := 0
  deriving DecidableEq, Repr

/-- STEP prepares version v + 1 (18 R334). -/
def Lay.step (y : Lay) (s : State) : JobM (JobEnd × State) := do
  let v := y.newest
  let stepc := (lr y.r 0x48 31 16 + 1) % 65536
  let kint := lr y.r 0x48 15 0
  if vtState (lr y.r (0x78 + 8 * ((v + 1) % 4)) 63 0) ≠ 0 ∨ lr y.r 0x70 31 16 ≠ 0xFFFF then return (⟨2, 0, 0, 0⟩, s)
  else
    let (p, t) ← if kint ≠ 0 ∧ stepc % kint = 0 then y.prune v s else .ok ({ c := s.cluster y.clu }, s)
    match t.freshen y v (y.live p.c (v + 1)) p with
    | none => return (⟨3, 0, 0, 0⟩, s)
    | some q =>
      let t ← y.patch t 0x48 fun x => putBits x 31 16 stepc
      let t ← y.perform (q.ws ++ y.optimiser q.c) t
      let t ← y.patch t 0x70 fun x => putBits x 31 16 (v + 1)
      return (⟨0, q.pruned, q.grown.length, q.scored⟩, t)

/-! ### DRAW (18 R336) -/

/-- What a DRAW plans: the LFSR state, the entries, the blocks drawn, how many draws are made and how many accepted. -/
structure Draw where
  seed : BitVec 32
  p : Plan
  drawn : List Nat := []
  made : Nat := 0
  got : Nat := 0
  deriving DecidableEq, Repr

/-- The next SEED: the recorded one where the issuing core replays (20 R365). -/
def State.nextSeed (s : State) (g : Nat) (seed : BitVec 32) : BitVec 32 :=
  let j := (s.core g).journal
  if j.replaying then
    match s.nextRecord g (j.size / 16 + 1) j.pos with
    | some (5, w, _) => BitVec.ofNat 32 w
    | _ => lfsrNext seed
  else lfsrNext seed

/-- One draw, with whether it is accepted. -/
def State.drawOne (s : State) (y : Lay) (v : Nat) (x : Draw) : Draw × Nat × Bool :=
  let seed := s.nextSeed y.g x.seed
  let b := seed.toNat % (y.gr * y.gc)
  let st := y.station b
  let x := { x with seed }
  let ent := y.candKeys.find? fun k => !entValid (y.get x.p.c st k)
  let bad := x.drawn.contains b || (y.live x.p.c v).any (·.b == b)
  let x := { x with drawn := if x.drawn.contains b then x.drawn else x.drawn ++ [b], made := x.made + 1 }
  match bad, ent, s.freeSlot y x.p.c st with
  | false, some k, some f =>
    let e := mkEntry (y.ids 2 (b / y.gc) (b % y.gc)) v (v + 1) v f (lr y.r 0x38 13 10) true
    let p := { x.p with ws := x.p.ws ++ [.bytes (y.block st f 1) (List.replicate y.bs 0)] }
    ({ x with p := y.set st k e p, got := x.got + 1 }, b, true)
  | _, _, _ => (x, b, false)

/-- Draws until NSAMP are accepted; each is recorded in the journal of the issuing core, and waits for its turn there (20 R365). -/
def State.draws (y : Lay) (v : Nat) : Nat → Draw → State → Draw × State
  | 0, x, s => (x, s)
  | fuel + 1, x, s =>
    if y.nsamp ≤ x.got || s.journalWaits y.g 5 then (x, s)
    else
      let (x, b, ok) := s.drawOne y v x
      State.draws y v fuel x (s.journal y.g 5 (x.seed.toNat + b * 2 ^ 32 + (if ok then 2 ^ 48 else 0)))

/-- A DRAW goes on until it ends, with SEED written back, or has to wait for its next draw (18 R336): what it has planned is written. -/
def Lay.drawOn (y : Lay) (x : Draw) (s : State) : JobM (Draw × Option JobEnd × State) := do
  let (x, s) := State.draws y y.newest (16 * y.nsamp - x.made) x s
  let s ← y.perform x.p.ws s
  if y.nsamp ≤ x.got ∨ 16 * y.nsamp ≤ x.made then
    let s ← y.patch s 0x40 fun n => putBits n 31 0 x.seed.toNat
    return (x, some ⟨0, 0, 0, 0⟩, s)
  else return (x, none, s)

/-- DRAW prepares candidates at v (18 R336). -/
def Lay.draw (y : Lay) (s : State) : JobM (Draw × Option JobEnd × State) :=
  y.drawOn { seed := BitVec.ofNat 32 (lr y.r 0x40 31 0), p := y.clearCands { c := s.cluster y.clu } } s

/-! ### The ends of jobs (18 R332) -/

/-- HWM. -/
def Lay.hwm (y : Lay) (c : Cluster) : Nat := (y.stations.flatMap (y.used c)).foldl (fun m n => max m (n + 1)) 0

/-- A job ends: +0xE8 and +0xE0 are written unless a later job has been accepted, and the issuer's latches are set, once XLATE
does not hold the writes (15 R418). -/
def State.endPrg (s : State) (die : Nat) (j : PrgJob) (x : JobEnd) (hwm : Nat) : State :=
  let r : CtxRef := ⟨j.core, j.ctx⟩
  let (cur, s) := match s.agentRead (s.whoDie j.core die) (j.l + 0xE0) 8 with
    | .ok (bs, t) => (bits (ofBytes bs) 15 0, t)
    | .error _ => (j.seq, s)
  let s := if cur = j.seq then
      let w := x.pruned % 65536 + x.regrown % 65536 * 2 ^ 16 + x.scored % 65536 * 2 ^ 32 + hwm % 65536 * 2 ^ 48
      let s := s.completeWrite r (.prune die) (j.l + 0xE8) (toBytes 8 w) (some 4)
      s.completeWrite r (.prune die) (j.l + 0xE0) (toBytes 8 (j.seq + j.op * 2 ^ 16 + 2 ^ 18 + x.result * 2 ^ 24)) (some 4)
    else s
  if s.prgHeld die then s else s.wake j.core

/-- The engine may start its next job: none runs, no retirement is ahead, nothing holds it. -/
def State.prgIdle (s : State) (die : Nat) : Bool :=
  (s.die die).repack.isNone && (s.die die).draw.isNone && (s.die die).retire.isEmpty && !s.prgHeld die

/-- The record of a job as its layer, registered (18 R419); RESULT 4 or 1 where it cannot be read or is malformed. -/
def State.openJob (s : State) (die g : Nat) (l : Word) : Except (Nat × State) (Lay × State) :=
  match s.agentRead (s.whoDie g die) l 256 with
  | .error _ => .error (4, s)
  | .ok (bs, s) =>
    match s.layOf g l (wordsOf bs) with
    | none => .error (1, s)
    | some y => if y.ok (s.teamOf g) then .ok (y, s.modCluster y.clu fun c => c.register (lrLayer l y.r)) else .error (1, s)

/-- What a job leaves: it ends, with RESULT 4 where an access failed. -/
def State.leaveJob (die : Nat) (j : PrgJob) (y : Lay) : JobM (JobEnd × State) → State
  | .ok (x, s) => s.endPrg die j x (y.hwm (s.cluster y.clu))
  | .error s => s.endPrg die j ⟨4, 0, 0, 0⟩ (y.hwm (s.cluster y.clu))

/-- What a DRAW leaves: it ends, or waits for its next draw. -/
def State.leaveDraw (die : Nat) (j : PrgJob) (y : Lay) : JobM (Draw × Option JobEnd × State) → State
  | .ok (x, none, s) => s.modDie die fun d => { d with draw := some ⟨j, y.r, x.seed, x.drawn, x.made, x.got⟩ }
  | .ok (_, some e, s) => State.leaveJob die j y (.ok (e, s))
  | .error s => State.leaveJob die j y (.error s)

/-- The job at the head of the queue is taken up. -/
def State.runJob (s : State) (die op : Nat) (name : String) (f : PrgJob → Lay → State → State) : Outcome :=
  match (s.die die).prgQueue with
  | [] => .refused (.notEnabled name)
  | j :: t =>
    if j.op ≠ op || !s.prgIdle die then .refused (.notEnabled name)
    else
      let s := s.modDie die fun d => { d with prgQueue := t }
      .next (match s.openJob die j.core j.l with
        | .error (n, s) => s.endPrg die j ⟨n, 0, 0, 0⟩ 0
        | .ok (y, s) => f j y s)

/-- A STEP: the next version's fresh slots, with pruning and regrowth at its intervals (18 R334). -/
def execPrgStep (die : Nat) (s : State) : Outcome := s.runJob die 0 "PRG_STEP" fun j y s => State.leaveJob die j y (y.step s)

/-- A DRAW: candidate blocks and their entries (18 R336). -/
def execPrgDraw (die : Nat) (s : State) : Outcome :=
  match (s.die die).draw with
  | none => s.runJob die 1 "PRG_DRAW" fun j y s => State.leaveDraw die j y (y.draw s)
  | some d =>
    let t := s.modDie die fun x => { x with draw := none }
    match t.layOf d.job.core d.job.l d.record with
    | none => .next (t.endPrg die d.job ⟨1, 0, 0, 0⟩ 0)
    | some y =>
      if s.journalWaits d.job.core 5 then .refused (.notEnabled "PRG_DRAW")
      else .next (State.leaveDraw die d.job y
        (y.drawOn { seed := d.seed, p := { c := t.cluster y.clu }, drawn := d.drawn, made := d.made, got := d.got } t))

/-! ### REPACK (18 R337) -/

/-- The next slot of a station that a REPACK moves, and where. -/
def State.nextMove (s : State) (y : Lay) (st : Nat) : Option SlotMove :=
  let c := s.cluster y.clu
  let n := lr y.r 0x70 31 16 % 4
  let es := y.keys.map (y.get c st)
  let fresh := (es.filter fun e => entSv e n).map fun e => entSlot e n
  let shared := fun f => es.any fun e => ([0, 1, 2, 3] : List Nat).any fun m => m != n && entSv e m && entSlot e m == f
  (List.range y.npool).findSome? fun f =>
    if fresh.contains f && !shared f && !(s.pinned y st).contains f then
      match s.freeSlot y c st with
      | some k => if k < f then some ⟨st, f, k⟩ else none
      | none => none
    else none

/-- SHADV of a layer's version header now. -/
def State.shadvNow (s : State) (die g : Nat) (l : Word) : JobM (Nat × State) :=
  match s.agentRead (s.whoDie g die) (l + 0x70) 8 with
  | .ok (bs, t) => .ok (bits (ofBytes bs) 31 16, t)
  | .error _ => .error s

/-- A running REPACK copies its next slot, or ends: also once `mver.open` has made the version live, whose slots are never
moved. -/
def State.repackNext (s : State) (die : Nat) (j : PrgJob) (y : Lay) : State :=
  let done := fun (s : State) (n : Nat) =>
    (s.modDie die fun d => { d with repack := none }).endPrg die j ⟨n, 0, 0, 0⟩ (y.hwm (s.cluster y.clu))
  match s.shadvNow die j.core j.l with
  | .error s => done s 4
  | .ok (v, s) =>
    if v ≠ lr y.r 0x70 31 16 then done s 0
    else match y.stations.findSome? (s.nextMove y) with
      | none => done s 0
      | some m =>
        match y.perform [.copy (y.block m.station m.fromSlot 0) (y.block m.station m.toSlot 0) (4 * y.bs)] s with
        | .error s => done s 4
        | .ok s => s.modDie die fun d => { d with repack := some ⟨j, y.r, some m⟩ }

/-- A REPACK starts, or copies its next slot, or ends (18 R337). -/
def execPrgRepack (die : Nat) (s : State) : Outcome :=
  match (s.die die).repack, (s.die die).prgQueue with
  | some ⟨j, r, none⟩, _ =>
    match s.layOf j.core j.l r with
    | none => .next ((s.modDie die fun d => { d with repack := none }).endPrg die j ⟨1, 0, 0, 0⟩ 0)
    | some y => .next (s.repackNext die j y)
  | none, j :: t =>
    if j.op ≠ 2 || !s.prgIdle die then .refused (.notEnabled "PRG_REPACK")
    else
      let s := s.modDie die fun d => { d with prgQueue := t }
      .next (match s.openJob die j.core j.l with
        | .error (n, s) => s.endPrg die j ⟨n, 0, 0, 0⟩ 0
        | .ok (y, s) =>
          if lr y.r 0x70 31 16 ≠ y.newest + 1 then s.endPrg die j ⟨2, 0, 0, 0⟩ (y.hwm (s.cluster y.clu))
          else s.repackNext die j y)
  | _, _ => .refused (.notEnabled "PRG_REPACK")

/-- The entries of a station that name a slot for a version name another. -/
def Lay.switchSlot (y : Lay) (n : Nat) (m : SlotMove) (c : Cluster) : Cluster :=
  y.keys.foldl (fun c k =>
    let e := y.get c m.station k
    if entSv e n && entSlot e n == m.fromSlot then y.put c m.station k (entSetSlot e n (some m.toSlot)) else c) c

/-- A copied slot's entries are switched (18 R337), unless the version has become live or the slot pinned meanwhile. -/
def execRepackSlotSwitch (die : Nat) (s : State) : Outcome :=
  match (s.die die).repack with
  | some ⟨j, r, some m⟩ =>
    let s := s.modDie die fun d => { d with repack := some ⟨j, r, none⟩ }
    .next (match s.layOf j.core j.l r, s.shadvNow die j.core j.l with
      | some y, .ok (v, s) =>
        if v = lr r 0x70 31 16 ∧ !(s.pinned y m.station).contains m.fromSlot then s.modCluster y.clu (y.switchSlot (v % 4) m)
        else s
      | _, _ => s)
  | _ => .refused (.notEnabled "REPACK_SLOT_SWITCH")

/-! ### Retirement (18 R330) -/

/-- A retired version leaves every entry; entries left without slots become invalid. The slots it held are listed. -/
def Lay.retire (y : Lay) (u : Nat) (c : Cluster) : Cluster × List (Nat × Nat) :=
  let cells := y.stations.flatMap fun st => y.keys.map fun k => (st, k)
  cells.foldl (fun (c, l) (st, k) =>
    let e := y.get c st k
    if entSv e u || (entValid e && e == entNoSlots e) then
      let x := entSetSlot e u none
      (y.put c st k (if x = entNoSlots x then entPut x 139 139 0 else x), if entSv e u then l ++ [(st, entSlot e u)] else l)
    else (c, l)) (c, [])

/-- The end of a retirement on the version block: STATE 0, and RETP 0 where no other version retires. -/
def VBlock.retired (b : VBlock) (u : Nat) : VBlock :=
  let x := b.vt u
  let b := if vtVer x = u ∧ vtState x = 3 then
      { b.setVt u (vtWith x 0) with hdr := vhdr b.newest b.shad ((b.nlive + 7) % 8) b.retp }
    else b
  if b.vts.any fun x => vtState x == 3 then b else { b with hdr := vhdr b.newest b.shad b.nlive false }

/-- The version block changes at the end of a retirement. -/
def State.endRetire (s : State) (die g : Nat) (l : Word) (u : Nat) : State :=
  match s.agentAtom (s.whoDie g die) (l + 0x70) 40 fun bs => ((VBlock.ofBytes bs).retired u).bytes with
  | .ok (_, s) => s
  | .error _ => s

/-- A retirement job clears its version from the entries, and ends once the freed slots are not pinned (18 R330). -/
def execRetirementJob (die : Nat) (s : State) : Outcome :=
  match (s.die die).retire with
  | [] => .refused (.notEnabled "RETIREMENT_JOB")
  | j :: t =>
    if (s.die die).repack.isSome || (s.die die).draw.isSome || s.prgHeld die then .refused (.notEnabled "RETIREMENT_JOB")
    else
      let fin := fun (s : State) => (s.modDie die fun d => { d with retire := t }).endRetire die j.core j.l j.version
      match s.openJob die j.core j.l with
      | .error (_, s) => .next (fin s)
      | .ok (y, t') =>
        let blocked := fun (s : State) (fs : List (Nat × Nat)) => fs.any fun f => (s.pinned y f.1).contains f.2
        match j.freed with
        | none =>
          let (c, fs) := y.retire j.version (t'.cluster y.clu)
          let t' := t'.modCluster y.clu fun k => { k with entries := c.entries }
          .next (if blocked t' fs then t'.modDie die fun d => { d with retire := { j with freed := some fs } :: t } else fin t')
        | some fs => if blocked s fs then .refused (.notEnabled "RETIREMENT_JOB") else .next (fin s)

end Sys2Proof.Machine
end

