-- ==== Sys2Proof/Machine/Link.lean ====
section
/-! DEFINITION. Dexow links: puts, remote buffers, what a link moves, and a link's changes of state (21 R377-R384, R417). -/

namespace Sys2Proof.Machine

/-! ### Descriptors (21 R379) -/

/-- A link is up and paired with the team of a core. -/
def State.linkUsable (s : State) (g l : Nat) : Bool := decide (l < 12) && s.linkUp l && s.linkPaired l (s.tidOf g)

/-- The 32-byte descriptor at W(ra), in own TCM. -/
def State.tcmDesc (s : State) (ra : Reg) : Except Stop (List Word × State) :=
  let a := s.getW ra
  if !aligned a 32 then misalign a .read
  else if !s.inOwnTcm s.cur.core a 32 then .error (.sys 0x03 a a .read)
  else do
    let (bs, t) ← s.load a 32
    return (wordsOf bs, t)

/-- ACCESS with EVAL = a descriptor address. -/
def descAccess {α : Type} (a : Word) : Except Stop α := .error (.sys 0x03 a a .none)

/-- A field of a descriptor. -/
def df (d : List Word) (off hi lo : Nat) : Nat := bits (d.getD (off / 8) 0).toNat hi lo

/-- LINK of a put or remote-buffer descriptor. -/
def descLink (off : Nat) (d : List Word) : Nat := df d off 51 48

/-! ### Link puts (21 R380, R381) -/

/-- A put descriptor is well formed. -/
def putOk (d : List Word) : Bool :=
  let n := df d 0x10 31 0
  df d 0 2 0 == 0 && df d 8 2 0 == 0 && df d 0x10 63 52 == 0 && decide (descLink 0x10 d < 12) && df d 0x10 47 45 != 7 &&
    df d 0x10 44 32 == 0 && n % 8 == 0 && n != 0 && decide (n ≤ 2 ^ 24) && df d 0x18 2 0 == 0

/-- The operations of a core over a link, oldest first. -/
def Core.opsOn (k : Core) (l : Nat) : List LinkOp := (SMap.find k.linkOps l).getD []

/-- The operations of a core over a link are replaced. -/
def State.setOps (s : State) (g l : Nat) (ops : List LinkOp) : State :=
  s.modCore g fun k => { k with linkOps := if ops.isEmpty then SMap.del k.linkOps l else SMap.put k.linkOps l ops }

/-- An operation is queued. -/
def State.pushOp (s : State) (g l : Nat) (o : LinkOp) : State := s.setOps g l ((s.core g).opsOn l ++ [o])

/-- An operation is a put. -/
def LinkOp.isPut : LinkOp → Bool
  | .put _ _ _ _ _ _ => true
  | _ => false

/-- `lkput` once the put queue has room. -/
def State.tryLkput (s : State) (rd : Reg) (d : List Word) (a : Word) : Attempt :=
  let l := descLink 0x10 d
  .ok (if ((s.me.opsOn l).filter LinkOp.isPut).length < 8 then
    some (((s.releaseWith 5).pushOp s.cur.core l (.put d a s.cur.ctx 0 none 0)).retire rd 0)
  else none)

/-- `lkput`: queues a put to the peer module (21 R381). -/
def execLkput (rd ra : Reg) (s : State) : Outcome :=
  let a := s.getW ra
  settle s do
    let (d, t) ← s.tcmDesc ra
    if !putOk d then illegal a
    else if !s.linkUsable s.cur.core (descLink 0x10 d) then descAccess a
    else
      let rec_ := d.getD 3 0
      if rec_ != 0 then s.recordOk rec_ 16
      t.waitOn (.lkput rd d a) a true (t.tryLkput rd d a)

/-! ### Remote buffers (21 R382-R384) -/

/-- A remote-buffer descriptor is well formed, its counts apart. -/
def rbOk (d : List Word) : Bool :=
  let n := df d 0x10 24 0
  df d 0 5 0 == 0 && df d 8 63 52 == 0 && decide (descLink 8 d < 12) && df d 8 42 40 == 0 && df d 8 26 14 == 0 &&
    df d 0x10 63 25 == 0 && n % 64 == 0 && n != 0 && decide (n ≤ 2 ^ 24)

/-- k. -/
def rbK (d : List Word) : Nat := df d 8 47 44 + 1

/-- SIDE: receiver. -/
def rbReceiver (d : List Word) : Bool := df d 8 43 43 == 1

/-- SENT or FILLED. -/
def rbLow (d : List Word) : Nat := df d 0x18 31 0

/-- RETS or TAKEN. -/
def rbHigh (d : List Word) : Nat := df d 0x18 63 32

/-- A difference of two 32-bit counts. -/
def countDiff (a b : Nat) : Nat := (a + 2 ^ 32 - b) % 2 ^ 32

/-- `rbput` once a slot is free: SENT advances and the transfer is queued. -/
def State.tryRbput (s : State) (rd : Reg) (a src : Word) : Attempt := do
  let (bs, t) ← s.load a 32
  let d := wordsOf bs
  let sent := rbLow d
  if rbK d ≤ countDiff sent (rbHigh d) then return none
  else
    let slot := sent % rbK d
    let t := t.releaseWith 5
    let t ← t.store (a + 0x18) (toBytes 4 ((sent + 1) % 2 ^ 32))
    let key := a.toNat % 0x80000
    let t := (t.pushOp s.cur.core (descLink 8 d) (.slot d a src slot s.cur.ctx 0)).modMe fun k =>
      { k with unfilled := SMap.put k.unfilled key ((SMap.find k.unfilled key).getD 0 + 1) }
    return some (t.retire rd (BitVec.ofNat 64 slot))

/-- `rbput`: pushes a slot to the peer's buffer once one is free (21 R383). -/
def execRbput (rd ra rb : Reg) (s : State) : Outcome :=
  let a := s.getW ra
  let src := s.getW rb
  settle s do
    let (d, _) ← s.tcmDesc ra
    if !rbOk d || rbReceiver d then illegal a
    else if !s.linkUsable s.cur.core (descLink 8 d) then descAccess a
    else if !aligned src 64 then misalign src .read
    else s.waitOn (.rbput rd a src) (BitVec.ofNat 64 (countDiff (rbLow d) (rbHigh d))) true (s.tryRbput rd a src)

/-- `rbret`: returns the oldest filled slot (21 R384). -/
def execRbret (rd ra : Reg) (s : State) : Outcome :=
  let a := s.getW ra
  settle s do
    let (d, t) ← s.tcmDesc ra
    if !rbOk d || !rbReceiver d || rbLow d == rbHigh d then illegal a
    else
      let t := t.releaseWith 5
      let t ← t.store (a + 0x1C) (toBytes 4 ((rbHigh d + 1) % 2 ^ 32))
      return (t.pushOp s.cur.core (descLink 8 d) (.ret d a s.cur.ctx)).retire rd (BitVec.ofNat 64 (rbHigh d % rbK d))

/-- `rbstat`: the counts of a remote buffer (21 R384). -/
def execRbstat (rd ra : Reg) (s : State) : Outcome :=
  let a := s.getW ra
  settle s do
    let (d, t) ← s.tcmDesc ra
    if !rbOk d then illegal a
    else
      let k := rbK d
      let v := if rbReceiver d then
          countDiff (rbLow d) (rbHigh d) % 2 ^ 16 + rbHigh d % k * 2 ^ 16 + 2 ^ 20
        else
          let pend := (SMap.find s.me.unfilled (a.toNat % 0x80000)).getD 0
          (k + 2 ^ 32 - countDiff (rbLow d) (rbHigh d)) % 2 ^ 16 + rbLow d % k * 2 ^ 16 + pend % 2 ^ 11 * 2 ^ 21
      return t.retire rd (BitVec.ofNat 64 v)

/-! ### What a link moves (21 R378, R381-R384) -/

/-- A link operation of a core, or a completion write of it, is held by XLATE. -/
def State.linkHeld (s : State) (g l : Nat) : Bool :=
  s.engineHeld g (.link l) || s.records.any fun f => f.core == g && f.held == .linkOp l

/-- REMOTE_ERROR is charged with EVAL = the descriptor's address. -/
def State.remoteError (s : State) (g : Nat) (c : CtxId) (a : Word) : State :=
  s.charge (s.record ⟨g, c⟩ 0x12 .dieEngine 0 a 0 .none)

/-- A fault of the issuing side, charged as 17 R306 states. -/
def State.localError (s : State) (g : Nat) (c : CtxId) (b : Bad) (k : Kind := .read) : State :=
  s.charge (s.record ⟨g, c⟩ b.cause .dieEngine 0 b.addr b.addr k)

/-- What a transfer over a link carries: the pairing register (21 R374, R378). -/
def State.peerTag (s : State) (l : Nat) : PeerTag :=
  let p := (s.bar (linkReg l + 8)).toNat
  ⟨bits p 35 32, bits p 15 0, bits p 31 16⟩

/-- How far a transfer of `n` bytes comes, from `done` on, and the cause with which the peer or the link then ends it. -/
def transferEnd (p : PeerAnswer) (done n : Nat) : Nat × Option (BitVec 8) :=
  match p with
  | .performed => (n, none)
  | .failed k => (min (done + 8 * k) n, some 0x12)
  | .dropped k => (min (done + 8 * k) n, some 0x05)

/-- How far a core's transfer over a link comes: not at all where the link is no longer paired with its team (21 R377). -/
def State.peerEnd (s : State) (g l : Nat) (p : PeerAnswer) (done n : Nat) : Nat × Option (BitVec 8) :=
  if s.linkPaired l (s.tidOf g) then transferEnd p done n else (done, some 0x12)

/-- The peer's failure, or the parity's, is charged to the issuer: REMOTE_ERROR for a descriptor (21 R378), or POISON at an
address of the peer (20 R355). -/
def State.peerError (s : State) (g : Nat) (c : CtxId) (cause : BitVec 8) (desc addr : Word) : State :=
  if cause = 0x05 then s.localError g c ⟨0x05, addr⟩ .write else s.remoteError g c desc

/-- The 8-byte words that can be read before the first that fails: how many bytes, and the failure. -/
def State.readable (s : State) (who : Who) (a : Word) (n : Nat) : Nat × Option Bad :=
  match s.resolve who .read a.toNat n with
  | .ok _ => (n, none)
  | .error b => ((b.addr - a).toNat / 8 * 8, some b)

/-- The head of a core's operations over a link, where the link may move it. -/
def State.linkHead (s : State) (g l : Nat) : Option (LinkOp × List LinkOp) :=
  match (s.core g).opsOn l with
  | o :: t => if s.linkUp l && !s.linkHeld g l then some (o, t) else none
  | [] => none

/-- Bytes go to the peer. -/
def State.sendPeer (s : State) (l : Nat) (dst : Word) (bs : List Byte) : State :=
  if bs.isEmpty then s else s.emit (.putBytes l (s.peerTag l) dst bs)

/-- The bytes that go on from `done` of a transfer: where it stands afterwards, and the local failure. -/
def State.movePeer (s : State) (g l : Nat) (src dst : Word) (done n : Nat) : Nat × Option Bad × State :=
  let who := s.whoAgent g 3
  let (m, bad) := s.readable who (src + BitVec.ofNat 64 done) (n - done)
  match s.agentRead who (src + BitVec.ofNat 64 done) m with
  | .ok (bs, t) => (done + m, bad, t.sendPeer l (dst + BitVec.ofNat 64 done) bs)
  | .error b => (done, some b, s)

/-- The link engine moves a queued put's bytes to the peer (21 R381). -/
def execLinkPutTransfer (core link : Nat) (peer : PeerAnswer) (s : State) : Outcome :=
  match s.linkHead core link with
  | some (.put d a c done none _, t) =>
    let put := fun (s : State) (n : Nat) (st : Option (Fin 4)) (cause : BitVec 8) =>
      s.setOps core link (.put d a c n st cause :: t)
    let dst := d.getD 1 0
    let (m, ends) := s.peerEnd core link peer done (df d 0x10 31 0)
    match s.movePeer core link (d.getD 0 0) dst done m, ends with
    | (n, some b, s), _ =>
      if b.cause = 0x04 then
        .next ((put s n none 0).report (s.engineRecord ⟨core, c⟩ .dieEngine b .read (.linkOp link)))
      else .next ((put s n (some 2) b.cause).localError core c b)
    | (n, none, s), some cause => .next ((put s n (some 2) cause).peerError core c cause a (dst + BitVec.ofNat 64 n))
    | (n, none, s), none => .next (put s n (some 1) 0)
  | _ => .refused (.notEnabled "LINK_PUT_TRANSFER")

/-- An ended put's record is written with release and the issuer's latches are set (21 R381), once XLATE no longer holds the
record (15 R418). -/
def execLinkPutComplete (core link : Nat) (s : State) : Outcome :=
  if s.linkHeld core link then .refused (.notEnabled "LINK_PUT_COMPLETE")
  else match (s.core core).opsOn link with
  | .put d _ c done (some st) cause :: t =>
    let w := bytesOf [BitVec.ofNat 64 (cause.toNat * 2 ^ 24 + st.val * 2 ^ 16), BitVec.ofNat 64 done]
    let rec_ := d.getD 3 0
    let s := if rec_ = 0 then s else s.completeWrite ⟨core, c⟩ (.link link) rec_ w (some (df d 0x10 47 45))
    .next (if s.engineHeld core (.link link) then s.setOps core link (.closing :: t) else (s.setOps core link t).wake core)
  | .closing :: t => .next ((s.setOps core link t).wake core)
  | _ => .refused (.notEnabled "LINK_PUT_COMPLETE")

/-- The address of a count of the peer's descriptor. -/
def peerCount (d : List Word) (off : Nat) : Word := BitVec.ofNat 64 (tcmPlace (df d 8 39 27) (df d 8 13 0 * 32 + off))

/-- A pushed slot's bytes go to the receiver's buffer by the rules of a put, and its fill add follows, or a returned slot's add goes to
the sender (21 R383, R384). Bytes already performed stand. -/
def execRbTransfer (core link : Nat) (peer : PeerAnswer) (s : State) : Outcome :=
  match s.linkHead core link with
  | some (.slot d a src slot c done, t) =>
    let n := df d 0x10 24 0
    let dst := d.getD 0 0 + BitVec.ofNat 64 (slot * n)
    let (m, ends) := s.peerEnd core link peer done n
    match s.movePeer core link src dst done m, ends with
    | (k, some b, s), _ =>
      if b.cause = 0x04 then
        .next ((s.setOps core link (.slot d a src slot c k :: t)).report
          (s.engineRecord ⟨core, c⟩ .dieEngine b .read (.linkOp link)))
      else .next ((s.setOps core link t).localError core c b)
    | (k, none, s), some cause =>
      .next ((s.setOps core link t).peerError core c cause a (if k = n then peerCount d 0x18 else dst + BitVec.ofNat 64 k))
    | (_, none, s), none =>
      let key := a.toNat % 0x80000
      .next (((s.setOps core link t).emit (.fill link (s.peerTag link) (df d 8 39 27) (df d 8 13 0))).modCore core fun k =>
        { k with fillsOut := SMap.put k.fillsOut key ((SMap.find k.fillsOut key).getD 0 + 1) })
  | some (.ret d a c, t) =>
    let s := s.setOps core link t
    match (s.peerEnd core link peer 0 8).2 with
    | some cause => .next (s.peerError core c cause a (peerCount d 0x1C))
    | none => .next (s.emit (.ret link (s.peerTag link) (df d 8 39 27) (df d 8 13 0)))
  | _ => .refused (.notEnabled "RB_TRANSFER")

/-- One is added to a count of a remote-buffer descriptor in a core's TCM, with release at `.pod`; none where a check of 14 R258
fails, the core is not of the paired team or the pairing is not symmetric (21 R378). -/
def State.countAdd (s : State) (l core off : Nat) : Option State :=
  let a := BitVec.ofNat 64 (tcmPlace core off)
  if s.linkPaired l (s.tidOf core) && s.linkSymmetric l then
    ((s.agentAtom (s.whoAgent core) a 4 (fun bs => toBytes 4 ((ofBytes bs + 1) % 2 ^ 32)) (sc := some 5)).toOption).map (·.2)
  else none

/-- The peer's fill add reaches FILLED of the receiver's descriptor (21 R383), and the link returns its acknowledgement (21 R384). -/
def execFillAdd (link core desc : Nat) (s : State) : Outcome :=
  if s.linkUp link && decide (core < 8192) && decide (desc < 2 ^ 14) then
    .next (((s.countAdd link core (desc * 32 + 0x18)).map fun t => t.emit (.fillAck link core desc)).getD s)
  else .refused (.notEnabled "FILL_ADD")

/-- The sender learns of a fill through the link's acknowledgement (21 R384); `desc` is its descriptor's TCM offset ÷ 32. -/
def execFillAck (core desc : Nat) (s : State) : Outcome :=
  let key := desc * 32
  match SMap.find (s.core core).fillsOut key with
  | some (n + 1) =>
    .next (s.modCore core fun k =>
      { k with
        fillsOut := if n = 0 then SMap.del k.fillsOut key else SMap.put k.fillsOut key n
        unfilled := SMap.put k.unfilled key ((SMap.find k.unfilled key).getD 0 - 1) })
  | _ => .refused (.notEnabled "FILL_ACK")

/-- The peer's return add reaches RETS of the sender's descriptor (21 R384). -/
def execReturnAdd (link core desc : Nat) (s : State) : Outcome :=
  if s.linkUp link && decide (core < 8192) && decide (desc < 2 ^ 14) then .next ((s.countAdd link core (desc * 32 + 0x1C)).getD s)
  else .refused (.notEnabled "RETURN_ADD")

/-! ### A peer's writes (14 R415, 21 R378) -/

/-- A peer's transfer as an accessing agent (14 R415): in the address space PASID of the pairing at its end, and in the Lake
range of the team that it names here; none where the pairing is not symmetric (21 R377). -/
def State.whoPeer (s : State) (l : Nat) (target : PeerTarget) : Option Who :=
  match SMap.find s.teams target.ptid with
  | some t =>
    if s.linkPaired l target.ptid && bits (s.bar (linkReg l + 8)).toNat 31 16 == target.ltid then
      some { core := t.clus.headD 0 * 64, own := false, asid := target.pasid, team := some t, level := 5 }
    else none
  | none => none

/-- A peer address: translated, or in the all-Lakes window. -/
def peerAddr (a : Word) : Bool :=
  !a.getLsbD 63 || (decide (lakePlace 0 0 ≤ a.toNat) && decide (a.toNat < lakePlace 4 0))

/-- The 8-byte words of a peer's transfer in order, until one fails; the first in each aligned 64-byte block counts as a request (20
R369). -/
def State.servePeer (s : State) (who : Who) (a : Word) (count : Bool) : List (List Byte) → State
  | [] => s
  | bs :: t =>
    if peerAddr a then
      match s.agentWrite who a bs (count := count) with
      | .ok s => State.servePeer s who (a + 8) (a.toNat % 64 == 56) t
      | .error _ => s
    else s

/-- Bytes cut into 8-byte words, with a shorter one at the end. -/
def eights : List Byte → List (List Byte)
  | [] => []
  | b0 :: b1 :: b2 :: b3 :: b4 :: b5 :: b6 :: b7 :: t => [b0, b1, b2, b3, b4, b5, b6, b7] :: eights t
  | l => [l]

/-- The link engine serves a peer's put, slot or reshard write for the paired team (14 R415, 21 R378). -/
def execPeerTransferServe (link : Nat) (target : PeerTarget) (data : List Byte) (s : State) : Outcome :=
  if !s.linkUp link then .refused (.notEnabled "PEER_TRANSFER_SERVE")
  else match s.whoPeer link target with
    | none => .next s
    | some who => .next (s.servePeer who target.dst true (eights data))

end Sys2Proof.Machine
end

