-- ==== Sys2Proof/Machine/Coll.lean ====
section
/-! DEFINITION. Collectives: their descriptors, the queue of a die's engine, and what its ranks receive (21 R385-R387, R389). -/

namespace Sys2Proof.Machine

/-! ### Descriptors (21 R385, R389) -/

/-- OP of a collective. -/
def collOp (d : List Word) : Nat := df d 0x10 45 44

/-- ET. -/
def collEt (d : List Word) : Nat := df d 0x10 43 40

/-- COUNT. -/
def collCount (d : List Word) : Nat := df d 0x10 39 0

/-- NR. -/
def collNr (d : List Word) : Nat := df d 0x20 7 0

/-- CID. -/
def collCid (d : List Word) : Nat := df d 0x20 31 16

/-- SC. -/
def collSc (d : List Word) : Nat := df d 0x10 50 48

/-- REC. -/
def collRec (d : List Word) : Word := d.getD 7 0

/-- The elements that SRC holds. -/
def collSrcLen (d : List Word) : Nat := collCount d * (if collOp d = 1 then collNr d else 1)

/-- A descriptor is well formed, its lists apart. -/
def collOk (d : List Word) : Bool :=
  let n := dtWidth (collEt d) / 8
  ([2, 3, 6, 7, 10, 11, 12, 13] : List Nat).contains (collEt d) && df d 0 63 0 % n == 0 && df d 8 63 0 % n == 0 &&
    df d 0x10 63 51 == 0 && collSc d != 7 && df d 0x10 47 46 != 3 && collOp d != 3 && collCount d != 0 &&
    df d 0x18 3 0 == 0 && df d 0x20 15 8 == 0 && collNr d != 0 && df d 0x30 2 0 == 0 && df d 0x38 2 0 == 0

/-- A rank list as pairs of ROUTE and DIE with its BASE fields; none where it is malformed (21 R389). -/
def rankList (bs : List Byte) (n : Nat) : Option (List (Nat × Nat × Word)) :=
  let w := wordsOf bs
  let ent := fun i => (w.getD (2 * i) 0, w.getD (2 * i + 1) 0)
  let es := (List.range n).map ent
  let rs := es.map fun e => (bits e.1.toNat 7 4, bits e.1.toNat 1 0, e.2)
  let ok := es.all fun e => bits e.1.toNat 63 8 == 0 && bits e.1.toNat 3 2 == 0 && decide (bits e.1.toNat 7 4 < 13)
  if ok && ((rs.map fun r => (r.1, r.2.1)).eraseDups).length == n then some rs else none

/-- Following parents from a rank reaches the root. -/
def reachesRoot (tree : List Nat) : Nat → Nat → Bool
  | 0, _ => false
  | fuel + 1, r =>
    let p := tree.getD r 0xFF
    p == 0xFF || (decide (p < tree.length) && reachesRoot tree fuel p)

/-- The tree has exactly one root and no cycle. -/
def treeOk (tree : List Nat) : Bool :=
  (tree.filter (· == 0xFF)).length == 1 && (List.range tree.length).all (reachesRoot tree (tree.length + 1))

/-! ### Values (21 R386) -/

/-- a ⊕ b of a reduction on patterns of a type. -/
def collReduce (red et : Nat) (a b : Nat) : Nat :=
  let w := dtWidth et
  if 10 ≤ et then
    let f := dtFmt et
    if red = 0 then (f.finish 0 ((f.val a).add 0 (f.val b))).1 else (f.minMax (red == 1) a b).1
  else
    let x := laneInt (dtSigned et) w a
    let y := laneInt (dtSigned et) w b
    wrapInt w (if red = 0 then x + y else if red = 1 then max x y else min x y)

/-- The value of a node for a list of elements: its own, then each child's in ascending rank. -/
def collValue (red et : Nat) (tree : List Nat) (own : Nat → List Nat) : Nat → Nat → List Nat
  | 0, r => own r
  | fuel + 1, r =>
    let kids := (List.range tree.length).filter fun c => tree.getD c 0xFF == r
    kids.foldl (fun acc c => List.zipWith (collReduce red et) acc (collValue red et tree own fuel c)) (own r)

/-- The root. -/
def treeRoot (tree : List Nat) : Nat := (tree.findIdx? (· == 0xFF)).getD 0

/-- What the DST of a rank receives. -/
def collResult (d : List Word) (tree : List Nat) (src : Nat → List Nat) (rank : Nat) : List Nat :=
  let n := collCount d
  let fold := collValue (df d 0x10 47 46) (collEt d) tree
  match collOp d with
  | 0 => fold src tree.length (treeRoot tree)
  | 1 => fold (fun r => ((src r).drop (rank * n)).take n) tree.length (treeRoot tree)
  | _ => (List.range (collNr d)).flatMap src

/-! ### coll.go and coll.wait (21 R387) -/

/-- The next job of an engine becomes its head. -/
def headSince (now : Nat) : List CollJob → List CollJob
  | j :: t => { j with since := some (j.since.getD now) } :: t
  | [] => []

/-- The launches from an address that a core has made before this one. -/
def Core.collGoes (k : Core) (a : Word) : Nat := ((SMap.find k.colls a.toNat).map fun c => c.go + 1).getD 0

/-- `coll.go` once the engine's queue has room. -/
def State.tryCollGo (s : State) (rd : Reg) (j : CollJob) : Attempt :=
  let die := dieOfCore s.cur.core
  let go := s.me.collGoes j.ra
  .ok (if (s.die die).collQueue.length < 5 then
    let s := (s.releaseWith (collSc j.desc)).modDie die fun d =>
      { d with collQueue := headSince s.now (d.collQueue ++ [{ j with go }]) }
    some ((s.modMe fun k => { k with colls := SMap.put k.colls j.ra.toNat { sc := collSc j.desc, go } }).retire rd 0)
  else none)

/-- The collective that a descriptor describes, with its lists, as the executing context launches it; none where it is malformed. -/
def State.readColl (s : State) (a : Word) (d : List Word) : Except Stop (Option CollJob × State) :=
  if !collOk d then .ok (none, s)
  else do
    let n := collNr d
    let (bs, t) ← s.loadParts [(d.getD 3 0, 16 * n), (d.getD 5 0, n)]
    let t := (t.countAt (d.getD 3 0)).countAt (d.getD 5 0)
    let tree := (bs.getD 1 []).map BitVec.toNat
    let die := dieOfCore s.cur.core
    match rankList (bs.headD []) n with
    | none => return (none, t)
    | some rs =>
      let rs := rs.map fun r => (r.1, r.2.1)
      match rs.findIdx? (· == (0, die)), treeOk tree with
      | some r, true =>
        return (some { desc := d, ranks := rs, tree, ra := a, rank := r, core := s.cur.core, ctx := s.cur.ctx }, t)
      | _, _ => return (none, t)

/-- `coll.go`: queues a collective at the die's engine (21 R387). -/
def execCollGo (rd ra : Reg) (s : State) : Outcome :=
  let a := s.getW ra
  settle s <|
    if !aligned a 64 then misalign a .read
    else do
      let (bs, t) ← s.load a 64
      match ← t.readColl a (wordsOf bs) with
      | (none, t) => t.badData a
      | (some j, t) =>
        match if collRec j.desc = 0 then .ok () else t.recordOk (collRec j.desc) 16 with
        | .error e => t.found e
        | .ok _ => t.waitOn (.collGo rd j) a true (t.tryCollGo rd j)

/-- `coll.wait`'s condition: the last collective from the address has ended, or none was launched. It acquires at SC what the
record releases. -/
def State.tryCollWait (s : State) (rd : Reg) (a : Word) : Attempt :=
  .ok (match SMap.find s.me.colls a.toNat with
    | none => some (s.retire rd 0)
    | some c => c.ended.map fun w => (if c.rec_ = 0 then s else s.acquireAt c.rec_ 16 c.sc).retire rd w)

/-- `coll.wait`: waits for the last collective launched from W(ra); rd ← its record word 0 (21 R387). -/
def execCollWait (rd ra : Reg) (s : State) : Outcome :=
  let a := s.getW ra
  settle s <|
    if !aligned a 64 then misalign a .read
    else do
      let (_, t) ← s.load a 64
      t.waitOn (.collWait rd a) a true (t.tryCollWait rd a)

/-! ### The engine (21 R387) -/

/-- Elements of a width in bytes. -/
def collElems (n : Nat) (bs : List Byte) : Nat → List Nat
  | 0 => []
  | k + 1 => ofBytes (bs.take n) :: collElems n (bs.drop n) k

/-- The head of an engine's queue is replaced. -/
def State.setHead (s : State) (die : Nat) (j : CollJob) : State :=
  s.modDie die fun d => { d with collQueue := j :: d.collQueue.drop 1 }

/-- The record of a collective is behind it: the engine goes on, the issuer's latches are set, and `coll.wait` reads word 0
where this is the last collective launched from the address. -/
def State.leaveColl (s : State) (die : Nat) (j : CollJob) (w : Word) : State :=
  let s := s.modDie die fun d => { d with collQueue := headSince s.now (d.collQueue.drop 1) }
  let mine := (SMap.find (s.core j.core).colls j.ra.toNat).any fun c => c.go == j.go
  let c : CollSeen := { ended := some w, sc := collSc j.desc, go := j.go, rec_ := collRec j.desc }
  (if mine then s.modCore j.core fun k => { k with colls := SMap.put k.colls j.ra.toNat c } else s).wake j.core

/-- A collective ends at its rank: its record is written, and it leaves the engine once XLATE does not hold the write. -/
def State.closeColl (s : State) (die : Nat) (j : CollJob) (st : Fin 4) (cause : BitVec 8) (bytes : Nat) : State :=
  let w := BitVec.ofNat 64 (cause.toNat * 2 ^ 24 + st.val * 2 ^ 16 + collCid j.desc)
  let s := if collRec j.desc = 0 then s
    else s.completeWrite ⟨j.core, j.ctx⟩ (.coll die) (collRec j.desc) (bytesOf [w, BitVec.ofNat 64 bytes]) (some (collSc j.desc))
  if s.engineHeld j.core (.coll die) then s.setHead die { j with closing := some w } else s.leaveColl die j w

/-- A failed access of the engine: XLATE holds the engine (20 R353); any other ends the collective at its rank and is charged to
the issuer. Log entry 51. -/
def State.failColl (s : State) (die : Nat) (j : CollJob) (b : Bad) (k : Kind) : State :=
  let r : CtxRef := ⟨j.core, j.ctx⟩
  if b.cause = 0x04 then s.report (s.engineRecord r .dieEngine b k (.collRun die))
  else (s.closeColl die j 2 b.cause 0).charge (s.record r b.cause .dieEngine 0 j.ra b.addr k)

/-- The engine of a die is held by an access or a record write. -/
def State.collHeld (s : State) (die : Nat) : Bool :=
  s.records.any fun f => f.held == .collRun die || f.holds f.core (.coll die)

/-- The start word has reached the threshold; a start word at 0 is none. It is read with acquire at SC. -/
def State.collMayStart (s : State) (die : Nat) (j : CollJob) : Except Bad (Bool × State) :=
  let a := j.desc.getD 6 0
  if a = 0 then .ok (true, s)
  else do
    let (bs, s) ← s.agentRead { s.whoDie j.core die with acq := some (collSc j.desc) } a 8
    return (decide (df j.desc 0x20 63 32 ≤ ofBytes bs), s)

/-- The engine's head finds its start word at or above the threshold and contributes its elements. -/
def execCollStart (die : Nat) (s : State) : Outcome :=
  match (s.die die).collQueue with
  | j :: _ =>
    if j.src.isSome || j.ended.isSome || j.closing.isSome || j.mark == some false || s.collHeld die then
      .refused (.notEnabled "COLL_START")
    else match s.collMayStart die j with
      | .ok (false, _) => .refused (.notEnabled "COLL_START")
      | .error b => .next (s.failColl die j b .read)
      | .ok (true, s) =>
        let n := dtWidth (collEt j.desc) / 8
        match s.agentRead (s.whoDie j.core die) (j.desc.headD 0) (n * collSrcLen j.desc) with
        | .error b => .next (s.failColl die j b .read)
        | .ok (bs, s) => .next (s.setHead die { j with src := some (collElems n bs (collSrcLen j.desc)) })
  | [] => .refused (.notEnabled "COLL_START")

/-- WAITLIM cycles of the issuing core have passed since a collective became the engine's head, and it has not started. -/
def State.collOver (s : State) (j : CollJob) (now : Nat) : Bool :=
  j.src.isNone && j.ended.isNone && j.closing.isNone && j.since.any fun t => decide (t + (s.core j.core).waitlim.toNat ≤ now)

/-- The start threshold of a collective is not met. -/
def State.collUnmet (s : State) (die : Nat) (j : CollJob) : Bool :=
  match s.collMayStart die j with
  | .ok (false, _) => true
  | _ => false

/-- As time passes WAITLIM, it is settled whether the start threshold was met by then. -/
def State.markColl (s : State) (die now : Nat) : State :=
  match (s.die die).collQueue with
  | j :: _ =>
    if j.mark.isNone && s.collOver j now && !s.collHeld die then s.setHead die { j with mark := some (!s.collUnmet die j) } else s
  | [] => s

/-- A start threshold not met within WAITLIM ends the collective with STATUS 2 and CAUSE 0x06. -/
def execCollStartTimeout (die : Nat) (s : State) : Outcome :=
  match (s.die die).collQueue with
  | j :: _ =>
    if s.collOver j s.now && (j.mark == some false || s.collUnmet die j) && !s.collHeld die then .next (s.closeColl die j 2 0x06 0)
    else .refused (.notEnabled "COLL_START_TIMEOUT")
  | [] => .refused (.notEnabled "COLL_START_TIMEOUT")

/-- Two ranks' descriptors and trees agree. -/
def collAgrees (a b : CollJob) : Bool :=
  collCid a.desc == collCid b.desc && collOp a.desc == collOp b.desc && df a.desc 0x10 47 46 == df b.desc 0x10 47 46 &&
    collEt a.desc == collEt b.desc && collCount a.desc == collCount b.desc && collNr a.desc == collNr b.desc && a.tree == b.tree

/-- The jobs of the ranks of this module that have contributed, by die; none while one has not. -/
def State.localRanks (s : State) (j : CollJob) : Option (List (Nat × CollJob)) :=
  (j.ranks.filter (·.1 == 0)).mapM fun r => match (s.die r.2).collQueue with
    | k :: _ => if k.src.isSome && k.ended.isNone && s.tidOf k.core == s.tidOf j.core then some (r.2, k) else none
    | [] => none

/-- The ranks of peer modules. -/
def CollJob.remote (j : CollJob) : List (Nat × Nat) :=
  (j.ranks.zipIdx.filter fun r => r.1.1 != 0).map fun r => (r.2, r.1.1 - 1)

/-- Every remote rank has answered. -/
def peersComplete (j : CollJob) (ps : List PeerRank) : Bool :=
  j.remote.all fun r => ps.any fun p => p.rank == r.1 && (!p.agrees || p.elems.length == collSrcLen j.desc)

/-- How a collective ends at every rank here is known: results, STATUS 2 with REMOTE_ERROR, or with POISON where its transfer to a peer
was dropped (20 R355). -/
def State.decideColl (s : State) (j : CollJob) (js : List (Nat × CollJob)) (ps : List PeerRank) : State :=
  let links := (j.remote.map (·.2)).eraseDups
  let ok := js.all (fun k => collAgrees j k.2) && ps.all (fun p => p.agrees || !j.remote.any (·.1 == p.rank)) &&
    links.all (s.linkUsable j.core)
  let src := fun r => match js.find? (·.2.rank == r) with
    | some k => k.2.src.getD []
    | none => ((ps.find? (·.rank == r)).map (·.elems)).getD []
  let lost := !links.isEmpty && s.dev.linkDrop == some (2 ^ 64)
  let set := fun (s : State) (k : Nat × CollJob) =>
    s.setHead k.1 { k.2 with ended := some (if lost then (2, 0x05, [])
      else if ok then (1, 0, collResult j.desc j.tree src k.2.rank) else (2, 0x12, [])) }
  let s := js.foldl set s
  if ok && !lost then
    links.foldl (fun s l => js.foldl (fun s k => s.emit (.collective l (collCid j.desc) k.2.rank (k.2.src.getD []))) s) s
  else s

/-- The rank's DST is written and the collective ends there. -/
def State.endColl (s : State) (die : Nat) (j : CollJob) (st : Fin 4) (cause : BitVec 8) (xs : List Nat) : State :=
  if st = 1 then
    let bs := xs.flatMap (toBytes (dtWidth (collEt j.desc) / 8))
    match s.agentWrite (s.whoDie j.core die) (j.desc.getD 1 0) bs with
    | .ok s => s.closeColl die j 1 0 bs.length
    | .error b => s.failColl die j b .write
  else (s.closeColl die j st cause 0).peerError j.core j.ctx cause j.ra (j.desc.getD 1 0)

/-- A collective ends at a die's rank: its DST is written, then its record (21 R387); `peers` is what the ranks of peer
modules contribute. -/
def execCollEnd (die : Nat) (peers : List PeerRank) (s : State) : Outcome :=
  match (s.die die).collQueue with
  | [] => .refused (.notEnabled "COLL_END")
  | j :: _ =>
    if s.collHeld die then .refused (.notEnabled "COLL_END")
    else match j.closing, j.ended with
      | some w, _ => .next (s.leaveColl die j w)
      | none, some (st, cause, xs) => .next (s.endColl die j st cause xs)
      | none, none =>
        match j.src, s.localRanks j with
        | some _, some js =>
          if !peersComplete j peers then .refused (.notEnabled "COLL_END")
          else
            let s := s.decideColl j js peers
            match (s.die die).collQueue with
            | k :: _ =>
              match k.ended with
              | some (st, cause, xs) => .next (s.endColl die k st cause xs)
              | none => .refused (.notEnabled "COLL_END")
            | [] => .refused (.notEnabled "COLL_END")
        | _, _ => .refused (.notEnabled "COLL_END")

end Sys2Proof.Machine
end

