-- ==== Sys2Proof/Machine/Reshard.lean ====
section
/-! DEFINITION. Tensor layouts, reshard plans and the reshard engine, and a link's changes of state (21 R388-R393, R417). -/

namespace Sys2Proof.Machine

/-! ### Layout records (21 R388, R389) -/

/-- A layout record with its rank list: ROUTE, DIE and BASE of each rank. -/
structure Layout where
  r : List Word
  ranks : List (Nat × Nat × Word)
  deriving DecidableEq, Repr

/-- The mesh axes, absent ones 1. -/
def loAxes (r : List Word) : List Nat := ([39, 47, 55] : List Nat).map fun hi => max 1 (df r 0 hi (hi - 7))

/-- RANK. -/
def loRank (r : List Word) : Nat := df r 0 6 4

/-- ET. -/
def loEt (r : List Word) : Nat := df r 0 3 0

/-- Element bytes. -/
def loBytes (r : List Word) : Nat := dtWidth (loEt r) / 8

/-- DIMn. -/
def loDim (r : List Word) (n : Nat) : Nat := df r (8 + 8 * n) 39 0

/-- Bn. -/
def loBlock (r : List Word) (n : Nat) : Nat := if n < 4 then df r 0x48 (16 * n + 15) (16 * n) else df r 0x50 (16 * (n - 4) + 15) (16 * (n - 4))

/-- The shard code of dim n. -/
def loShard (r : List Word) (n : Nat) : Nat := df r 0x38 (4 * n + 3) (4 * n)

/-- The ranks that shard a dim. -/
def loParts (r : List Word) (n : Nat) : Nat := if loShard r n = 0 then 1 else (loAxes r).getD (loShard r n - 1) 1

/-- The local size of a dim. -/
def loLocal (r : List Word) (n : Nat) : Nat := loDim r n / loParts r n

/-- TRN. -/
def loTrn (r : List Word) : Bool := df r 0 17 17 == 1

/-- SWE. -/
def loSwe (r : List Word) : Bool := df r 0 16 16 == 1

/-- The swizzle chunk. -/
def loChunk (r : List Word) : Nat := 16 * 2 ^ df r 0 15 13

/-- The dims of the stored shard: the last two exchanged under TRN. -/
def loOrder (r : List Word) : List Nat :=
  let n := loRank r
  if loTrn r then List.range (n - 2) ++ [n - 1, n - 2] else List.range n

/-- The bytes of a stored row. -/
def loRow (r : List Word) : Nat := loLocal r ((loOrder r).getLastD 0) * loBytes r

/-- NR. -/
def loNr (r : List Word) : Nat := (loAxes r).foldl (· * ·) 1

/-- The reserved bits of a layout record. -/
def loReserved (r : List Word) : Bool :=
  df r 0 63 56 == 0 && df r 0 31 24 == 0 && df r 0 21 20 == 0 &&
    ((List.range 6).all fun n => df r (8 + 8 * n) 63 40 == 0) && df r 0x38 63 24 == 0 && df r 0x50 63 32 == 0 &&
    ((List.range 5).all fun n => r.getD (11 + n) 0 == 0)

/-- A layout record is well formed, its rank list apart. -/
def loOk (r : List Word) : Bool :=
  let n := loRank r
  let nax := df r 0 23 22
  let used := List.range n
  let size := fun (a : Nat) => df r 0 (39 + 8 * a) (32 + 8 * a)
  let codes := (used.map (loShard r)).filter (· != 0)
  loReserved r && nax != 0 && ((List.range 3).all fun a => (size a != 0) == decide (a < nax)) &&
    decide (1 ≤ n) && decide (n ≤ 6) && loEt r != 8 && loEt r != 15 &&
    ((List.range 6).all fun d => decide (d < n) || (loDim r d == 0 && loBlock r d == 0 && loShard r d == 0)) &&
    (used.all fun d => loDim r d != 0 && loBlock r d != 0 && loDim r d % loBlock r d == 0 &&
      decide (loShard r d ≤ nax) && loDim r d % (loParts r d * loBlock r d) == 0) &&
    codes.eraseDups.length == codes.length && df r 0x40 3 0 == 0 &&
    (!loTrn r || (decide (2 ≤ n) && 2 ^ df r 0 19 18 == loBytes r)) &&
    (!loSwe r || (decide (df r 0 15 13 ≤ 5) && ([1, 2, 4, 8] : List Nat).any fun k => loRow r == k * loChunk r))

/-- The mesh coordinate of a rank on an axis. -/
def loCoord (r : List Word) (rank a : Nat) : Nat :=
  let m := loAxes r
  if a = 0 then rank / (m.getD 2 1) / (m.getD 1 1) else if a = 1 then rank / (m.getD 2 1) % (m.getD 1 1) else rank % (m.getD 2 1)

/-- The first element of a rank's shard in a dim. -/
def loFirst (r : List Word) (rank n : Nat) : Nat :=
  if loShard r n = 0 then 0 else loCoord r rank (loShard r n - 1) * loLocal r n

/-- The address of an element in a rank's storage (21 R389). -/
def Layout.addr (y : Layout) (rank : Nat) (x : List Nat) : Word :=
  let base := (y.ranks.getD rank (0, 0, 0)).2.2
  let at_ := fun n => x.getD n 0 - loFirst y.r rank n
  let row := (loOrder y.r).dropLast.foldl (fun k n => k * loLocal y.r n + at_ n) 0
  let j := at_ ((loOrder y.r).getLastD 0) * loBytes y.r
  let a := base + BitVec.ofNat 64 (row * loRow y.r)
  if loSwe y.r then swizzled a (loChunk y.r) (loRow y.r / loChunk y.r) (df y.r 0 12 7) j else a + BitVec.ofNat 64 j

/-! ### Plans (21 R391) -/

/-- A box: the first element and the size in each dim. -/
abbrev Box := List (Nat × Nat)

/-- Every index vector below sizes, row-major. -/
def indices : List Nat → List (List Nat)
  | [] => [[]]
  | n :: t => (List.range n).flatMap fun i => (indices t).map (i :: ·)

/-- The shard of a rank. -/
def Layout.shard (y : Layout) (rank : Nat) : Box := (List.range (loRank y.r)).map fun n => (loFirst y.r rank n, loLocal y.r n)

/-- A source block of the block grid. -/
def Layout.blockBox (y : Layout) (ix : List Nat) : Box := ix.zipIdx.map fun i => (i.1 * loBlock y.r i.2, loBlock y.r i.2)

/-- What two boxes share; none where they do not meet. -/
def meetBox : Box → Box → Option Box
  | [], _ => some []
  | _, [] => some []
  | (a, n) :: t, (b, m) :: u =>
    let lo := max a b
    let hi := min (a + n) (b + m)
    if lo < hi then (meetBox t u).map ((lo, hi - lo) :: ·) else none

/-- The lowest-numbered source rank that holds a block. -/
def Layout.holder (y : Layout) (b : Box) : Option Nat :=
  (List.range (loNr y.r)).find? fun p => ((meetBox b (y.shard p)).map (· == b)).getD false

/-- A region: the source rank, the destination rank and the box. -/
structure ShardRegion where
  src : Nat
  dst : Nat
  box : Box
  deriving DecidableEq, Repr

/-- The plan of a die: regions by destination rank, then source block. -/
def reshardPlan (x y : Layout) (die : Nat) : List ShardRegion :=
  let blocks := (indices ((List.range (loRank x.r)).map fun n => loDim x.r n / loBlock x.r n)).map x.blockBox
  let mine := blocks.filterMap fun b => match x.holder b with
    | some p => if (x.ranks.getD p (13, 0, 0)).1 == 0 && (x.ranks.getD p (13, 0, 0)).2.1 == die then some (p, b) else none
    | none => none
  (List.range (loNr y.r)).flatMap fun d => mine.filterMap fun b => (meetBox b.2 (y.shard d)).map fun z => ⟨b.1, d, z⟩

/-- The elements of a box, row-major. -/
def boxElems (b : Box) : List (List Nat) := (indices (b.map (·.2))).map fun ix => List.zipWith (· + ·) (b.map (·.1)) ix

/-- The bytes of a region. -/
def ShardRegion.bytes (g : ShardRegion) (es : Nat) : Nat := (g.box.map (·.2)).foldl (· * ·) es

/-- The two layouts agree in ET, RANK and every DIMn. -/
def layoutsAgree (x y : Layout) : Bool :=
  loEt x.r == loEt y.r && loRank x.r == loRank y.r && (List.range (loRank x.r)).all fun n => loDim x.r n == loDim y.r n

/-! ### Progress records (21 R390) -/

/-- STATE. -/
def prState (p : List Word) : Nat := df p 0x10 15 8

/-- SC. -/
def prSc (p : List Word) : Nat := df p 0x10 2 0

/-- PASS. -/
def prPass (p : List Word) : Nat := df p 0x10 63 32

/-- CAUSE. -/
def prCause (p : List Word) : Nat := df p 0x10 23 16

/-- The reserved bits of a record. -/
def prReserved (p : List Word) : Bool := df p 0x10 31 24 == 0 && df p 0x10 7 3 == 0 && p.getD 7 0 == 0

/-- Word +0x10. -/
def prWord (p : List Word) (pass cause state : Nat) : Word :=
  BitVec.ofNat 64 (pass % 2 ^ 32 * 2 ^ 32 + cause % 256 * 2 ^ 16 + state * 256 + prSc p)

/-- A word of a record replaced. -/
def prSet (p : List Word) (off : Nat) (v : Word) : List Word := p.set (off / 8) v

/-- DIGEST: the first 8 bytes of SHAKE256 over both records, the die number and MODID. -/
def State.planDigest (s : State) (die : Nat) (src dst : List Byte) : Word :=
  zbytes (Config.shake256 8 (src ++ dst ++ [BitVec.ofNat 8 die] ++ toBytes 2 (s.bar 8).toNat))

/-- A reader of bytes at an address; a failure comes with the state that the reads before it left. -/
abbrev Reader := State → Word → Nat → Except (Stop × State) (List Byte × State)

/-- The executing context as a reader. -/
def ctxReader : Reader := fun s a n => (s.load a n).mapError fun e => (e, s)

/-- An engine that acts for a core as a reader; its failures carry the failing byte. -/
def engineReader (g die : Nat) : Reader := fun s a n => (s.agentRead (s.whoDie g die) a n).mapError fun b => (b.stop .read, s)

/-- A layout record and its rank list; none where it is malformed. -/
def Reader.layout (rd : Reader) (s : State) (a : Word) : Except (Stop × State) (Option Layout × List Byte × State) :=
  if !aligned a 128 then .ok (none, [], s)
  else do
    let (bs, s) ← rd s a 128
    let r := wordsOf bs
    if !loOk r then return (none, bs, s)
    else
      let (ls, s) ← rd s (r.getD 8 0) (16 * loNr r)
      return ((rankList ls (loNr r)).map fun x => ⟨r, x⟩, bs, s)

/-- Both layouts of a progress record, with the bytes of their records. -/
def Reader.layouts (rd : Reader) (s : State) (p : List Word) :
    Except (Stop × State) (Option (Layout × Layout) × List Byte × List Byte × State) := do
  let (x, xs, s) ← rd.layout s (p.getD 0 0)
  let (y, ys, s) ← rd.layout s (p.getD 1 0)
  let both := match x, y with
    | some x, some y => if layoutsAgree x y && prSc p != 7 && prReserved p then some (x, y) else none
    | _, _ => none
  return (both, xs, ys, s)

/-- The progress record at W(ra), readable and writable. -/
def State.progress (s : State) (a : Word) : Except Stop (List Word × List Run × State) :=
  if !aligned a 64 then misalign a .amo
  else do
    let (bs, rs, t) ← s.atomRead a 64
    return (wordsOf bs, rs, t)

/-! ### The minors (21 R392) -/

/-- `rsplan`: plans a reshard on the die; rd ← its regions (21 R392). -/
def execRsplan (rd ra : Reg) (s : State) : Outcome :=
  let a := s.getW ra
  let die := dieOfCore s.cur.core
  settle s do
    let (p, rs, t) ← s.progress a
    if prState p = 2 then t.badData a
    else
      match ctxReader.layouts t p with
      | .error (e, t) => t.found e
      | .ok (none, _, _, t) => return (t.atomWrite rs (bytesOf (prSet p 0x10 (prWord p (prPass p) 1 4))) none).retire rd noValue
      | .ok (some (x, y), xs, ys, t) =>
        let n := BitVec.ofNat 64 (reshardPlan x y die).length
        let q := prSet (prSet (prSet (prSet (prSet p 0x10 (prWord p 0 (prCause p) 1)) 0x18 0) 0x20 n) 0x28 (s.planDigest die xs ys)) 0x30 0
        return (t.atomWrite rs (bytesOf q) none).retire rd n

/-- `rsgo`: an answer at once by the record's state, or a pass queued once the engine has room. -/
def State.tryRsgo (s : State) (rd : Reg) (a : Word) : Attempt := do
  let die := dieOfCore s.cur.core
  let (p, rs, t) ← s.progress a
  match prState p with
  | 0 => return some (t.retire rd 2)
  | 3 => return some (t.retire rd 1)
  | 2 => return some (t.retire rd 3)
  | _ =>
    match ctxReader.layouts t p with
    | .error (e, t) => some <$> t.found e
    | .ok (_, xs, ys, t) =>
    if s.planDigest die xs ys ≠ p.getD 5 0 then
      return some ((t.atomWrite rs (bytesOf (prSet p 0x10 (prWord p (prPass p) 2 4))) none).retire rd 2)
    else if 5 ≤ (s.die die).reshardQueue.length then return none
    else
      let t := (t.releaseWith 5).atomWrite rs (bytesOf (prSet p 0x10 (prWord p (prPass p + 1) (prCause p) 2))) none
      let j : ReshardJob := { ra := a, core := s.cur.core, ctx := s.cur.ctx }
      return some ((t.modDie die fun d => { d with reshardQueue := d.reshardQueue ++ [j] }).retire rd 0)

/-- `rsgo`: starts or resumes a planned reshard (21 R392). -/
def execRsgo (rd ra : Reg) (s : State) : Outcome :=
  let a := s.getW ra
  settle s (s.waitOn (.rsgo rd a) a true (s.tryRsgo rd a))

/-- `rsstat`: rd ← word +0x10 of the record, read with acquire at SC (21 R392). -/
def execRsstat (rd ra : Reg) (s : State) : Outcome :=
  let a := s.getW ra
  settle s do
    let (p, _, t) ← s.progress a
    return (t.acquireAt a 64 (prSc p)).retire rd (p.getD 2 0)

/-! ### Passes (21 R393) -/

/-- The job's record as the engine reads it. -/
def State.jobRecord (s : State) (j : ReshardJob) : Except Bad (List Word × State) :=
  (s.agentRead (s.whoDie j.core (dieOfCore j.core)) j.ra 64).map fun x => (wordsOf x.1, x.2)

/-- The engine of a die is held by an XLATE. -/
def State.reshardHeld (s : State) (die : Nat) : Bool :=
  s.records.any fun f => f.held == .reshard die || f.holds f.core (.reshard die)

/-- The engine writes a word of a job's record, the last one with release. -/
def State.putJob (s : State) (j : ReshardJob) (off : Nat) (v : Word) (sc : Option Nat := none) : State :=
  s.completeWrite ⟨j.core, j.ctx⟩ (.reshard (dieOfCore j.core)) (j.ra + BitVec.ofNat 64 off) (toBytes 8 v.toNat) sc

/-- The engine's queue moves on. -/
def State.popReshard (s : State) (die : Nat) : State := s.modDie die fun d => { d with reshardQueue := d.reshardQueue.drop 1 }

/-- A pass ends with STATE 4, and the issuer takes the cause with EVAL = W(ra). -/
def State.failReshard (s : State) (die : Nat) (j : ReshardJob) (p : List Word) (cause : BitVec 8) (addr : Word) (k : Kind) :
    State :=
  let s := (s.popReshard die).putJob j 0x10 (prWord p (prPass p) cause.toNat 4)
  s.charge (s.record ⟨j.core, j.ctx⟩ cause .dieEngine 0 j.ra addr k)

/-- A local failure: XLATE holds the job, any other ends the pass. -/
def State.stopReshard (s : State) (die : Nat) (j : ReshardJob) (p : List Word) (b : Bad) (k : Kind) : State :=
  if b.cause = 0x04 then s.report (s.engineRecord ⟨j.core, j.ctx⟩ .dieEngine b k (.reshard die))
  else s.failReshard die j p b.cause b.addr k

/-- Every region of the plan is complete: STATE 3 with release at SC, and the issuer's latches once XLATE does not hold the
write. -/
def State.finishReshard (s : State) (die : Nat) (j : ReshardJob) (p : List Word) : State :=
  let s := s.putJob j 0x10 (prWord p (prPass p) (prCause p) 3) (some (prSc p))
  if s.reshardHeld die then
    s.modDie die fun d => { d with reshardQueue := { j with started := true, closing := true } :: d.reshardQueue.drop 1 }
  else (s.popReshard die).wake j.core

/-- The reshard engine starts the pass at the head of its queue, at CURSOR. -/
def execReshardPassStart (die : Nat) (s : State) : Outcome :=
  match (s.die die).reshardQueue with
  | [] => .refused (.notEnabled "RESHARD_PASS_START")
  | j :: t =>
    if j.started || s.reshardHeld die then .refused (.notEnabled "RESHARD_PASS_START")
    else match s.jobRecord j with
      | .error b => .next (s.stopReshard die j [] b .read)
      | .ok (p, s) =>
        if p.getD 4 0 ≤ p.getD 3 0 then .next (s.finishReshard die j p)
        else .next (s.modDie die fun d => { d with reshardQueue := { j with started := true, ahead := [] } :: t })

/-- Addresses of elements of `n` bytes, neighbours joined. -/
def joinRuns (n : Nat) : List Word → List (Word × Nat)
  | [] => []
  | a :: t =>
    match joinRuns n t with
    | (b, m) :: u => if a + BitVec.ofNat 64 n = b then (a, n + m) :: u else (a, n) :: (b, m) :: u
    | [] => [(a, n)]

/-- The bytes of runs, read in order. -/
def State.readRuns (s : State) (who : Who) : List (Word × Nat) → Except Bad (List Byte × State)
  | [] => .ok ([], s)
  | (a, n) :: t => do
    let (bs, s) ← s.agentRead who a n
    let (cs, s) ← State.readRuns s who t
    return (bs ++ cs, s)

/-- Runs are written in order; the failure, if any, with the writes made before it. -/
def State.writeRuns (s : State) (who : Who) : List (Word × Nat) → List Byte → State × Option Bad
  | [], _ => (s, none)
  | (a, n) :: t, bs =>
    match s.agentWrite who a (bs.take n) with
    | .ok s => State.writeRuns s who t (bs.drop n)
    | .error b => (s, some b)

/-- Runs go to a peer. -/
def State.sendRuns (s : State) (l : Nat) : List (Word × Nat) → List Byte → State
  | [], _ => s
  | (a, n) :: t, bs => State.sendRuns (s.sendPeer l a (bs.take n)) l t (bs.drop n)

/-- The first `n` bytes of runs. -/
def firstRuns (n : Nat) : List (Word × Nat) → List (Word × Nat)
  | [] => []
  | (a, k) :: t => if n = 0 then [] else (a, min k n) :: firstRuns (n - min k n) t

/-- The regions in flight: 8 from CURSOR on, without those complete. -/
def ReshardJob.flying (j : ReshardJob) (p : List Word) : List Nat :=
  ((List.range 8).map ((p.getD 3 0).toNat + ·)).filter fun k => decide (k < (p.getD 4 0).toNat) && !j.ahead.contains k

/-- A region is complete: CURSOR and BYTES advance over the longest complete prefix. -/
def State.advanceReshard (s : State) (die : Nat) (j : ReshardJob) (p : List Word) (sizes : List Nat) (k : Nat) : State :=
  let done := k :: j.ahead
  let c := (p.getD 3 0).toNat
  let m := ((List.range 8).takeWhile fun i => done.contains (c + i)).length
  let j := { j with ahead := done.filter (c + m ≤ ·) }
  let s := s.modDie die fun d => { d with reshardQueue := j :: d.reshardQueue.drop 1 }
  if m = 0 then s
  else
    let cur := p.getD 3 0 + BitVec.ofNat 64 m
    let s := (s.putJob j 0x18 cur).putJob j 0x30 (p.getD 6 0 + BitVec.ofNat 64 ((sizes.drop c).take m).sum)
    if cur = p.getD 4 0 then s.finishReshard die j p else s

/-- A region moves: its source bytes in order, and where they go; `next` is what follows where it is complete. -/
def State.moveRegion (s : State) (die : Nat) (peer : PeerAnswer) (j : ReshardJob) (p : List Word) (x y : Layout)
    (g : ShardRegion) (next : State → State) : State :=
  let who := s.whoDie j.core die
  let es := boxElems g.box
  let n := loBytes x.r
  let route := (y.ranks.getD g.dst (0, 0, 0)).1
  match s.readRuns who (joinRuns n (es.map (x.addr g.src))) with
  | .error b => s.stopReshard die j p b .read
  | .ok (bs, s) =>
    let to_ := joinRuns n (es.map (y.addr g.dst))
    if route = 0 then
      match s.writeRuns who to_ bs with
      | (s, some b) => s.stopReshard die j p b .write
      | (s, none) => next s
    else if !s.linkUsable j.core (route - 1) then s.failReshard die j p 0x12 0 .none
    else
      let (m, ends) := transferEnd peer 0 bs.length
      let s := s.sendRuns (route - 1) (firstRuns m to_) bs
      match ends with
      | some cause => s.failReshard die j p cause 0 .none
      | none => next s

/-- One of the regions in flight, whichever comes first, completes, or its failure holds or ends the pass; `peer` is the peer's answer
for one that goes over a link. -/
def execReshardRegionDone (die : Nat) (peer : PeerAnswer) (s : State) : Outcome :=
  match (s.die die).reshardQueue with
  | [] => .refused (.notEnabled "RESHARD_REGION_DONE")
  | j :: _ =>
    if !j.started || s.reshardHeld die then .refused (.notEnabled "RESHARD_REGION_DONE")
    else if j.closing then .next ((s.popReshard die).wake j.core)
    else match s.jobRecord j with
      | .error b => .next (s.stopReshard die j [] b .read)
      | .ok (p, s) =>
        match Reader.layouts (engineReader j.core die) s p with
        | .error (.sys c _ a k, s) => .next (s.stopReshard die j p ⟨c, a⟩ k)
        | .error (_, s) => .next s
        | .ok (none, _, _, s) => .next (s.failReshard die j p 1 0 .none)
        | .ok (some (x, y), _, _, s) =>
          let plan := reshardPlan x y die
          let sizes := plan.map fun g => g.bytes (loBytes x.r)
          let ks := j.flying p
          let k := ks.getD (Config.pick s.freeCtr die % ks.length) (p.getD 3 0).toNat
          let s := { s with freeCtr := s.freeCtr + 1 }
          match plan[k]? with
          | none => .next (s.finishReshard die j p)
          | some g => .next (s.moveRegion die peer j p x y g fun s => s.advanceReshard die j p sizes k)

/-! ### A link's changes of state (21 R417) -/

/-- What a core's operation on a link that goes down ends with: a put stays for its record. -/
def LinkOp.cut : LinkOp → Option LinkOp
  | .put d a c n st cause => some (.put d a c n (some (st.getD 2)) (if st.isSome then cause else 0x12))
  | .closing => some .closing
  | _ => none

/-- The descriptor and context to which a link that goes down charges REMOTE_ERROR. -/
def LinkOp.victim : LinkOp → Option (CtxId × Word)
  | .put _ a c _ none _ => some (c, a)
  | .put _ _ _ _ (some _) _ => none
  | .slot _ a _ _ c _ => some (c, a)
  | .ret _ a c => some (c, a)
  | .closing => none

/-- A core's operations over a link end. -/
def State.cutOps (s : State) (l g : Nat) : State :=
  let ops := (s.core g).opsOn l
  (ops.filterMap LinkOp.victim).foldl (fun s v => s.remoteError g v.1 v.2) (s.setOps g l (ops.filterMap LinkOp.cut))

/-- A collective that has contributed over the link ends at its rank with REMOTE_ERROR. -/
def State.cutColl (s : State) (l die : Nat) : State :=
  match (s.die die).collQueue with
  | j :: _ =>
    if j.src.isSome && j.ended.isNone && j.remote.any (·.2 == l) then s.setHead die { j with ended := some (2, 0x12, []) } else s
  | [] => s

/-- The running pass ends where one of the 8 regions in flight goes over the link. -/
def State.cutReshard (s : State) (l die : Nat) : State :=
  match (s.die die).reshardQueue with
  | [] => s
  | j :: _ =>
    if !j.started || j.closing then s
    else match s.jobRecord j with
      | .error _ => s
      | .ok (p, s) =>
        match Reader.layouts (engineReader j.core die) s p with
        | .ok (some (x, y), _, _, _) =>
          let plan := reshardPlan x y die
          let flying := (j.flying p).filterMap (plan[·]?)
          if flying.any fun g => (y.ranks.getD g.dst (0, 0, 0)).1 == l + 1 then s.failReshard die j p 0x12 0 .none else s
        | _ => s

/-- A link's registers after its change. -/
def State.setLink (s : State) (l peer lanes : Nat) (up : Bool) : State :=
  s.setBar (linkReg l) (BitVec.ofNat 64 (peer % 65536 * 65536 + lanes % 256 + if up then 256 else 0))

/-- PEER of a link. -/
def State.linkPeer (s : State) (l : Nat) : Nat := bits (s.bar (linkReg l)).toNat 31 16

/-- LANES. -/
def State.linkLanes (s : State) (l : Nat) : Nat := bits (s.bar (linkReg l)).toNat 7 0

/-- A link goes down: UP and LANES are 0, and what was queued or in flight on it ends (21 R417). -/
def State.dropLink (s : State) (l : Nat) : State :=
  let s := s.setLink l (s.linkPeer l) 0 false
  let s := (s.cores.map (·.1)).foldl (fun s g => s.cutOps l g) s
  (List.range 4).foldl (fun s d => (s.cutColl l d).cutReshard l d) s

/-- A link goes down (21 R417). -/
def execLinkDown (link : Nat) (s : State) : Outcome :=
  if decide (link < 12) && s.linkUp link then .next (s.dropLink link) else .refused (.notEnabled "LINK_DOWN")

/-- A link trains once the module is up: PEER, LANES and UP (21 R417). -/
def execLinkUp (link peer lanes : Nat) (s : State) : Outcome :=
  if s.hostUp && decide (link < 12) && !s.linkUp link && decide (0 < lanes) && decide (lanes < 256) then .next (s.setLink link peer lanes true)
  else .refused (.notEnabled "LINK_UP")

/-- A link loses some of its lanes and runs on the others (21 R417). -/
def execLinkLaneLoss (link lanes : Nat) (s : State) : Outcome :=
  let old := s.linkLanes link
  if decide (link < 12) && s.linkUp link && lanes != 0 && lanes != old && lanes &&& old == lanes then
    .next (s.setLink link (s.linkPeer link) lanes true)
  else .refused (.notEnabled "LINK_LANE_LOSS")

end Sys2Proof.Machine
end

