-- ==== Sys2Proof/Machine/Wait.lean ====
section
/-! DEFINITION. How waits and stalls end (03 R67, 14 R268): the condition of every waiting instruction, its WAITLIMIT, the
return of a load and the retry of a refused request. -/

namespace Sys2Proof.Machine

/-- The condition of a waiting instruction, and its completion where the condition holds (03 R67). -/
def State.attempt (s : State) : WaitOp → Attempt
  | .wfe => s.tryWfe
  | .mqwait n => s.tryMqwait n
  | .place cmd cb => s.tryPlace cmd cb
  | .send h p sc _ => s.trySend h p sc
  | .htsync sets => s.tryHtsync sets
  | .dqpush w0 w1 => s.tryDqpush w0 w1
  | .spawn => .ok none
  | .barArr level id rd thenWait => s.tryBarArr level id rd thenWait
  | .barWait level id token => s.tryBarWait level id token
  | .stream fn x cb need off => s.tryStream fn x cb need off
  | .obarWait a ph sc => s.tryObarWait a ph sc
  | .rcfg c => s.tryRcfg c
  | .rphase p a trk sc => s.tryRphase p a trk.val sc
  | .rdrain rd trk => s.tryRdrain rd trk.val
  | .cwait rd x => s.tryCwait rd x
  | .launch rd block shadow => s.tryLaunch rd block shadow
  | .mverOpen rd l => s.tryMverOpen rd l
  | .prgGo rd l op => s.tryPrgGo rd l op
  | .stash rd l => s.tryStash rd l
  | .drop rd v die i => s.tryDrop rd v die i
  | .lkput rd d a => s.tryLkput rd d a
  | .rbput rd a src => s.tryRbput rd a src
  | .collGo rd j => s.tryCollGo rd j
  | .collWait rd a => s.tryCollWait rd a
  | .rsgo rd a => s.tryRsgo rd a
  | .jrnlStop rd => s.tryJrnlStop rd

/-- SENT − RETS of a remote-buffer descriptor. -/
def State.rbPending (s : State) (a : Word) : Word :=
  match s.agentRead (s.whoOwn s.cur.core) a 32 with
  | .ok (bs, _) => BitVec.ofNat 64 (countDiff (rbLow (wordsOf bs)) (rbHigh (wordsOf bs)))
  | .error _ => 0

/-- CORE of the record that the executing context spawns. -/
def State.spawnVal (s : State) : Word := BitVec.ofNat 64 (s.cx.spawn.elim 0 fun x => taskCore x.word0)

/-- EVAL of a wait that ends in WAITLIMIT. -/
def State.waitVal (s : State) : WaitOp → Word
  | .wfe => 0
  | .mqwait _ => BitVec.ofNat 64 s.unretired
  | .place _ _ => 8
  | .send h _ _ _ => s.sendVal h
  | .htsync sets => BitVec.ofNat 64 (s.me.net.outstanding sets)
  | .dqpush _ _ => BitVec.ofNat 64 s.me.dequeCap
  | .spawn => s.spawnVal
  | .barArr level id _ _ => barVal level id
  | .barWait level id _ => barVal level id
  | .stream _ _ cb _ _ => s.streamVal cb
  | .obarWait a _ _ => a
  | .rcfg _ => 0
  | .rphase _ _ trk _ => s.phaseVal trk.val
  | .rdrain _ trk => s.phaseVal trk.val
  | .cwait _ x => x.setWidth 64
  | .launch _ _ _ => 2
  | .mverOpen _ l => l
  | .prgGo _ l _ => l
  | .stash _ l => ((s.readStash l).toOption.map fun x => x.1.fullVal).getD 0
  | .drop _ _ _ _ => 0
  | .lkput _ _ a => a
  | .rbput _ a _ => s.rbPending a
  | .collGo _ j => j.ra
  | .collWait _ a => a
  | .rsgo _ a => a
  | .jrnlStop _ => BitVec.ofNat 64 s.me.journal.pos

/-- A context becomes the executing one for the step that ends its wait. -/
def State.resumeAt (s : State) (r : CtxRef) (w : BitVec 32) : State := { s with cur := r, curWord := w }

/-- A wait has lasted its WAITLIM cycles. -/
def Wait.over (w : Wait) (now : Nat) : Bool := w.limit.any fun n => decide (w.since + n ≤ now)

/-- The record of a context's spawn waits at its target for room (11 R221). -/
def Context.spawnHeld (x : Context) : Bool := x.spawn.any fun p => p.stage == .heldFull

/-- The condition of a wait does not hold now: for a spawned record, that its target's deque has room (11 R221). -/
def State.waitFails (s : State) (r : CtxRef) (w : Wait) : Bool :=
  if w.op == .spawn then (s.ctx r).spawn.any fun p => p.stage == .heldFull && !(s.core (taskCore p.word0)).dequeRoom
  else match (s.resumeAt r w.word).attempt w.op with
    | .ok none => true
    | _ => false

/-- As time passes a wait's limit, it is settled whether its condition held by then, and with which EVAL it traps else (03 R67); a
spawned record waits only while its target holds it (11 R221), and no cycle counts while the context is halted (24 R401). -/
def State.markWait (s : State) (r : CtxRef) (now : Nat) : State :=
  let x := s.ctx r
  match x.wait with
  | some w =>
    if w.mark.isNone && (w.op != .spawn || x.spawnHeld) && !x.halted && w.over now then
      let fails := s.waitFails r w
      let val := if fails then (s.resumeAt r w.word).waitVal w.op else 0
      s.modCtx r fun y => { y with wait := some { w with mark := some !fails, val } }
    else s
  | none => s

/-- The EVAL with which a wait ends in its trap, where it does: its condition did not hold when WAITLIM had passed, or held then and
was lost to another before the context went on. -/
def State.waitEnds (s : State) (r : CtxRef) (w : Wait) : Option Word :=
  if w.mark = some false then some w.val
  else if w.over s.now && s.waitFails r w then some ((s.resumeAt r w.word).waitVal w.op)
  else none

/-- A waiting instruction's condition holds and it completes (03 R67). -/
def execWaitRelease (core : Nat) (ctx : CtxId) (s : State) : Outcome :=
  let x := s.ctx ⟨core, ctx⟩
  match x.wait with
  | none => .refused (.notEnabled "WAIT_RELEASE")
  | some w =>
    if x.halted || x.refused || w.mark == some false then .refused (.notEnabled "WAIT_RELEASE")
    else
      let s := (s.lanesBefore core ctx).resumeAt ⟨core, ctx⟩ w.word
      match s.attempt w.op with
      | .ok none => .refused (.notEnabled "WAIT_RELEASE")
      | .ok (some t) => .next t
      | .error e => .next (s.stop e)

/-- The trap at the end of a wait: STASHFULL of a `stash` (18 R342), WAITLIMIT of every other (03 R67). -/
def State.waitTrap (s : State) (val : Word) : WaitOp → State
  | .stash _ _ => s.userTrap 0x0A val s.ia
  | _ => s.stop (.user 0x06 val s.ia)

/-- A wait not satisfied within WAITLIM ends in its user-level trap; a spawned record that found its deque full is first
withdrawn (03 R67, 11 R221). -/
def execWaitlimit (core : Nat) (ctx : CtxId) (s : State) : Outcome :=
  let x := s.ctx ⟨core, ctx⟩
  match x.wait with
  | none => .refused (.notEnabled "WAITLIMIT")
  | some w =>
    let r : CtxRef := ⟨core, ctx⟩
    if x.halted || x.refused then .refused (.notEnabled "WAITLIMIT")
    else match s.waitEnds r w, x.spawn with
      | none, _ => .refused (.notEnabled "WAITLIMIT")
      | some v, p =>
        let s := s.resumeAt r w.word
        match w.op, p with
        | .spawn, some p =>
          if p.stage = .heldFull then .next (s.setSpawn r (some { p with stage := .withdrawing }))
          else .refused (.notEnabled "WAITLIMIT")
        | .spawn, none => .refused (.notEnabled "WAITLIMIT")
        | op, _ => .next (s.waitTrap v op)

/-- The value of a read stands in its destination and the context may issue again (03 R67); one that a fill answers waits for
the fill, and a release for the earlier writes that it covers. -/
def execLoadReturn (core : Nat) (ctx : CtxId) (s : State) : Outcome :=
  let x := s.ctx ⟨core, ctx⟩
  if x.stalled && !(s.dev.fills.any fun f => f.2.members.contains (core, ctx)) &&
      !(x.owing && (s.core core).writes.any (·.owed)) then
    .next (s.modCtx ⟨core, ctx⟩ fun x => { x with stalled := false, owing := false })
  else .refused (.notEnabled "LOAD_RETURN")

/-- A slice's fill returns and one reply answers every member of its group (14 R268). -/
def execSliceFillReturn (line : Nat) (s : State) : Outcome :=
  match SMap.find s.dev.fills line with
  | some _ => .next (s.endFill line)
  | none => .refused (.notEnabled "SLICE_FILL_RETURN")

/-- The retry hint of a refused request expires: the context may send it again; after a third refusal a fill buffer is
reserved for it (14 R268). -/
def execRefusalRetry (core : Nat) (ctx : CtxId) (s : State) : Outcome :=
  let x := s.ctx ⟨core, ctx⟩
  if x.refused && (decide (x.refusals < 3) || s.bufferFree x.refusedAt.1 x.refusedAt.2) then .next (s.modCtx ⟨core, ctx⟩ fun x => { x with refused := false })
  else .refused (.notEnabled "REFUSAL_RETRY")

/-- Posted store `i` of a core reaches the host, after those before it to a location of its own (15 R281). -/
def State.postedReaches (s : State) (core i : Nat) : Outcome :=
  match (s.dev.posted.filter fun v => v.core == core)[i]? with
  | some w => .next (s.pushSome (· == w))
  | none => .refused (.notEnabled "WRITE_PERFORMED")

/-- Write `i` on its way from a core is performed; an earlier one of its agent to a location of its own goes first (15 R275). A slice
refuses it three times at most (14 R268). The numbers after those of the writes name the core's posted stores. -/
def execWritePerformed (core i : Nat) (s : State) : Outcome :=
  let ws := (s.core core).writes
  match ws[i]? with
  | none => s.postedReaches core (i - ws.length)
  | some w =>
    if (ws.take i).any w.follows then .refused (.notEnabled "WRITE_PERFORMED")
    else
      let t := (s.modCore core fun k => { k with writes := ws.eraseIdx i }).arrive w
      match s.writeRefused w.space (w.cells.map Prod.fst) with
      | none => .next t
      | some (die, slice) =>
        if w.refusals < 3 then
          .next ((s.modCore core fun k => { k with writes := ws.set i { w with refusals := w.refusals + 1 } }).countRefusal
            ⟨core, w.ctx⟩ die slice)
        else if s.bufferFree die slice then .next t
        else .refused (.notEnabled "WRITE_PERFORMED")

/-- Write `i` on its way from a core is dropped at the fourth failure of its parity: POISON with its address (20 R355). -/
def State.dropWrite (s : State) (core i : Nat) : Outcome :=
  let ws := (s.core core).writes
  match ws[i]? with
  | some w => .next ((s.modCore core fun k => { k with writes := ws.eraseIdx i }).loseWrite w 0x05)
  | none => .refused (.notEnabled "dropWrite")

/-- A slice writes a dirty sector back, or evicts a clean one (14 R267). -/
def execSliceWriteback (sector : Nat) (s : State) : Outcome :=
  match SMap.find s.sectors sector with
  | none => .refused (.notEnabled "SLICE_WRITEBACK")
  | some x => .next (if x.dirty then s.writeBack sector else { s with sectors := SMap.del s.sectors sector })

/-- A place of the module that holds data: HBM, TCM, Pond or Lake. -/
def placeExists (p : Nat) : Bool :=
  inHbm p || (decide (tcmPlace 0 0 ≤ p) && decide (p < tcmPlace 8192 0)) ||
    (decide (pondPlace 0 0 ≤ p) && decide (p < pondPlace 128 0)) || (decide (lakePlace 0 0 ≤ p) && decide (p < lakePlace 4 0))

/-- A granule has a correctable soft error. -/
def State.softAt (s : State) (p : Nat) : State :=
  if s.soft.contains (granule p) then s else { s with soft := s.soft ++ [granule p] }

/-- A granule is poisoned. -/
def State.poisonAt (s : State) (p : Nat) : State :=
  if s.poison.contains (granule p) then s else { s with poison := s.poison ++ [granule p] }

/-- An uncorrectable soft error marks its word or sector poisoned (20 R354). -/
def execSoftError (place : Nat) (s : State) : Outcome :=
  if placeExists place then .next (s.poisonAt place) else .refused (.notEnabled "SOFT_ERROR")

/-- A correctable soft error waits in its word or sector for the read that corrects it (20 R354). -/
def State.softError (s : State) (place : Nat) : Outcome :=
  if placeExists place then .next (s.softAt place) else .refused (.notEnabled "softError")

end Sys2Proof.Machine
end

