-- ==== Sys2Proof/Machine/Team.lean ====
section
/-! DEFINITION. The end of a team: its test and its effects (10 R200), the stop of an END response (20 R351), and the
headers of the pre-emption queue's save areas (20 R357, R361). -/

namespace Sys2Proof.Machine

/-! ### What belongs to a team -/

/-- The cores of a team. -/
def Team.cores (t : Team) : List Nat := t.clus.flatMap fun c => (List.range 64).map (64 * c + ·)

/-- A core belongs to a team. -/
def Team.hasCore (t : Team) (g : Nat) : Bool := t.clus.contains (cluOfCore g)

/-- The dies that hold a cluster of a team. -/
def Team.dies (t : Team) : List Nat := (t.clus.map dieOfClu).dedup

/-- CLUS as its two words. -/
def clusWords (clus : List Nat) : List Word :=
  let half := fun (b : Nat) => BitVec.ofNat 64 ((clus.filter fun c => c / 64 == b).foldl (fun n c => n + 2 ^ (c % 64)) 0)
  [half 0, half 1]

/-- The status area of a launch-queue entry is written, its reserved words as 0 (10 R196, 00 R8). -/
def State.launchStatus (s : State) (entry state reason tid : Nat) (clus : List Nat) : State :=
  s.devWrite (entry + 0x40) (bytesOf (BitVec.ofNat 64 (tid * 2 ^ 32 + reason * 2 ^ 8 + state) :: clusWords clus ++ [0, 0, 0, 0, 0]))

/-! ### Save headers (20 R361) -/

/-- The header at SAVE. -/
def State.saveHeader (s : State) (save status tid prio : Nat) (clus : List Nat) (size : Nat) (drain : Word) : State :=
  s.devWrite save (bytesOf ([BitVec.ofNat 64 (prio * 2 ^ 32 + status * 2 ^ 24 + Config.saveFormat.toNat * 2 ^ 16 + tid % 2 ^ 16)] ++
    clusWords clus ++ [BitVec.ofNat 64 size, drain, 0, 0, 0]))

/-- A team that ended within DLIM of a pre-emption request: nothing is saved and the header reads STATUS 1 (20 R358). The
manual gives no DRAIN where no save starts. -/
def State.answerDrained (s : State) (tid : Nat) (t : Team) : State :=
  match s.dev.preempts.find? (·.tid == tid) with
  | none => s
  | some p =>
    let s := s.saveHeader p.save 1 tid t.prio t.clus 0 (Config.freeWord s.freeCtr)
    { s with freeCtr := s.freeCtr + 1, dev := { s.dev with preempts := s.dev.preempts.filter (·.tid != tid) } }

/-! ### The test (10 R200) -/

/-- A core meets the conditions of R200 on itself. -/
def State.coreQuiet (s : State) (g : Nat) : Bool :=
  let k := s.core g
  let n := k.net
  let idle := fun (x : Context) => !x.firing && x.spawn.isNone && x.gather.isNone
  k.ctxs.toList.all idle && k.firings.isEmpty && k.deque.isEmpty && (s.cmdQueue g).cmds.isEmpty &&
    k.copy.queue.isEmpty && k.copy.running.isNone && k.copy.ending.isEmpty &&
    n.sendReq.isEmpty && n.sendRep.isEmpty && n.inFlight.isEmpty && n.slotsReq.isEmpty && n.slotsRep.isEmpty &&
    n.openMsg.isNone && n.creditReturns == 0 && !(k.round.any fun r => r.answer.any (·.isSome)) &&
    !(s.dev.pushes.any fun p => p.core == g)

/-- A cluster has no open phase, no staged tile, no late add and no unretired meeting. -/
def State.clusterQuiet (s : State) (c : Nat) : Bool :=
  let k := s.cluster c
  k.quiet && k.staging.isEmpty && k.lateAdds.isEmpty && (List.range 16).all fun q => (s.quad (16 * c + q)).meetings.isEmpty

/-- A die runs nothing for a team: no job, no drop, no collective, no pass, and no fault record is outstanding. -/
def Die.quietFor (d : Die) (tid : Nat) (t : Team) : Bool :=
  d.prgQueue.all (fun j => !t.hasCore j.core) && d.retire.all (fun j => !t.hasCore j.core) &&
    !(d.repack.any fun r => t.hasCore r.job.core) && !(d.draw.any fun r => t.hasCore r.job.core) && d.regions.all (fun r => !(r.2.dropping && r.2.tid == tid)) &&
    d.collQueue.all (fun j => !t.hasCore j.core) && d.reshardQueue.all (fun j => !t.hasCore j.core) &&
    (d.records ++ d.answered.map (·.1)).all fun f => !t.hasCore f.core

/-- Nothing of a team is in flight beside its cores. -/
def State.restQuiet (s : State) (tid : Nat) (t : Team) : Bool :=
  t.clus.all s.clusterQuiet && s.dies.all (fun d => d.2.quietFor tid t) &&
    t.cores.all fun g => (s.core g).linkOps.isEmpty && (s.core g).fillsOut.isEmpty

/-- The phases of a cluster that wait in RECOVER for an `rfetch`. -/
def Cluster.stuck (c : Cluster) : List Nat :=
  (c.phases.filter fun p =>
    p.2.st == .recover && p.2.recov && p.2.pendingRecoveries == 0 && !p.2.faulted && p.2.closing.isNone).map (·.1)

/-- Such phases end as faulted ones do (12 R243), with STATUS 2 and no fault. -/
def State.endStuck (s : State) (c : Nat) : State :=
  (s.cluster c).stuck.foldl (fun s k =>
    ((s.dropLate c (k / 2) (k % 2)).modPhase c (k / 2) (k % 2) fun p => { p with faulted := true, st := .draining }).closeFaulted
      c (k / 2) (k % 2)) s

/-! ### The effects -/

/-- A workspace stops being active (01 R23). -/
def State.deactivate (s : State) (r : CtxRef) : State :=
  if (s.ctx r).active then (s.flushWs r).modCtx r fun x => { x with active := false } else s

/-- A core's steal round ends without an answer: the draw of a victim not asked yet is recorded too (10 R193, 20 R364). -/
def State.endRound (s : State) (g : Nat) : State :=
  (match (s.core g).round with
    | some ⟨some v, n, _⟩ => s.journal g 2 (stealAt v (decide (63 < n)) (s.core g).lfsr false)
    | _ => s).modCore g fun k => { k with round := none }

/-- A core is free of its team: TEAM reads 0, no workspace is active and no steal goes on. -/
def State.freeCore (s : State) (g : Nat) : State :=
  let s := ([0, 1, 2, 3] : List CtxId).foldl (fun s c => s.deactivate ⟨g, c⟩) ((s.endRound g).settleWrites g)
  s.modCore g fun k => { k with team := 0, backoff := none, owes := [], sees := [] }

/-- The clusters and Lake ranges of a team are free, and its Snuffer regions (17 R317). -/
def State.freeTeam (s : State) (tid : Nat) (t : Team) : State :=
  let s := t.cores.foldl (fun s g => s.freeCore g) s
  let s := t.dies.foldl (fun s d => s.modDie d fun x => { x with idleSince := s.now }) s
  { s with teams := SMap.del s.teams tid }

/-- Its regions are freed without a drop. -/
def State.freeRegions (s : State) (tid : Nat) : State :=
  { s with dies := s.dies.map fun d => (d.1, { d.2 with regions := d.2.regions.filter fun r => r.2.tid != tid }) }

/-- A team ends: STATE 4 with a reason, a pending pre-emption is answered, and what it held is free. -/
def State.endTeam (s : State) (tid : Nat) (t : Team) (reason : Nat) : State :=
  (((s.launchStatus t.entry 4 reason tid t.clus).answerDrained tid t).freeRegions tid).freeTeam tid t

/-- A pre-emption of a team whose DLIM has passed: only its forced save ends it (20 R358). -/
def State.saveDue (s : State) (tid : Nat) : Bool := s.dev.preempts.any fun p => p.tid == tid && decide (p.since + p.dlim < s.now)

/-- A team with nothing running or in flight ends (10 R200). -/
def execTeamEnd (tid : Nat) (s : State) : Outcome :=
  match SMap.find s.teams tid with
  | none => .refused (.notEnabled "TEAM_END")
  | some t =>
    if !t.cores.all s.coreQuiet || s.saveDue tid then .refused (.notEnabled "TEAM_END")
    else if t.clus.any fun c => !(s.cluster c).stuck.isEmpty then .next (t.clus.foldl State.endStuck s)
    else if s.restQuiet tid t then .next (s.endTeam tid t 0)
    else .refused (.notEnabled "TEAM_END")

/-! ### The stop of an END response (20 R351) -/

/-- A context that stops: it holds no firing and nothing of its instruction is left. -/
def Context.stop (x : Context) : Context :=
  { x with
    firing := false, firingReg := x.firingReg &&& ~~~7, suspended := false, halted := false, stepping := false, wait := none
    stalled := false, owing := false, refused := false, refusals := 0, linkFails := false, stagger := none, fp := false, resume := false, frame := none
    crossings := [], charged := [], actorSlot := none, gather := none, spawn := none }

/-- A core that stops. -/
def Core.stop (k : Core) : Core :=
  { k with
    ctxs := Vector.ofFn fun c => (k.ctx c).stop
    msghdr := 0, msgsrc := 0
    copy := { k.copy with queue := [], running := none, ending := [] }
    net := { handlers := k.net.handlers, htGen := k.net.htGen, htSets := k.net.htSets }
    deque := [], round := none, backoff := none, firings := [], linkOps := [], unfilled := [], fillsOut := [], owes := [], sees := [], vecUntil := 0
    actors := k.actors.map fun a => { a with armed := false, firing := false, off := false } }

/-- A quad that stops. -/
def Quad.stop (q : Quad) : Quad := { q with queues := Vector.replicate 4 {}, meetings := [] }

/-- A ring set that stops. -/
def Cluster.stop (c : Cluster) : Cluster :=
  let idle := fun (p : Nat × Phase) =>
    (p.1, { p.2 with st := .idle, faulted := false, closing := none, east := [], west := [], missed := [], fetchQ := [], pendingRecoveries := 0 })
  { c with staging := [], lateAdds := [], phases := c.phases.map idle }

/-- A die without the jobs and records of a team. -/
def Die.without (d : Die) (t : Team) : Die :=
  { d with
    prgQueue := d.prgQueue.filter fun j => !t.hasCore j.core
    retire := d.retire.filter fun j => !t.hasCore j.core
    repack := if d.repack.any fun r => t.hasCore r.job.core then none else d.repack
    draw := if d.draw.any fun r => t.hasCore r.job.core then none else d.draw
    collQueue := d.collQueue.filter fun j => !t.hasCore j.core
    reshardQueue := d.reshardQueue.filter fun j => !t.hasCore j.core
    faults := d.faults.filter fun f => !t.hasCore f.core
    outstanding := d.outstanding.filter fun f => !t.hasCore f.core
    answered := d.answered.filter fun f => !t.hasCore f.1.core
    walks := (d.walks.map fun w =>
      { w with
        joined := w.joined.filter fun f => !t.hasCore f.core
        posted := if w.joined.head?.any fun f => t.hasCore f.core then none else w.posted }).filter fun w => !w.joined.isEmpty }

/-- Every context, queue, phase and engine job of a team stops. -/
def State.stopTeam (s : State) (t : Team) : State :=
  let s := t.cores.foldl (fun s g => ((s.endRound g).settleWrites g).modCore g Core.stop) s
  let s := t.clus.foldl (fun s c => (List.range 16).foldl (fun s q => s.modQuad (16 * c + q) Quad.stop) (s.modCluster c Cluster.stop)) s
  { s with
    dies := s.dies.map fun d => (d.1, d.2.without t)
    dev := { s.dev with
      pushes := s.dev.pushes.filter fun p => !t.hasCore p.core
      fills := s.dev.fills.map fun f => (f.1, { f.2 with members := f.2.members.filter fun m => !t.hasCore m.1 }) } }

/-- END: the team stops and ends with REASON = the cause. -/
def State.killTeam (s : State) (tid : Nat) (cause : BitVec 8) : State :=
  match SMap.find s.teams tid with
  | none => s
  | some t => (s.stopTeam t).endTeam tid t cause.toNat

end Sys2Proof.Machine
end

