-- ==== Sys2Proof/Machine/Image.lean ====
section
/-! DEFINITION. Linked images as the distributor reads them through a launch's address space, and their checks (05 R85-R99,
18 R323, 21 R389). -/

namespace Sys2Proof.Machine

/-! ### Bytes of an address space (05 R88) -/

/-- Where a translated address leads without a permission check; none where translation fails. -/
def State.vaLoc (s : State) (asid va : Nat) : Option Loc :=
  if va < 2 ^ 48 ∧ s.asv asid then (s.walk asid va).bind fun e => (e.loc .any va).toOption else none

/-- The distributor as an agent of an address space. -/
def vaWho (asid : Nat) : Who := { core := 0, own := false, asid, team := none, level := 4 }

/-- A byte of an address space. DESIGN CHOICE: one of a page that no longer translates reads 0, and a poisoned one of the image file
reads as a plain byte (log entry 54). -/
def State.vaByte (s : State) (asid va : Nat) : Byte :=
  match s.vaLoc asid va with
  | some l => s.byteAt (vaWho asid) l.place l.space
  | none => 0

/-- A byte of an address space is written. DESIGN CHOICE: one of a page that no longer translates is dropped, and a part of a poisoned
granule is written without a fault, its mark kept (log entry 54). -/
def State.vaPoke (s : State) (asid va : Nat) (b : Byte) : State :=
  match s.vaLoc asid va with
  | some l => s.perform (vaWho asid) { cells := [(l.place, b, 0xFF)], space := l.space }
  | none => s

/-- Bytes of an address space are written, and a granule replaced whole loses its poison mark (20 R354). -/
def State.vaWrite (s : State) (asid va : Nat) (bs : List Byte) : State :=
  let s := bs.zipIdx.foldl (fun s x => s.vaPoke asid (va + x.2) x.1) s
  s.cleanse { cells := bs.zipIdx.filterMap fun x => (s.vaLoc asid (va + x.2)).map fun l => (l.place, x.1, 0xFF), space := .host }

/-- Every page of a span translates. -/
def State.mapped (s : State) (asid va n : Nat) : Bool :=
  decide (va + n ≤ 2 ^ 48) &&
    (n == 0 || (List.range ((va + n - 1) / 4096 + 1 - va / 4096)).all fun i => (s.vaLoc asid ((va / 4096 + i) * 4096)).isSome)

/-! ### The file (05 R85, R86) -/

/-- An image file: its address space and its address. -/
structure Img where
  asid : Nat
  base : Nat
  deriving DecidableEq, Repr

/-- Bytes of the file. -/
def State.img (s : State) (m : Img) (off n : Nat) : List Byte := (List.range n).map fun i => s.vaByte m.asid (m.base + off + i)

/-- A natural number of the file. -/
def State.imgNat (s : State) (m : Img) (off n : Nat) : Nat := ofBytes (s.img m off n)

/-- A part of the file: its offset and size. -/
structure FilePart where
  off : Nat
  size : Nat
  deriving DecidableEq, Repr

/-- A table of the header with entries of a size. -/
def State.imgPart (s : State) (m : Img) (h es : Nat) : FilePart := ⟨s.imgNat m h 4, s.imgNat m (h + 4) 4 * es⟩

/-- TEAM. -/
def State.imgTeam (s : State) (m : Img) : Nat := s.imgNat m 0x0C 1

/-- INIT. -/
def State.imgInit (s : State) (m : Img) : Nat := s.imgNat m 0x0D 1

/-- TCODE. -/
def State.imgCode (s : State) (m : Img) : Nat := s.imgNat m 0x40 4

/-- TDATA. -/
def State.imgData (s : State) (m : Img) : Nat := s.imgNat m 0x44 4

/-- TSPILL. -/
def State.imgSpill (s : State) (m : Img) : Nat := s.imgNat m 0x48 4

/-- HBASE. -/
def State.imgHbase (s : State) (m : Img) : Nat := s.imgNat m 0x50 8

/-- LORG. -/
def State.imgLorg (s : State) (m : Img) : Nat := s.imgNat m 0x58 4

/-- FSIZE. -/
def State.imgSize (s : State) (m : Img) : Nat := s.imgNat m 0x60 8

/-- A section. -/
structure Sect where
  kind : Nat
  clean : Bool
  addr : Nat
  size : Nat
  foff : Nat
  deriving DecidableEq, Repr

/-- The sections of the file. -/
def State.imgSects (s : State) (m : Img) : List Sect :=
  let p := s.imgPart m 0x10 32
  (List.range (p.size / 32)).map fun i =>
    let o := p.off + 32 * i
    let x := s.imgNat m (o + 4) 4
    ⟨bits x 7 0, bits x 31 17 == 0 && decide (bits x 15 8 ≤ 30), s.imgNat m (o + 8) 8, s.imgNat m (o + 16) 8, s.imgNat m (o + 24) 8⟩

/-- The origin and the limit of a kind of section (05 R87). -/
def State.imgRegion (s : State) (m : Img) (kind : Nat) : Nat × Nat :=
  let a := s.imgCode m
  match kind with
  | 0 => (0x8000000000000000, a)
  | 1 => (0x8000000000000000 + a, s.imgData m)
  | 2 => (0x8000000010000000, 0x400000)
  | 3 => (0x8000000020000000 + s.imgLorg m, 0x4000000 - s.imgLorg m)
  | _ => (s.imgHbase m, 2 ^ 48 - s.imgHbase m)

/-- A section lies in its region. -/
def State.sectFits (s : State) (m : Img) (x : Sect) : Bool :=
  let r := s.imgRegion m x.kind
  decide (r.1 ≤ x.addr) && decide (x.addr + x.size ≤ r.1 + r.2)

/-- A table of the device directory (05 R97). -/
structure DevTable where
  kind : Nat
  clean : Bool
  count : Nat
  off : Nat
  deriving DecidableEq, Repr

/-- The device directory. -/
def State.imgDir (s : State) (m : Img) : List DevTable :=
  let p := s.imgPart m 0x30 16
  (List.range (p.size / 16)).map fun i =>
    let o := p.off + 16 * i
    ⟨s.imgNat m o 1, s.imgNat m (o + 1) 3 == 0, s.imgNat m (o + 4) 4, s.imgNat m (o + 8) 8⟩

/-- The size of an entry of a table. -/
def devEntry : Nat → Nat
  | 2 => 8
  | 5 => 40
  | 6 => 1024
  | _ => 16

/-- The entries of a table of a kind, as bytes; none where the image has no such table. DESIGN CHOICE: a linked image without a handler
table is placed with every entry empty (log entry 55). -/
def State.imgTable (s : State) (m : Img) (kind : Nat) : List (List Byte) :=
  match (s.imgDir m).find? (·.kind == kind) with
  | some d => (List.range d.count).map fun i => s.img m (d.off + devEntry kind * i) (devEntry kind)
  | none => []

/-- A table's count is in range. -/
def DevTable.countOk (d : DevTable) : Bool :=
  match d.kind with
  | 1 => d.count == 64
  | 2 => decide (d.count ≤ 8)
  | 6 => d.count == 1
  | _ => true

/-! ### The checks of R90 -/

/-- Two parts of the file share no byte. -/
def FilePart.apart (x y : FilePart) : Bool :=
  x.size == 0 || y.size == 0 || decide (x.off + x.size ≤ y.off) || decide (y.off + y.size ≤ x.off)

/-- Parts that do not overlap. -/
def partsApart : List FilePart → Bool
  | [] => true
  | x :: t => t.all x.apart && partsApart t

/-- The parts that the header places (05 R85), and the header itself. -/
def State.imgParts (s : State) (m : Img) : List FilePart :=
  [⟨0, 128⟩, s.imgPart m 0x10 32, s.imgPart m 0x18 24, s.imgPart m 0x20 24, s.imgPart m 0x28 1, s.imgPart m 0x30 16, s.imgPart m 0x38 1]

/-- The contents of the sections and the device tables. -/
def State.imgSectParts (s : State) (m : Img) : List FilePart := (s.imgSects m).map fun x => FilePart.mk x.foff x.size

/-- The device tables. -/
def State.imgDirParts (s : State) (m : Img) : List FilePart := (s.imgDir m).map fun d => FilePart.mk d.off (d.count * devEntry d.kind)

/-- The parts lie in the first 4 GiB, apart from one another and from the contents of every section (05 R85), and every part,
section and table ends within FSIZE. -/
def State.imgLaidOut (s : State) (m : Img) : Bool :=
  let ps := s.imgParts m
  partsApart ps && (ps.all fun p => decide (p.off + p.size ≤ 2 ^ 32) && (s.imgSectParts m).all p.apart) &&
    (ps ++ s.imgSectParts m ++ s.imgDirParts m).all fun p => decide (p.off + p.size ≤ s.imgSize m)

/-- Reserved fields are 0, codes and counts are in range, and no two parts overlap (reason 0x03). DESIGN CHOICE: a breach that
R90 does not list (a part at no multiple of 8 or past FSIZE or 4 GiB, LORG or HBASE not such a multiple, TCM sizes that do not
fit) gets this reason too, while FWID, FLSB, SECT, RSECT and SYMI, which a linked image does not use, are not checked (log entry
55). -/
def State.imgSound (s : State) (m : Img) : Bool :=
  let n := fun (off k : Nat) => s.imgNat m off k
  let lorg := s.imgLorg m
  let hb := s.imgHbase m
  let heads : List Nat := [0x10, 0x18, 0x20, 0x28, 0x30, 0x38]
  let syms := s.imgPart m 0x18 24
  let rels := s.imgPart m 0x20 24
  let kinds := (s.imgDir m).map (·.kind)
  n 8 4 < 2 && n 0x0E 2 == 0 && n 0x4C 4 == 0 && n 0x5C 4 == 0 && n 0x68 24 == 0 &&
    decide (1 ≤ s.imgTeam m) && decide (s.imgTeam m ≤ 128) && decide (s.imgInit m < 64) &&
    (heads.all fun h => n h 4 % 8 == 0) &&
    s.imgCode m % 64 == 0 && s.imgData m % 64 == 0 && s.imgSpill m % 64 == 0 &&
    decide (s.imgCode m + s.imgData m + s.imgSpill m + 6144 ≤ 0x80000) &&
    lorg % 192 == 0 && decide (lorg ≤ 0x4000000) && hb % 49152 == 0 && decide (hb < 2 ^ 48) &&
    ((s.imgSects m).all fun x => decide (x.kind ≤ 4) && x.clean && (x.size != 0 || x.foff == 0)) &&
    ((List.range (syms.size / 24)).all fun i =>
      let o := syms.off + 24 * i
      decide (n (o + 4) 1 ≤ 4) && decide (n (o + 5) 1 ≤ 2)) &&
    ((List.range (rels.size / 24)).all fun i =>
      let t := n (rels.off + 24 * i + 12) 1
      decide (1 ≤ t) && decide (t ≤ 10) && n (rels.off + 24 * i + 15) 1 == 0) &&
    ((s.imgDir m).all fun d => decide (1 ≤ d.kind) && decide (d.kind ≤ 6) && d.clean && d.countOk) && kinds.eraseDups.length == kinds.length &&
    s.imgLaidOut m

/-- The record that an entry of a layout or layer table names, where it lies in its section: its address and its bytes. -/
def State.imgRecord (s : State) (m : Img) (e : List Byte) (size : Nat) : Option (Word × List Byte) :=
  let w := (wordsOf e).map BitVec.toNat
  let off := w.getD 1 0
  match (s.imgSects m)[bits (w.headD 0) 47 32]? with
  | some x =>
    if bits (w.headD 0) 63 48 = 0 ∧ 1 ≤ x.kind ∧ off % size = 0 ∧ off + size ≤ x.size then
      some (BitVec.ofNat 64 (x.addr + off), s.img m (x.foff + off) size)
    else none
  | none => none

/-- A handler entry is well formed (05 R93, 11 R213). -/
def State.handlerOk (s : State) (m : Img) (e : List Byte) : Bool :=
  let a := ofBytes (e.take 8)
  ofBytes (e.drop 8) < 4 &&
    (a == 0 || (a % 4 == 0 && decide (0x8000000000000000 ≤ a) && decide (a < 0x8000000000000000 + s.imgCode m)))

/-- The layer of an entry of the layer table on chosen clusters; none where the record is malformed (18 R323). -/
def State.imgLayer (s : State) (m : Img) (clus : List Nat) (e : List Byte) : Option Lay :=
  (s.imgRecord m e 256).bind fun x =>
    let r := wordsOf x.2
    clus[lr r 0 6 0]?.bind fun c =>
      let y : Lay := ⟨x.1, r, 0, c, 16⟩
      if y.ok (some { clus := List.range 128, asid := m.asid, prio := 0, lakeOrg := 0, lakeSize := 0, entry := 0 }) then some y else none

/-- Every device record is well formed (reason 0x05). DESIGN CHOICE: a reserved bit inside a device-table entry, which fits reason
0x03 as well, gets this reason (log entry 55). -/
def State.imgRecordsOk (s : State) (m : Img) (clus : List Nat) : Bool :=
  (s.imgTable m 1).all (s.handlerOk m) &&
    (s.imgTable m 2).all (fun e => actorDeclOk (BitVec.ofNat 64 (ofBytes e))) &&
    (s.imgTable m 3).all (fun e => (s.imgRecord m e 128).any fun x => loOk (wordsOf x.2)) &&
    (s.imgTable m 4).all (fun e => (s.imgLayer m clus e).isSome) &&
    (s.imgTable m 5).all fun e =>
      let l := ofBytes (e.take 8)
      decide (bits l 6 0 < s.imgTeam m) && bits l 7 7 == 0 && bits l 15 13 == 0 && bits l 63 25 == 0 &&
        entImageOk (BitVec.ofNat 256 (ofBytes (e.drop 8)))

/-- The HBM image: the sections of kind `hbm` (05 R87). -/
def State.imgHbm (s : State) (m : Img) : List Sect := (s.imgSects m).filter (·.kind == 4)

/-- The address of the JCB template (05 R97): the value of the global symbol `__jcb`, or else the next multiple of 1,024 after the
HBM sections. -/
def State.imgJcb (s : State) (m : Img) : Nat :=
  let syms := s.imgPart m 0x18 24
  let named := fun (i : Nat) => s.imgNat m (syms.off + 24 * i + 5) 1 == 1 && s.imgNat m (s.imgNat m 0x28 4 + s.imgNat m (syms.off + 24 * i) 4) 6 == 0x62636A5F5F
  match (List.range (syms.size / 24)).find? named with
  | some i => s.imgNat m (syms.off + 24 * i + 8) 8
  | none =>
  let e := (s.imgHbm m).foldl (fun n x => max n (x.addr + x.size)) (s.imgHbase m)
  (e + 1023) / 1024 * 1024

/-- Every page of the file and of the sections of the HBM image translates (reason 0x09). DESIGN CHOICE: one that holds only a gap
between them need not (log entry 54). -/
def State.imgMapped (s : State) (m : Img) : Bool :=
  s.mapped m.asid m.base (s.imgSize m) && ((s.imgHbm m).all fun x => s.mapped m.asid x.addr x.size) &&
    ((s.imgTable m 6).isEmpty || s.mapped m.asid (s.imgJcb m) 1024)

/-- The reason for which a launch is refused (05 R90, 10 R196), the first that holds. -/
def State.launchFlaw (s : State) (w : List Word) (clus : List Nat) : Option Nat :=
  let m : Img := ⟨bits (w.getD 1 0).toNat 7 4, (w.getD 0 0).toNat⟩
  let n := fun (off k : Nat) => s.imgNat m off k
  if bits (w.getD 1 0).toNat 63 8 ≠ 0 ∨ bits (w.getD 1 0).toNat 3 3 ≠ 0 then some 6
  else if !s.asv m.asid then some 8
  else if !s.mapped m.asid m.base 128 then some 9
  else if n 0 4 ≠ 0x1A4F5041 ∨ n 4 2 ≠ 1 ∨ n 6 2 ≠ 128 then some 1
  else if n 8 1 % 2 = 0 ∨ s.imgInit m = 0xFF then some 2
  else if !s.mapped m.asid m.base (s.imgSize m) then some 9
  else if !s.imgSound m then some 3
  else if !(s.imgSects m).all (s.sectFits m) then some 4
  else if 128 - s.dev.failedClusters.length < s.imgTeam m then some 7
  else if !s.imgRecordsOk m clus then some 5
  else if !s.imgMapped m then some 9
  else none

end Sys2Proof.Machine
end

