-- ==== Sys2Proof/Machine/Launch.lean ====
section
/-! DEFINITION. The distributor: launch queues, gang placement and its withdrawal (10 R196-R199, 21 R374, R376), and the
forecast (10 R202). -/

namespace Sys2Proof.Machine

/-! ### Launch queues (21 R374, R376) -/

/-- The registers of an address space's launch queue. -/
def lqReg (asid : Nat) : Nat := 0x010000 + 0x20 * asid

/-- The size of a queue whose registers stand at an offset: log2 of its entries where it is enabled. -/
def State.queueSize (s : State) (r : Nat) : Option Nat :=
  let n := s.barBits (r + 8) 3 0
  if 4 ≤ n ∧ n ≤ 12 then some n else none

/-- The entries between a queue's head and a tail. -/
def State.queueAhead (s : State) (r tail : Nat) : Nat := (tail + 2 ^ 32 - s.barBits (r + 0x18) 31 0) % 2 ^ 32

/-- The indices between a queue's head and the doorbell that the distributor goes by. -/
def State.queueIndices (s : State) (r : Nat) : List Nat :=
  match s.queueSize r with
  | none => []
  | some n =>
    let d := s.queueAhead r ((SMap.find s.dev.tails r).getD 0)
    if d ≤ 2 ^ n then (List.range d).map fun i => (s.barBits (r + 0x18) 31 0 + i) % 2 ^ 32 else []

/-- A queue's doorbell is written; one more than a whole queue ahead is ignored until another is written (21 R376). -/
def State.ringDoorbell (s : State) (r tail : Nat) : State :=
  let s := s.setBar (r + 0x10) (BitVec.ofNat 64 tail)
  if (s.queueSize r).any fun n => decide (2 ^ n < s.queueAhead r tail) then s
  else s.modDev fun v => { v with tails := SMap.put v.tails r tail }

/-- The address of an entry of a launch queue. -/
def State.lqEntry (s : State) (asid ix : Nat) : Nat :=
  (s.bar (lqReg asid)).toNat + 128 * (ix % 2 ^ ((s.queueSize (lqReg asid)).getD 0))

/-- The launches that are not served yet: address space and index; those withdrawn first (10 R199). -/
def State.launches (s : State) : List (Nat × Nat) :=
  let all := (List.range 16).flatMap fun a =>
    ((s.queueIndices (lqReg a)).map fun i => (a, i)).filter fun x => !s.dev.lqServed.contains x
  s.dev.withdrawn.filter all.contains ++ all.filter fun x => !s.dev.withdrawn.contains x

/-- PRIO of a launch. -/
def State.launchPrio (s : State) (x : Nat × Nat) : Nat := s.devWord (s.lqEntry x.1 x.2 + 8) % 8

/-- The head launch of the highest priority. -/
def State.headLaunch (s : State) : Option (Nat × Nat) :=
  s.launches.foldl (fun b x =>
    match b with
    | none => some x
    | some y => if s.launchPrio y < s.launchPrio x then some x else some y) none

/-- LQHEAD advances past the entries that are served. -/
def State.passServed (s : State) (asid : Nat) : Nat → State
  | 0 => s
  | n + 1 =>
    let h := s.barBits (lqReg asid + 0x18) 31 0
    if s.dev.lqServed.contains (asid, h) then
      State.passServed ((s.setBar (lqReg asid + 0x18) (BitVec.ofNat 64 ((h + 1) % 2 ^ 32))).modDev fun v =>
        { v with lqServed := v.lqServed.erase (asid, h) }) asid n
    else s

/-- A launch has been served. -/
def State.served (s : State) (x : Nat × Nat) : State :=
  let s := s.modDev fun v => { v with lqServed := v.lqServed ++ [x], withdrawn := v.withdrawn.erase x }
  s.passServed x.1 (s.dev.lqServed.length)

/-- The distributor places launches: the module is up, no pre-emption is pending and no checkpoint runs. -/
def State.mayPlace (s : State) : Bool :=
  s.dev.power == .on && s.dev.boot == .ready && s.dev.preempts.isEmpty && s.dev.ckptRunning.isNone

/-- The distributor serves the head launch: it is refused, or its clusters are chosen and the launch is in state 1
(10 R196). -/
def execLaunchServe (chosen : List Nat) (s : State) : Outcome :=
  match s.headLaunch, s.dev.placing with
  | some x, none =>
    let a := s.lqEntry x.1 x.2
    let w := wordsOf (s.devRead a 64)
    let clus := (List.range 128).filter chosen.contains
    if !s.mayPlace || s.dev.restores.any (fun r => decide (s.launchPrio x < r.prio)) then .refused (.notEnabled "LAUNCH_SERVE")
    else match s.launchFlaw w clus with
      | some r =>
        if r = 5 ∧ clus.length ≠ s.imgTeam ⟨bits (w.getD 1 0).toNat 7 4, (w.getD 0 0).toNat⟩ then .refused (.notEnabled "LAUNCH_SERVE")
        else .next ((s.launchStatus a 3 r 0 []).served x)
      | none =>
        let m : Img := ⟨bits (w.getD 1 0).toNat 7 4, (w.getD 0 0).toNat⟩
        if clus.length = s.imgTeam m ∧ clus.all fun c => !s.dev.failedClusters.contains c then
          .next ((s.launchStatus a 1 0 0 []).modDev fun v => { v with placing := some ⟨x.1, s.launchPrio x, x.2, clus, s.now, none⟩ })
        else .refused (.notEnabled "LAUNCH_SERVE")
  | _, _ => .refused (.notEnabled "LAUNCH_SERVE")

/-! ### Placement (10 R196-R198, 05 R88) -/

/-- The image of a launch that is being placed. -/
def State.placingImg (s : State) (p : Placing) : Img :=
  let a := s.lqEntry p.queue p.entry
  ⟨bits (s.devWord (a + 8)) 7 4, s.devWord a⟩

/-- The size of the Lake range of an image. -/
def State.imgLake (s : State) (m : Img) : Nat :=
  let o := 0x8000000020000000 + s.imgLorg m
  ((s.imgSects m).filter (·.kind == 3)).foldl (fun n x => max n (x.addr + x.size - o)) 0

/-- A cluster is held by no team. -/
def State.clusterFree (s : State) (c : Nat) : Bool := s.teams.all fun t => !t.2.clus.contains c

/-- A Lake range is held by no team on the dies of some clusters. -/
def State.lakeFree (s : State) (clus : List Nat) (org size : Nat) : Bool :=
  s.teams.all fun t =>
    !(t.2.dies.any fun d => clus.any fun c => dieOfClu c == d) || size == 0 || t.2.lakeSize == 0 ||
      decide (org + size ≤ t.2.lakeOrg) || decide (t.2.lakeOrg + t.2.lakeSize ≤ org)

/-- Every cluster and Lake range of a launch is reserved. -/
def State.allReserved (s : State) (p : Placing) : Bool :=
  let m := s.placingImg p
  p.chosen.all s.clusterFree && s.lakeFree p.chosen (s.imgLorg m) (s.imgLake m)

/-- The bytes of places are 0 and not poisoned. -/
def State.clearPlaces (s : State) (lo n : Nat) : State :=
  let out := fun (p : Nat) => decide (p < lo) || decide (lo + n ≤ p)
  { s with mem := s.mem.filter fun c => out c.1, poison := s.poison.filter out, soft := s.soft.filter out }

/-- The sections of some kinds are loaded at places that their addresses give. -/
def State.loadSects (s : State) (m : Img) (kinds : List Nat) (place : Nat → Nat) : State :=
  ((s.imgSects m).filter fun x => kinds.contains x.kind && x.size != 0).foldl (fun s x => s.setRaw (place x.addr) (s.img m x.foff x.size)) s

/-- A core as placement leaves it: its registers, handler table, actor table and steal LFSR (10 R196-R198, R190, R193). -/
def State.placedCore (s : State) (m : Img) (clus : List Nat) (tid g : Nat) : Core :=
  let r := clus.findIdx (· == cluOfCore g)
  let decl := fun (i : Nat) => BitVec.ofNat 64 (ofBytes ((s.imgTable m 2).getD i []))
  let hs := (s.imgTable m 1).zipIdx.map fun x => (x.2, Handler.mk (BitVec.ofNat 64 (ofBytes (x.1.take 8))) (BitVec.ofNat 32 (ofBytes ((x.1.drop 8).take 4))))
  { team := BitVec.ofNat 64 ((clus.length - 1) * 2 ^ 24 + r * 2 ^ 16 + tid)
    jcb := if (s.imgTable m 6).isEmpty then 0 else BitVec.ofNat 64 (s.imgJcb m)
    net := { handlers := hs.filter fun h => h.2.entry != 0 || h.2.cls != 0 }
    tspill := s.imgSpill m, spillAt := s.imgCode m + s.imgData m
    lfsr := 0x9E370000 ^^^ BitVec.ofNat 32 g
    actors := Vector.ofFn fun i => { decl := decl i.val } }

/-- A core, with its TCM, is set up. -/
def State.placeCore (s : State) (m : Img) (clus : List Nat) (tid g : Nat) : State :=
  let k := s.placedCore m clus tid g
  (((s.clearPlaces (tcmPlace g 0) 0x80000).loadSects m [0, 1] fun a => tcmPlace g (a - 0x8000000000000000))).setCore g k

/-- Places that a load replaced whole are not poisoned. -/
def State.loadedClean (s : State) (lo n : Nat) : State :=
  let whole := fun (p : Nat) => decide (lo ≤ p) && decide (p + granuleSize p ≤ lo + n)
  { s with poison := s.poison.filter (!whole ·), soft := s.soft.filter (!whole ·) }

/-- The granules that the sections of some kinds replaced whole are not poisoned (20 R354). -/
def State.loadedSects (s : State) (m : Img) (kinds : List Nat) (place : Nat → Nat) : State :=
  ((s.imgSects m).filter fun x => kinds.contains x.kind).foldl (fun s x => s.loadedClean (place x.addr) x.size) s

/-- A cluster's Pond, quads and ring set are set up; its registry holds the image's layers of the cluster (18 R419). -/
def State.placeCluster (s : State) (m : Img) (clus : List Nat) (c : Nat) : State :=
  let s := (s.loadSects m [2] fun a => pondPlace c (a - 0x8000000010000000)).loadedSects m [2] fun a =>
    pondPlace c (a - 0x8000000010000000)
  let s := (List.range 16).foldl (fun s q => s.modQuad (16 * c + q) fun _ => {}) s
  let ls := ((s.imgTable m 4).filterMap (s.imgLayer m clus)).filter (·.clu == c)
  s.modCluster c fun k => ls.foldl (fun k y => k.register (lrLayer y.a y.r)) { tlb := k.tlb }

/-- The HBM image and the JCB template are written once through the address space (05 R88, R97). DESIGN CHOICE: bytes between two
sections stay as they were (log entry 54). -/
def State.placeHbm (s : State) (m : Img) : State :=
  let s := (s.imgHbm m).foldl (fun s x => s.vaWrite m.asid x.addr (s.img m x.foff x.size)) s
  (s.imgTable m 6).foldl (fun s b => s.vaWrite m.asid (s.imgJcb m) b) s

/-- A team id that no resident team has. -/
def State.freshTid (s : State) : Nat :=
  let n := s.dev.nextTid
  ((List.range 65535).map fun i => (n - 1 + i) % 65535 + 1).find? (fun t => (SMap.find s.teams t).isNone) |>.getD n

/-- The build digest of a notes section: its first note of type 3 (05 R99). -/
def noteDigest : Nat → List Byte → Option (List Byte)
  | 0, _ => none
  | n + 1, bs =>
    if bs.length < 8 then none
    else
      let k := ofBytes ((bs.drop 4).take 4)
      if ofBytes (bs.take 4) = 3 then some ((bs.drop 8).take k) else noteDigest n (bs.drop (8 + (k + 7) / 8 * 8))

/-- What M3 is extended with for a placed image (24 R404). -/
def State.imgDigest (s : State) (m : Img) : List Byte :=
  let p := s.imgPart m 0x38 1
  (noteDigest p.size (s.img m p.off p.size)).getD (Config.shake256 32 (s.img m 0 (s.imgSize m)))

/-- A measurement register is extended (24 R404). -/
def extendM (m d : List Byte) : List Byte := Config.shake256 64 (m ++ d)

/-- The gang is placed: loaded, set up, and one initial firing is posted on every core (10 R196). DESIGN CHOICE: bytes of the Lake
range that no section covers stay as they were (log entry 54). -/
def State.placeGang (s : State) (p : Placing) : State :=
  let m := s.placingImg p
  let a := s.lqEntry p.queue p.entry
  let tid := s.freshTid
  let args := (List.range 6).map fun i => BitVec.ofNat 64 (s.devWord (a + 0x10 + 8 * i))
  let lorg := s.imgLorg m
  let t : Team := { clus := p.chosen, asid := m.asid, prio := p.prio, lakeOrg := lorg, lakeSize := s.imgLake m, entry := a }
  let init := s.imgInit m
  let digest := s.imgDigest m
  let s := t.cores.foldl (fun s g => s.placeCore m t.clus tid g) s
  let s := t.clus.foldl (fun s c => s.placeCluster m t.clus c) s
  let s := t.dies.foldl (fun s d =>
    (s.loadSects m [3] fun x => lakePlace d (x - 0x8000000020000000)).loadedSects m [3] fun x => lakePlace d (x - 0x8000000020000000)) s
  let s := s.placeHbm m
  let s := { s with teams := SMap.put s.teams tid t }
  let s := t.cores.foldl (fun s g => s.post g { kind := 2, hidx := init, fa := args, since := s.now }) s
  ((s.launchStatus a 2 0 tid t.clus).served (p.queue, p.entry)).modDev fun v =>
    { v with
      placing := none, nextTid := tid % 65535 + 1, m3 := extendM v.m3 digest
      remaps := v.remaps.filter fun r => !t.hasCore r.core }

/-- Every cluster and Lake range of the gang is reserved, its dies run, and it is not overtaken beyond its window: it is
placed. -/
def execGangPlace (s : State) : Outcome :=
  match s.dev.placing with
  | none => .refused (.notEnabled "GANG_PLACE")
  | some p =>
    let onTime := !(p.overtaken.any fun t => decide (t + 2048 < s.now))
    if s.mayPlace && onTime && s.allReserved p && p.chosen.all fun c => (s.die (dieOfClu c)).power != .parked then
      .next (s.placeGang p)
    else .refused (.notEnabled "GANG_PLACE")

/-! ### Withdrawal (10 R199) -/

/-- A placing gang is withdrawn: its launch is in state 0 again, at the head of its priority. -/
def State.withdraw (s : State) (p : Placing) : State :=
  (s.launchStatus (s.lqEntry p.queue p.entry) 0 0 0 []).modDev fun v =>
    { v with placing := none, withdrawn := (p.queue, p.entry) :: v.withdrawn.erase (p.queue, p.entry) }

/-- A gang that was overtaken is withdrawn when its window expires. -/
def execGangWithdraw (s : State) : Outcome :=
  match s.dev.placing with
  | some p =>
    if p.overtaken.any fun t => decide (t + 2048 ≤ s.now) then .next (s.withdraw p) else .refused (.notEnabled "GANG_WITHDRAW")
  | none => .refused (.notEnabled "GANG_WITHDRAW")

/-- A launch of a priority has reached the queues: a gang of lower priority is overtaken (10 R199). -/
def State.overtakeBy (s : State) (prio : Nat) : State :=
  match s.dev.placing with
  | none => s
  | some p =>
    if p.prio < prio then
      if s.allReserved p then
        s.modDev fun v => { v with placing := some { p with overtaken := some (p.overtaken.getD s.now) } }
      else s.withdraw p
    else s

/-- Launches have reached the queues. -/
def State.overtake (s : State) (new : List (Nat × Nat)) : State := new.foldl (fun s x => s.overtakeBy (s.launchPrio x)) s

/-- The host writes LQTAIL (21 R376); before the host link is ready the doorbell waits for that (24 R410). -/
def execLqtailDoorbell (asid tail : Nat) (s : State) : Outcome :=
  if 16 ≤ asid then .refused (.notEnabled "LQTAIL_DOORBELL")
  else
    if s.dev.boot = .booting then
      .next (s.modDev fun v => { v with doorbells := SMap.put v.doorbells (lqReg asid) (tail % 2 ^ 32) })
    else
    let old := s.launches
    let t := s.ringDoorbell (lqReg asid) (tail % 2 ^ 32)
    s.hostAct "LQTAIL_DOORBELL" (t.overtake (t.launches.filter fun x => !old.contains x))

/-! ### The forecast (10 R202) -/

/-- The cores of a die with state. -/
def State.coresOf (s : State) (die : Nat) : List (Nat × Core) := s.cores.filter fun c => dieOfCore c.1 == die

/-- The armed actors of a core that are ready and whose firing is not posted yet. -/
def State.actorsReady (s : State) (g : Nat) : Nat :=
  ((s.core g).actors.toList.filter fun a => a.armed && !a.firing && (s.actorReady g a).toOption.map (·.1) == some true).length

/-- The pending and ready firings of a core. -/
def State.pendingCount (s : State) (g : Nat) : Nat :=
  let k := s.core g
  k.net.slotsReq.length + k.net.slotsRep.length + k.firings.length + k.deque.length + s.actorsReady g

/-- The queued Lantern commands of a die. -/
def State.queuedCmds (s : State) (die : Nat) : Nat :=
  ((s.quads.filter fun q => q.1 / 512 == die).map fun q => (q.2.queues.toList.map fun u => u.cmds.length).sum).sum

/-- FORECAST as a die samples it. -/
def State.sampleForecast (s : State) (die : Nat) : Word :=
  let mq := min 255 (s.queuedCmds die / 16)
  let ready := min 255 (((s.coresOf die).map fun c => s.pendingCount c.1).sum / 16)
  let steal := min 255 ((s.die die).stealRounds / 16)
  BitVec.ofNat 64 (min 255 (mq + ready / 2) * 2 ^ 32 + steal * 2 ^ 16 + ready * 2 ^ 8 + mq)

/-- A die samples and writes FORECAST every 940 cycles; that of a PARKED die reads 0 (24 R402). -/
def execForecastWrite (die : Nat) (s : State) : Outcome :=
  let d := s.die die
  if 4 ≤ die ∨ s.now < d.forecastAt + 940 ∨ s.dev.power ≠ .on then .refused (.notEnabled "FORECAST_WRITE")
  else
    let f := if d.power = .parked then 0 else s.sampleForecast die
    .next (s.modDie die fun d =>
      { d with forecast := f, forecastAt := s.now, forecastFirst := some (d.forecastFirst.getD s.now), stealRounds := 0 })

end Sys2Proof.Machine
end

