-- ==== Sys2Proof/Machine/Power.lean ====
section
/-! DEFINITION. Security, power and bring-up: clock limits, thermal limits, parking, SMBus, tokens, attestation and the reset
sequence (24 R400-R410). -/

namespace Sys2Proof.Machine

/-! ### Clock, power cap and parking (24 R402, R406, R407) -/

/-- A clock limit that a die may have. -/
def clockStep (mhz : Nat) : Bool := decide (240 ≤ mhz) && decide (mhz ≤ 940) && (mhz - 240) % 20 == 0

/-- A FORECAST LEVEL was written at least 3,760 cycles ago. -/
def State.forecastOld (s : State) (die : Nat) : Bool := (s.die die).forecastFirst.any fun t => decide (t + 3760 ≤ s.now)

/-- The power state of a running die at a clock limit. -/
def runState (mhz : Nat) : DiePower := if mhz < 940 then .throttled else .run

/-- A running die's clock limit is set. -/
def State.setClock (s : State) (die mhz : Nat) : State :=
  s.modDie die fun d => { d with clock := mhz, power := if d.power = .parked then .parked else runState mhz }

/-- Power management changes a die's clock limit; a die at 95 °C or under the thermal limit gets at most 600 MHz. -/
def execClockLimitChange (die mhz : Nat) (s : State) : Outcome :=
  let d := s.die die
  if decide (die < 4) && clockStep mhz && s.forecastOld die && d.power != .parked && s.dev.power == .on &&
      ((!d.thermal && decide (s.dev.celsius.getD die 0 < 95)) || decide (mhz ≤ 600)) then
    .next (s.setClock die mhz)
  else .refused (.notEnabled "CLOCK_LIMIT_CHANGE")

/-- A window of 1 ms, 940,000 cycles, ends with module power at or below the cap. -/
def execPowerCapWindow (watts : Nat) (s : State) : Outcome :=
  if s.dev.power = .on ∧ watts ≤ s.dev.powerCap ∧ s.dev.windowAt + 940000 ≤ s.now then
    .next (s.modDev fun v => { v with watts, windowAt := s.now })
  else .refused (.notEnabled "POWER_CAP_WINDOW")

/-- A die holds no team, and no launch is being placed on it. -/
def State.dieEmpty (s : State) (die : Nat) : Bool :=
  s.teams.all (fun t => !t.2.dies.contains die) && !(s.dev.placing.any fun p => p.chosen.any fun c => dieOfClu c == die)

/-- A die that has held no team for 1 ms, 940,000 cycles at any clock limit, is parked. -/
def execDiePark (die : Nat) (s : State) : Outcome :=
  let d := s.die die
  if decide (die < 4) && s.dev.power == .on && d.power != .parked && s.dieEmpty die && decide (d.idleSince + 940000 ≤ s.now) then
    .next (s.modDie die fun d => { d with power := .parked, forecast := 0 })
  else .refused (.notEnabled "DIE_PARK")

/-- A parked die runs again. -/
def State.unpark (s : State) (die : Nat) : State :=
  s.modDie die fun d => { d with power := if d.power = .parked then runState d.clock else d.power, idleSince := s.now }

/-- A parked die whose clusters a placement needs is unparked. -/
def execDieUnpark (die : Nat) (s : State) : Outcome :=
  if (s.die die).power == .parked && (s.dev.placing.any fun p => p.chosen.any fun c => dieOfClu c == die) then .next (s.unpark die)
  else .refused (.notEnabled "DIE_UNPARK")

/-- A die's junction temperature, as last measured. -/
def State.setTemp (s : State) (die celsius : Nat) : State := s.modDev fun v => { v with celsius := v.celsius.set die celsius }

/-- A die at or above 95 °C is limited to at most 600 MHz. -/
def execThermalLimit (die celsius : Nat) (s : State) : Outcome :=
  let d := s.die die
  if decide (die < 4) && decide (95 ≤ celsius) && decide (celsius < 110) && s.dev.power == .on && (decide (d.clock ≤ 600) || s.forecastOld die) then
    .next (((s.setTemp die celsius).setClock die (min d.clock 600)).modDie die fun d => { d with thermal := true })
  else .refused (.notEnabled "THERMAL_LIMIT")

/-- The limit ends below 90 °C. -/
def execThermalRelease (die celsius : Nat) (s : State) : Outcome :=
  if (s.die die).thermal && decide (celsius < 90) then
    .next ((s.setTemp die celsius).modDie die fun d => { d with thermal := false })
  else .refused (.notEnabled "THERMAL_RELEASE")

/-! ### Losing state -/

/-- A place outside SRAM: HBM or host memory. -/
def offSram (p : Nat) : Bool := inHbm p || decide (hostPlace 0 ≤ p)

/-- The module with every SRAM, register and engine as after reset; what its memory keeps is given. Other modules keep their pairing
registers. -/
def State.wiped (s : State) (keep : Nat → Bool) (dev : Device) : State :=
  { agenda := s.agenda, focus := s.focus, freeCtr := s.freeCtr, mem := s.mem.filter fun c => keep c.1
    poison := s.poison.filter keep, soft := s.soft.filter keep, dev := { dev with out := s.dev.out, peerPairs := s.dev.peerPairs } }

/-- The module enters OFF and keeps nothing; the host's memory is not the module's. -/
def State.goOff (s : State) (boot : Boot) : State := s.wiped (fun p => decide (hostPlace 0 ≤ p)) { power := .off, boot }

/-- At 110 °C the module stops, also in RETAIN, and enters OFF without a save (24 R407). -/
def execThermalTrip (die celsius : Nat) (s : State) : Outcome :=
  if die < 4 ∧ 110 ≤ celsius ∧ s.dev.power ≠ .off then .next (s.goOff .thermalTrip) else .refused (.notEnabled "THERMAL_TRIP")

/-- The loss of the supply takes the module to OFF (24 R402). -/
def execModulePowerLoss (s : State) : Outcome :=
  if s.dev.power = .off then .refused (.notEnabled "MODULE_POWER_LOSS") else .next (s.goOff .booting)

/-! ### SMBus (24 R408) -/

/-- A command with a bad PEC or an operand out of range is answered with NACK and changes nothing. -/
def State.smbus (s : State) (ok : Bool) (t : State) : Outcome := .next (if ok then t else s.emit .nack)

/-- Junction temperatures that the dies may have now (24 R407): while clocks run, the limit stands from 95 °C until below 90 °C, and
the module has stopped at 110 °C. -/
def State.tempsOk (s : State) (celsius : List Nat) : Bool :=
  celsius.length == 4 && celsius.zipIdx.all fun x => s.dev.power != .on ||
    (decide (x.1 < 110) && (s.die x.2).thermal == (decide (95 ≤ x.1) || ((s.die x.2).thermal && decide (90 ≤ x.1))))

/-- 0x01: junction temperatures, sampled within the last 1 ms. -/
def execSmbusTemperature (pec : Bool) (celsius : List Nat) (s : State) : Outcome :=
  if s.tempsOk celsius then
    s.smbus pec ((s.modDev fun v => { v with celsius }).emit (.smbus (celsius.map (BitVec.ofNat 8))))
  else .refused (.notEnabled "SMBUS_TEMPERATURE")

/-- 0x02: module power over the last window; no other power is answered. -/
def execSmbusPower (pec : Bool) (watts : Nat) (s : State) : Outcome :=
  if pec && watts != s.dev.watts then .refused (.notEnabled "SMBUS_POWER")
  else s.smbus pec (s.emit (.smbus (toBytes 2 s.dev.watts)))

/-- A code that names no command is answered with NACK. -/
def State.smbusOther (s : State) (code : Nat) : Outcome :=
  if 1 ≤ code ∧ code ≤ 7 then .refused (.notEnabled "smbusOther") else s.smbus false s

/-- 0x03: the power cap. -/
def execSmbusPowerCap (pec : Bool) (watts : Nat) (s : State) : Outcome :=
  s.smbus (pec && decide (400 ≤ watts) && decide (watts ≤ 1600)) (s.modDev fun v => { v with powerCap := watts })

/-- The code of a security state. -/
def Security.code : Security → Nat
  | .prod => 0
  | .ownerDebug => 1

/-- The code of a debug state. -/
def Debug.code : Debug → Nat
  | .none => 0
  | .observe => 1
  | .invasive => 2

/-- The code of a boot state. -/
def Boot.code : Boot → Nat
  | .booting => 0
  | .ready => 1
  | .recovery => 2
  | .thermalTrip => 3
  | .retain => 4

/-- 0x04: the module's states. -/
def execSmbusState (pec : Bool) (s : State) : Outcome :=
  let dies := ((List.range 4).map fun d => (s.die d).power.code * 4 ^ d).sum
  s.smbus pec (s.emit (.smbus (([s.dev.security.code, Debug.code s.dev.debug, dies, s.dev.boot.code] : List Nat).map (BitVec.ofNat 8))))

/-- Entry to RETAIN is allowed (24 R402). -/
def State.mayRetain (s : State) : Bool :=
  s.dev.power == .on && s.teams.isEmpty && s.dev.placing.isNone && s.dev.ckptRunning.isNone

/-- 0x05: RETAIN keeps HBM, save images in it among it, and the security and debug states. -/
def execSmbusEnterRetain (pec : Bool) (s : State) : Outcome :=
  s.smbus (pec && s.mayRetain) (s.wiped offSram
    { security := s.dev.security, debug := s.dev.debug, obs := s.dev.obs, token := s.dev.token, saved := s.dev.saved
      power := .retain, boot := .retain })

/-- 0x06: RETAIN is left; the bring-up sequence follows. -/
def execSmbusLeaveRetain (pec : Bool) (s : State) : Outcome :=
  s.smbus (pec && s.dev.power == .retain && s.dev.boot == .retain) (s.modDev fun v => { v with boot := .booting })

/-- 0x07: a chunk of an unlock token is appended. -/
def execSmbusUnlockToken (pec : Bool) (chunk : List Byte) (s : State) : Outcome :=
  s.smbus (pec && decide (chunk.length ≤ 255)) (s.modDev fun v => { v with token := v.token ++ chunk })

/-! ### Tokens and attestation (24 R403-R405) -/

/-- The 64 bytes that a token of a level and a kind signs. -/
def tokenBytes (level kind : Nat) : List Byte :=
  Config.serial ++ [BitVec.ofNat 8 level, BitVec.ofNat 8 kind] ++ List.replicate 46 0

/-- A token is the owner key's signature of a level and a kind. -/
def tokenValid (token : List Byte) (level kind : Nat) : Bool := Config.mlDsaVerify Config.ownerKey (tokenBytes level kind) token

/-- The debug level of a valid unlock token. -/
def unlockLevel (token : List Byte) : Option Debug :=
  if tokenValid token 0 0 then some .none
  else if tokenValid token 1 0 then some .observe
  else if tokenValid token 2 0 then some .invasive
  else none

/-- M2 is extended by one byte; the manual does not give the byte of an event. -/
def State.measureEvent (s : State) : State :=
  { s with freeCtr := s.freeCtr + 1, dev := { s.dev with m2 := extendM s.dev.m2 [Config.freeByte s.freeCtr 0] } }

/-- An observe token raises NONE to OBSERVE at once; an invalid one is ignored. -/
def execObserveToken (token : List Byte) (s : State) : Outcome :=
  if s.dev.power ≠ .on then .refused (.notEnabled "OBSERVE_TOKEN")
  else if tokenValid token 1 1 then
    .next ((s.modDev fun v => { v with debug := if v.debug = .none then .observe else v.debug, obs := true }).measureEvent)
  else .next s

/-- The identity key of a security state: its public and its secret key. "K4ID" is four ASCII bytes. -/
def identityKey (sec : Security) : List Byte × List Byte :=
  Config.mlDsaKeyGen (Config.shake256 32 (Config.fusedSecret ++ [0x4B, 0x34, 0x49, 0x44] ++ [BitVec.ofNat 8 sec.code]))

/-- What measurement blocks carry, read at one instant. -/
def Device.measurements (v : Device) : List Byte :=
  v.m0 ++ v.m1 ++ v.m2 ++ v.m3 ++ [BitVec.ofNat 8 v.security.code, BitVec.ofNat 8 (Debug.code v.debug), if v.obs then 1 else 0]

/-- The Zilry controller answers an SPDM request: a key exchange sets up the link encryption key under the identity key, any other
request gets the measurements signed with it. -/
def execSpdmRequest (request : List Byte) (s : State) : Outcome :=
  let v := s.dev
  let key := identityKey v.security
  if v.power ≠ .on then .refused (.notEnabled "SPDM_REQUEST")
  else match Config.spdmExchange key request with
    | some (answer, link) => .next ((s.modDev fun v => { v with linkKey := link }).emit (.spdm answer))
    | none =>
      let sign := Config.mlDsaSign key.2 (request ++ v.measurements)
      .next (s.emit (.spdm (Config.spdmMeasurements key.1 request v.measurements sign)))

/-! ### Reset and bring-up (24 R409) -/

/-- A sequence may start for its cause: PERST# in RETAIN too. -/
def State.mayReset (s : State) : ResetCause → Bool
  | .powerOn => s.dev.power == .off
  | .perst => s.dev.power != .off
  | .leaveRetain => s.dev.power == .retain && s.dev.boot == .booting

/-- Step 1: the security and debug states. RETAIN keeps them; otherwise a valid unlock token fixes them. -/
def State.bootStates (s : State) (cause : ResetCause) : Security × Debug :=
  match cause, unlockLevel s.dev.token with
  | .leaveRetain, _ => (s.dev.security, s.dev.debug)
  | _, some d => (.ownerDebug, d)
  | _, none => (.prod, .none)

/-- Step 2: the firmware image that verifies. -/
def firmwareOf (e : BringUp) : Option (List Byte) :=
  if Config.mlDsaVerify Config.welzanKey e.imageA e.sigA then some e.imageA
  else if Config.mlDsaVerify Config.welzanKey e.imageB e.sigB then some e.imageB
  else none

/-- Steps 1 to 4: the states are fixed, SRAM is scrubbed, and HBM in OWNER-DEBUG; OFF keeps nothing. -/
def State.scrubbed (s : State) (e : BringUp) : State :=
  let (sec, dbg) := s.bootStates e.cause
  let kept := e.cause != .powerOn && (sec == .prod || e.cause == .leaveRetain)
  let keep := fun (p : Nat) => decide (hostPlace 0 ≤ p) || (inHbm p && kept)
  let dev : Device :=
    { security := sec, debug := dbg, obs := dbg != .none, failedClusters := e.failedClusters
      saved := if kept then s.dev.saved else [], doorbells := s.dev.doorbells }
  (s.wiped keep dev).measureEvent

/-- Doorbells that were written before step 6 ended are read at its end (24 R410). -/
def State.readDoorbells (s : State) : State :=
  (s.dev.doorbells.foldl (fun s x => s.ringDoorbell x.1 x.2) s).modDev fun v => { v with doorbells := [] }

/-- Before step 6 ends a configuration request is answered with Retry Status (24 R409), later by the function. -/
def State.configRequest (s : State) : Outcome :=
  if s.dev.power = .off ∨ s.dev.boot = .retain then .refused (.notEnabled "configRequest")
  else .next (s.emit (.config (s.dev.boot == .booting)))

/-- The bring-up sequence: with no verified firmware the module stays in recovery; else links train and the host link is
ready. -/
def State.bringUp (s : State) (e : BringUp) : State :=
  let s := s.scrubbed e
  match firmwareOf e with
  | none => s.modDev fun v => { v with boot := .recovery }
  | some fw =>
    let s := s.modDev fun v =>
      { v with m0 := extendM v.m0 (Config.shake256 32 fw), m1 := extendM v.m1 e.config, boot := .ready }
    (e.links.foldl (fun (s : State) (l : TrainedLink) => if l.link < 12 then s.setLink l.link l.peer l.lanes true else s) s).readDoorbells

/-- Power-on, PERST#, and leaving RETAIN or a thermal trip. -/
def execReset (env : BringUp) (s : State) : Outcome :=
  if s.mayReset env.cause then .next (s.bringUp env) else .refused (.notEnabled "RESET")

end Sys2Proof.Machine
end

