-- ==== Sys2Proof/Machine/Ckpt.lean ====
section
/-! DEFINITION. Checkpoints (21 R394). -/

namespace Sys2Proof.Machine

/-! ### The image -/

/-- The bytes of HBM in an image. -/
def ckHbm : Nat := 4 * dieSize

/-- The bytes of an image after its header. -/
def ckTotal : Nat := ckHbm + 8192 * 0x80000 + 128 * 0x400000 + 4 * 0x4000000

/-- The place of byte `i` of an image after its header: HBM in PA order, then TCM, Pond and Lake. -/
def ckPlace (i : Nat) : Nat :=
  if i < ckHbm then paPlace i
  else if i < ckHbm + 0x100000000 then tcmPlace 0 (i - ckHbm)
  else if i < ckHbm + 0x120000000 then pondPlace 0 (i - ckHbm - 0x100000000)
  else lakePlace 0 (i - ckHbm - 0x120000000)

/-- The physical address, placement 00, of an HBM place. -/
def placePaOf (p : Nat) : Nat :=
  let d := p / dieSize
  let da := p % dieSize
  let pa := fun (k : Nat) => (da / 6144 * 4 + k) * 6144 + da % 6144
  (([0, 1, 2, 3] : List Nat).map pa).find? (fun a => (placePa 0 0 a).1 == d) |>.getD 0

/-- The byte of an image, after its header, that holds a place of the module. -/
def ckIndex (p : Nat) : Option Nat :=
  if inHbm p then some (placePaOf p)
  else if tcmPlace 0 0 ≤ p ∧ p < tcmPlace 8192 0 then some (ckHbm + (p - tcmPlace 0 0))
  else if pondPlace 0 0 ≤ p ∧ p < pondPlace 128 0 then some (ckHbm + 0x100000000 + (p - pondPlace 0 0))
  else if lakePlace 0 0 ≤ p ∧ p < lakePlace 4 0 then some (ckHbm + 0x120000000 + (p - lakePlace 0 0))
  else none

/-- Every dirty sector is written back. -/
def State.writeBackAll (s : State) : State := (s.sectors.map (·.1)).foldl State.writeBack s

/-- The place of byte `i` of the host image, its header included. -/
def State.ckHost (s : State) (i : Nat) : Nat := hostPlace ((s.bar 0x080000).toNat + i)

/-- The bytes of the host image after its header. -/
def State.ckBytes (s : State) (base : Nat) : List Byte := (List.range ckTotal).map fun i => Memory.read s.mem (base + i)

/-- The digest of an image: SHAKE256 over the rest. -/
def State.ckDigest (s : State) (base : Nat) : List Byte := Config.shake256 64 (s.ckBytes base)

/-- The image is written to host memory at CKADDR: its bytes with the poison marks, then the header. -/
def State.ckSend (s : State) : State :=
  let base := s.ckHost 4096
  let inside := fun (p : Nat) => decide (s.ckHost 0 ≤ p) && decide (p < base + ckTotal)
  let cells := s.mem.filterMap fun c => (ckIndex c.1).map fun i => (base + i, c.2)
  let marks := s.poison.flatMap fun p =>
    match ckIndex p with
    | some i => (List.range (granuleSize p / 8)).map fun j => granule (base + i + 8 * j)
    | none => []
  let s := { s with
    mem := cells.foldl (fun (m : Memory) (c : Nat × Byte) => Memory.write m c.1 c.2) (s.mem.filter fun (c : Nat × Byte) => !inside c.1)
    poison := s.poison.filter (fun p => !inside p) ++ marks }
  let head := Config.checkpointHeader (s.bar 8).toNat Config.saveFormat.toNat (ckTotal + 4096) (s.ckDigest base)
  s.setRaw (s.ckHost 0) (head.take 4096)

/-- The module's places as an image gives them; every slice cache is invalid. -/
def State.takeImage (s : State) (cells : List (Nat × Byte)) (poison : List Nat) : State :=
  { s with
    mem := (cells.filter fun c => (ckIndex c.1).isSome).foldl (fun (m : Memory) (c : Nat × Byte) => Memory.write m c.1 c.2)
      (s.mem.filter fun c => (ckIndex c.1).isNone)
    poison := (s.poison.filter fun p => (ckIndex p).isNone) ++ (poison.filter fun p => (ckIndex p).isSome).dedup
    soft := s.soft.filter fun p => (ckIndex p).isNone
    sectors := [] }

/-- A header at CKADDR matches the image there in digest, FORMAT and SIZE. -/
def State.ckMatches (s : State) : Bool :=
  let head := (List.range 4096).map fun i => Memory.read s.mem (s.ckHost i)
  (List.range 65536).any fun modid =>
    (Config.checkpointHeader modid Config.saveFormat.toNat (ckTotal + 4096) (s.ckDigest (s.ckHost 4096))).take 4096 == head

/-- The image at CKADDR is loaded. -/
def State.ckLoad (s : State) : State :=
  let base := s.ckHost 4096
  let inside := fun (p : Nat) => decide (base ≤ p) && decide (p < base + ckTotal)
  s.takeImage ((s.mem.filter fun c => inside c.1).map fun c => (ckPlace (c.1 - base), c.2))
    ((s.poison.filter inside).map fun p => granule (ckPlace (p - base)))

/-! ### GO (21 R374, R394) -/

/-- CKSTATE and CKRES. -/
def State.ckState (s : State) (state res : Nat) : State := s.setBar 0x080010 (BitVec.ofNat 64 (res * 256 + state))

/-- All twelve links are up to one module. -/
def State.mirrorLinks (s : State) : Bool := (List.range 12).all fun l => s.linkUp l && s.linkPeer l == s.linkPeer 0

/-- GO: the checkpoint is refused, or it starts and moves its image. -/
def State.ckGo (s : State) (peerReady : Bool) : State :=
  let target := s.barBits 0x080008 2 1
  let run := fun (s : State) => (s.ckState 1 0).modDev fun v => { v with ckptRunning := some (Fin.ofNat 4 target) }
  if s.dev.ckptRunning.isSome then s
  else if !s.teams.isEmpty ∨ s.dev.placing.isSome then s.ckState 3 1
  else if 2 ≤ target then s.ckState 3 2
  else if target = 1 then
    if s.mirrorLinks && peerReady then
      let s := s.writeBackAll
      (run s).emit (.mirror ⟨s.mem.filter fun c => (ckIndex c.1).isSome, s.poison.filter fun p => (ckIndex p).isSome⟩)
    else s.ckState 3 3
  else if s.barBits 0x080008 3 3 = 1 then
    if s.ckMatches then run s.ckLoad else s.ckState 3 4
  else run s.writeBackAll.ckSend

/-- GO with TARGET 0, or a TARGET that is refused. -/
def execCheckpointHost (s : State) : Outcome :=
  let t := s.barBits 0x080008 2 1
  if s.hostUp && t != 1 && (t != 0 || s.barBits 0x080008 3 3 == 0) then .next (s.ckGo false)
  else .refused (.notEnabled "CHECKPOINT_HOST")

/-- GO with TARGET 1; `peerReady` tells that the peer has RXEN = 1 and no resident team. -/
def execCheckpointMirror (peerReady : Bool) (s : State) : Outcome :=
  if s.hostUp && s.barBits 0x080008 2 1 == 1 then .next (s.ckGo peerReady) else .refused (.notEnabled "CHECKPOINT_MIRROR")

/-- GO with CKREST and TARGET 0. -/
def execCheckpointRestore (s : State) : Outcome :=
  if s.hostUp && s.barBits 0x080008 2 1 == 0 && s.barBits 0x080008 3 3 == 1 then .next (s.ckGo false)
  else .refused (.notEnabled "CHECKPOINT_RESTORE")

/-- The running checkpoint ends: CKSTATE 2 and CKVEC. -/
def execCheckpointDone (s : State) : Outcome :=
  if s.dev.ckptRunning.isSome then
    .next (((s.ckState 2 0).modDev fun v => { v with ckptRunning := none }).emit (.msix (s.barBits 0x080018 10 0)))
  else .refused (.notEnabled "CHECKPOINT_DONE")

/-- A mirrored checkpoint arrives with RXEN = 1 and no resident team. -/
def execMirroredCheckpointReceive (image : MirrorImage) (s : State) : Outcome :=
  if s.hostUp && s.barBits 0x080008 4 4 == 1 && s.teams.isEmpty && s.mirrorLinks then
    .next (s.takeImage image.cells (image.poison.map granule))
  else .refused (.notEnabled "MIRRORED_CHECKPOINT_RECEIVE")

end Sys2Proof.Machine
end

