-- ==== Sys2Proof/WellFormed.lean ====
section
/-! DEFINITION. Which steps are well formed. For a word: the limits that its minor's description sets on its
fields (03 R62 rules 3, 6 and 7); a word that breaks one is ILLEGAL. For any other step: the agent it names
exists (00 R2, 12 R227, 21 R374). -/

namespace Sys2Proof

/-- The policy `.a` needs a mask (07 R128, R135). -/
def maskOk (vm : Fin 16) (mp : Fin 2) : Bool := !(vm == 0 && mp == 1)

/-- Types that `vcvt` takes: the integers and the floats (08 R160). -/
def cvtType (t : Fin 16) : Bool := t.val < 8 || (10 ≤ t.val && t.val < 14)

/-- The table formats q4 and q8 (03 R57). -/
def tableType (t : Fin 16) : Bool := t.val == 8 || t.val == 9

/-- A scope that exists, and none on an AMO that neither acquires nor releases (00 R5, 15 R286). -/
def amoOk (sc : Fin 8) (aq rl : Fin 2) : Bool := sc != 7 && (aq == 1 || rl == 1 || sc == 0)

/-- Special registers that exist (01 R24, 20 R367). -/
def sprReadable (n : Nat) : Bool := n < 0x20 || (0x40 ≤ n && n < 0x53)

/-- Special registers that `spwr` may name (01 R24, 20 R367). -/
def sprWritable (n : Nat) : Bool :=
  (6 ≤ n && n < 0xD) || (0x10 ≤ n && n < 0x18) || n == 0x1A || (0x1D ≤ n && n < 0x20) || (0x40 ≤ n && n < 0x50)

/-- The step is well formed. -/
def Instr.wf : Instr → Bool
  | .illegalWord _ => true
  | .add _ _ _ => true
  | .sub _ _ _ => true
  | .and _ _ _ => true
  | .or _ _ _ => true
  | .xor _ _ _ => true
  | .andn _ _ _ => true
  | .sll _ _ _ => true
  | .srl _ _ _ => true
  | .sra _ _ _ => true
  | .slt _ _ _ => true
  | .sltn _ _ _ => true
  | .mul _ _ _ => true
  | .mulh _ _ _ => true
  | .mulhn _ _ _ => true
  | .div _ _ _ => true
  | .divn _ _ _ => true
  | .rem _ _ _ => true
  | .remn _ _ _ => true
  | .min _ _ _ => true
  | .max _ _ _ => true
  | .minn _ _ _ => true
  | .maxn _ _ _ => true
  | .clz _ _ => true
  | .ctz _ _ => true
  | .popc _ _ => true
  | .sext _ _ _ => true
  | .zext _ _ _ => true
  | .addx _ _ _ _ => true
  | .rotl _ _ _ _ => true
  | .bext _ _ _ _ => true
  | .cmov _ _ _ => true
  | .addi _ _ _ => true
  | .andi _ _ _ => true
  | .ori _ _ _ => true
  | .xori _ _ _ => true
  | .slli _ _ _ => true
  | .srli _ _ _ => true
  | .srai _ _ _ => true
  | .slti _ _ _ => true
  | .sltni _ _ _ => true
  | .setqZ _ _ _ => true
  | .setqK _ _ _ => true
  | .pcadd _ _ => true
  | .ldB _ _ _ => true
  | .ldH _ _ _ => true
  | .ldW _ _ _ => true
  | .ldD _ _ _ => true
  | .ldBn _ _ _ => true
  | .ldHn _ _ _ => true
  | .ldWn _ _ _ => true
  | .stB _ _ _ => true
  | .stH _ _ _ => true
  | .stW _ _ _ => true
  | .stD _ _ _ => true
  | .stNib _ _ _ => true
  | .lda _ _ sc _ => sc != 7
  | .str _ _ sc _ => sc != 7
  | .amoadd _ _ _ sc aq rl _ => amoOk sc aq rl
  | .amoswap _ _ _ sc aq rl _ => amoOk sc aq rl
  | .amoand _ _ _ sc aq rl _ => amoOk sc aq rl
  | .amoor _ _ _ sc aq rl _ => amoOk sc aq rl
  | .amoxor _ _ _ sc aq rl _ => amoOk sc aq rl
  | .amomin _ _ _ sc aq rl _ => amoOk sc aq rl
  | .amomax _ _ _ sc aq rl _ => amoOk sc aq rl
  | .amominn _ _ _ sc aq rl _ => amoOk sc aq rl
  | .amomaxn _ _ _ sc aq rl _ => amoOk sc aq rl
  | .amocas _ _ _ sc aq rl _ => amoOk sc aq rl
  | .amocasq rd _ rb sc aq rl => amoOk sc aq rl && rd.val % 2 == 0 && rb.val % 2 == 0
  | .amodecp _ _ _ sc aq rl _ => amoOk sc aq rl
  | .amofaddS _ _ _ sc aq rl => amoOk sc aq rl
  | .amofaddD _ _ _ sc aq rl => amoOk sc aq rl
  | .fence sc kinds => sc != 7 && kinds != 0
  | .beq _ _ _ => true
  | .bne _ _ _ => true
  | .blt _ _ _ => true
  | .bge _ _ _ => true
  | .bltn _ _ _ => true
  | .bgen _ _ _ => true
  | .jal _ _ => true
  | .jalr _ _ _ => true
  | .done => true
  | .yield => true
  | .trap _ => true
  | .tret => true
  | .brk _ => true
  | .wpswap _ _ => true
  | .wfe => true
  | .nop => true
  | .mqwait n => n.val < 9
  | .sprd _ imm => sprReadable imm.toNat && imm != 0x18#16
  | .cpyLaunch _ => true
  | .spwr _ imm => sprWritable imm.toNat
  | .rpt _ _ _ _ _ _ => true
  | .cbbind _ _ => true
  | .cbget _ _ _ _ => true
  | .cbput _ _ _ _ => true
  | .cbpop _ _ _ => true
  | .cbpush _ _ _ => true
  | .cbstat _ _ => true
  | .cbwfill _ _ _ _ => true
  | .cbwfree _ _ _ _ => true
  | .bsinit _ _ => true
  | .bsget _ _ => true
  | .bspeek _ _ => true
  | .bsskip _ => true
  | .bsput _ _ => true
  | .bsflush => true
  | .bsalign => true
  | .bspos _ => true
  | .laclr _ => true
  | .laaddD _ _ => true
  | .lamulD _ _ _ => true
  | .lasubD _ _ => true
  | .laaddS _ _ => true
  | .larndD _ _ => true
  | .larndS _ _ => true
  | .lastat _ _ => true
  | .vadd _ _ _ vm mp dt => dt.val < 8 && maskOk vm mp
  | .vsub _ _ _ vm mp dt => dt.val < 8 && maskOk vm mp
  | .vmul _ _ _ vm mp dt => dt.val < 8 && maskOk vm mp
  | .vmulh _ _ _ vm mp dt => dt.val < 8 && maskOk vm mp
  | .vmin _ _ _ vm mp dt => dt.val < 8 && maskOk vm mp
  | .vmax _ _ _ vm mp dt => dt.val < 8 && maskOk vm mp
  | .vand _ _ _ vm mp dt => dt.val < 8 && maskOk vm mp
  | .vor _ _ _ vm mp dt => dt.val < 8 && maskOk vm mp
  | .vxor _ _ _ vm mp dt => dt.val < 8 && maskOk vm mp
  | .vsll _ _ _ vm mp dt => dt.val < 8 && maskOk vm mp
  | .vsrl _ _ _ vm mp dt => dt.val < 8 && maskOk vm mp
  | .vsra _ _ _ vm mp dt => dt.val < 8 && maskOk vm mp
  | .vabs _ _ vm mp dt => dt.val < 4 && maskOk vm mp
  | .vsadd _ _ _ vm mp dt => dt.val < 8 && maskOk vm mp
  | .vssub _ _ _ vm mp dt => dt.val < 8 && maskOk vm mp
  | .vfadd _ _ _ vm mp dt => (10 ≤ dt.val && dt.val < 14) && maskOk vm mp
  | .vfsub _ _ _ vm mp dt => (10 ≤ dt.val && dt.val < 14) && maskOk vm mp
  | .vfmul _ _ _ vm mp dt => (10 ≤ dt.val && dt.val < 14) && maskOk vm mp
  | .vfma _ _ _ vm mp dt => (10 ≤ dt.val && dt.val < 14) && maskOk vm mp
  | .vfms _ _ _ vm mp dt => (10 ≤ dt.val && dt.val < 14) && maskOk vm mp
  | .vfnma _ _ _ vm mp dt => (10 ≤ dt.val && dt.val < 14) && maskOk vm mp
  | .vfmin _ _ _ vm mp dt => (10 ≤ dt.val && dt.val < 14) && maskOk vm mp
  | .vfmax _ _ _ vm mp dt => (10 ≤ dt.val && dt.val < 14) && maskOk vm mp
  | .vfabs _ _ vm mp dt => (10 ≤ dt.val && dt.val < 14) && maskOk vm mp
  | .vfneg _ _ vm mp dt => (10 ≤ dt.val && dt.val < 14) && maskOk vm mp
  | .vfdiv _ _ _ vm mp dt => (10 ≤ dt.val && dt.val < 14) && maskOk vm mp
  | .vfsqrt _ _ vm mp dt => (10 ≤ dt.val && dt.val < 14) && maskOk vm mp
  | .vfclass _ _ vm mp dt => (10 ≤ dt.val && dt.val < 14) && maskOk vm mp
  | .vceq _ _ _ vm mp dt => dt.val < 8 && maskOk vm mp
  | .vcne _ _ _ vm mp dt => dt.val < 8 && maskOk vm mp
  | .vclt _ _ _ vm mp dt => dt.val < 4 && maskOk vm mp
  | .vcle _ _ _ vm mp dt => dt.val < 4 && maskOk vm mp
  | .vcltn _ _ _ vm mp dt => (4 ≤ dt.val && dt.val < 8) && maskOk vm mp
  | .vclen _ _ _ vm mp dt => (4 ≤ dt.val && dt.val < 8) && maskOk vm mp
  | .vfceq _ _ _ vm mp dt => (10 ≤ dt.val && dt.val < 14) && maskOk vm mp
  | .vfclt _ _ _ vm mp dt => (10 ≤ dt.val && dt.val < 14) && maskOk vm mp
  | .vfcle _ _ _ vm mp dt => (10 ≤ dt.val && dt.val < 14) && maskOk vm mp
  | .vfcun _ _ _ vm mp dt => (10 ≤ dt.val && dt.val < 14) && maskOk vm mp
  | .vsel _ _ _ vm dt => dt.val < 15 && vm != 0
  | .vperm _ _ _ vm mp dt => dt.val < 8 && maskOk vm mp
  | .vslup _ _ _ vm mp dt => dt.val < 15 && maskOk vm mp
  | .vsldn _ _ _ vm mp dt => dt.val < 15 && maskOk vm mp
  | .mand _ _ _ => true
  | .mor _ _ _ => true
  | .mxor _ _ _ => true
  | .mnot _ _ => true
  | .mpop _ _ dt => dt.val < 15
  | .mfirst _ _ dt => dt.val < 15
  | .viota _ _ vm mp dt => dt.val < 8 && maskOk vm mp
  | .vzip _ _ _ vm mp dt => dt.val < 15 && maskOk vm mp
  | .vunzip _ _ _ vm mp dt => dt.val < 15 && maskOk vm mp
  | .vrsum _ _ _ dt => dt.val < 8
  | .vrmax _ _ _ dt => dt.val < 4
  | .vrmin _ _ _ dt => dt.val < 4
  | .vrmaxn _ _ _ dt => (4 ≤ dt.val && dt.val < 8)
  | .vrminn _ _ _ dt => (4 ≤ dt.val && dt.val < 8)
  | .vfrsum _ _ _ dt => (10 ≤ dt.val && dt.val < 14)
  | .vfrmax _ _ _ dt => (10 ≤ dt.val && dt.val < 14)
  | .vfrmin _ _ _ dt => (10 ≤ dt.val && dt.val < 14)
  | .vrand _ _ _ dt => dt.val < 8
  | .vror _ _ _ dt => dt.val < 8
  | .vcvt _ _ st vm mp dt => cvtType dt && cvtType st && dt != st && maskOk vm mp
  | .vdec _ _ st vm mp dt => (10 ≤ dt.val && dt.val < 14) && tableType st && maskOk vm mp
  | .venc _ _ st vm mp dt => tableType dt && (10 ≤ st.val && st.val < 14) && maskOk vm mp
  | .vscl _ _ st vm mp dt => (10 ≤ dt.val && dt.val < 14) && (8 ≤ st.val && st.val < 14) && maskOk vm mp
  | .vld _ _ _ vm mp _ => maskOk vm mp
  | .vlds _ _ _ vm mp _ => maskOk vm mp
  | .vldb _ _ _ vm mp _ => maskOk vm mp
  | .vtbl _ _ => true
  | .vst _ _ _ _ _ => true
  | .vsts _ _ _ _ _ => true
  | .vstnib _ _ _ _ => true
  | .vins _ _ _ _ => true
  | .vext _ _ _ _ => true
  | .vsplat _ _ _ _ => true
  | .send _ _ sc => sc != 7
  | .sendv _ _ sc => sc != 7
  | .mget _ _ => true
  | .vmget _ _ => true
  | .mrel => true
  | .htset _ _ _ => true
  | .htsync => true
  | .dqpush _ => true
  | .dqpop _ _ => true
  | .spawn _ sc => sc != 7
  | .actdecl _ _ => true
  | .actarm _ => true
  | .actoff _ => true
  | .dqstat _ => true
  | .barArr _ _ level => level.val < 5
  | .barWait _ _ level => level.val < 5
  | .barArrw _ _ level => level.val < 5
  | .obarArr _ _ _ sc => sc != 7
  | .obarWait _ _ sc => sc != 7
  | .rcfg _ => true
  | .rinj _ _ => true
  | .rmset _ _ => true
  | .rmclr _ _ => true
  | .rphase _ _ _ sc => sc != 7
  | .rcnt _ _ sel _ => sel != 3
  | .rfetch _ _ => true
  | .rdrain _ _ => true
  | .cwait _ _ => true
  | .cstat _ => true
  | .ccancel _ _ => true
  | .vgath _ _ sc vm mp _ => sc != 7 && maskOk vm mp
  | .vscat _ _ sc _ _ => sc != 7
  | .vscadd _ _ sc _ dt => sc != 7 && (2 ≤ dt.val && dt.val < 6)
  | .vgathw _ _ sc vm mp _ => sc != 7 && maskOk vm mp
  | .mverOpen _ _ => true
  | .mverTag _ _ => true
  | .mverDone _ _ => true
  | .mverStat _ _ sel => sel.val < 5
  | .prgGo _ _ op => op.val < 3
  | .prgStat _ _ => true
  | .stash _ _ => true
  | .unstash _ _ _ _ => true
  | .wshad _ _ _ _ => true
  | .ltdecl _ _ => true
  | .ltuse _ _ _ => true
  | .ltdrop _ _ => true
  | .ltstat _ _ => true
  | .rbput _ _ _ => true
  | .rbret _ _ => true
  | .rbstat _ _ => true
  | .collGo _ _ => true
  | .collWait _ _ => true
  | .rsplan _ _ => true
  | .rsgo _ _ => true
  | .rsstat _ _ => true
  | .lkput _ _ => true
  | .pmcfg _ _ => true
  | .pmrdCore _ _ => true
  | .pmrdSlice _ _ => true
  | .jrnlStart _ _ => true
  | .jrnlStop _ _ => true
  | .jrnlMark _ _ => true
  | .jrnlStatus _ _ => true
  | .fcstrd _ _ _ => true
  | .cvtThreshold core _ => core < 8192
  | .chargedFault core _ => core < 8192
  | .loadReturn core _ => core < 8192
  | .waitRelease core _ => core < 8192
  | .waitlimit core _ => core < 8192
  | .firingDispatch core _ => core < 8192
  | .firingPromote core _ => core < 8192
  | .messageTransmit core _ _ => core < 8192
  | .messageAccept core _ => core < 8192
  | .creditReturn core => core < 8192
  | .stealRound core => core < 8192
  | .stealRequest core => core < 8192
  | .stealAnswer core => core < 8192
  | .stealBackoffExpiry core => core < 8192
  | .spawnPush core _ => core < 8192
  | .spawnWithdraw core _ => core < 8192
  | .spawnAck core _ => core < 8192
  | .dependencyPush _ => true
  | .actorReady core _ => core < 8192
  | .barrierRelease core _ _ => core < 8192
  | .barrierStaggerExpiry core _ => core < 8192
  | .mcfg quad _ => quad < 2048
  | .mctx quad _ => quad < 2048
  | .mld quad _ => quad < 2048
  | .mst quad _ => quad < 2048
  | .mma quad _ => quad < 2048
  | .mmat quad _ => quad < 2048
  | .mmas quad _ => quad < 2048
  | .mzero quad _ => quad < 2048
  | .lanternMrel quad _ => quad < 2048
  | .mopt quad _ => quad < 2048
  | .msync quad _ => quad < 2048
  | .mmask quad _ => quad < 2048
  | .mnorm quad _ => quad < 2048
  | .lanternWaitTimeout quad _ => quad < 2048
  | .lanternRetire quad _ => quad < 2048
  | .ringBeat clu ring _ => clu < 128 && ring < 4
  | .ringDrainEnd clu ring _ => clu < 128 && ring < 4
  | .accDelivery clu ring _ _ => clu < 128 && ring < 4
  | .recoveryStart clu station _ entry => clu < 128 && station < 16 && entry < 512
  | .lateAddApply core _ => core < 8192
  | .phaseComplete clu ring _ => clu < 128 && ring < 4
  | .copyStart core => core < 8192
  | .copyComplete core => core < 8192
  | .gsLane core _ lane => core < 8192 && lane < 64
  | .snufferDropEnd die region => die < 4 && region < 256
  | .prgStep die => die < 4
  | .prgDraw die => die < 4
  | .prgRepack die => die < 4
  | .repackSlotSwitch die => die < 4
  | .retirementJob die => die < 4
  | .linkPutTransfer core link _ => core < 8192 && link < 12
  | .linkPutComplete core link => core < 8192 && link < 12
  | .rbTransfer core link _ => core < 8192 && link < 12
  | .fillAdd link core _ => link < 12 && core < 8192
  | .fillAck core _ => core < 8192
  | .returnAdd link core _ => link < 12 && core < 8192
  | .linkDown link => link < 12
  | .linkUp link _ _ => link < 12
  | .collStart die => die < 4
  | .collStartTimeout die => die < 4
  | .collEnd die _ => die < 4
  | .reshardPassStart die => die < 4
  | .reshardRegionDone die _ => die < 4
  | .lqtailDoorbell asid _ => asid < 16
  | .launchServe _ => true
  | .gangPlace => true
  | .gangWithdraw => true
  | .teamEnd _ => true
  | .forecastWrite die => die < 4
  | .clockLimitChange die _ => die < 4
  | .powerCapWindow _ => true
  | .diePark die => die < 4
  | .dieUnpark die => die < 4
  | .thermalLimit die _ => die < 4
  | .thermalRelease die _ => die < 4
  | .thermalTrip die _ => die < 4
  | .faultRecordPost die => die < 4
  | .fqszWrite die _ => die < 4
  | .frespRetry die _ => die < 4
  | .frespSkip die _ => die < 4
  | .frespDiscard die _ => die < 4
  | .frespUpcall die _ => die < 4
  | .frespEnd die _ => die < 4
  | .walkComplete die asid _ => die < 4 && asid < 16
  | .invalidateStart _ => true
  | .invalidateDone => true
  | .sliceFillReturn _ => true
  | .refusalRetry core _ => core < 8192
  | .sliceWriteback _ => true
  | .preemptRequest => true
  | .forcedSave => true
  | .restoreRequest => true
  | .replayDiverge core => core < 8192
  | .checkpointHost => true
  | .checkpointMirror _ => true
  | .checkpointRestore => true
  | .checkpointDone => true
  | .hostBar2Access _ _ _ => true
  | .bar0RegisterWrite _ _ => true
  | .smbusTemperature _ _ => true
  | .smbusPower _ _ => true
  | .smbusPowerCap _ _ => true
  | .smbusState _ => true
  | .smbusEnterRetain _ => true
  | .smbusLeaveRetain _ => true
  | .smbusUnlockToken _ _ => true
  | .reset _ => true
  | .observeToken _ => true
  | .spdmRequest _ => true
  | .debugStep core _ => core < 8192
  | .debugResume core _ => core < 8192
  | .debugMemoryAccess core _ _ _ => core < 8192
  | .fetchFault core _ => core < 8192
  | .writePerformed core _ => core < 8192
  | .softError _ => true
  | .debugHalt core _ => core < 8192
  | .linkLaneLoss link _ => link < 12
  | .modulePowerLoss => true
  | .peerTransferServe link target _ => link < 12 && target.pasid < 16
  | .mirroredCheckpointReceive _ => true

/-- The step is the issue of a word by a context (ILLEGAL_WORD: of a word that is no instruction); the other steps are
not words. -/
def Instr.isWord : Instr → Bool
  | .illegalWord _ => true
  | .add _ _ _ => true
  | .sub _ _ _ => true
  | .and _ _ _ => true
  | .or _ _ _ => true
  | .xor _ _ _ => true
  | .andn _ _ _ => true
  | .sll _ _ _ => true
  | .srl _ _ _ => true
  | .sra _ _ _ => true
  | .slt _ _ _ => true
  | .sltn _ _ _ => true
  | .mul _ _ _ => true
  | .mulh _ _ _ => true
  | .mulhn _ _ _ => true
  | .div _ _ _ => true
  | .divn _ _ _ => true
  | .rem _ _ _ => true
  | .remn _ _ _ => true
  | .min _ _ _ => true
  | .max _ _ _ => true
  | .minn _ _ _ => true
  | .maxn _ _ _ => true
  | .clz _ _ => true
  | .ctz _ _ => true
  | .popc _ _ => true
  | .sext _ _ _ => true
  | .zext _ _ _ => true
  | .addx _ _ _ _ => true
  | .rotl _ _ _ _ => true
  | .bext _ _ _ _ => true
  | .cmov _ _ _ => true
  | .addi _ _ _ => true
  | .andi _ _ _ => true
  | .ori _ _ _ => true
  | .xori _ _ _ => true
  | .slli _ _ _ => true
  | .srli _ _ _ => true
  | .srai _ _ _ => true
  | .slti _ _ _ => true
  | .sltni _ _ _ => true
  | .setqZ _ _ _ => true
  | .setqK _ _ _ => true
  | .pcadd _ _ => true
  | .ldB _ _ _ => true
  | .ldH _ _ _ => true
  | .ldW _ _ _ => true
  | .ldD _ _ _ => true
  | .ldBn _ _ _ => true
  | .ldHn _ _ _ => true
  | .ldWn _ _ _ => true
  | .stB _ _ _ => true
  | .stH _ _ _ => true
  | .stW _ _ _ => true
  | .stD _ _ _ => true
  | .stNib _ _ _ => true
  | .lda _ _ _ _ => true
  | .str _ _ _ _ => true
  | .amoadd _ _ _ _ _ _ _ => true
  | .amoswap _ _ _ _ _ _ _ => true
  | .amoand _ _ _ _ _ _ _ => true
  | .amoor _ _ _ _ _ _ _ => true
  | .amoxor _ _ _ _ _ _ _ => true
  | .amomin _ _ _ _ _ _ _ => true
  | .amomax _ _ _ _ _ _ _ => true
  | .amominn _ _ _ _ _ _ _ => true
  | .amomaxn _ _ _ _ _ _ _ => true
  | .amocas _ _ _ _ _ _ _ => true
  | .amocasq _ _ _ _ _ _ => true
  | .amodecp _ _ _ _ _ _ _ => true
  | .amofaddS _ _ _ _ _ _ => true
  | .amofaddD _ _ _ _ _ _ => true
  | .fence _ _ => true
  | .beq _ _ _ => true
  | .bne _ _ _ => true
  | .blt _ _ _ => true
  | .bge _ _ _ => true
  | .bltn _ _ _ => true
  | .bgen _ _ _ => true
  | .jal _ _ => true
  | .jalr _ _ _ => true
  | .done => true
  | .yield => true
  | .trap _ => true
  | .tret => true
  | .brk _ => true
  | .wpswap _ _ => true
  | .wfe => true
  | .nop => true
  | .mqwait _ => true
  | .sprd _ _ => true
  | .cpyLaunch _ => true
  | .spwr _ _ => true
  | .rpt _ _ _ _ _ _ => true
  | .cbbind _ _ => true
  | .cbget _ _ _ _ => true
  | .cbput _ _ _ _ => true
  | .cbpop _ _ _ => true
  | .cbpush _ _ _ => true
  | .cbstat _ _ => true
  | .cbwfill _ _ _ _ => true
  | .cbwfree _ _ _ _ => true
  | .bsinit _ _ => true
  | .bsget _ _ => true
  | .bspeek _ _ => true
  | .bsskip _ => true
  | .bsput _ _ => true
  | .bsflush => true
  | .bsalign => true
  | .bspos _ => true
  | .laclr _ => true
  | .laaddD _ _ => true
  | .lamulD _ _ _ => true
  | .lasubD _ _ => true
  | .laaddS _ _ => true
  | .larndD _ _ => true
  | .larndS _ _ => true
  | .lastat _ _ => true
  | .vadd _ _ _ _ _ _ => true
  | .vsub _ _ _ _ _ _ => true
  | .vmul _ _ _ _ _ _ => true
  | .vmulh _ _ _ _ _ _ => true
  | .vmin _ _ _ _ _ _ => true
  | .vmax _ _ _ _ _ _ => true
  | .vand _ _ _ _ _ _ => true
  | .vor _ _ _ _ _ _ => true
  | .vxor _ _ _ _ _ _ => true
  | .vsll _ _ _ _ _ _ => true
  | .vsrl _ _ _ _ _ _ => true
  | .vsra _ _ _ _ _ _ => true
  | .vabs _ _ _ _ _ => true
  | .vsadd _ _ _ _ _ _ => true
  | .vssub _ _ _ _ _ _ => true
  | .vfadd _ _ _ _ _ _ => true
  | .vfsub _ _ _ _ _ _ => true
  | .vfmul _ _ _ _ _ _ => true
  | .vfma _ _ _ _ _ _ => true
  | .vfms _ _ _ _ _ _ => true
  | .vfnma _ _ _ _ _ _ => true
  | .vfmin _ _ _ _ _ _ => true
  | .vfmax _ _ _ _ _ _ => true
  | .vfabs _ _ _ _ _ => true
  | .vfneg _ _ _ _ _ => true
  | .vfdiv _ _ _ _ _ _ => true
  | .vfsqrt _ _ _ _ _ => true
  | .vfclass _ _ _ _ _ => true
  | .vceq _ _ _ _ _ _ => true
  | .vcne _ _ _ _ _ _ => true
  | .vclt _ _ _ _ _ _ => true
  | .vcle _ _ _ _ _ _ => true
  | .vcltn _ _ _ _ _ _ => true
  | .vclen _ _ _ _ _ _ => true
  | .vfceq _ _ _ _ _ _ => true
  | .vfclt _ _ _ _ _ _ => true
  | .vfcle _ _ _ _ _ _ => true
  | .vfcun _ _ _ _ _ _ => true
  | .vsel _ _ _ _ _ => true
  | .vperm _ _ _ _ _ _ => true
  | .vslup _ _ _ _ _ _ => true
  | .vsldn _ _ _ _ _ _ => true
  | .mand _ _ _ => true
  | .mor _ _ _ => true
  | .mxor _ _ _ => true
  | .mnot _ _ => true
  | .mpop _ _ _ => true
  | .mfirst _ _ _ => true
  | .viota _ _ _ _ _ => true
  | .vzip _ _ _ _ _ _ => true
  | .vunzip _ _ _ _ _ _ => true
  | .vrsum _ _ _ _ => true
  | .vrmax _ _ _ _ => true
  | .vrmin _ _ _ _ => true
  | .vrmaxn _ _ _ _ => true
  | .vrminn _ _ _ _ => true
  | .vfrsum _ _ _ _ => true
  | .vfrmax _ _ _ _ => true
  | .vfrmin _ _ _ _ => true
  | .vrand _ _ _ _ => true
  | .vror _ _ _ _ => true
  | .vcvt _ _ _ _ _ _ => true
  | .vdec _ _ _ _ _ _ => true
  | .venc _ _ _ _ _ _ => true
  | .vscl _ _ _ _ _ _ => true
  | .vld _ _ _ _ _ _ => true
  | .vlds _ _ _ _ _ _ => true
  | .vldb _ _ _ _ _ _ => true
  | .vtbl _ _ => true
  | .vst _ _ _ _ _ => true
  | .vsts _ _ _ _ _ => true
  | .vstnib _ _ _ _ => true
  | .vins _ _ _ _ => true
  | .vext _ _ _ _ => true
  | .vsplat _ _ _ _ => true
  | .send _ _ _ => true
  | .sendv _ _ _ => true
  | .mget _ _ => true
  | .vmget _ _ => true
  | .mrel => true
  | .htset _ _ _ => true
  | .htsync => true
  | .dqpush _ => true
  | .dqpop _ _ => true
  | .spawn _ _ => true
  | .actdecl _ _ => true
  | .actarm _ => true
  | .actoff _ => true
  | .dqstat _ => true
  | .barArr _ _ _ => true
  | .barWait _ _ _ => true
  | .barArrw _ _ _ => true
  | .obarArr _ _ _ _ => true
  | .obarWait _ _ _ => true
  | .rcfg _ => true
  | .rinj _ _ => true
  | .rmset _ _ => true
  | .rmclr _ _ => true
  | .rphase _ _ _ _ => true
  | .rcnt _ _ _ _ => true
  | .rfetch _ _ => true
  | .rdrain _ _ => true
  | .cwait _ _ => true
  | .cstat _ => true
  | .ccancel _ _ => true
  | .vgath _ _ _ _ _ _ => true
  | .vscat _ _ _ _ _ => true
  | .vscadd _ _ _ _ _ => true
  | .vgathw _ _ _ _ _ _ => true
  | .mverOpen _ _ => true
  | .mverTag _ _ => true
  | .mverDone _ _ => true
  | .mverStat _ _ _ => true
  | .prgGo _ _ _ => true
  | .prgStat _ _ => true
  | .stash _ _ => true
  | .unstash _ _ _ _ => true
  | .wshad _ _ _ _ => true
  | .ltdecl _ _ => true
  | .ltuse _ _ _ => true
  | .ltdrop _ _ => true
  | .ltstat _ _ => true
  | .rbput _ _ _ => true
  | .rbret _ _ => true
  | .rbstat _ _ => true
  | .collGo _ _ => true
  | .collWait _ _ => true
  | .rsplan _ _ => true
  | .rsgo _ _ => true
  | .rsstat _ _ => true
  | .lkput _ _ => true
  | .pmcfg _ _ => true
  | .pmrdCore _ _ => true
  | .pmrdSlice _ _ => true
  | .jrnlStart _ _ => true
  | .jrnlStop _ _ => true
  | .jrnlMark _ _ => true
  | .jrnlStatus _ _ => true
  | .fcstrd _ _ _ => true
  | .cvtThreshold _ _ => false
  | .chargedFault _ _ => false
  | .loadReturn _ _ => false
  | .waitRelease _ _ => false
  | .waitlimit _ _ => false
  | .firingDispatch _ _ => false
  | .firingPromote _ _ => false
  | .messageTransmit _ _ _ => false
  | .messageAccept _ _ => false
  | .creditReturn _ => false
  | .stealRound _ => false
  | .stealRequest _ => false
  | .stealAnswer _ => false
  | .stealBackoffExpiry _ => false
  | .spawnPush _ _ => false
  | .spawnWithdraw _ _ => false
  | .spawnAck _ _ => false
  | .dependencyPush _ => false
  | .actorReady _ _ => false
  | .barrierRelease _ _ _ => false
  | .barrierStaggerExpiry _ _ => false
  | .mcfg _ _ => false
  | .mctx _ _ => false
  | .mld _ _ => false
  | .mst _ _ => false
  | .mma _ _ => false
  | .mmat _ _ => false
  | .mmas _ _ => false
  | .mzero _ _ => false
  | .lanternMrel _ _ => false
  | .mopt _ _ => false
  | .msync _ _ => false
  | .mmask _ _ => false
  | .mnorm _ _ => false
  | .lanternWaitTimeout _ _ => false
  | .lanternRetire _ _ => false
  | .ringBeat _ _ _ => false
  | .ringDrainEnd _ _ _ => false
  | .accDelivery _ _ _ _ => false
  | .recoveryStart _ _ _ _ => false
  | .lateAddApply _ _ => false
  | .phaseComplete _ _ _ => false
  | .copyStart _ => false
  | .copyComplete _ => false
  | .gsLane _ _ _ => false
  | .snufferDropEnd _ _ => false
  | .prgStep _ => false
  | .prgDraw _ => false
  | .prgRepack _ => false
  | .repackSlotSwitch _ => false
  | .retirementJob _ => false
  | .linkPutTransfer _ _ _ => false
  | .linkPutComplete _ _ => false
  | .rbTransfer _ _ _ => false
  | .fillAdd _ _ _ => false
  | .fillAck _ _ => false
  | .returnAdd _ _ _ => false
  | .linkDown _ => false
  | .linkUp _ _ _ => false
  | .collStart _ => false
  | .collStartTimeout _ => false
  | .collEnd _ _ => false
  | .reshardPassStart _ => false
  | .reshardRegionDone _ _ => false
  | .lqtailDoorbell _ _ => false
  | .launchServe _ => false
  | .gangPlace => false
  | .gangWithdraw => false
  | .teamEnd _ => false
  | .forecastWrite _ => false
  | .clockLimitChange _ _ => false
  | .powerCapWindow _ => false
  | .diePark _ => false
  | .dieUnpark _ => false
  | .thermalLimit _ _ => false
  | .thermalRelease _ _ => false
  | .thermalTrip _ _ => false
  | .faultRecordPost _ => false
  | .fqszWrite _ _ => false
  | .frespRetry _ _ => false
  | .frespSkip _ _ => false
  | .frespDiscard _ _ => false
  | .frespUpcall _ _ => false
  | .frespEnd _ _ => false
  | .walkComplete _ _ _ => false
  | .invalidateStart _ => false
  | .invalidateDone => false
  | .sliceFillReturn _ => false
  | .refusalRetry _ _ => false
  | .sliceWriteback _ => false
  | .preemptRequest => false
  | .forcedSave => false
  | .restoreRequest => false
  | .replayDiverge _ => false
  | .checkpointHost => false
  | .checkpointMirror _ => false
  | .checkpointRestore => false
  | .checkpointDone => false
  | .hostBar2Access _ _ _ => false
  | .bar0RegisterWrite _ _ => false
  | .smbusTemperature _ _ => false
  | .smbusPower _ _ => false
  | .smbusPowerCap _ _ => false
  | .smbusState _ => false
  | .smbusEnterRetain _ => false
  | .smbusLeaveRetain _ => false
  | .smbusUnlockToken _ _ => false
  | .reset _ => false
  | .observeToken _ => false
  | .spdmRequest _ => false
  | .debugStep _ _ => false
  | .debugResume _ _ => false
  | .debugMemoryAccess _ _ _ _ => false
  | .fetchFault _ _ => false
  | .writePerformed _ _ => false
  | .softError _ => false
  | .debugHalt _ _ => false
  | .linkLaneLoss _ _ => false
  | .modulePowerLoss => false
  | .peerTransferServe _ _ _ => false
  | .mirroredCheckpointReceive _ => false

end Sys2Proof
end

