-- ==== Sys2Proof/Decode.lean ====
section
/-! DEFINITION. The decoder of 03 R53 to R62, total on any bytes, and the encoder of the same formats. A word that
is not an instruction is refused by the rule of 03 R62 that it breaks. -/

namespace Sys2Proof

/-- Why a word is not an instruction, by the rules of 03 R62. -/
inductive DecodeError where
  /-- Rule 1: the word is zero. -/
  | zeroWord
  /-- Rule 2: the major is not assigned. -/
  | noMajor
  /-- Rule 3: the minor is not assigned. -/
  | noMinor
  /-- Rules 4 and 5: a reserved or unused field is not zero. -/
  | reservedField
  /-- Rules 6 and 7: a field lies outside the limits of the minor. -/
  | outsideLimits
  /-- Fewer than four bytes were given. -/
  | tooShort
  deriving DecidableEq, Repr

/-- The answer of the decoder. -/
abbrev Decoded := Except DecodeError Instr

/-- The instruction, if its unused fields hold what the minor fixes. -/
def given (ok : Bool) (i : Instr) : Decoded := if ok then .ok i else .error .reservedField

/-- The 1-bit field at bit `lo`, as an index or code. -/
def fin1 (w lo : Nat) : Fin 2 := ⟨w / 2 ^ lo % 2, Nat.mod_lt _ (by decide)⟩

/-- The 2-bit field at bit `lo`, as an index or code. -/
def fin2 (w lo : Nat) : Fin 4 := ⟨w / 2 ^ lo % 4, Nat.mod_lt _ (by decide)⟩

/-- The 3-bit field at bit `lo`, as an index or code. -/
def fin3 (w lo : Nat) : Fin 8 := ⟨w / 2 ^ lo % 8, Nat.mod_lt _ (by decide)⟩

/-- The 4-bit field at bit `lo`, as an index or code. -/
def fin4 (w lo : Nat) : Fin 16 := ⟨w / 2 ^ lo % 16, Nat.mod_lt _ (by decide)⟩

/-- The 5-bit field at bit `lo`, as an index or code. -/
def fin5 (w lo : Nat) : Fin 32 := ⟨w / 2 ^ lo % 32, Nat.mod_lt _ (by decide)⟩

/-- The 6-bit field at bit `lo`, as an index or code. -/
def fin6 (w lo : Nat) : Fin 64 := ⟨w / 2 ^ lo % 64, Nat.mod_lt _ (by decide)⟩

/-- The 8-bit field at bit `lo`, as bits. -/
def bv8 (w lo : Nat) : BitVec 8 := BitVec.ofNat 8 (w / 2 ^ lo)

/-- The 12-bit field at bit `lo`, as bits. -/
def bv12 (w lo : Nat) : BitVec 12 := BitVec.ofNat 12 (w / 2 ^ lo)

/-- The 13-bit field at bit `lo`, as bits. -/
def bv13 (w lo : Nat) : BitVec 13 := BitVec.ofNat 13 (w / 2 ^ lo)

/-- The 16-bit field at bit `lo`, as bits. -/
def bv16 (w lo : Nat) : BitVec 16 := BitVec.ofNat 16 (w / 2 ^ lo)

/-- The 21-bit field at bit `lo`, as bits. -/
def bv21 (w lo : Nat) : BitVec 21 := BitVec.ofNat 21 (w / 2 ^ lo)

/-- Major 0x01 (06 R101). -/
def decodeAlu (w : Nat) : Decoded :=
  match bits w 10 5 with
  | 0 => given (bits w 4 0 == 0) (.add (fin5 w 21) (fin5 w 16) (fin5 w 11))
  | 1 => given (bits w 4 0 == 0) (.sub (fin5 w 21) (fin5 w 16) (fin5 w 11))
  | 2 => given (bits w 4 0 == 0) (.and (fin5 w 21) (fin5 w 16) (fin5 w 11))
  | 3 => given (bits w 4 0 == 0) (.or (fin5 w 21) (fin5 w 16) (fin5 w 11))
  | 4 => given (bits w 4 0 == 0) (.xor (fin5 w 21) (fin5 w 16) (fin5 w 11))
  | 5 => given (bits w 4 0 == 0) (.andn (fin5 w 21) (fin5 w 16) (fin5 w 11))
  | 6 => given (bits w 4 0 == 0) (.sll (fin5 w 21) (fin5 w 16) (fin5 w 11))
  | 7 => given (bits w 4 0 == 0) (.srl (fin5 w 21) (fin5 w 16) (fin5 w 11))
  | 8 => given (bits w 4 0 == 0) (.sra (fin5 w 21) (fin5 w 16) (fin5 w 11))
  | 9 => given (bits w 4 0 == 0) (.slt (fin5 w 21) (fin5 w 16) (fin5 w 11))
  | 10 => given (bits w 4 0 == 0) (.sltn (fin5 w 21) (fin5 w 16) (fin5 w 11))
  | 11 => given (bits w 4 0 == 0) (.mul (fin5 w 21) (fin5 w 16) (fin5 w 11))
  | 12 => given (bits w 4 0 == 0) (.mulh (fin5 w 21) (fin5 w 16) (fin5 w 11))
  | 13 => given (bits w 4 0 == 0) (.mulhn (fin5 w 21) (fin5 w 16) (fin5 w 11))
  | 14 => given (bits w 4 0 == 0) (.div (fin5 w 21) (fin5 w 16) (fin5 w 11))
  | 15 => given (bits w 4 0 == 0) (.divn (fin5 w 21) (fin5 w 16) (fin5 w 11))
  | 16 => given (bits w 4 0 == 0) (.rem (fin5 w 21) (fin5 w 16) (fin5 w 11))
  | 17 => given (bits w 4 0 == 0) (.remn (fin5 w 21) (fin5 w 16) (fin5 w 11))
  | 18 => given (bits w 4 0 == 0) (.min (fin5 w 21) (fin5 w 16) (fin5 w 11))
  | 19 => given (bits w 4 0 == 0) (.max (fin5 w 21) (fin5 w 16) (fin5 w 11))
  | 20 => given (bits w 4 0 == 0) (.minn (fin5 w 21) (fin5 w 16) (fin5 w 11))
  | 21 => given (bits w 4 0 == 0) (.maxn (fin5 w 21) (fin5 w 16) (fin5 w 11))
  | 22 => given (bits w 15 11 == 0 && bits w 4 0 == 0) (.clz (fin5 w 21) (fin5 w 16))
  | 23 => given (bits w 15 11 == 0 && bits w 4 0 == 0) (.ctz (fin5 w 21) (fin5 w 16))
  | 24 => given (bits w 15 11 == 0 && bits w 4 0 == 0) (.popc (fin5 w 21) (fin5 w 16))
  | 25 => given (bits w 15 11 == 0) (.sext (fin5 w 21) (fin5 w 16) (fin5 w 0))
  | 26 => given (bits w 15 11 == 0) (.zext (fin5 w 21) (fin5 w 16) (fin5 w 0))
  | 27 => .ok (.addx (fin5 w 21) (fin5 w 16) (fin5 w 11) (fin5 w 0))
  | 28 => .ok (.rotl (fin5 w 21) (fin5 w 16) (fin5 w 11) (fin5 w 0))
  | 29 => .ok (.bext (fin5 w 21) (fin5 w 16) (fin5 w 11) (fin5 w 0))
  | 30 => given (bits w 4 0 == 0) (.cmov (fin5 w 21) (fin5 w 16) (fin5 w 11))
  | _ => .error .noMinor

/-- Major 0x06 (06 R104). -/
def decodeShi (w : Nat) : Decoded :=
  match bits w 7 6 with
  | 0 => given (bits w 15 8 == 0) (.slli (fin5 w 21) (fin5 w 16) (fin6 w 0))
  | 1 => given (bits w 15 8 == 0) (.srli (fin5 w 21) (fin5 w 16) (fin6 w 0))
  | 2 => given (bits w 15 8 == 0) (.srai (fin5 w 21) (fin5 w 16) (fin6 w 0))
  | _ => .error .noMinor

/-- Major 0x09 (06 R105). -/
def decodeSetq (w : Nat) : Decoded :=
  match bits w 20 20 with
  | 0 => given (bits w 19 18 == 0) (.setqZ (fin5 w 21) (fin2 w 16) (bv16 w 0))
  | 1 => given (bits w 19 18 == 0) (.setqK (fin5 w 21) (fin2 w 16) (bv16 w 0))
  | _ => .error .noMinor

/-- Major 0x0B (06 R108). -/
def decodeLd (w : Nat) : Decoded :=
  match bits w 15 13 with
  | 0 => .ok (.ldB (fin5 w 21) (fin5 w 16) (bv13 w 0))
  | 1 => .ok (.ldH (fin5 w 21) (fin5 w 16) (bv13 w 0))
  | 2 => .ok (.ldW (fin5 w 21) (fin5 w 16) (bv13 w 0))
  | 3 => .ok (.ldD (fin5 w 21) (fin5 w 16) (bv13 w 0))
  | 4 => .ok (.ldBn (fin5 w 21) (fin5 w 16) (bv13 w 0))
  | 5 => .ok (.ldHn (fin5 w 21) (fin5 w 16) (bv13 w 0))
  | 6 => .ok (.ldWn (fin5 w 21) (fin5 w 16) (bv13 w 0))
  | _ => .error .noMinor

/-- Major 0x0C (06 R108). -/
def decodeSt (w : Nat) : Decoded :=
  match bits w 15 13 with
  | 0 => .ok (.stB (fin5 w 21) (fin5 w 16) (bv13 w 0))
  | 1 => .ok (.stH (fin5 w 21) (fin5 w 16) (bv13 w 0))
  | 2 => .ok (.stW (fin5 w 21) (fin5 w 16) (bv13 w 0))
  | 3 => .ok (.stD (fin5 w 21) (fin5 w 16) (bv13 w 0))
  | 4 => .ok (.stNib (fin5 w 21) (fin5 w 16) (bv13 w 0))
  | _ => .error .noMinor

/-- Major 0x0F (15 R286). -/
def decodeAmo (w : Nat) : Decoded :=
  match bits w 3 0 with
  | 0 => given (bits w 5 5 == 0) (.amoadd (fin5 w 21) (fin5 w 16) (fin5 w 11) (fin3 w 8) (fin1 w 7) (fin1 w 6) (fin1 w 4))
  | 1 => given (bits w 5 5 == 0) (.amoswap (fin5 w 21) (fin5 w 16) (fin5 w 11) (fin3 w 8) (fin1 w 7) (fin1 w 6) (fin1 w 4))
  | 2 => given (bits w 5 5 == 0) (.amoand (fin5 w 21) (fin5 w 16) (fin5 w 11) (fin3 w 8) (fin1 w 7) (fin1 w 6) (fin1 w 4))
  | 3 => given (bits w 5 5 == 0) (.amoor (fin5 w 21) (fin5 w 16) (fin5 w 11) (fin3 w 8) (fin1 w 7) (fin1 w 6) (fin1 w 4))
  | 4 => given (bits w 5 5 == 0) (.amoxor (fin5 w 21) (fin5 w 16) (fin5 w 11) (fin3 w 8) (fin1 w 7) (fin1 w 6) (fin1 w 4))
  | 5 => given (bits w 5 5 == 0) (.amomin (fin5 w 21) (fin5 w 16) (fin5 w 11) (fin3 w 8) (fin1 w 7) (fin1 w 6) (fin1 w 4))
  | 6 => given (bits w 5 5 == 0) (.amomax (fin5 w 21) (fin5 w 16) (fin5 w 11) (fin3 w 8) (fin1 w 7) (fin1 w 6) (fin1 w 4))
  | 7 => given (bits w 5 5 == 0) (.amominn (fin5 w 21) (fin5 w 16) (fin5 w 11) (fin3 w 8) (fin1 w 7) (fin1 w 6) (fin1 w 4))
  | 8 => given (bits w 5 5 == 0) (.amomaxn (fin5 w 21) (fin5 w 16) (fin5 w 11) (fin3 w 8) (fin1 w 7) (fin1 w 6) (fin1 w 4))
  | 9 => given (bits w 5 5 == 0) (.amocas (fin5 w 21) (fin5 w 16) (fin5 w 11) (fin3 w 8) (fin1 w 7) (fin1 w 6) (fin1 w 4))
  | 10 => given (bits w 5 4 == 1) (.amocasq (fin5 w 21) (fin5 w 16) (fin5 w 11) (fin3 w 8) (fin1 w 7) (fin1 w 6))
  | 11 => given (bits w 5 5 == 0) (.amodecp (fin5 w 21) (fin5 w 16) (fin5 w 11) (fin3 w 8) (fin1 w 7) (fin1 w 6) (fin1 w 4))
  | 12 => given (bits w 5 4 == 0) (.amofaddS (fin5 w 21) (fin5 w 16) (fin5 w 11) (fin3 w 8) (fin1 w 7) (fin1 w 6))
  | 13 => given (bits w 5 4 == 1) (.amofaddD (fin5 w 21) (fin5 w 16) (fin5 w 11) (fin3 w 8) (fin1 w 7) (fin1 w 6))
  | _ => .error .noMinor

/-- Major 0x19 (06 R115). -/
def decodeSys (w : Nat) : Decoded :=
  match bits w 3 0 with
  | 0 => given (bits w 25 4 == 0) .done
  | 1 => given (bits w 25 4 == 0) .yield
  | 2 => given (bits w 25 16 == 0) (.trap (bv12 w 4))
  | 3 => given (bits w 25 4 == 0) .tret
  | 4 => given (bits w 25 16 == 0) (.brk (bv12 w 4))
  | 5 => given (bits w 15 4 == 0) (.wpswap (fin5 w 21) (fin5 w 16))
  | 6 => given (bits w 25 4 == 0) .wfe
  | 7 => given (bits w 25 4 == 0) .nop
  | 8 => given (bits w 25 8 == 0) (.mqwait (fin4 w 4))
  | _ => .error .noMinor

/-- Major 0x1D (08 R149). -/
def decodeCb (w : Nat) : Decoded :=
  match bits w 6 0 with
  | 0 => given (bits w 17 7 == 0) (.cbbind (fin5 w 21) (fin3 w 18))
  | 1 => .ok (.cbget (fin5 w 21) (fin3 w 18) (fin3 w 15) (bv8 w 7))
  | 2 => .ok (.cbput (fin5 w 21) (fin3 w 18) (fin3 w 15) (bv8 w 7))
  | 3 => given (bits w 14 7 == 0) (.cbpop (fin5 w 21) (fin3 w 18) (fin3 w 15))
  | 4 => given (bits w 14 7 == 0) (.cbpush (fin5 w 21) (fin3 w 18) (fin3 w 15))
  | 5 => given (bits w 17 7 == 0) (.cbstat (fin5 w 21) (fin3 w 18))
  | 6 => .ok (.cbwfill (fin5 w 21) (fin3 w 18) (fin3 w 15) (bv8 w 7))
  | 7 => .ok (.cbwfree (fin5 w 21) (fin3 w 18) (fin3 w 15) (bv8 w 7))
  | _ => .error .noMinor

/-- Major 0x1E (08 R155). -/
def decodeBs (w : Nat) : Decoded :=
  match bits w 15 12 with
  | 0 => given (bits w 25 21 == 0 && bits w 11 1 == 0) (.bsinit (fin5 w 16) (fin1 w 0))
  | 1 => given (bits w 20 16 == 0 && bits w 11 6 == 0) (.bsget (fin5 w 21) (fin6 w 0))
  | 2 => given (bits w 20 16 == 0 && bits w 11 6 == 0) (.bspeek (fin5 w 21) (fin6 w 0))
  | 3 => given (bits w 25 16 == 0 && bits w 11 6 == 0) (.bsskip (fin6 w 0))
  | 4 => given (bits w 25 21 == 0 && bits w 11 6 == 0) (.bsput (fin5 w 16) (fin6 w 0))
  | 5 => given (bits w 25 16 == 0 && bits w 11 0 == 0) .bsflush
  | 6 => given (bits w 25 16 == 0 && bits w 11 0 == 0) .bsalign
  | 7 => given (bits w 20 16 == 0 && bits w 11 0 == 0) (.bspos (fin5 w 21))
  | _ => .error .noMinor

/-- Major 0x1F (08 R163). -/
def decodeLa (w : Nat) : Decoded :=
  match bits w 10 5 with
  | 0 => given (bits w 25 21 == 0 && bits w 15 11 == 0 && bits w 4 0 == 0) (.laclr (fin5 w 16))
  | 1 => given (bits w 25 21 == 0 && bits w 4 0 == 0) (.laaddD (fin5 w 16) (fin5 w 11))
  | 2 => given (bits w 4 0 == 0) (.lamulD (fin5 w 21) (fin5 w 16) (fin5 w 11))
  | 3 => given (bits w 25 21 == 0 && bits w 4 0 == 0) (.lasubD (fin5 w 16) (fin5 w 11))
  | 4 => given (bits w 25 21 == 0 && bits w 4 0 == 0) (.laaddS (fin5 w 16) (fin5 w 11))
  | 5 => given (bits w 15 11 == 0 && bits w 4 0 == 0) (.larndD (fin5 w 21) (fin5 w 16))
  | 6 => given (bits w 15 11 == 0 && bits w 4 0 == 0) (.larndS (fin5 w 21) (fin5 w 16))
  | 7 => given (bits w 15 11 == 0 && bits w 4 0 == 0) (.lastat (fin5 w 21) (fin5 w 16))
  | _ => .error .noMinor

/-- Major 0x20 (07 R129). -/
def decodeVa (w : Nat) : Decoded :=
  match bits w 4 0 with
  | 0 => .ok (.vadd (fin4 w 22) (fin4 w 18) (fin4 w 14) (fin4 w 10) (fin1 w 9) (fin4 w 5))
  | 1 => .ok (.vsub (fin4 w 22) (fin4 w 18) (fin4 w 14) (fin4 w 10) (fin1 w 9) (fin4 w 5))
  | 2 => .ok (.vmul (fin4 w 22) (fin4 w 18) (fin4 w 14) (fin4 w 10) (fin1 w 9) (fin4 w 5))
  | 3 => .ok (.vmulh (fin4 w 22) (fin4 w 18) (fin4 w 14) (fin4 w 10) (fin1 w 9) (fin4 w 5))
  | 4 => .ok (.vmin (fin4 w 22) (fin4 w 18) (fin4 w 14) (fin4 w 10) (fin1 w 9) (fin4 w 5))
  | 5 => .ok (.vmax (fin4 w 22) (fin4 w 18) (fin4 w 14) (fin4 w 10) (fin1 w 9) (fin4 w 5))
  | 6 => .ok (.vand (fin4 w 22) (fin4 w 18) (fin4 w 14) (fin4 w 10) (fin1 w 9) (fin4 w 5))
  | 7 => .ok (.vor (fin4 w 22) (fin4 w 18) (fin4 w 14) (fin4 w 10) (fin1 w 9) (fin4 w 5))
  | 8 => .ok (.vxor (fin4 w 22) (fin4 w 18) (fin4 w 14) (fin4 w 10) (fin1 w 9) (fin4 w 5))
  | 9 => .ok (.vsll (fin4 w 22) (fin4 w 18) (fin4 w 14) (fin4 w 10) (fin1 w 9) (fin4 w 5))
  | 10 => .ok (.vsrl (fin4 w 22) (fin4 w 18) (fin4 w 14) (fin4 w 10) (fin1 w 9) (fin4 w 5))
  | 11 => .ok (.vsra (fin4 w 22) (fin4 w 18) (fin4 w 14) (fin4 w 10) (fin1 w 9) (fin4 w 5))
  | 12 => given (bits w 17 14 == 0) (.vabs (fin4 w 22) (fin4 w 18) (fin4 w 10) (fin1 w 9) (fin4 w 5))
  | 13 => .ok (.vsadd (fin4 w 22) (fin4 w 18) (fin4 w 14) (fin4 w 10) (fin1 w 9) (fin4 w 5))
  | 14 => .ok (.vssub (fin4 w 22) (fin4 w 18) (fin4 w 14) (fin4 w 10) (fin1 w 9) (fin4 w 5))
  | _ => .error .noMinor

/-- Major 0x21 (07 R130). -/
def decodeVf (w : Nat) : Decoded :=
  match bits w 4 0 with
  | 0 => .ok (.vfadd (fin4 w 22) (fin4 w 18) (fin4 w 14) (fin4 w 10) (fin1 w 9) (fin4 w 5))
  | 1 => .ok (.vfsub (fin4 w 22) (fin4 w 18) (fin4 w 14) (fin4 w 10) (fin1 w 9) (fin4 w 5))
  | 2 => .ok (.vfmul (fin4 w 22) (fin4 w 18) (fin4 w 14) (fin4 w 10) (fin1 w 9) (fin4 w 5))
  | 3 => .ok (.vfma (fin4 w 22) (fin4 w 18) (fin4 w 14) (fin4 w 10) (fin1 w 9) (fin4 w 5))
  | 4 => .ok (.vfms (fin4 w 22) (fin4 w 18) (fin4 w 14) (fin4 w 10) (fin1 w 9) (fin4 w 5))
  | 5 => .ok (.vfnma (fin4 w 22) (fin4 w 18) (fin4 w 14) (fin4 w 10) (fin1 w 9) (fin4 w 5))
  | 6 => .ok (.vfmin (fin4 w 22) (fin4 w 18) (fin4 w 14) (fin4 w 10) (fin1 w 9) (fin4 w 5))
  | 7 => .ok (.vfmax (fin4 w 22) (fin4 w 18) (fin4 w 14) (fin4 w 10) (fin1 w 9) (fin4 w 5))
  | 8 => given (bits w 17 14 == 0) (.vfabs (fin4 w 22) (fin4 w 18) (fin4 w 10) (fin1 w 9) (fin4 w 5))
  | 9 => given (bits w 17 14 == 0) (.vfneg (fin4 w 22) (fin4 w 18) (fin4 w 10) (fin1 w 9) (fin4 w 5))
  | 10 => .ok (.vfdiv (fin4 w 22) (fin4 w 18) (fin4 w 14) (fin4 w 10) (fin1 w 9) (fin4 w 5))
  | 11 => given (bits w 17 14 == 0) (.vfsqrt (fin4 w 22) (fin4 w 18) (fin4 w 10) (fin1 w 9) (fin4 w 5))
  | 12 => given (bits w 17 14 == 0) (.vfclass (fin4 w 22) (fin4 w 18) (fin4 w 10) (fin1 w 9) (fin4 w 5))
  | _ => .error .noMinor

/-- Major 0x22 (07 R132). -/
def decodeVc (w : Nat) : Decoded :=
  match bits w 4 0 with
  | 0 => .ok (.vceq (fin4 w 22) (fin4 w 18) (fin4 w 14) (fin4 w 10) (fin1 w 9) (fin4 w 5))
  | 1 => .ok (.vcne (fin4 w 22) (fin4 w 18) (fin4 w 14) (fin4 w 10) (fin1 w 9) (fin4 w 5))
  | 2 => .ok (.vclt (fin4 w 22) (fin4 w 18) (fin4 w 14) (fin4 w 10) (fin1 w 9) (fin4 w 5))
  | 3 => .ok (.vcle (fin4 w 22) (fin4 w 18) (fin4 w 14) (fin4 w 10) (fin1 w 9) (fin4 w 5))
  | 4 => .ok (.vcltn (fin4 w 22) (fin4 w 18) (fin4 w 14) (fin4 w 10) (fin1 w 9) (fin4 w 5))
  | 5 => .ok (.vclen (fin4 w 22) (fin4 w 18) (fin4 w 14) (fin4 w 10) (fin1 w 9) (fin4 w 5))
  | 6 => .ok (.vfceq (fin4 w 22) (fin4 w 18) (fin4 w 14) (fin4 w 10) (fin1 w 9) (fin4 w 5))
  | 7 => .ok (.vfclt (fin4 w 22) (fin4 w 18) (fin4 w 14) (fin4 w 10) (fin1 w 9) (fin4 w 5))
  | 8 => .ok (.vfcle (fin4 w 22) (fin4 w 18) (fin4 w 14) (fin4 w 10) (fin1 w 9) (fin4 w 5))
  | 9 => .ok (.vfcun (fin4 w 22) (fin4 w 18) (fin4 w 14) (fin4 w 10) (fin1 w 9) (fin4 w 5))
  | _ => .error .noMinor

/-- Major 0x23 (07 R133). -/
def decodeVm (w : Nat) : Decoded :=
  match bits w 4 0 with
  | 0 => given (bits w 9 9 == 0) (.vsel (fin4 w 22) (fin4 w 18) (fin4 w 14) (fin4 w 10) (fin4 w 5))
  | 1 => .ok (.vperm (fin4 w 22) (fin4 w 18) (fin4 w 14) (fin4 w 10) (fin1 w 9) (fin4 w 5))
  | 2 => .ok (.vslup (fin4 w 22) (fin4 w 18) (fin4 w 14) (fin4 w 10) (fin1 w 9) (fin4 w 5))
  | 3 => .ok (.vsldn (fin4 w 22) (fin4 w 18) (fin4 w 14) (fin4 w 10) (fin1 w 9) (fin4 w 5))
  | 4 => given (bits w 13 5 == 0) (.mand (fin4 w 22) (fin4 w 18) (fin4 w 14))
  | 5 => given (bits w 13 5 == 0) (.mor (fin4 w 22) (fin4 w 18) (fin4 w 14))
  | 6 => given (bits w 13 5 == 0) (.mxor (fin4 w 22) (fin4 w 18) (fin4 w 14))
  | 7 => given (bits w 17 5 == 0) (.mnot (fin4 w 22) (fin4 w 18))
  | 8 => given (bits w 17 9 == 0) (.mpop (fin4 w 22) (fin4 w 18) (fin4 w 5))
  | 9 => given (bits w 17 9 == 0) (.mfirst (fin4 w 22) (fin4 w 18) (fin4 w 5))
  | 10 => given (bits w 17 14 == 0) (.viota (fin4 w 22) (fin4 w 18) (fin4 w 10) (fin1 w 9) (fin4 w 5))
  | 11 => .ok (.vzip (fin4 w 22) (fin4 w 18) (fin4 w 14) (fin4 w 10) (fin1 w 9) (fin4 w 5))
  | 12 => .ok (.vunzip (fin4 w 22) (fin4 w 18) (fin4 w 14) (fin4 w 10) (fin1 w 9) (fin4 w 5))
  | _ => .error .noMinor

/-- Major 0x24 (07 R134). -/
def decodeVr (w : Nat) : Decoded :=
  match bits w 4 0 with
  | 0 => given (bits w 17 14 == 0 && bits w 9 9 == 0) (.vrsum (fin4 w 22) (fin4 w 18) (fin4 w 10) (fin4 w 5))
  | 1 => given (bits w 17 14 == 0 && bits w 9 9 == 0) (.vrmax (fin4 w 22) (fin4 w 18) (fin4 w 10) (fin4 w 5))
  | 2 => given (bits w 17 14 == 0 && bits w 9 9 == 0) (.vrmin (fin4 w 22) (fin4 w 18) (fin4 w 10) (fin4 w 5))
  | 3 => given (bits w 17 14 == 0 && bits w 9 9 == 0) (.vrmaxn (fin4 w 22) (fin4 w 18) (fin4 w 10) (fin4 w 5))
  | 4 => given (bits w 17 14 == 0 && bits w 9 9 == 0) (.vrminn (fin4 w 22) (fin4 w 18) (fin4 w 10) (fin4 w 5))
  | 5 => given (bits w 17 14 == 0 && bits w 9 9 == 0) (.vfrsum (fin4 w 22) (fin4 w 18) (fin4 w 10) (fin4 w 5))
  | 6 => given (bits w 17 14 == 0 && bits w 9 9 == 0) (.vfrmax (fin4 w 22) (fin4 w 18) (fin4 w 10) (fin4 w 5))
  | 7 => given (bits w 17 14 == 0 && bits w 9 9 == 0) (.vfrmin (fin4 w 22) (fin4 w 18) (fin4 w 10) (fin4 w 5))
  | 8 => given (bits w 17 14 == 0 && bits w 9 9 == 0) (.vrand (fin4 w 22) (fin4 w 18) (fin4 w 10) (fin4 w 5))
  | 9 => given (bits w 17 14 == 0 && bits w 9 9 == 0) (.vror (fin4 w 22) (fin4 w 18) (fin4 w 10) (fin4 w 5))
  | _ => .error .noMinor

/-- Major 0x25 (08 R160). -/
def decodeVcv (w : Nat) : Decoded :=
  match bits w 4 0 with
  | 0 => .ok (.vcvt (fin4 w 22) (fin4 w 18) (fin4 w 14) (fin4 w 10) (fin1 w 9) (fin4 w 5))
  | 1 => .ok (.vdec (fin4 w 22) (fin4 w 18) (fin4 w 14) (fin4 w 10) (fin1 w 9) (fin4 w 5))
  | 2 => .ok (.venc (fin4 w 22) (fin4 w 18) (fin4 w 14) (fin4 w 10) (fin1 w 9) (fin4 w 5))
  | 3 => .ok (.vscl (fin4 w 22) (fin4 w 18) (fin4 w 14) (fin4 w 10) (fin1 w 9) (fin4 w 5))
  | _ => .error .noMinor

/-- Major 0x26 (07 R135). -/
def decodeVld (w : Nat) : Decoded :=
  match bits w 2 0 with
  | 0 => given (bits w 6 6 == 0) (.vld (fin4 w 22) (fin5 w 17) (fin5 w 12) (fin4 w 8) (fin1 w 7) (fin3 w 3))
  | 1 => given (bits w 6 6 == 0) (.vlds (fin4 w 22) (fin5 w 17) (fin5 w 12) (fin4 w 8) (fin1 w 7) (fin3 w 3))
  | 2 => given (bits w 6 6 == 0) (.vldb (fin4 w 22) (fin5 w 17) (fin5 w 12) (fin4 w 8) (fin1 w 7) (fin3 w 3))
  | 3 => given (bits w 25 22 == 0 && bits w 16 4 == 0) (.vtbl (fin5 w 17) (fin1 w 3))
  | _ => .error .noMinor

/-- Major 0x27 (07 R135). -/
def decodeVst (w : Nat) : Decoded :=
  match bits w 2 0 with
  | 0 => given (bits w 7 6 == 0) (.vst (fin4 w 22) (fin5 w 17) (fin5 w 12) (fin4 w 8) (fin3 w 3))
  | 1 => given (bits w 7 6 == 0) (.vsts (fin4 w 22) (fin5 w 17) (fin5 w 12) (fin4 w 8) (fin3 w 3))
  | 2 => given (bits w 7 3 == 0) (.vstnib (fin4 w 22) (fin5 w 17) (fin5 w 12) (fin4 w 8))
  | _ => .error .noMinor

/-- Major 0x28 (07 R139). -/
def decodeVmv (w : Nat) : Decoded :=
  match bits w 2 0 with
  | 0 => given (bits w 11 6 == 0) (.vins (fin4 w 22) (fin5 w 17) (fin5 w 12) (fin3 w 3))
  | 1 => given (bits w 11 6 == 0) (.vext (fin4 w 22) (fin5 w 17) (fin5 w 12) (fin3 w 3))
  | 2 => given (bits w 16 12 == 0 && bits w 7 6 == 0) (.vsplat (fin4 w 22) (fin5 w 17) (fin4 w 8) (fin3 w 3))
  | _ => .error .noMinor

/-- A captured word of a repeat frame: majors 0x20 to 0x28 (03 R65). -/
def decodeVector (w : Nat) : Decoded :=
  match bits w 31 26 with
  | 32 => decodeVa w
  | 33 => decodeVf w
  | 34 => decodeVc w
  | 35 => decodeVm w
  | 36 => decodeVr w
  | 37 => decodeVcv w
  | 38 => decodeVld w
  | 39 => decodeVst w
  | 40 => decodeVmv w
  | _ => .error .noMajor

/-- A word of majors 0x20 to 0x28 is legal under rules 1 to 7 of 03 R62. -/
def vectorWordOk (w : Nat) : Bool :=
  match decodeVector w with
  | .ok i => i.wf
  | .error _ => false

/-- Major 0x2A (11 R209). -/
def decodeMsg (w : Nat) : Decoded :=
  match bits w 10 5 with
  | 0 => given (bits w 25 21 == 0 && bits w 4 3 == 0) (.send (fin5 w 16) (fin5 w 11) (fin3 w 0))
  | 1 => given (bits w 25 21 == 0 && bits w 15 15 == 0 && bits w 4 3 == 0) (.sendv (fin5 w 16) (fin4 w 11) (fin3 w 0))
  | 2 => given (bits w 20 11 == 0 && bits w 4 4 == 0) (.mget (fin5 w 21) (fin4 w 0))
  | 3 => given (bits w 25 25 == 0 && bits w 20 11 == 0 && bits w 4 1 == 0) (.vmget (fin4 w 21) (fin1 w 0))
  | 4 => given (bits w 25 11 == 0 && bits w 4 0 == 0) .mrel
  | 5 => given (bits w 25 21 == 0 && bits w 4 2 == 0) (.htset (fin5 w 16) (fin5 w 11) (fin2 w 0))
  | 6 => given (bits w 25 11 == 0 && bits w 4 0 == 0) .htsync
  | _ => .error .noMinor

/-- Major 0x2B (11 R219). -/
def decodeTask (w : Nat) : Decoded :=
  match bits w 10 5 with
  | 0 => given (bits w 25 21 == 0 && bits w 15 11 == 0 && bits w 4 0 == 0) (.dqpush (fin5 w 16))
  | 1 => given (bits w 15 11 == 0 && bits w 4 0 == 0) (.dqpop (fin5 w 21) (fin5 w 16))
  | 2 => given (bits w 25 21 == 0 && bits w 15 11 == 0 && bits w 4 3 == 0) (.spawn (fin5 w 16) (fin3 w 0))
  | 3 => given (bits w 25 21 == 0 && bits w 15 11 == 0 && bits w 4 3 == 0) (.actdecl (fin5 w 16) (fin3 w 0))
  | 4 => given (bits w 25 11 == 0 && bits w 4 3 == 0) (.actarm (fin3 w 0))
  | 5 => given (bits w 25 11 == 0 && bits w 4 3 == 0) (.actoff (fin3 w 0))
  | 6 => given (bits w 20 11 == 0 && bits w 4 0 == 0) (.dqstat (fin5 w 21))
  | _ => .error .noMinor

/-- Major 0x2C (11 R224, 15 R293). -/
def decodeBar (w : Nat) : Decoded :=
  match bits w 10 5 with
  | 0 => given (bits w 15 11 == 0) (.barArr (fin5 w 21) (fin5 w 16) (fin5 w 0))
  | 1 => given (bits w 25 21 == 0) (.barWait (fin5 w 16) (fin5 w 11) (fin5 w 0))
  | 2 => given (bits w 15 11 == 0) (.barArrw (fin5 w 21) (fin5 w 16) (fin5 w 0))
  | 3 => given (bits w 4 3 == 0) (.obarArr (fin5 w 21) (fin5 w 16) (fin5 w 11) (fin3 w 0))
  | 4 => given (bits w 25 21 == 0 && bits w 4 3 == 0) (.obarWait (fin5 w 16) (fin5 w 11) (fin3 w 0))
  | _ => .error .noMinor

/-- Major 0x2D (12 R244). -/
def decodeRing (w : Nat) : Decoded :=
  match bits w 10 5 with
  | 0 => given (bits w 25 21 == 0 && bits w 15 11 == 0 && bits w 4 0 == 0) (.rcfg (fin5 w 16))
  | 1 => given (bits w 15 11 == 0 && bits w 4 0 == 0) (.rinj (fin5 w 21) (fin5 w 16))
  | 2 => given (bits w 25 21 == 0 && bits w 4 0 == 0) (.rmset (fin5 w 16) (fin5 w 11))
  | 3 => given (bits w 25 21 == 0 && bits w 4 0 == 0) (.rmclr (fin5 w 16) (fin5 w 11))
  | 4 => given (bits w 25 21 == 0 && bits w 4 4 == 0) (.rphase (fin5 w 16) (fin5 w 11) (fin1 w 3) (fin3 w 0))
  | 5 => given (bits w 15 11 == 0 && bits w 4 3 == 0) (.rcnt (fin5 w 21) (fin5 w 16) (fin2 w 1) (fin1 w 0))
  | 6 => given (bits w 20 16 == 0 && bits w 4 0 == 0) (.rfetch (fin5 w 21) (fin5 w 11))
  | 7 => given (bits w 20 11 == 0 && bits w 4 1 == 0) (.rdrain (fin5 w 21) (fin1 w 0))
  | _ => .error .noMinor

/-- Major 0x2E (17 R309). -/
def decodeCpy (w : Nat) : Decoded :=
  match bits w 3 0 with
  | 0 => given (bits w 15 4 == 0) (.cwait (fin5 w 21) (fin5 w 16))
  | 1 => given (bits w 20 4 == 0) (.cstat (fin5 w 21))
  | 2 => given (bits w 15 4 == 0) (.ccancel (fin5 w 21) (fin5 w 16))
  | _ => .error .noMinor

/-- Major 0x2F (17 R311). -/
def decodeGs (w : Nat) : Decoded :=
  match bits w 2 0 with
  | 0 => given (bits w 16 15 == 0 && bits w 6 6 == 0) (.vgath (fin4 w 22) (fin5 w 17) (fin3 w 12) (fin4 w 8) (fin1 w 7) (fin3 w 3))
  | 1 => given (bits w 16 15 == 0 && bits w 7 6 == 0) (.vscat (fin4 w 22) (fin5 w 17) (fin3 w 12) (fin4 w 8) (fin3 w 3))
  | 2 => given (bits w 16 15 == 0 && bits w 7 6 == 0) (.vscadd (fin4 w 22) (fin5 w 17) (fin3 w 12) (fin4 w 8) (fin3 w 3))
  | 3 => given (bits w 16 15 == 0 && bits w 6 6 == 0 && bits w 4 3 == 2) (.vgathw (fin4 w 22) (fin5 w 17) (fin3 w 12) (fin4 w 8) (fin1 w 7) (fin1 w 5))
  | _ => .error .noMinor

/-- Major 0x30 (18 R326). -/
def decodeSp (w : Nat) : Decoded :=
  match bits w 10 5 with
  | 0 => given (bits w 15 11 == 0 && bits w 4 0 == 0) (.mverOpen (fin5 w 21) (fin5 w 16))
  | 1 => given (bits w 15 11 == 0 && bits w 4 0 == 0) (.mverTag (fin5 w 21) (fin5 w 16))
  | 2 => given (bits w 25 21 == 0 && bits w 4 0 == 0) (.mverDone (fin5 w 16) (fin5 w 11))
  | 3 => given (bits w 15 11 == 0 && bits w 4 3 == 0) (.mverStat (fin5 w 21) (fin5 w 16) (fin3 w 0))
  | 4 => given (bits w 15 11 == 0 && bits w 4 2 == 0) (.prgGo (fin5 w 21) (fin5 w 16) (fin2 w 0))
  | 5 => given (bits w 15 11 == 0 && bits w 4 0 == 0) (.prgStat (fin5 w 21) (fin5 w 16))
  | 6 => given (bits w 15 11 == 0 && bits w 4 0 == 0) (.stash (fin5 w 21) (fin5 w 16))
  | 7 => given (bits w 4 1 == 0) (.unstash (fin5 w 21) (fin5 w 16) (fin5 w 11) (fin1 w 0))
  | 8 => given (bits w 4 2 == 0) (.wshad (fin5 w 21) (fin5 w 16) (fin5 w 11) (fin2 w 0))
  | _ => .error .noMinor

/-- Major 0x31 (17 R318). -/
def decodeLife (w : Nat) : Decoded :=
  match bits w 10 5 with
  | 0 => given (bits w 15 11 == 0 && bits w 4 0 == 0) (.ltdecl (fin5 w 21) (fin5 w 16))
  | 1 => given (bits w 4 0 == 0) (.ltuse (fin5 w 21) (fin5 w 16) (fin5 w 11))
  | 2 => given (bits w 25 21 == 0 && bits w 15 11 == 0 && bits w 4 1 == 0) (.ltdrop (fin5 w 16) (fin1 w 0))
  | 3 => given (bits w 15 11 == 0 && bits w 4 0 == 0) (.ltstat (fin5 w 21) (fin5 w 16))
  | _ => .error .noMinor

/-- Major 0x32 (21 R379). -/
def decodeXd (w : Nat) : Decoded :=
  match bits w 10 5 with
  | 0 => given (bits w 4 0 == 0) (.rbput (fin5 w 21) (fin5 w 16) (fin5 w 11))
  | 1 => given (bits w 15 11 == 0 && bits w 4 0 == 0) (.rbret (fin5 w 21) (fin5 w 16))
  | 2 => given (bits w 15 11 == 0 && bits w 4 0 == 0) (.rbstat (fin5 w 21) (fin5 w 16))
  | 3 => given (bits w 15 11 == 0 && bits w 4 0 == 0) (.collGo (fin5 w 21) (fin5 w 16))
  | 4 => given (bits w 15 11 == 0 && bits w 4 0 == 0) (.collWait (fin5 w 21) (fin5 w 16))
  | 5 => given (bits w 15 11 == 0 && bits w 4 0 == 0) (.rsplan (fin5 w 21) (fin5 w 16))
  | 6 => given (bits w 15 11 == 0 && bits w 4 0 == 0) (.rsgo (fin5 w 21) (fin5 w 16))
  | 7 => given (bits w 15 11 == 0 && bits w 4 0 == 0) (.rsstat (fin5 w 21) (fin5 w 16))
  | 8 => given (bits w 15 11 == 0 && bits w 4 0 == 0) (.lkput (fin5 w 21) (fin5 w 16))
  | _ => .error .noMinor

/-- Major 0x33 (20 R368). -/
noncomputable def decodePerf (w : Nat) : Decoded :=
  match bits w 10 5 with
  | 0 => given (bits w 25 21 == 0 && bits w 15 11 == 0 && bits w 4 3 == 0) (.pmcfg (fin5 w 16) (fin3 w 0))
  | 1 =>
    match bits w 4 0 with
    | 0 => given (bits w 15 11 == 0) (.pmrdCore (fin5 w 21) (fin5 w 16))
    | 1 => given (bits w 15 11 == 0) (.pmrdSlice (fin5 w 21) (fin5 w 16))
    | _ => .error .outsideLimits
  | 2 =>
    match bits w 4 0 with
    | 0 => given (bits w 15 11 == 0) (.jrnlStart (fin5 w 21) (fin5 w 16))
    | 1 => given (bits w 15 11 == 0) (.jrnlStop (fin5 w 21) (fin5 w 16))
    | 2 => given (bits w 15 11 == 0) (.jrnlMark (fin5 w 21) (fin5 w 16))
    | 3 => given (bits w 15 11 == 0) (.jrnlStatus (fin5 w 21) (fin5 w 16))
    | _ => .error .outsideLimits
  | 3 => given (bits w 15 11 == 0 && bits w 4 1 == 0) (.fcstrd (fin5 w 21) (fin5 w 16) (fin1 w 0))
  | _ => .error .noMinor

/-- The instruction that the fields of a word name (03 R60), before the limits of its minor. -/
noncomputable def decodeFields (w : Nat) : Decoded :=
  match bits w 31 26 with
  | 1 => decodeAlu w
  | 2 => .ok (.addi (fin5 w 21) (fin5 w 16) (bv16 w 0))
  | 3 => .ok (.andi (fin5 w 21) (fin5 w 16) (bv16 w 0))
  | 4 => .ok (.ori (fin5 w 21) (fin5 w 16) (bv16 w 0))
  | 5 => .ok (.xori (fin5 w 21) (fin5 w 16) (bv16 w 0))
  | 6 => decodeShi w
  | 7 => .ok (.slti (fin5 w 21) (fin5 w 16) (bv16 w 0))
  | 8 => .ok (.sltni (fin5 w 21) (fin5 w 16) (bv16 w 0))
  | 9 => decodeSetq w
  | 10 => given (bits w 20 16 == 0) (.pcadd (fin5 w 21) (bv16 w 0))
  | 11 => decodeLd w
  | 12 => decodeSt w
  | 13 => given (bits w 15 11 == 0 && bits w 7 1 == 64) (.lda (fin5 w 21) (fin5 w 16) (fin3 w 8) (fin1 w 0))
  | 14 => given (bits w 25 21 == 0 && bits w 7 1 == 32) (.str (fin5 w 16) (fin5 w 11) (fin3 w 8) (fin1 w 0))
  | 15 => decodeAmo w
  | 16 => given (bits w 25 11 == 0 && bits w 7 5 == 0) (.fence (fin3 w 8) (fin5 w 0))
  | 17 => .ok (.beq (fin5 w 21) (fin5 w 16) (bv16 w 0))
  | 18 => .ok (.bne (fin5 w 21) (fin5 w 16) (bv16 w 0))
  | 19 => .ok (.blt (fin5 w 21) (fin5 w 16) (bv16 w 0))
  | 20 => .ok (.bge (fin5 w 21) (fin5 w 16) (bv16 w 0))
  | 21 => .ok (.bltn (fin5 w 21) (fin5 w 16) (bv16 w 0))
  | 22 => .ok (.bgen (fin5 w 21) (fin5 w 16) (bv16 w 0))
  | 23 => .ok (.jal (fin5 w 21) (bv21 w 0))
  | 24 => .ok (.jalr (fin5 w 21) (fin5 w 16) (bv16 w 0))
  | 25 => decodeSys w
  | 26 => if bits w 15 0 == 24 then given (bits w 20 16 == 0) (.cpyLaunch (fin5 w 21)) else given (bits w 20 16 == 0) (.sprd (fin5 w 21) (bv16 w 0))
  | 27 => given (bits w 25 21 == 0) (.spwr (fin5 w 16) (bv16 w 0))
  | 28 => given (bits w 3 0 == 0) (.rpt (fin4 w 22) (fin6 w 16) (fin3 w 13) (fin3 w 10) (fin3 w 7) (fin3 w 4))
  | 29 => decodeCb w
  | 30 => decodeBs w
  | 31 => decodeLa w
  | 32 => decodeVa w
  | 33 => decodeVf w
  | 34 => decodeVc w
  | 35 => decodeVm w
  | 36 => decodeVr w
  | 37 => decodeVcv w
  | 38 => decodeVld w
  | 39 => decodeVst w
  | 40 => decodeVmv w
  | 42 => decodeMsg w
  | 43 => decodeTask w
  | 44 => decodeBar w
  | 45 => decodeRing w
  | 46 => decodeCpy w
  | 47 => decodeGs w
  | 48 => decodeSp w
  | 49 => decodeLife w
  | 50 => decodeXd w
  | 51 => decodePerf w
  | _ => .error .noMajor

/-- The instruction a 32-bit word is, or the rule of 03 R62 that it breaks. -/
noncomputable def decodeWord (w : Nat) : Decoded :=
  if w = 0 then .error .zeroWord
  else match decodeFields w with
    | .error e => .error e
    | .ok i => if i.wf then .ok i else .error .outsideLimits

/-- The word whose bytes stand at ascending addresses (03 R53). -/
def wordOfBytes (b0 b1 b2 b3 : Byte) : Nat := b0.toNat + b1.toNat * 2 ^ 8 + b2.toNat * 2 ^ 16 + b3.toNat * 2 ^ 24

/-- The decoder on bytes: the first four are the word (03 R53). -/
noncomputable def decode : List Byte → Decoded
  | b0 :: b1 :: b2 :: b3 :: _ => decodeWord (wordOfBytes b0 b1 b2 b3)
  | _ => .error .tooShort

/-- The bytes of a word, the least significant first (03 R53). -/
def bytesOfWord (w : Nat) : List Byte :=
  [BitVec.ofNat 8 w, BitVec.ofNat 8 (w / 2 ^ 8), BitVec.ofNat 8 (w / 2 ^ 16), BitVec.ofNat 8 (w / 2 ^ 24)]

/-- The instruction that the decoder reads from a word numbered as the opcode table numbers it. -/
noncomputable def decodeTableWord (nbits w : Nat) : Option Instr :=
  match decode (bytesOfWord (w % 2 ^ nbits)) with
  | .ok i => some i
  | .error _ => none

/-- Format F-R: op, rd, ra, rb, fn, sh (03 R55). -/
def wordR (op rd ra rb fn sh : Nat) : Nat := op * 2 ^ 26 + rd * 2 ^ 21 + ra * 2 ^ 16 + rb * 2 ^ 11 + fn * 2 ^ 5 + sh

/-- Format F-I: op, rd, ra, imm (03 R55). -/
def wordI (op rd ra imm : Nat) : Nat := op * 2 ^ 26 + rd * 2 ^ 21 + ra * 2 ^ 16 + imm

/-- Format F-M: op, data register, base register, size, offset (03 R55). -/
def wordM (op rd ra sz off : Nat) : Nat := op * 2 ^ 26 + rd * 2 ^ 21 + ra * 2 ^ 16 + sz * 2 ^ 13 + off

/-- Format F-A: op, rd, ra, rb, scope, acquire, release, fn (03 R55). -/
def wordA (op rd ra rb sc aq rl fn : Nat) : Nat :=
  op * 2 ^ 26 + rd * 2 ^ 21 + ra * 2 ^ 16 + rb * 2 ^ 11 + sc * 2 ^ 8 + aq * 2 ^ 7 + rl * 2 ^ 6 + fn

/-- Format F-B: op, the compared registers, the word offset (03 R55). -/
def wordB (op ra rb off : Nat) : Nat := op * 2 ^ 26 + ra * 2 ^ 21 + rb * 2 ^ 16 + off

/-- Format F-J: op, link register, word offset (03 R55). -/
def wordJ (op rd off : Nat) : Nat := op * 2 ^ 26 + rd * 2 ^ 21 + off

/-- Format F-V: op, vd, va, vb, mask, policy, type, fn (03 R55). -/
def wordV (op vd va vb vm mp dt fn : Nat) : Nat :=
  op * 2 ^ 26 + vd * 2 ^ 22 + va * 2 ^ 18 + vb * 2 ^ 14 + vm * 2 ^ 10 + mp * 2 ^ 9 + dt * 2 ^ 5 + fn

/-- Format F-W: op, vd, ra, rb, mask, policy, narrow type, fn (03 R55). -/
def wordW (op vd ra rb vm mp dt fn : Nat) : Nat :=
  op * 2 ^ 26 + vd * 2 ^ 22 + ra * 2 ^ 17 + rb * 2 ^ 12 + vm * 2 ^ 8 + mp * 2 ^ 7 + dt * 2 ^ 3 + fn

/-- Format F-C: op, scalar register, handle, need, offset, fn (03 R55). -/
def wordC (op x cb need off fn : Nat) : Nat :=
  op * 2 ^ 26 + x * 2 ^ 21 + cb * 2 ^ 18 + need * 2 ^ 15 + off * 2 ^ 7 + fn

/-- Format F-P: op, captured count, passes, increments (03 R55). -/
def wordP (op cnt rep sd sa sb sm : Nat) : Nat :=
  op * 2 ^ 26 + cnt * 2 ^ 22 + rep * 2 ^ 16 + sd * 2 ^ 13 + sa * 2 ^ 10 + sb * 2 ^ 7 + sm * 2 ^ 4

/-- Format F-G: op, rd, ra, rb, fn, k (03 R55). -/
def wordG (op rd ra rb fn k : Nat) : Nat := op * 2 ^ 26 + rd * 2 ^ 21 + ra * 2 ^ 16 + rb * 2 ^ 11 + fn * 2 ^ 5 + k

/-- The word of an instruction (03 R55, R60); the steps that are not words have none. -/
def encode : Instr → Option Nat
  | .illegalWord _ => none
  | .add rd ra rb => some (wordR 1 rd.val ra.val rb.val 0 0)
  | .sub rd ra rb => some (wordR 1 rd.val ra.val rb.val 1 0)
  | .and rd ra rb => some (wordR 1 rd.val ra.val rb.val 2 0)
  | .or rd ra rb => some (wordR 1 rd.val ra.val rb.val 3 0)
  | .xor rd ra rb => some (wordR 1 rd.val ra.val rb.val 4 0)
  | .andn rd ra rb => some (wordR 1 rd.val ra.val rb.val 5 0)
  | .sll rd ra rb => some (wordR 1 rd.val ra.val rb.val 6 0)
  | .srl rd ra rb => some (wordR 1 rd.val ra.val rb.val 7 0)
  | .sra rd ra rb => some (wordR 1 rd.val ra.val rb.val 8 0)
  | .slt rd ra rb => some (wordR 1 rd.val ra.val rb.val 9 0)
  | .sltn rd ra rb => some (wordR 1 rd.val ra.val rb.val 10 0)
  | .mul rd ra rb => some (wordR 1 rd.val ra.val rb.val 11 0)
  | .mulh rd ra rb => some (wordR 1 rd.val ra.val rb.val 12 0)
  | .mulhn rd ra rb => some (wordR 1 rd.val ra.val rb.val 13 0)
  | .div rd ra rb => some (wordR 1 rd.val ra.val rb.val 14 0)
  | .divn rd ra rb => some (wordR 1 rd.val ra.val rb.val 15 0)
  | .rem rd ra rb => some (wordR 1 rd.val ra.val rb.val 16 0)
  | .remn rd ra rb => some (wordR 1 rd.val ra.val rb.val 17 0)
  | .min rd ra rb => some (wordR 1 rd.val ra.val rb.val 18 0)
  | .max rd ra rb => some (wordR 1 rd.val ra.val rb.val 19 0)
  | .minn rd ra rb => some (wordR 1 rd.val ra.val rb.val 20 0)
  | .maxn rd ra rb => some (wordR 1 rd.val ra.val rb.val 21 0)
  | .clz rd ra => some (wordR 1 rd.val ra.val 0 22 0)
  | .ctz rd ra => some (wordR 1 rd.val ra.val 0 23 0)
  | .popc rd ra => some (wordR 1 rd.val ra.val 0 24 0)
  | .sext rd ra sh => some (wordR 1 rd.val ra.val 0 25 sh.val)
  | .zext rd ra sh => some (wordR 1 rd.val ra.val 0 26 sh.val)
  | .addx rd ra rb sh => some (wordR 1 rd.val ra.val rb.val 27 sh.val)
  | .rotl rd ra rb sh => some (wordR 1 rd.val ra.val rb.val 28 sh.val)
  | .bext rd ra rb sh => some (wordR 1 rd.val ra.val rb.val 29 sh.val)
  | .cmov rd ra rb => some (wordR 1 rd.val ra.val rb.val 30 0)
  | .addi rd ra imm => some (wordI 2 rd.val ra.val imm.toNat)
  | .andi rd ra imm => some (wordI 3 rd.val ra.val imm.toNat)
  | .ori rd ra imm => some (wordI 4 rd.val ra.val imm.toNat)
  | .xori rd ra imm => some (wordI 5 rd.val ra.val imm.toNat)
  | .slli rd ra n => some (wordI 6 rd.val ra.val n.val)
  | .srli rd ra n => some (wordI 6 rd.val ra.val (64 + n.val))
  | .srai rd ra n => some (wordI 6 rd.val ra.val (128 + n.val))
  | .slti rd ra imm => some (wordI 7 rd.val ra.val imm.toNat)
  | .sltni rd ra imm => some (wordI 8 rd.val ra.val imm.toNat)
  | .setqZ rd q imm => some (wordI 9 rd.val q.val imm.toNat)
  | .setqK rd q imm => some (wordI 9 rd.val (16 + q.val) imm.toNat)
  | .pcadd rd imm => some (wordI 10 rd.val 0 imm.toNat)
  | .ldB rd ra off => some (wordM 11 rd.val ra.val 0 off.toNat)
  | .ldH rd ra off => some (wordM 11 rd.val ra.val 1 off.toNat)
  | .ldW rd ra off => some (wordM 11 rd.val ra.val 2 off.toNat)
  | .ldD rd ra off => some (wordM 11 rd.val ra.val 3 off.toNat)
  | .ldBn rd ra off => some (wordM 11 rd.val ra.val 4 off.toNat)
  | .ldHn rd ra off => some (wordM 11 rd.val ra.val 5 off.toNat)
  | .ldWn rd ra off => some (wordM 11 rd.val ra.val 6 off.toNat)
  | .stB rs ra off => some (wordM 12 rs.val ra.val 0 off.toNat)
  | .stH rs ra off => some (wordM 12 rs.val ra.val 1 off.toNat)
  | .stW rs ra off => some (wordM 12 rs.val ra.val 2 off.toNat)
  | .stD rs ra off => some (wordM 12 rs.val ra.val 3 off.toNat)
  | .stNib rs ra off => some (wordM 12 rs.val ra.val 4 off.toNat)
  | .lda rd ra sc wd => some (wordA 13 rd.val ra.val 0 sc.val 1 0 wd.val)
  | .str ra rb sc wd => some (wordA 14 0 ra.val rb.val sc.val 0 1 wd.val)
  | .amoadd rd ra rb sc aq rl wd => some (wordA 15 rd.val ra.val rb.val sc.val aq.val rl.val (wd.val * 16))
  | .amoswap rd ra rb sc aq rl wd => some (wordA 15 rd.val ra.val rb.val sc.val aq.val rl.val (1 + wd.val * 16))
  | .amoand rd ra rb sc aq rl wd => some (wordA 15 rd.val ra.val rb.val sc.val aq.val rl.val (2 + wd.val * 16))
  | .amoor rd ra rb sc aq rl wd => some (wordA 15 rd.val ra.val rb.val sc.val aq.val rl.val (3 + wd.val * 16))
  | .amoxor rd ra rb sc aq rl wd => some (wordA 15 rd.val ra.val rb.val sc.val aq.val rl.val (4 + wd.val * 16))
  | .amomin rd ra rb sc aq rl wd => some (wordA 15 rd.val ra.val rb.val sc.val aq.val rl.val (5 + wd.val * 16))
  | .amomax rd ra rb sc aq rl wd => some (wordA 15 rd.val ra.val rb.val sc.val aq.val rl.val (6 + wd.val * 16))
  | .amominn rd ra rb sc aq rl wd => some (wordA 15 rd.val ra.val rb.val sc.val aq.val rl.val (7 + wd.val * 16))
  | .amomaxn rd ra rb sc aq rl wd => some (wordA 15 rd.val ra.val rb.val sc.val aq.val rl.val (8 + wd.val * 16))
  | .amocas rd ra rb sc aq rl wd => some (wordA 15 rd.val ra.val rb.val sc.val aq.val rl.val (9 + wd.val * 16))
  | .amocasq rd ra rb sc aq rl => some (wordA 15 rd.val ra.val rb.val sc.val aq.val rl.val 26)
  | .amodecp rd ra rb sc aq rl wd => some (wordA 15 rd.val ra.val rb.val sc.val aq.val rl.val (11 + wd.val * 16))
  | .amofaddS rd ra rb sc aq rl => some (wordA 15 rd.val ra.val rb.val sc.val aq.val rl.val 12)
  | .amofaddD rd ra rb sc aq rl => some (wordA 15 rd.val ra.val rb.val sc.val aq.val rl.val 29)
  | .fence sc kinds => some (wordA 16 0 0 0 sc.val 0 0 kinds.val)
  | .beq ra rb off => some (wordB 17 ra.val rb.val off.toNat)
  | .bne ra rb off => some (wordB 18 ra.val rb.val off.toNat)
  | .blt ra rb off => some (wordB 19 ra.val rb.val off.toNat)
  | .bge ra rb off => some (wordB 20 ra.val rb.val off.toNat)
  | .bltn ra rb off => some (wordB 21 ra.val rb.val off.toNat)
  | .bgen ra rb off => some (wordB 22 ra.val rb.val off.toNat)
  | .jal rd off => some (wordJ 23 rd.val off.toNat)
  | .jalr rd ra imm => some (wordI 24 rd.val ra.val imm.toNat)
  | .done => some (wordI 25 0 0 0)
  | .yield => some (wordI 25 0 0 1)
  | .trap code => some (wordI 25 0 0 (2 + code.toNat * 16))
  | .tret => some (wordI 25 0 0 3)
  | .brk code => some (wordI 25 0 0 (4 + code.toNat * 16))
  | .wpswap rd ra => some (wordI 25 rd.val ra.val 5)
  | .wfe => some (wordI 25 0 0 6)
  | .nop => some (wordI 25 0 0 7)
  | .mqwait n => some (wordI 25 0 0 (8 + n.val * 16))
  | .sprd rd imm => some (wordI 26 rd.val 0 imm.toNat)
  | .cpyLaunch rd => some (wordI 26 rd.val 0 24)
  | .spwr ra imm => some (wordI 27 0 ra.val imm.toNat)
  | .rpt cnt rep sd sa sb sm => some (wordP 28 cnt.val rep.val sd.val sa.val sb.val sm.val)
  | .cbbind x cb => some (wordC 29 x.val cb.val 0 0 0)
  | .cbget x cb need off => some (wordC 29 x.val cb.val need.val off.toNat 1)
  | .cbput x cb need off => some (wordC 29 x.val cb.val need.val off.toNat 2)
  | .cbpop x cb need => some (wordC 29 x.val cb.val need.val 0 3)
  | .cbpush x cb need => some (wordC 29 x.val cb.val need.val 0 4)
  | .cbstat x cb => some (wordC 29 x.val cb.val 0 0 5)
  | .cbwfill x cb need off => some (wordC 29 x.val cb.val need.val off.toNat 6)
  | .cbwfree x cb need off => some (wordC 29 x.val cb.val need.val off.toNat 7)
  | .bsinit ra dir => some (wordI 30 0 ra.val dir.val)
  | .bsget rd n => some (wordI 30 rd.val 0 (4096 + n.val))
  | .bspeek rd n => some (wordI 30 rd.val 0 (8192 + n.val))
  | .bsskip n => some (wordI 30 0 0 (12288 + n.val))
  | .bsput ra n => some (wordI 30 0 ra.val (16384 + n.val))
  | .bsflush => some (wordI 30 0 0 20480)
  | .bsalign => some (wordI 30 0 0 24576)
  | .bspos rd => some (wordI 30 rd.val 0 28672)
  | .laclr ra => some (wordR 31 0 ra.val 0 0 0)
  | .laaddD ra rb => some (wordR 31 0 ra.val rb.val 1 0)
  | .lamulD rd ra rb => some (wordR 31 rd.val ra.val rb.val 2 0)
  | .lasubD ra rb => some (wordR 31 0 ra.val rb.val 3 0)
  | .laaddS ra rb => some (wordR 31 0 ra.val rb.val 4 0)
  | .larndD rd ra => some (wordR 31 rd.val ra.val 0 5 0)
  | .larndS rd ra => some (wordR 31 rd.val ra.val 0 6 0)
  | .lastat rd ra => some (wordR 31 rd.val ra.val 0 7 0)
  | .vadd vd va vb vm mp dt => some (wordV 32 vd.val va.val vb.val vm.val mp.val dt.val 0)
  | .vsub vd va vb vm mp dt => some (wordV 32 vd.val va.val vb.val vm.val mp.val dt.val 1)
  | .vmul vd va vb vm mp dt => some (wordV 32 vd.val va.val vb.val vm.val mp.val dt.val 2)
  | .vmulh vd va vb vm mp dt => some (wordV 32 vd.val va.val vb.val vm.val mp.val dt.val 3)
  | .vmin vd va vb vm mp dt => some (wordV 32 vd.val va.val vb.val vm.val mp.val dt.val 4)
  | .vmax vd va vb vm mp dt => some (wordV 32 vd.val va.val vb.val vm.val mp.val dt.val 5)
  | .vand vd va vb vm mp dt => some (wordV 32 vd.val va.val vb.val vm.val mp.val dt.val 6)
  | .vor vd va vb vm mp dt => some (wordV 32 vd.val va.val vb.val vm.val mp.val dt.val 7)
  | .vxor vd va vb vm mp dt => some (wordV 32 vd.val va.val vb.val vm.val mp.val dt.val 8)
  | .vsll vd va vb vm mp dt => some (wordV 32 vd.val va.val vb.val vm.val mp.val dt.val 9)
  | .vsrl vd va vb vm mp dt => some (wordV 32 vd.val va.val vb.val vm.val mp.val dt.val 10)
  | .vsra vd va vb vm mp dt => some (wordV 32 vd.val va.val vb.val vm.val mp.val dt.val 11)
  | .vabs vd va vm mp dt => some (wordV 32 vd.val va.val 0 vm.val mp.val dt.val 12)
  | .vsadd vd va vb vm mp dt => some (wordV 32 vd.val va.val vb.val vm.val mp.val dt.val 13)
  | .vssub vd va vb vm mp dt => some (wordV 32 vd.val va.val vb.val vm.val mp.val dt.val 14)
  | .vfadd vd va vb vm mp dt => some (wordV 33 vd.val va.val vb.val vm.val mp.val dt.val 0)
  | .vfsub vd va vb vm mp dt => some (wordV 33 vd.val va.val vb.val vm.val mp.val dt.val 1)
  | .vfmul vd va vb vm mp dt => some (wordV 33 vd.val va.val vb.val vm.val mp.val dt.val 2)
  | .vfma vd va vb vm mp dt => some (wordV 33 vd.val va.val vb.val vm.val mp.val dt.val 3)
  | .vfms vd va vb vm mp dt => some (wordV 33 vd.val va.val vb.val vm.val mp.val dt.val 4)
  | .vfnma vd va vb vm mp dt => some (wordV 33 vd.val va.val vb.val vm.val mp.val dt.val 5)
  | .vfmin vd va vb vm mp dt => some (wordV 33 vd.val va.val vb.val vm.val mp.val dt.val 6)
  | .vfmax vd va vb vm mp dt => some (wordV 33 vd.val va.val vb.val vm.val mp.val dt.val 7)
  | .vfabs vd va vm mp dt => some (wordV 33 vd.val va.val 0 vm.val mp.val dt.val 8)
  | .vfneg vd va vm mp dt => some (wordV 33 vd.val va.val 0 vm.val mp.val dt.val 9)
  | .vfdiv vd va vb vm mp dt => some (wordV 33 vd.val va.val vb.val vm.val mp.val dt.val 10)
  | .vfsqrt vd va vm mp dt => some (wordV 33 vd.val va.val 0 vm.val mp.val dt.val 11)
  | .vfclass vd va vm mp dt => some (wordV 33 vd.val va.val 0 vm.val mp.val dt.val 12)
  | .vceq vd va vb vm mp dt => some (wordV 34 vd.val va.val vb.val vm.val mp.val dt.val 0)
  | .vcne vd va vb vm mp dt => some (wordV 34 vd.val va.val vb.val vm.val mp.val dt.val 1)
  | .vclt vd va vb vm mp dt => some (wordV 34 vd.val va.val vb.val vm.val mp.val dt.val 2)
  | .vcle vd va vb vm mp dt => some (wordV 34 vd.val va.val vb.val vm.val mp.val dt.val 3)
  | .vcltn vd va vb vm mp dt => some (wordV 34 vd.val va.val vb.val vm.val mp.val dt.val 4)
  | .vclen vd va vb vm mp dt => some (wordV 34 vd.val va.val vb.val vm.val mp.val dt.val 5)
  | .vfceq vd va vb vm mp dt => some (wordV 34 vd.val va.val vb.val vm.val mp.val dt.val 6)
  | .vfclt vd va vb vm mp dt => some (wordV 34 vd.val va.val vb.val vm.val mp.val dt.val 7)
  | .vfcle vd va vb vm mp dt => some (wordV 34 vd.val va.val vb.val vm.val mp.val dt.val 8)
  | .vfcun vd va vb vm mp dt => some (wordV 34 vd.val va.val vb.val vm.val mp.val dt.val 9)
  | .vsel vd va vb vm dt => some (wordV 35 vd.val va.val vb.val vm.val 0 dt.val 0)
  | .vperm vd va vb vm mp dt => some (wordV 35 vd.val va.val vb.val vm.val mp.val dt.val 1)
  | .vslup vd va vb vm mp dt => some (wordV 35 vd.val va.val vb.val vm.val mp.val dt.val 2)
  | .vsldn vd va vb vm mp dt => some (wordV 35 vd.val va.val vb.val vm.val mp.val dt.val 3)
  | .mand vd va vb => some (wordV 35 vd.val va.val vb.val 0 0 0 4)
  | .mor vd va vb => some (wordV 35 vd.val va.val vb.val 0 0 0 5)
  | .mxor vd va vb => some (wordV 35 vd.val va.val vb.val 0 0 0 6)
  | .mnot vd va => some (wordV 35 vd.val va.val 0 0 0 0 7)
  | .mpop vd va dt => some (wordV 35 vd.val va.val 0 0 0 dt.val 8)
  | .mfirst vd va dt => some (wordV 35 vd.val va.val 0 0 0 dt.val 9)
  | .viota vd va vm mp dt => some (wordV 35 vd.val va.val 0 vm.val mp.val dt.val 10)
  | .vzip vd va vb vm mp dt => some (wordV 35 vd.val va.val vb.val vm.val mp.val dt.val 11)
  | .vunzip vd va vb vm mp dt => some (wordV 35 vd.val va.val vb.val vm.val mp.val dt.val 12)
  | .vrsum vd va vm dt => some (wordV 36 vd.val va.val 0 vm.val 0 dt.val 0)
  | .vrmax vd va vm dt => some (wordV 36 vd.val va.val 0 vm.val 0 dt.val 1)
  | .vrmin vd va vm dt => some (wordV 36 vd.val va.val 0 vm.val 0 dt.val 2)
  | .vrmaxn vd va vm dt => some (wordV 36 vd.val va.val 0 vm.val 0 dt.val 3)
  | .vrminn vd va vm dt => some (wordV 36 vd.val va.val 0 vm.val 0 dt.val 4)
  | .vfrsum vd va vm dt => some (wordV 36 vd.val va.val 0 vm.val 0 dt.val 5)
  | .vfrmax vd va vm dt => some (wordV 36 vd.val va.val 0 vm.val 0 dt.val 6)
  | .vfrmin vd va vm dt => some (wordV 36 vd.val va.val 0 vm.val 0 dt.val 7)
  | .vrand vd va vm dt => some (wordV 36 vd.val va.val 0 vm.val 0 dt.val 8)
  | .vror vd va vm dt => some (wordV 36 vd.val va.val 0 vm.val 0 dt.val 9)
  | .vcvt vd va st vm mp dt => some (wordV 37 vd.val va.val st.val vm.val mp.val dt.val 0)
  | .vdec vd va st vm mp dt => some (wordV 37 vd.val va.val st.val vm.val mp.val dt.val 1)
  | .venc vd va st vm mp dt => some (wordV 37 vd.val va.val st.val vm.val mp.val dt.val 2)
  | .vscl vd va st vm mp dt => some (wordV 37 vd.val va.val st.val vm.val mp.val dt.val 3)
  | .vld vd ra rb vm mp dt => some (wordW 38 vd.val ra.val rb.val vm.val mp.val dt.val 0)
  | .vlds vd ra rb vm mp dt => some (wordW 38 vd.val ra.val rb.val vm.val mp.val dt.val 1)
  | .vldb vd ra rb vm mp dt => some (wordW 38 vd.val ra.val rb.val vm.val mp.val dt.val 2)
  | .vtbl ra dt => some (wordW 38 0 ra.val 0 0 0 dt.val 3)
  | .vst vd ra rb vm dt => some (wordW 39 vd.val ra.val rb.val vm.val 0 dt.val 0)
  | .vsts vd ra rb vm dt => some (wordW 39 vd.val ra.val rb.val vm.val 0 dt.val 1)
  | .vstnib vd ra rb vm => some (wordW 39 vd.val ra.val rb.val vm.val 0 0 2)
  | .vins vd ra rb dt => some (wordW 40 vd.val ra.val rb.val 0 0 dt.val 0)
  | .vext vd ra rb dt => some (wordW 40 vd.val ra.val rb.val 0 0 dt.val 1)
  | .vsplat vd ra vm dt => some (wordW 40 vd.val ra.val 0 vm.val 0 dt.val 2)
  | .send ra rb sc => some (wordG 42 0 ra.val rb.val 0 sc.val)
  | .sendv ra vb sc => some (wordG 42 0 ra.val vb.val 1 sc.val)
  | .mget rd n => some (wordG 42 rd.val 0 0 2 n.val)
  | .vmget vd half => some (wordG 42 vd.val 0 0 3 half.val)
  | .mrel => some (wordG 42 0 0 0 4 0)
  | .htset ra rb n => some (wordG 42 0 ra.val rb.val 5 n.val)
  | .htsync => some (wordG 42 0 0 0 6 0)
  | .dqpush ra => some (wordG 43 0 ra.val 0 0 0)
  | .dqpop rd ra => some (wordG 43 rd.val ra.val 0 1 0)
  | .spawn ra sc => some (wordG 43 0 ra.val 0 2 sc.val)
  | .actdecl ra slot => some (wordG 43 0 ra.val 0 3 slot.val)
  | .actarm slot => some (wordG 43 0 0 0 4 slot.val)
  | .actoff slot => some (wordG 43 0 0 0 5 slot.val)
  | .dqstat rd => some (wordG 43 rd.val 0 0 6 0)
  | .barArr rd ra level => some (wordG 44 rd.val ra.val 0 0 level.val)
  | .barWait ra rb level => some (wordG 44 0 ra.val rb.val 1 level.val)
  | .barArrw rd ra level => some (wordG 44 rd.val ra.val 0 2 level.val)
  | .obarArr rd ra rb sc => some (wordG 44 rd.val ra.val rb.val 3 sc.val)
  | .obarWait ra rb sc => some (wordG 44 0 ra.val rb.val 4 sc.val)
  | .rcfg ra => some (wordG 45 0 ra.val 0 0 0)
  | .rinj rd ra => some (wordG 45 rd.val ra.val 0 1 0)
  | .rmset ra rb => some (wordG 45 0 ra.val rb.val 2 0)
  | .rmclr ra rb => some (wordG 45 0 ra.val rb.val 3 0)
  | .rphase ra rb trk sc => some (wordG 45 0 ra.val rb.val 4 (trk.val * 8 + sc.val))
  | .rcnt rd ra sel trk => some (wordG 45 rd.val ra.val 0 5 (sel.val * 2 + trk.val))
  | .rfetch rd rb => some (wordG 45 rd.val 0 rb.val 6 0)
  | .rdrain rd trk => some (wordG 45 rd.val 0 0 7 trk.val)
  | .cwait rd ra => some (wordI 46 rd.val ra.val 0)
  | .cstat rd => some (wordI 46 rd.val 0 1)
  | .ccancel rd ra => some (wordI 46 rd.val ra.val 2)
  | .vgath vd ra sc vm mp dt => some (wordW 47 vd.val ra.val sc.val vm.val mp.val dt.val 0)
  | .vscat vd ra sc vm dt => some (wordW 47 vd.val ra.val sc.val vm.val 0 dt.val 1)
  | .vscadd vd ra sc vm dt => some (wordW 47 vd.val ra.val sc.val vm.val 0 dt.val 2)
  | .vgathw vd ra sc vm mp dt => some (wordW 47 vd.val ra.val sc.val vm.val mp.val (2 + dt.val * 4) 3)
  | .mverOpen rd ra => some (wordG 48 rd.val ra.val 0 0 0)
  | .mverTag rd ra => some (wordG 48 rd.val ra.val 0 1 0)
  | .mverDone ra rb => some (wordG 48 0 ra.val rb.val 2 0)
  | .mverStat rd ra sel => some (wordG 48 rd.val ra.val 0 3 sel.val)
  | .prgGo rd ra op => some (wordG 48 rd.val ra.val 0 4 op.val)
  | .prgStat rd ra => some (wordG 48 rd.val ra.val 0 5 0)
  | .stash rd ra => some (wordG 48 rd.val ra.val 0 6 0)
  | .unstash rd ra rb ret => some (wordG 48 rd.val ra.val rb.val 7 ret.val)
  | .wshad rd ra rb blk => some (wordG 48 rd.val ra.val rb.val 8 blk.val)
  | .ltdecl rd ra => some (wordG 49 rd.val ra.val 0 0 0)
  | .ltuse rd ra rb => some (wordG 49 rd.val ra.val rb.val 1 0)
  | .ltdrop ra mode => some (wordG 49 0 ra.val 0 2 mode.val)
  | .ltstat rd ra => some (wordG 49 rd.val ra.val 0 3 0)
  | .rbput rd ra rb => some (wordG 50 rd.val ra.val rb.val 0 0)
  | .rbret rd ra => some (wordG 50 rd.val ra.val 0 1 0)
  | .rbstat rd ra => some (wordG 50 rd.val ra.val 0 2 0)
  | .collGo rd ra => some (wordG 50 rd.val ra.val 0 3 0)
  | .collWait rd ra => some (wordG 50 rd.val ra.val 0 4 0)
  | .rsplan rd ra => some (wordG 50 rd.val ra.val 0 5 0)
  | .rsgo rd ra => some (wordG 50 rd.val ra.val 0 6 0)
  | .rsstat rd ra => some (wordG 50 rd.val ra.val 0 7 0)
  | .lkput rd ra => some (wordG 50 rd.val ra.val 0 8 0)
  | .pmcfg ra n => some (wordG 51 0 ra.val 0 0 n.val)
  | .pmrdCore rd ra => some (wordG 51 rd.val ra.val 0 1 0)
  | .pmrdSlice rd ra => some (wordG 51 rd.val ra.val 0 1 1)
  | .jrnlStart rd ra => some (wordG 51 rd.val ra.val 0 2 0)
  | .jrnlStop rd ra => some (wordG 51 rd.val ra.val 0 2 1)
  | .jrnlMark rd ra => some (wordG 51 rd.val ra.val 0 2 2)
  | .jrnlStatus rd ra => some (wordG 51 rd.val ra.val 0 2 3)
  | .fcstrd rd ra sel => some (wordG 51 rd.val ra.val 0 3 sel.val)
  | .cvtThreshold _ _ => none
  | .chargedFault _ _ => none
  | .loadReturn _ _ => none
  | .waitRelease _ _ => none
  | .waitlimit _ _ => none
  | .firingDispatch _ _ => none
  | .firingPromote _ _ => none
  | .messageTransmit _ _ _ => none
  | .messageAccept _ _ => none
  | .creditReturn _ => none
  | .stealRound _ => none
  | .stealRequest _ => none
  | .stealAnswer _ => none
  | .stealBackoffExpiry _ => none
  | .spawnPush _ _ => none
  | .spawnWithdraw _ _ => none
  | .spawnAck _ _ => none
  | .dependencyPush _ => none
  | .actorReady _ _ => none
  | .barrierRelease _ _ _ => none
  | .barrierStaggerExpiry _ _ => none
  | .mcfg _ _ => none
  | .mctx _ _ => none
  | .mld _ _ => none
  | .mst _ _ => none
  | .mma _ _ => none
  | .mmat _ _ => none
  | .mmas _ _ => none
  | .mzero _ _ => none
  | .lanternMrel _ _ => none
  | .mopt _ _ => none
  | .msync _ _ => none
  | .mmask _ _ => none
  | .mnorm _ _ => none
  | .lanternWaitTimeout _ _ => none
  | .lanternRetire _ _ => none
  | .ringBeat _ _ _ => none
  | .ringDrainEnd _ _ _ => none
  | .accDelivery _ _ _ _ => none
  | .recoveryStart _ _ _ _ => none
  | .lateAddApply _ _ => none
  | .phaseComplete _ _ _ => none
  | .copyStart _ => none
  | .copyComplete _ => none
  | .gsLane _ _ _ => none
  | .snufferDropEnd _ _ => none
  | .prgStep _ => none
  | .prgDraw _ => none
  | .prgRepack _ => none
  | .repackSlotSwitch _ => none
  | .retirementJob _ => none
  | .linkPutTransfer _ _ _ => none
  | .linkPutComplete _ _ => none
  | .rbTransfer _ _ _ => none
  | .fillAdd _ _ _ => none
  | .fillAck _ _ => none
  | .returnAdd _ _ _ => none
  | .linkDown _ => none
  | .linkUp _ _ _ => none
  | .collStart _ => none
  | .collStartTimeout _ => none
  | .collEnd _ _ => none
  | .reshardPassStart _ => none
  | .reshardRegionDone _ _ => none
  | .lqtailDoorbell _ _ => none
  | .launchServe _ => none
  | .gangPlace => none
  | .gangWithdraw => none
  | .teamEnd _ => none
  | .forecastWrite _ => none
  | .clockLimitChange _ _ => none
  | .powerCapWindow _ => none
  | .diePark _ => none
  | .dieUnpark _ => none
  | .thermalLimit _ _ => none
  | .thermalRelease _ _ => none
  | .thermalTrip _ _ => none
  | .faultRecordPost _ => none
  | .fqszWrite _ _ => none
  | .frespRetry _ _ => none
  | .frespSkip _ _ => none
  | .frespDiscard _ _ => none
  | .frespUpcall _ _ => none
  | .frespEnd _ _ => none
  | .walkComplete _ _ _ => none
  | .invalidateStart _ => none
  | .invalidateDone => none
  | .sliceFillReturn _ => none
  | .refusalRetry _ _ => none
  | .sliceWriteback _ => none
  | .preemptRequest => none
  | .forcedSave => none
  | .restoreRequest => none
  | .replayDiverge _ => none
  | .checkpointHost => none
  | .checkpointMirror _ => none
  | .checkpointRestore => none
  | .checkpointDone => none
  | .hostBar2Access _ _ _ => none
  | .bar0RegisterWrite _ _ => none
  | .smbusTemperature _ _ => none
  | .smbusPower _ _ => none
  | .smbusPowerCap _ _ => none
  | .smbusState _ => none
  | .smbusEnterRetain _ => none
  | .smbusLeaveRetain _ => none
  | .smbusUnlockToken _ _ => none
  | .reset _ => none
  | .observeToken _ => none
  | .spdmRequest _ => none
  | .debugStep _ _ => none
  | .debugResume _ _ => none
  | .debugMemoryAccess _ _ _ _ => none
  | .fetchFault _ _ => none
  | .writePerformed _ _ => none
  | .softError _ => none
  | .debugHalt _ _ => none
  | .linkLaneLoss _ _ => none
  | .modulePowerLoss => none
  | .peerTransferServe _ _ _ => none
  | .mirroredCheckpointReceive _ => none

end Sys2Proof
end

