-- ==== Sys2Proof/Machine/Rpt.lean ====
section
/-! DEFINITION. The repeat frame: its capture rules (03 R64, R65), its start and its resumption (07 R141-R145). -/

namespace Sys2Proof.Machine

/-- A field of a word replaced. -/
def putField (w hi lo v : Nat) : Nat := w - bits w hi lo * 2 ^ lo + v * 2 ^ lo

/-- The word of pass `j` (03 R64): vd and vm advance in every word, va and vb in F-V words only. -/
def passWord (sd sa sb sm j w : Nat) : Nat :=
  let fv := decide (bits w 31 26 ≤ 0x25)
  let step := fun (w hi lo n : Nat) => putField w hi lo ((bits w hi lo + j * n) % 16)
  let w := step w 25 22 sd
  if fv then step (step (step w 21 18 sa) 17 14 sb) 13 10 sm else step w 11 8 sm

/-- The mask field of a vector word. -/
def maskField (w : Nat) : Nat := if bits w 31 26 ≤ 0x25 then bits w 13 10 else bits w 11 8

/-- The first position whose word breaks a rule in some pass, with that word (03 R65). `bad` tells, for a captured word
and its pass word, whether the rule is broken. -/
def firstBreach (sd sa sb sm n : Nat) (bad : Nat → Nat → Bool) (ws : List Nat) : Option (Nat × Nat) :=
  ws.zipIdx.findSome? fun (w, i) =>
    ((List.range n).map fun j => passWord sd sa sb sm j w).findSome? fun p => if bad w p then some (i, p) else none

/-- The first rule of 03 R65 that a frame's words break, in the order of its table after the extent rule. -/
def frameBreach (sd sa sb sm n : Nat) (ws : List Nat) : Option (Nat × Nat) :=
  let op := fun (w : Nat) => bits w 31 26
  let rules : List (Nat → Nat → Bool) :=
    [ fun w _ => !(decide (0x20 ≤ op w) && decide (op w ≤ 0x28)),
      fun _ p => !vectorWordOk p,
      fun w _ => decide (0x26 ≤ op w) && (sa != 0 || sb != 0),
      fun w _ => op w == 0x25 && sb != 0,
      fun w p => if maskField w = 0 then sm != 0 else maskField p == 0 ]
  rules.findSome? fun bad => firstBreach sd sa sb sm n bad ws

/-- The place of an instruction word of a core. -/
def fetchPlace (g : Nat) (a : Word) : Nat := tcmPlace g (a.toNat % 0x80000)

/-- The instruction word at a TCM address, as a fetch of the core sees it (01 R12), or as an instruction that executes (01 R17). -/
def State.fetchWord (s : State) (g : Nat) (a : Word) (exec : Bool := false) : Nat :=
  ofBytes ((List.range 4).map fun i => s.tcmByte { s.whoOwn g with exec } g (fetchPlace g a + i))

/-- Where a frame resumes: PASS and POS of EVAL after a `tret` or a resumption with FP and FRM set, else the start; none
where they lie outside the frame (07 R144). -/
def Context.frameStart (x : Context) (n c : Nat) : Option (Nat × Nat × Bool) :=
  if x.resume && x.fp && x.ws.eval.getLsbD 63 then
    let pass := bits x.ws.eval.toNat 62 57
    let pos := bits x.ws.eval.toNat 56 53
    if pass < n ∧ pos < c then some (pass, pos, true) else none
  else some (0, 0, false)

/-- The first captured word that is poisoned (20 R354): its address. The words are read as a fetch reads them. -/
def State.capturePoison (s : State) (g : Nat) (ia : Word) (c : Nat) : Option Word :=
  ((List.range c).map fun i => ia + BitVec.ofNat 64 (4 * (i + 1))).find? fun a =>
    s.poison.contains (granule (tcmPlace g (a.toNat % 0x80000)))

/-- `rpt`: after its checks the captured words are in the sequencer buffer and the next word of the frame issues; FP is
cleared, and FRM where the frame resumes (07 R141-R144). -/
def execRpt (cnt : Fin 16) (rep : Fin 64) (sd sa sb sm : Fin 8) (s : State) : Outcome :=
  let c := cnt.val + 1
  let n := rep.val + 1
  let ia := s.ia
  let fit := decide (ia.toNat + 4 * c ≤ 0x800000000007FFFC)
  let ws := (List.range c).map fun i => s.fetchWord s.cur.core (ia + BitVec.ofNat 64 (4 * (i + 1))) true
  let read := (List.range c).map fun i => fetchPlace s.cur.core (ia + BitVec.ofNat 64 (4 * (i + 1)))
  settle s <|
    if !fit then .error (.sys 0x03 0x8000000000080000 0x8000000000080000 .read)
    else match s.capturePoison s.cur.core ia c, frameBreach sd.val sa.val sb.val sm.val n ws with
      | some a, _ => .error (.sys 0x05 a a .read)
      | none, some (i, w) => illegal (BitVec.ofNat 64 (2 ^ 36 + i * 2 ^ 32 + w))
      | none, none =>
        match s.cx.frameStart n c with
        | none => illegal (s.curWord.setWidth 64)
        | some (pass, pos, again) =>
          .ok ((s.correct read).modCx fun x =>
            { x with
              frame := some ⟨ia, ws.map (BitVec.ofNat 32), n, sd.val, sa.val, sb.val, sm.val, pass, pos⟩
              fp := false, resume := false, refusals := 0
              ws := if again then { x.ws with eval := x.ws.eval &&& 0x7FFFFFFFFFFFFFFF } else x.ws })

/-- The word that an open frame issues next. -/
def Frame.word (f : Frame) : Nat := passWord f.sd f.sa f.sb f.sm f.pass ((f.words.getD f.pos 0).toNat)

end Sys2Proof.Machine
end

