-- ==== Sys2Proof/Machine/Resp.lean ====
section
/-! DEFINITION. The host driver's answers to fault records (20 R351, R352). An action is its number: 0 RETRY, 1 SKIP,
2 DISCARD, 3 UPCALL, 4 END. -/

namespace Sys2Proof.Machine

/-! ### On an engine -/

/-- A Lantern queue goes on: its faulting command runs again, is dropped, or every command is dropped. -/
def CmdQueue.answer (q : CmdQueue) (action : Fin 5) (now : Nat) : CmdQueue :=
  let q := { q with halted := false }
  if action = 0 then
    match q.cmds with
    | [] => q
    | c :: t => { q with cmds := { c with headSince := now } :: t }
  else if action = 2 then { q with cmds := [] }
  else q.dropHead now

/-- The held copy that a record names by its transfer id resumes at its faulting row, or ends with STATUS 2. -/
def State.answerCopy (s : State) (f : FaultRec) (action : Fin 5) : State :=
  match (s.core f.core).copy.running with
  | none => s
  | some c =>
    if !c.held || c.job.xid != f.xid then s
    else
      let put := fun (c : CopyRun) => s.modCore f.core fun k => { k with copy := { k.copy with running := some c } }
      if action = 0 then (put { c with held := false }).runCopy f.core
      else put { c with held := false, status := some 2, cause := f.cause }

/-- The operation at the head of a link: moved again, or a put ends with STATUS 2 and another is dropped. -/
def State.answerLink (s : State) (g l : Nat) (cause : BitVec 8) (action : Fin 5) : State :=
  match action, (s.core g).opsOn l with
  | 0, _ | _, [] => s
  | _, .put d a c done none _ :: t => s.setOps g l (.put d a c done (some 2) cause :: t)
  | _, .slot _ _ _ _ _ _ :: t => s.setOps g l t
  | _, _ => s

/-- A held pass resumes, or ends with STATE 4. -/
def State.answerReshard (s : State) (die : Nat) (cause : BitVec 8) (action : Fin 5) : State :=
  match action, (s.die die).reshardQueue with
  | 0, _ | _, [] => s
  | _, j :: _ =>
    match s.jobRecord j with
    | .ok (p, s) => (s.popReshard die).putJob j 0x10 (prWord p (prPass p) cause.toNat 4)
    | .error _ => s.popReshard die

/-- A held collective goes on, or ends at its rank with STATUS 2. -/
def State.answerColl (s : State) (die : Nat) (cause : BitVec 8) (action : Fin 5) : State :=
  match action, (s.die die).collQueue with
  | 0, _ | _, [] => s
  | _, j :: _ => s.closeColl die j 2 cause 0

/-- What a held completion write owes: the releases of its phase or of its copy (12 R252, 15 R280). -/
def State.heldTags (s : State) (f : FaultRec) : Engine → List Tag
  | .ring trk =>
    let p := (s.cluster (cluOfCore f.core)).phase (s.ringOf f.core).1 trk.val
    p.opened ++ p.tags
  | .copy => ((s.core f.core).copy.completing.map fun x => x.1.job.tags).getD []
  | _ => []

/-- A held completion write is made, or dropped (15 R418): a phase's is then its track's last record (12 R251), and the issuer's
latches are set once the prune/regrow engine is held no more. -/
def State.answerWrite (s : State) (f : FaultRec) (a : Word) (bs : List Byte) (sc : Option Nat) (add : Bool) (e : Engine)
    (action : Fin 5) : State :=
  let (made, s) := if action = 0 then s.tryComplete ⟨f.core, f.ctx⟩ e a bs sc add f.xid (s.heldTags f e) else (false, s)
  match e with
  | .ring trk =>
    if made then
      s.modPhase (cluOfCore f.core) (s.ringOf f.core).1 trk.val fun p => { p with lastRec := BitVec.ofNat 64 (ofBytes (bs.take 8)) }
    else s
  | .prune d => if s.prgHeld d then s else s.wake f.core
  | _ => s

/-- What an answered record does to the agent that it names. -/
def State.answerAgent (s : State) (f : FaultRec) (action : Fin 5) : State :=
  match f.held with
  | .copyRun => s.answerCopy f action
  | .linkOp l => s.answerLink f.core l f.cause action
  | .collRun d => s.answerColl d f.cause action
  | .reshard d => s.answerReshard d f.cause action
  | .counterAdd i n src at_ => if action = 0 then s.counterAdd ⟨f.core, f.ctx⟩ f.agent f.word i n src at_ else s
  | .completion a bs sc add e => s.answerWrite f a bs sc add e action
  | .nothing => if f.agent = .lantern then s.modCmdQueue f.core fun q => q.answer action s.now else s

/-! ### On a context -/

/-- The trap-entry fault of 06 R118. -/
def FaultRec.isEntry (f : FaultRec) : Bool := f.cause == 0x03 && f.kind == .fetch && f.word.setWidth 8 != (0 : BitVec 8)

/-- A record suspends a context. -/
def FaultRec.suspendsCtx (f : FaultRec) (r : CtxRef) : Bool := f.suspends && f.core == r.core && f.ctx == r.ctx

/-- The records of a context that are not applied yet. -/
def State.recordsOf (s : State) (r : CtxRef) : List FaultRec :=
  (s.records ++ s.dies.flatMap fun d => d.2.answered.map (·.1)).filter (·.suspendsCtx r)

/-- A context goes on, unless a record of it is still to be answered; its core's event latches are set (06 R123). -/
def State.resumeCtx (s : State) (r : CtxRef) : State :=
  if (s.recordsOf r).isEmpty then
    (s.modCtx r fun x => { x with suspended := false, resume := true }).wake r.core
  else s

/-- A context takes a user-level trap in place of its fault, and goes on there unless a record of it is still to be answered or
the entry fails (20 R351, R352). -/
def State.trapInstead (s : State) (r : CtxRef) (cause : BitVec 8) (epc eval val : Word) (pass : Bool) : State :=
  let t := s.enterTrap r cause epc eval val pass
  if (t.recordsOf r).isEmpty then (t.modCtx r fun x => { x with suspended := false }).wake r.core else t

/-- SKIP in a frame: POS and PASS advance to the word after the faulting one; past the last, the frame is over and the
context goes on after its words (07 R142). -/
def State.skipWord (s : State) (r : CtxRef) (epc : Word) : State :=
  let x := s.ctx r
  let e := x.ws.eval.toNat
  let w := s.fetchWord r.core epc
  let c := bits w 25 22 + 1
  let n := bits w 21 16 + 1
  let pass := bits e 62 57
  let pos := bits e 56 53
  let put := fun (v : Nat) (pc : Word) => s.modCtx r fun x => { x with ws := { x.ws with eval := BitVec.ofNat 64 v, pc } }
  let next := fun (p q : Nat) => put (2 ^ 63 + p * 2 ^ 57 + q * 2 ^ 53 + e % 2 ^ 53) epc
  if pos + 1 < c then next pass (pos + 1)
  else if pass + 1 < n then next (pass + 1) 0
  else put (e % 2 ^ 63) (epc + 4 + 4 * BitVec.ofNat 64 c)

/-- What an answered record does to its context (20 R351). -/
def State.answerCtx (s : State) (f : FaultRec) (action : Fin 5) : State :=
  let r : CtxRef := ⟨f.core, f.ctx⟩
  let pc := fun (s : State) (v : Word) => s.modCtx r fun x => { x with ws := { x.ws with pc := v } }
  if f.isEntry then
    if action = 0 ∨ action = 3 then s.trapInstead r (f.word.setWidth 8) f.epc f.value f.value false
    else
      (pc (s.modCtx r fun x => { x with ws := { x.ws with ecause := x.ws.ecause &&& 0x7FFFFFFFFFFFFFFF } }) f.epc).resumeCtx r
  else if action = 3 then
    if (s.recordsOf r).isEmpty then s.trapInstead r f.cause f.epc (s.ctx r).ws.eval f.value f.frm else s
  else if f.agent ≠ .context then s.resumeCtx r
  else if action = 0 then (pc s (if f.cause = 0x0F then f.epc + 4 else f.epc)).resumeCtx r
  else if f.frm then (s.skipWord r f.epc).resumeCtx r
  else (pc s (f.epc + 4)).resumeCtx r

/-! ### Responses -/

/-- One record number comes before another, wrapping. -/
def seqBefore (a b : Nat) : Bool := decide ((b + 0xFFFF - a) % 0xFFFF < 0x8000) && a != b

/-- The records that a record number answers: every joined access of a coalesced one. -/
def Die.joinedBy (d : Die) (f : FaultRec) : List FaultRec :=
  if f.coalesced then
    (d.walks.filter fun w => w.asid == f.asid && w.page == pageOf f.addr).flatMap fun w =>
      w.joined.map fun x => { x with seq := f.seq }
  else [f]

/-- An answered record of a die may be applied (20 R352): in SEQ order, an UPCALL after every other record of its context. -/
def State.mayApply (s : State) (die : Nat) (x : FaultRec × Fin 5) : Bool :=
  let d := s.die die
  let mine := fun (f : FaultRec) => f.suspendsCtx ⟨x.1.core, x.1.ctx⟩
  let waiting := (d.outstanding.flatMap d.joinedBy).filter mine
  let done := d.answered.filter fun y => mine y.1
  if x.2 = 3 then
    (s.records.filter mine).isEmpty && done.all fun y => y.2 == 3 && (y.1.seq == x.1.seq || !seqBefore y.1.seq x.1.seq)
  else !(waiting.any fun f => seqBefore f.seq x.1.seq) && !(done.any fun y => y.2 != 3 && seqBefore y.1.seq x.1.seq)

/-- One answered record of a die takes effect. -/
def State.applyOne (s : State) (die : Nat) (x : FaultRec × Fin 5) : State :=
  let f := x.1
  let s := s.modDie die fun d => { d with answered := d.answered.erase x }
  let s := s.answerAgent f x.2
  if f.suspends then s.answerCtx f x.2
  else if x.2 = 3 then s.charge f true
  else s

/-- The first answered record that may be applied, with its die. -/
def State.nextAnswer (s : State) : Option (Nat × FaultRec × Fin 5) :=
  s.dies.findSome? fun d => (d.2.answered.find? fun x => !x.1.suspends || s.mayApply d.1 x).map fun x => (d.1, x)

/-- Every answered record that may be applied is applied. -/
def State.applyAll (s : State) : Nat → State
  | 0 => s
  | n + 1 =>
    match s.nextAnswer with
    | some (die, x) => State.applyAll (s.applyOne die x) n
    | none => s

/-- A response: a number with no outstanding record on the die is ignored. -/
def State.respond (s : State) (die seq : Nat) (action : Fin 5) : State :=
  let d := s.die die
  match d.outstanding.find? (·.seq == seq) with
  | none => s
  | some f =>
    let fs := d.joinedBy f
    if action = 4 then
      (fs.map (·.tid)).dedup.foldl (fun s t => s.killTeam t f.cause) (s.modDie die fun d =>
        { d with outstanding := d.outstanding.erase f })
    else
      let s := s.modDie die fun d =>
        { d with
          outstanding := d.outstanding.erase f
          walks := if f.coalesced then d.walks.filter fun w => !(w.asid == f.asid && w.page == pageOf f.addr) else d.walks
          answered := d.answered ++ fs.map fun x => (x, action) }
      s.applyAll (s.dies.map fun d => d.2.answered.length).sum

/-- RETRY. -/
def execFrespRetry (die seq : Nat) (s : State) : Outcome := s.hostAct "FRESP_RETRY" (s.respond die seq 0)

/-- SKIP. -/
def execFrespSkip (die seq : Nat) (s : State) : Outcome := s.hostAct "FRESP_SKIP" (s.respond die seq 1)

/-- DISCARD. -/
def execFrespDiscard (die seq : Nat) (s : State) : Outcome := s.hostAct "FRESP_DISCARD" (s.respond die seq 2)

/-- UPCALL. -/
def execFrespUpcall (die seq : Nat) (s : State) : Outcome := s.hostAct "FRESP_UPCALL" (s.respond die seq 3)

/-- END: the whole team stops. -/
def execFrespEnd (die seq : Nat) (s : State) : Outcome := s.hostAct "FRESP_END" (s.respond die seq 4)

end Sys2Proof.Machine
end

