-- ==== Sys2Proof/Machine/Host.lean ====
section
/-! DEFINITION. What the host and the debugger do at the module: BAR 0 registers, BAR 2 (21 R374, R375), and the debug mailbox
(24 R401). -/

namespace Sys2Proof.Machine

/-! ### BAR 0 (21 R374) -/

/-- A register of an array: its index and the offset inside its element. -/
def barIndex (base step n off : Nat) : Option (Nat × Nat) :=
  if base ≤ off ∧ off < base + step * n then some ((off - base) / step, (off - base) % step) else none

/-- The bits of a plain register that the host writes; none for another offset. -/
def barMask (off : Nat) : Option Nat :=
  let of := fun (m : List (Nat × Nat)) (o : Nat) => (m.find? (·.1 == o)).map (·.2)
  match barIndex 0x010000 0x20 16 off, barIndex 0x020000 8 16 off, barIndex 0x040000 0x40 4 off, barIndex 0x060000 0x20 12 off with
  | some x, _, _, _ => of [(0, 2 ^ 64 - 1), (8, 15)] x.2
  | _, some x, _, _ => of [(0, 0x8000FFFFFFFFFFC0)] x.2
  | _, _, some x, _ => of [(0, 2 ^ 64 - 1), (0x18, 0xFFFFFFFF), (0x20, 0x7FF), (0x28, 2 ^ 64 - 1), (0x30, 2 ^ 64 - 1)] x.2
  | _, _, _, some x => of [(8, 0x8000000FFFFFFFFF)] x.2
  | _, _, _, _ =>
    of [(0x8, 0xFFFF), (0x030000, 2 ^ 64 - 1), (0x050000, 2 ^ 64 - 1), (0x050008, 15), (0x050020, 0x7FF),
      (0x070000, 2 ^ 64 - 1), (0x080000, 2 ^ 64 - 1), (0x080018, 0x7FF)] off

/-- A register as the host reads it. -/
def State.hostRead (s : State) (off : Nat) : Word :=
  let id := BitVec.ofNat 64 (Config.saveFormat.toNat * 2 ^ 24 + Config.deviceRev.toNat * 2 ^ 16 + 0x4B04)
  if off = 0 then if s.dev.boot = .ready then id else id &&& 0xFFFFFF
  else if s.dev.boot = .ready then s.bar off
  else 0

/-- The second word of a response acts (20 R351): SEQ and ACTION of the first; ACTION 5-7 is ignored. -/
def State.frespActs (s : State) (die : Nat) : State :=
  let v := (s.bar (fqReg die + 0x28)).toNat
  let a := bits v 18 16
  if h : a < 5 then s.respond die (bits v 15 0) ⟨a, h⟩ else s

/-- The host writes a BAR 0 register: one that acts on a write performs its action, a read-only or unlisted one ignores it. -/
def State.hostWrite (s : State) (off : Nat) (v : Word) : State :=
  let after := fun (o : Outcome) => match o with
    | .next t => t
    | _ => s
  match barIndex 0x010000 0x20 16 off, barIndex 0x040000 0x40 4 off with
  | some (a, 0x10), _ => after (execLqtailDoorbell a (bits v.toNat 31 0) s)
  | _, some (d, 8) => after (execFqszWrite d v s)
  | _, some (d, 0x30) => (s.setBar off v).frespActs d
  | _, _ =>
    if off = 0x050010 then s.ringDoorbell 0x050000 (bits v.toNat 31 0)
    else if off = 0x030008 then after (execInvalidateStart v s)
    else if off = 0x080008 then
      let s := s.setBar off (v &&& 0x1E)
      if v.getLsbD 0 then s.ckGo false else s
    else match barMask off with
      | some m => s.setBar off (v &&& BitVec.ofNat 64 m)
      | none => s

/-- A host write to a BAR 0 register; one in recovery changes nothing (24 R404), and one to LQTAIL before the host link is ready
waits for that (24 R410). -/
def execBar0RegisterWrite (off : Nat) (v : Word) (s : State) : Outcome :=
  let tail := (barIndex 0x010000 0x20 16 off).any fun x => x.2 == 0x10
  if s.hostUp || (tail && s.dev.boot == .booting) then .next (s.hostWrite off v)
  else if s.dev.boot = .recovery then .next s
  else .refused (.notEnabled "BAR0_REGISTER_WRITE")

/-! ### BAR 2 (21 R375) -/

/-- A byte as the host sees it, without the posted stores that it does not see yet (15 R281). -/
def State.bar2Byte (s : State) (a : Nat) : Byte :=
  match devPlace a with
  | some p => if 2 ^ 63 ≤ a then Memory.read s.mem p else s.hbmNow 0 2 p
  | none => 0

/-- A host access meets a poisoned granule that it does not replace whole (20 R354). -/
def State.devPoisoned (s : State) (a n : Nat) (write : Bool) : Bool :=
  (List.range n).any fun i =>
    match devPlace (a + i) with
    | some p =>
      let g := granule p
      s.poison.contains g && !(write && (List.range (granuleSize p)).all fun j => (List.range n).any fun k => devPlace (a + k) == some (g + j))
    | none => false

/-- A request carries as many bytes as it is for. -/
def reqFits (n : Nat) : HostRequest → Bool
  | .read => true
  | .write bs | .fetchAdd bs | .swap bs | .cas bs _ => bs.length == n

/-- What an AtomicOp makes of the old bytes (15 R290); none where the request is no AtomicOp of 32 or 64 bits on its natural
alignment. -/
def reqAtomic (a : Nat) (old : List Byte) : HostRequest → Option (List Byte)
  | .fetchAdd bs => if wide bs then some (toBytes bs.length (ofBytes old + ofBytes bs)) else none
  | .swap bs => if wide bs then some bs else none
  | .cas c bs => if wide bs && c.length == bs.length then some (if old = c then bs else old) else none
  | _ => none
where
  wide (bs : List Byte) : Bool := (bs.length == 4 || bs.length == 8) && a % bs.length == 0

/-- A place lies in the journal buffer of a core whose team is resident (20 R364). -/
def State.inJournal (s : State) (p : Nat) : Bool :=
  s.cores.any fun k =>
    (s.teamOf k.1).isSome && (List.range k.2.journal.size).any fun i =>
      match s.locate (s.whoAgent k.1) .any ((k.2.journal.base.toNat + i) % 2 ^ 64) with
      | .ok (l, _) => l.place == p
      | .error _ => false

/-- In the debug state NONE the host may not read the journal of a team (20 R370, 24 R400). Log entry 56. -/
def State.journalBarred (s : State) (a n : Nat) : Bool :=
  s.dev.debug == .none && (List.range n).any fun i => (devPlace (a + i)).any s.inJournal

/-- A host access to PA = APBASE + offset below the size of BAR 2; one at or beyond 384 GiB completes as an Unsupported Request, as
do one that meets poison, a barred read and a malformed AtomicOp. -/
def execHostBar2Access (off size : Nat) (req : HostRequest) (s : State) : Outcome :=
  let a := (s.bar 0x070000).toNat + off
  let whole := match req with
    | .write _ => true
    | _ => false
  if !s.hostUp || !reqFits size req || decide (2 ^ s.dev.bar2Log < off + size) then .refused (.notEnabled "HOST_BAR2_ACCESS")
  else if 4 * dieSize < a + size ∨ s.devPoisoned a size whole then .next (s.emit .unsupported)
  else if !whole && s.journalBarred a size then .next (s.emit .unsupported)
  else
    match req with
    | .write bs => .next (s.devWrite a bs)
    | .read => .next (s.emit (.bar2 ((List.range size).map fun i => s.bar2Byte (a + i))))
    | _ =>
      let old := s.devRead a size
      match reqAtomic a old req with
      | some bs => .next ((s.devWrite a bs).emit (.bar2 old))
      | none => .next (s.emit .unsupported)

/-- The host resizes BAR 2: 1 GiB to 512 GiB, in powers of two (21 R373). -/
def State.resizeBar2 (s : State) (log : Nat) : Outcome :=
  if s.hostUp && decide (30 ≤ log) && decide (log ≤ 39) then .next (s.modDev fun v => { v with bar2Log := log })
  else .refused (.notEnabled "resizeBar2")

/-! ### The debug mailbox (24 R401) -/

/-- The team whose checks a debug access passes: every TCM, Pond and Lake byte is reachable. -/
def wholeTeam (asid : Nat) : Team :=
  { clus := List.range 128, asid, prio := 0, lakeOrg := 0, lakeSize := 0x4000000, entry := 0 }

/-- A debug access as an agent: in a core's TCM as its own context (01 R20), elsewhere as the host. -/
def State.debugWho (s : State) (core : Nat) : Space → Who
  | .tcm g => { core := g, own := true, asid := s.asidOf core, team := some (wholeTeam (s.asidOf core)), level := 6 }
  | _ => { core, own := false, asid := s.asidOf core, team := some (wholeTeam (s.asidOf core)), level := 6 }

/-- A run lies on a die whose clusters are parked, where only HBM is reachable (24 R402). -/
def State.parkedRun (s : State) (r : Run) : Bool :=
  match r.space with
  | .tcm g => (s.die (dieOfCore g)).power == .parked
  | .pond c => (s.die (dieOfClu c)).power == .parked
  | .lake d => (s.die d).power == .parked
  | _ => false

/-- The runs of a debug access after its checks; none where one fails. -/
def State.debugRuns (s : State) (core : Nat) (need : Need) (a n : Nat) : Option (List Run) :=
  let base := s.debugWho core .host
  let one := fun (p : Nat × Nat) =>
    match s.locate base need p.1 with
    | .ok (l, _) =>
      match s.checkRun (s.debugWho core l.space) need [(a, n)] ⟨p.1, p.2, l.place, l.space⟩ with
      | .ok r =>
        if r.space == .queue || s.parkedRun r || !(s.wsCheck (s.debugWho core l.space) need [r]).isOk then none else some r
      | .error _ => none
    | .error _ => none
  (pieces n a n).mapM one

/-- The bytes of a debug write at its runs. -/
def State.debugPut (s : State) (core : Nat) : List Run → List Byte → State
  | [], _ => s
  | r :: t, bs =>
    State.debugPut (s.performRuns (s.debugWho core r.space) none false [r] (bs.take r.len)) core t (bs.drop r.len)

/-- A debug memory access from a core's point of view; one that fails its checks touches nothing. -/
def execDebugMemoryAccess (core : Nat) (addr : Word) (size : Nat) (data : Option (List Byte)) (s : State) : Outcome :=
  let n := data.elim size List.length
  if s.dev.debug ≠ .invasive ∨ s.dev.power ≠ .on then .refused (.notEnabled "DEBUG_MEMORY_ACCESS")
  else match s.debugRuns core (if data.isSome then .write else .read) addr.toNat n, data with
    | none, _ => .next (s.emit .unsupported)
    | some rs, some bs => .next (s.debugPut core rs bs)
    | some rs, none => .next (s.emit (.debugData (rs.flatMap fun r => s.readRun (s.debugWho core r.space) r)))

/-- The debugger reaches a core's contexts: not on a parked die, whose clusters' clocks are gated (24 R401, R402). -/
def State.debugReaches (s : State) (core : Nat) : Bool :=
  s.dev.debug == .invasive && s.dev.power == .on && (s.die (dieOfCore core)).power != .parked

/-- The debugger halts a context. -/
def execDebugHalt (core : Nat) (ctx : CtxId) (s : State) : Outcome :=
  let x := s.ctx ⟨core, ctx⟩
  if !s.debugReaches core || x.halted then .refused (.notEnabled "DEBUG_HALT")
  else .next (s.modCtx ⟨core, ctx⟩ fun x => { x with halted := true, haltedAt := s.now, stepping := false })

/-- A context is halted no longer; the time of its halt does not count in its wait. -/
def Context.unhalt (x : Context) (now : Nat) : Context :=
  { x with halted := false, wait := x.wait.map fun w => { w with since := w.since + (now - x.haltedAt) } }

/-- The debugger resumes a halted context. -/
def execDebugResume (core : Nat) (ctx : CtxId) (s : State) : Outcome :=
  let x := s.ctx ⟨core, ctx⟩
  if s.debugReaches core && x.halted then
    .next (s.modCtx ⟨core, ctx⟩ fun x => { x.unhalt s.now with stepping := false })
  else .refused (.notEnabled "DEBUG_RESUME")

/-- The debugger steps a halted context: it issues one instruction, or one pass word, and is halted again. -/
def execDebugStep (core : Nat) (ctx : CtxId) (s : State) : Outcome :=
  let x := s.ctx ⟨core, ctx⟩
  if s.debugReaches core && x.halted && x.firing then
    .next (s.modCtx ⟨core, ctx⟩ fun x => { x.unhalt s.now with stepping := true })
  else .refused (.notEnabled "DEBUG_STEP")

end Sys2Proof.Machine
end

