-- ==== Sys2Proof/Machine/LoadStore.lean ====
section
/-! DEFINITION. Plain loads and stores (06 R107-R110). -/

namespace Sys2Proof.Machine

/-- A load of `n` bytes: alignment, the checks of 14 R258, then rd (06 R107, R108). -/
def State.loadReg (s : State) (rd ra : Reg) (off : BitVec 13) (n : Nat) (f : List Byte → Word) : Res :=
  let ea := effAddr (s.getW ra) off
  if aligned ea n then do
    let (bs, t) ← s.load ea n
    return t.retire rd (f bs)
  else misalign ea .read

/-- A store of the low `n` bytes of rs (06 R107, R108). -/
def State.storeReg (s : State) (rs ra : Reg) (off : BitVec 13) (n : Nat) : Res :=
  let ea := effAddr (s.getW ra) off
  if aligned ea n then do
    let t ← s.store ea (toBytes n (s.getW rs).toNat)
    return t.advance
  else misalign ea .write

/-- `ld.b`: rd ← sext(mem(EA, 1)) (06 R108). -/
def execLdB (rd ra : Reg) (off : BitVec 13) (s : State) : Outcome := settle s (s.loadReg rd ra off 1 sbytes)

/-- `ld.h`: rd ← sext(mem(EA, 2)) (06 R108). -/
def execLdH (rd ra : Reg) (off : BitVec 13) (s : State) : Outcome := settle s (s.loadReg rd ra off 2 sbytes)

/-- `ld.w`: rd ← sext(mem(EA, 4)) (06 R108). -/
def execLdW (rd ra : Reg) (off : BitVec 13) (s : State) : Outcome := settle s (s.loadReg rd ra off 4 sbytes)

/-- `ld.d`: rd ← mem(EA, 8) (06 R108). -/
def execLdD (rd ra : Reg) (off : BitVec 13) (s : State) : Outcome := settle s (s.loadReg rd ra off 8 zbytes)

/-- `ld.bn`: rd ← zext(mem(EA, 1)) (06 R108). -/
def execLdBn (rd ra : Reg) (off : BitVec 13) (s : State) : Outcome := settle s (s.loadReg rd ra off 1 zbytes)

/-- `ld.hn`: rd ← zext(mem(EA, 2)) (06 R108). -/
def execLdHn (rd ra : Reg) (off : BitVec 13) (s : State) : Outcome := settle s (s.loadReg rd ra off 2 zbytes)

/-- `ld.wn`: rd ← zext(mem(EA, 4)) (06 R108). -/
def execLdWn (rd ra : Reg) (off : BitVec 13) (s : State) : Outcome := settle s (s.loadReg rd ra off 4 zbytes)

/-- `st.b`: mem(EA, 1) ← W(rs)[7:0] (06 R108). -/
def execStB (rs ra : Reg) (off : BitVec 13) (s : State) : Outcome := settle s (s.storeReg rs ra off 1)

/-- `st.h`: mem(EA, 2) ← W(rs)[15:0] (06 R108). -/
def execStH (rs ra : Reg) (off : BitVec 13) (s : State) : Outcome := settle s (s.storeReg rs ra off 2)

/-- `st.w`: mem(EA, 4) ← W(rs)[31:0] (06 R108). -/
def execStW (rs ra : Reg) (off : BitVec 13) (s : State) : Outcome := settle s (s.storeReg rs ra off 4)

/-- `st.d`: mem(EA, 8) ← W(rs) (06 R108). -/
def execStD (rs ra : Reg) (off : BitVec 13) (s : State) : Outcome := settle s (s.storeReg rs ra off 8)

/-- The byte and the mask of a nibble store: bit 4 selects the high nibble (06 R109). -/
def nibble (v : Word) : Byte × Byte :=
  let n := v.toNat % 16
  if v.getLsbD 4 then (BitVec.ofNat 8 (n * 16), 0xF0) else (BitVec.ofNat 8 n, 0x0F)

/-- `st.nib`: one nibble of mem(EA, 1) ← W(rs)[3:0], the other unchanged (06 R109). -/
def execStNib (rs ra : Reg) (off : BitVec 13) (s : State) : Outcome :=
  let x := nibble (s.getW rs)
  settle s do
    let t ← s.store (effAddr (s.getW ra) off) [x.1] x.2
    return t.advance

end Sys2Proof.Machine
end

