-- ==== Sys2Proof/Machine/LongAcc.lean ====
section
/-! DEFINITION. The long accumulator (02 R46-R49) and the `la` instructions (08 R163-R165). -/

namespace Sys2Proof.Machine

/-- The signed value of 1,088 bits, in units of 2^−544. -/
def laSigned (v : Nat) : Int := if v < 2 ^ 1087 then v else (v : Int) - 2 ^ 1088

/-- An accumulator: its 1,088 bits and its status word. -/
structure LongAcc where
  v : Nat
  st : Nat
  deriving DecidableEq, Repr

/-- The status word with flags set, its reserved bits 0, or unchanged where no flag changes (02 R46, R47). -/
def laFlags (st f : Nat) : Nat := if st % 16 ||| f = st % 16 then st else st % 16 ||| f

/-- Offering an exact addend: the accumulator after it, and whether bits below 2^−544 were discarded (02 R47). -/
def LongAcc.offer (a : LongAcc) (y : Val) : LongAcc × Bool :=
  match y with
  | .nan _ => ({ a with st := laFlags a.st 8 }, false)
  | .inf _ => ({ a with st := laFlags a.st 8 }, false)
  | .num neg m e =>
    let k := if -544 ≤ e then m * 2 ^ (e + 544).toNat else m / 2 ^ (-544 - e).toNat
    let lost := decide (e < -544) && m % 2 ^ (-544 - e).toNat != 0
    let sum := laSigned a.v + (if neg then -(k : Int) else k)
    let big := decide (sum < -(2 ^ 1087)) || decide (2 ^ 1087 - 1 < sum)
    (⟨(sum % 2 ^ 1088).toNat, laFlags a.st ((if big then 1 else 0) + (if lost then 2 else 0))⟩, lost)

/-- A round-out: the pattern, its flags, the accumulator with LINX, and what it counts (02 R48). -/
def LongAcc.roundOut (a : LongAcc) (f : Fmt) (rm : Nat) : Nat × Flags × LongAcc × Counts :=
  if bit a.st 0 || bit a.st 3 then (f.nan, { nv := true }, a, { nan := 1 })
  else
    let x := laSigned a.v
    let r := f.round rm (decide (x < 0)) x.natAbs (-544)
    let zero := decide (x ≠ 0) && r.bits % 2 ^ f.sign == 0
    (r.bits, r.flags, if r.flags.nx then { a with st := laFlags a.st 4 } else a, { ftz := if zero then 1 else 0 })

/-- The address checks of 08 R164: alignment, and all 144 bytes in the own-TCM window. -/
def laCheck (a : Word) : Except Stop Unit :=
  if !aligned a 8 then misalign a .none
  else if a.toNat < 0x8000000000000000 ∨ 0x8000000000080000 < a.toNat + 144 then .error (.sys 0x03 a a .none)
  else .ok ()

/-- The accumulator at an address. DESIGN CHOICE: all of its 144 bytes are read, whatever words the instruction needs (log entry 62). -/
def State.laRead (s : State) (a : Word) : Except Stop (LongAcc × State) := do
  laCheck a
  let (bs, t) ← s.load a 144
  return (⟨ofBytes (bs.take 136), ofBytes (bs.drop 136)⟩, t)

/-- The words of an accumulator. -/
def LongAcc.words (x : LongAcc) : List (List Byte) :=
  (List.range 17).map (fun i => toBytes 8 (x.v / 2 ^ (64 * i))) ++ [toBytes 8 x.st]

/-- The accumulator at an address becomes another: only the words whose value changes are written, and WSFAULT with
EVAL = W(ra) is decided first (02 R47, 08 R164). -/
def State.laWrite (s : State) (a : Word) (old new : LongAcc) : Res :=
  let ps := ((old.words.zip new.words).zipIdx.filter fun x => x.1.1 != x.1.2).map
    fun x => Part.mk (a + BitVec.ofNat 64 (8 * x.2)) x.1.2 0xFF
  match s.storeParts ps with
  | .error (.sys c _ _ k) => .error (.sys c a a k)
  | r => r

/-- An offer of an exact addend by an instruction (02 R47, R51). -/
def State.laOffer (s : State) (a : Word) (y : Val) : Res := do
  let (old, t) ← s.laRead a
  let (new, lost) := old.offer y
  let u ← t.laWrite a old new
  return (u.countCvt s.cur .network s.curWord { ftz := if lost then 1 else 0 } 3).advance

/-- `laclr`: all 18 words ← 0 (02 R47, 08 R163). -/
def execLaclr (ra : Reg) (s : State) : Outcome :=
  let a := s.getW ra
  settle s do
    laCheck a
    match s.storeParts ((List.range 18).map fun i => Part.mk (a + BitVec.ofNat 64 (8 * i)) (List.replicate 8 0) 0xFF) with
    | .error (.sys c _ _ k) => .error (.sys c a a k)
    | .error e => .error e
    | .ok t => return t.advance

/-- `laadd.d`: offers W(rb) as FP64 (08 R163). -/
def execLaaddD (ra rb : Reg) (s : State) : Outcome := settle s (s.laOffer (s.getW ra) (fp64.val (s.getW rb).toNat))

/-- `lamul.d`: offers the exact product W(rd) × W(rb) of two FP64 values (08 R163). -/
def execLamulD (rd ra rb : Reg) (s : State) : Outcome :=
  settle s (s.laOffer (s.getW ra) ((fp64.val (s.getW rd).toNat).mul (fp64.val (s.getW rb).toNat)).val)

/-- `lasub.d`: offers −W(rb) as FP64 (08 R163). -/
def execLasubD (ra rb : Reg) (s : State) : Outcome :=
  settle s (s.laOffer (s.getW ra) (fp64.val (s.getW rb).toNat).negate)

/-- `laadd.s`: offers W(rb)[31:0] as FP32 (08 R163). -/
def execLaaddS (ra rb : Reg) (s : State) : Outcome :=
  settle s (s.laOffer (s.getW ra) (fp32.val ((s.getW rb).toNat % 2 ^ 32)))

/-- A round-out into rd with the flags of 02 R48. -/
def State.laRound (s : State) (rd ra : Reg) (f : Fmt) : Res := do
  let a := s.getW ra
  let (old, t) ← s.laRead a
  let (x, fl, new, n) := old.roundOut f s.cx.ws.rm
  let u ← t.laWrite a old new
  return (((u.raise fl).setW rd (BitVec.ofNat 64 x)).countCvt s.cur .network s.curWord n 3).advance

/-- `larnd.d`: rd ← the round-out to FP64 (08 R163, 02 R48). -/
def execLarndD (rd ra : Reg) (s : State) : Outcome := settle s (s.laRound rd ra fp64)

/-- `larnd.s`: rd ← zext of the round-out to FP32 (08 R163, 02 R48). -/
def execLarndS (rd ra : Reg) (s : State) : Outcome := settle s (s.laRound rd ra fp32)

/-- `lastat`: rd ← word 17 (08 R163). -/
def execLastat (rd ra : Reg) (s : State) : Outcome :=
  settle s do
    let (old, t) ← s.laRead (s.getW ra)
    return t.retire rd (BitVec.ofNat 64 old.st)

end Sys2Proof.Machine
end

