-- ==== Sys2Proof/Machine/Save.lean ====
section
/-! DEFINITION. Pre-emption: requests, the forced save and the restore (20 R357-R363). -/

namespace Sys2Proof.Machine

/-- The state after an outcome, or the same state where it takes place no more. -/
def State.andThen (s : State) (o : Outcome) : State :=
  match o with
  | .next t => t
  | _ => s

/-! ### Requests (20 R357) -/

/-- The head request of the pre-emption queue: its four words. -/
def State.headRequest (s : State) : Option (List Word) :=
  (s.queueIndices 0x050000).head?.map fun i =>
    wordsOf (s.devRead ((s.bar 0x050000).toNat + 32 * (i % 2 ^ ((s.queueSize 0x050000).getD 0))) 32)

/-- PQHEAD advances. -/
def State.popRequest (s : State) : State := s.setBarBits 0x050018 31 0 (s.barBits 0x050018 31 0 + 1)

/-- RESTORE. -/
def reqRestore (w : List Word) : Bool := (w.getD 0 0).getLsbD 16

/-- TID. -/
def reqTid (w : List Word) : Nat := bits (w.getD 0 0).toNat 15 0

/-- SAVE. -/
def reqSave (w : List Word) : Nat := (w.getD 1 0).toNat

/-- No reserved bit is set, and SAVE is a multiple of 49,152. -/
def reqSound (w : List Word) : Bool :=
  bits (w.getD 0 0).toNat 63 17 == 0 && bits (w.getD 2 0).toNat 63 32 == 0 && w.getD 3 0 == 0 && reqSave w % 49152 == 0

/-- A request is refused: STATUS 4 in the save header, and nothing changes. -/
def State.refuseRequest (s : State) (w : List Word) : State :=
  s.popRequest.devWrite (reqSave w) (toBytes 8 (4 * 2 ^ 24 + Config.saveFormat.toNat * 2 ^ 16 + reqTid w))

/-- A pre-emption request names a team and its drain period starts; one that is not sound or names no resident team is
refused. -/
def execPreemptRequest (s : State) : Outcome :=
  match s.headRequest with
  | none => .refused (.notEnabled "PREEMPT_REQUEST")
  | some w =>
    let tid := reqTid w
    if !reqSound w then .next (s.refuseRequest w)
    else if reqRestore w || s.dev.preempts.any (·.tid == tid) then .refused (.notEnabled "PREEMPT_REQUEST")
    else if (SMap.find s.teams tid).isNone then .next (s.refuseRequest w)
    else
      let dlim := bits (w.getD 2 0).toNat 31 0
      .next (s.popRequest.modDev fun v =>
        { v with preempts := v.preempts ++ [⟨tid, reqSave w, if dlim = 0 then 188000 else dlim, s.now⟩] })

/-! ### The forced save (20 R359, R360) -/

/-- A place of a team: TCM of its cores, Pond of its clusters, or its Lake range. -/
def Team.owns (t : Team) (p : Nat) : Bool :=
  (decide (tcmPlace 0 0 ≤ p) && decide (p < tcmPlace 8192 0) && t.hasCore ((p - tcmPlace 0 0) / 0x80000)) ||
    (decide (pondPlace 0 0 ≤ p) && decide (p < pondPlace 128 0) && t.clus.contains ((p - pondPlace 0 0) / 0x400000)) ||
    (decide (lakePlace 0 0 ≤ p) && decide (p < lakePlace 4 0) &&
      Team.hasLake (some t) ((p - lakePlace 0 0) / 0x4000000) ((p - lakePlace 0 0) % 0x4000000))

/-- A waiting context leaves its wait at the waiting instruction; a request on its way ends. -/
def Context.leaveWait (x : Context) : Context :=
  { x with wait := none, stalled := false, owing := false, refused := false, refusals := 0, linkFails := false, halted := false, stepping := false }

/-- A spawned record in flight is accepted and its `spawn` completes, or it waits to be issued again. -/
def State.settleSpawn (s : State) (r : CtxRef) : State :=
  match (s.ctx r).spawn with
  | none => s
  | some x =>
    let done := fun (s : State) => (s.setSpawn r none).modCtx r fun y => if y.wait.any (·.op == .spawn) then y.advance else y
    if x.stage = .pushed then done s
    else if x.stage ≠ .withdrawn ∧ (s.core (taskCore x.word0)).dequeRoom then done (s.pushFar (taskCore x.word0) x.word0 x.arg1 r x.tags)
    else s.setSpawn r none

/-- What is in flight to a core or runs to its end there: messages, credit returns, a steal's answer and served commands. -/
def State.settleCore (s : State) (g : Nat) : State :=
  let s := s.settleWrites g
  let s := (s.core g).net.inFlight.foldl (fun s _ => s.andThen (execMessageAccept g 0 s)) s
  let s := s.modCore g fun k => { k with net := { k.net with credits := k.net.credits + k.net.creditReturns, creditReturns := 0 } }
  let s := if (s.core g).round.any fun r => r.answer.any (·.isSome) then s.andThen (execStealAnswer g s) else s.endRound g
  let s := ([0, 1, 2, 3] : List CtxId).foldl (fun s c => s.settleSpawn ⟨g, c⟩) s
  let s := (s.andThen (s.retireCore g)).settleWrites g
  s.modCore g fun k => { k with ctxs := Vector.ofFn fun c => (k.ctx c).leaveWait }

/-- Dependency pushes to a team's cores are accepted where there is room. -/
def State.settlePushes (s : State) (t : Team) : State :=
  let (mine, others) := s.dev.pushes.partition fun p => t.hasCore p.target
  mine.foldl (fun s p =>
    if (s.core p.target).dequeRoom then s.pushFar p.target p.word0 p.arg1 ⟨p.core, p.ctx⟩ p.tags
    else s.modDev fun v => { v with pushes := v.pushes ++ [p] }) (s.modDev fun v => { v with pushes := others })

/-- A team stops at instruction boundaries, and what is in flight to it is accepted. -/
def State.settleTeam (s : State) (t : Team) : State :=
  let s := t.cores.foldl State.settleCore (s.settlePushes t)
  t.clus.foldl (fun s c => (List.range 16).foldl (fun s q => s.andThen (s.retireMeeting (16 * c + q))) s) s

/-- A save keeps an open frame as a fault would (07 R145, 20 R356): FP and the frame form of the next word, with EVAL[52:0] as it
stood. The context's next instruction is the `rpt`. Log entry 53. -/
def Context.saveFrame (x : Context) : Context :=
  match x.frame with
  | none => x
  | some f =>
    { x with frame := none, fp := true, ws := { x.ws with eval := frameEval f.pass f.pos x.ws.eval } }

/-- The times of what is pending at a core: when each began, by `past`, and when its back-off ends, by `next`. -/
def Core.times (k : Core) (past next : Nat → Nat) : Core :=
  let arr := fun (a : Arrival) => { a with since := past a.since }
  { k with
    firings := k.firings.map fun p => { p with since := past p.since }
    deque := k.deque.map fun r => { r with since := past r.since }
    net := { k.net with slotsReq := k.net.slotsReq.map arr, slotsRep := k.net.slotsRep.map arr }
    backoff := k.backoff.map next }

/-- A core as its save holds it: with ages in place of times (20 R360). -/
def Core.saved (k : Core) (now : Nat) : Core :=
  { k.times (now - ·) (· - now) with ctxs := Vector.ofFn fun c => (k.ctx c).saveFrame }

/-- The bytes of the save image of a team. -/
def Team.imageSize (t : Team) : Nat := Config.saveSize t.clus.length (t.lakeSize * t.dies.length)

/-- What a team's save holds. -/
def State.capture (s : State) (tid save : Nat) (t : Team) : Saved :=
  let of := fun (c : Nat) => t.hasCore c
  { save, tid, team := t, size := t.imageSize, ctr := s.freeCtr
    cores := (s.cores.filter fun c => of c.1).map fun c => (c.1, c.2.saved s.now)
    quads := s.quads.filter fun q => t.clus.contains (q.1 / 16)
    clusters := (s.clusters.filter fun c => t.clus.contains c.1).map fun c => (c.1, { c.2 with tlb := [] })
    mem := s.mem.filter fun c => t.owns c.1
    poison := s.poison.filter t.owns
    records := s.dies.flatMap fun d => (d.2.records.filter (!·.coalesced) ++ d.2.answered.map (·.1)).filter fun f => of f.core
    colls := s.dies.flatMap fun d => (d.2.collQueue.filter fun j => of j.core).map fun j => (d.1, j)
    reshards := s.dies.flatMap fun d => (d.2.reshardQueue.filter fun j => of j.core).map fun j => (d.1, j)
    pushes := s.dev.pushes.filter fun p => of p.target }

/-- Nothing of a team is left that a save cannot carry: lanes of a gather, and prune/regrow jobs, which run to their end
(18 R339, 20 R356). -/
def State.maySave (s : State) (t : Team) : Bool :=
  (t.cores.all fun g => (s.core g).ctxs.toList.all fun x => x.gather.isNone) &&
    s.dies.all fun d => d.2.prgQueue.all (fun j => !t.hasCore j.core) && d.2.retire.all (fun j => !t.hasCore j.core) &&
      !(d.2.repack.any fun r => t.hasCore r.job.core) && !(d.2.draw.any fun r => t.hasCore r.job.core)

/-- The pending pre-emption whose DLIM has come. -/
def State.dueSave (s : State) : Option (Preempt × Team) :=
  s.dev.preempts.findSome? fun p =>
    match SMap.find s.teams p.tid with
    | some t => if p.since + p.dlim ≤ s.now ∧ s.maySave t then some (p, t) else none
    | none => none

/-- A byte of a save image past its header: its layout is private to the device (20 R360, R361). Log entry 9. -/
def Saved.byteAt (x : Saved) (a : Nat) : Byte := (SMap.find x.later a).getD (Config.freeByte x.ctr a)

/-- The addresses of a save image past its header. -/
def Saved.body (x : Saved) : List Nat := (List.range (x.size - 64)).map (x.save + 64 + ·)

/-- A save image is written past its header. -/
def State.writeImage (s : State) (x : Saved) : State := { s.devWrite (x.save + 64) (x.body.map x.byteAt) with freeCtr := s.freeCtr + 1 }

/-- The forced save: the team stops, its state is captured with the remap tables loaded, one entry over each TCM (17 R308), the
image and its header are written and the clusters and Lake ranges are free. -/
def execForcedSave (s : State) : Outcome :=
  match s.dueSave with
  | none => .refused (.notEnabled "FORCED_SAVE")
  | some (p, t) =>
    let drain := BitVec.ofNat 64 (s.now - p.since)
    let s := s.settleTeam t
    let x := s.capture p.tid p.save t
    let maps := t.cores.map fun g => (⟨g, 0, 8192, p.save + 64 * Config.saveUnit p.save g⟩ : Remap)
    let s := s.modDev fun v =>
      { v with
        saved := v.saved.filter (·.save != p.save) ++ [x], preempts := v.preempts.erase p
        remaps := v.remaps.filter (fun r => !t.hasCore r.core) ++ maps, pushes := v.pushes.filter fun q => !t.hasCore q.target }
    let s := ((s.writeImage x).saveHeader p.save 2 p.tid t.prio t.clus t.imageSize drain).emit (.msix (s.barBits 0x050020 10 0))
    .next ((s.stopTeam t).freeTeam p.tid t)

/-! ### The restore (20 R363) -/

/-- The saved team of a restore request, where the header at SAVE still names it in this format and its image still stands
there. -/
def State.savedAt (s : State) (save : Nat) : Option Saved :=
  let h := s.devWord save
  (s.dev.saved.find? (·.save == save)).filter fun x =>
    bits h 23 16 == Config.saveFormat.toNat && bits h 15 0 == x.tid && x.body.all fun a => s.devByte a == x.byteAt a

/-- A context that a fault suspended, and whose every record is an XLATE, issues its access again. -/
def reissues (x : Saved) (g : Nat) (c : CtxId) : Bool :=
  let mine := x.records.filter fun f => f.suspends && f.core == g && f.ctx == c
  !mine.isEmpty && mine.all (·.cause == 0x04)

/-- A restored core: what is pending has the age it had (20 R360), a recorded choice has a full WAITLIM, and its contexts resume with
their event latches set (06 R123). -/
def restoredCore (x : Saved) (now g : Nat) (k : Core) : Core :=
  let one := fun (c : CtxId) (y : Context) => { y with resume := true, evl := true, suspended := y.suspended && !reissues x g c }
  { k.times (now - ·) (now + ·) with
    ctxs := Vector.ofFn fun c => one c k.ctxs[c], journal := { k.journal with since := now }, lastIssue := none, vecUntil := 0 }

/-- The Lantern queue of a core whose XLATE fault is not posted again goes on; the waits at the heads of the queues start
again. -/
def restoredQuad (x : Saved) (now q : Nat) (y : Quad) : Quad :=
  let again := fun (k : Fin 4) => x.records.any fun f => f.agent == .lantern && f.core == 4 * q + k.val && reissues x f.core f.ctx
  let head := fun (u : CmdQueue) => { u with cmds := u.cmds.map fun c => { c with headSince := now, late := false } }
  { y with
    queues := Vector.ofFn fun k => head (if again k then { y.queues[k] with halted := false } else y.queues[k])
    meetings := y.meetings.map fun m => { m with headSince := now, late := false } }

/-- A reshard pass resumes at CURSOR with PASS + 1 (21 R393). -/
def State.resumeReshard (s : State) (d : Nat) (j : ReshardJob) : State :=
  let s := s.modDie d fun v => { v with reshardQueue := v.reshardQueue ++ [{ j with started := j.closing, ahead := [] }] }
  if j.started && !j.closing then
    match s.jobRecord j with
    | .ok (p, s) => s.putJob j 0x10 (prWord p (prPass p + 1) (prCause p) 2)
    | .error _ => s
  else s

/-- A saved team is resident again. -/
def State.restoreTeam (s : State) (x : Saved) : State :=
  let t := x.team
  let s := t.dies.foldl State.unpark s
  let s := { s with
    mem := x.mem.foldl (fun (m : Memory) (c : Nat × Byte) => Memory.write m c.1 c.2) (s.mem.filter fun (c : Nat × Byte) => !t.owns c.1)
    poison := s.poison.filter (fun p => !t.owns p) ++ x.poison
    soft := s.soft.filter fun p => !t.owns p
    teams := SMap.put s.teams x.tid t }
  let s := x.cores.foldl (fun (s : State) (c : Nat × Core) => s.setCore c.1 (restoredCore x s.now c.1 c.2)) s
  let s := x.quads.foldl (fun (s : State) (q : Nat × Quad) => s.modQuad q.1 fun _ => restoredQuad x s.now q.1 q.2) s
  let s := x.clusters.foldl (fun (s : State) (c : Nat × Cluster) => s.modCluster c.1 fun k => { c.2 with tlb := k.tlb }) s
  let s := x.colls.foldl (fun (s : State) (j : Nat × CollJob) => s.modDie j.1 fun d => { d with collQueue := headSince s.now (d.collQueue ++ [{ j.2 with since := none, mark := none }]) }) s
  let s := x.reshards.foldl (fun (s : State) (j : Nat × ReshardJob) => s.resumeReshard j.1 j.2) s
  let again := x.records.filter fun f => !(f.suspends && reissues x f.core f.ctx)
  let s := again.foldl (fun (s : State) (f : FaultRec) => s.report { f with seq := 0, nwait := 1 }) s
  s.modDev fun v => { v with pushes := v.pushes ++ x.pushes, remaps := v.remaps.filter fun r => !t.hasCore r.core }

/-- A saved team may be resident again: its id, clusters and Lake ranges are free, none of its clusters has failed its self-test (24
R409), and no launch of a higher priority waits or is
being placed (20 R363, 10 R196). -/
def State.mayRestore (s : State) (x : Saved) (prio : Nat) : Bool :=
  let t := x.team
  (SMap.find s.teams x.tid).isNone && t.clus.all s.clusterFree && !(t.clus.any s.dev.failedClusters.contains) && s.lakeFree t.clus t.lakeOrg t.lakeSize &&
    !(s.dev.placing.any fun p => decide (prio < p.prio) || p.chosen.any t.clus.contains) &&
    !(s.headLaunch.any fun y => decide (prio < s.launchPrio y)) && s.dev.ckptRunning.isNone && s.hostUp

/-- The restore at the head of the distributor's list is made: the team is resident and its header reads STATUS 3. -/
def State.makeRestore (s : State) (x : Saved) (r : Restore) : State :=
  let h := s.devWord r.save
  ((s.modDev fun v => { v with restores := v.restores.erase r }).restoreTeam x).devWrite r.save
    (toBytes 8 (h - bits h 31 24 * 2 ^ 24 + 3 * 2 ^ 24))

/-- What becomes of a restore that waits: refused where its image is gone, made where it may be. -/
def State.tryRestore (s : State) (r : Restore) : Option State :=
  match s.savedAt r.save with
  | none => some ((s.modDev fun v => { v with restores := v.restores.erase r }).devWrite (r.save + 3) [4])
  | some x => if s.mayRestore x r.prio then some (s.makeRestore x r) else none

/-- The first restore that waits, with none of a higher priority before it, and for which something can be done. -/
def State.nextRestore (s : State) : Option State :=
  s.dev.restores.findSome? fun r =>
    if s.dev.restores.any fun q => decide (r.prio < q.prio) then none else s.tryRestore r

/-- A restore request (20 R363): another format is refused, and any other waits at the priority of its header for its id, clusters
and Lake ranges; then the team resumes. It overtakes a gang of lower priority as a launch does (10 R199). -/
def execRestoreRequest (s : State) : Outcome :=
  let accepted : State × Bool :=
    match s.headRequest with
    | none => (s, false)
    | some w =>
      let save := reqSave w
      if !reqSound w || !reqRestore w then (s, false)
      else match s.savedAt save with
        | none => (s.popRequest.devWrite (save + 3) [4], true)
        | some _ =>
          let prio := bits (s.devWord save) 39 32 % 8
          ((s.popRequest.overtakeBy prio).modDev fun v => { v with restores := v.restores ++ [⟨save, prio⟩] }, true)
  match accepted.1.nextRestore with
  | some t => .next t
  | none => if accepted.2 then .next accepted.1 else .refused (.notEnabled "RESTORE_REQUEST")

/-! ### Replay (20 R365) -/

/-- A step takes place, and a core's journal has moved on by it without divergence. -/
def State.takesRecord (s : State) (g : Nat) (o : Outcome) : Bool :=
  match o with
  | .next t => (t.core g).journal.pos != (s.core g).journal.pos && !(t.core g).journal.div
  | _ => false

/-- A step may take place. -/
def enabled (o : Outcome) : Bool :=
  match o with
  | .next _ => true
  | _ => false

/-- The recorded choice of a core is possible now, by its type and word 1 (20 R364, R365). -/
def State.choicePossible (s : State) (g : Nat) (ty w : Nat) : Bool :=
  let clu := cluOfCore g
  let c := s.cluster clu
  match ty with
  | 1 => ([0, 1, 2, 3] : List CtxId).any fun c => (s.core g).mayTake c && (s.pickFiring g c).isSome
  | 2 => enabled (execStealRound g s) || enabled (execStealRequest g s) || enabled (execStealAnswer g s)
  | 3 =>
    (List.range c.ringCount).any (fun r => s.takesRecord g (execRingBeat clu r [] s)) ||
      s.takesRecord g (execRecoveryStart clu (c.stationQuad (bits w 33 32) (bits w 3 0)) (Fin.ofNat 2 (bits w 4 4)) (bits w 13 5) s)
  | 4 => s.takesRecord g (execCopyComplete g s)
  | 5 => ([0, 1, 2, 3] : List Nat).any fun d => s.takesRecord g (execPrgDraw d s)
  | 6 => (List.range c.lateAdds.length).any fun i => s.takesRecord g (execLateAddApply g i s)
  | _ => true

/-- The next recorded choice of a core may be made now. -/
def State.replayReady (s : State) (g : Nat) : Bool :=
  let j := (s.core g).journal
  match s.nextRecord g (j.size / 16 + 1) j.pos with
  | some (ty, w, _) => s.choicePossible g ty w
  | none => false

/-- A recorded choice has not become possible within WAITLIM of its core: DIV is set and the core goes on freely. -/
def execReplayDiverge (core : Nat) (s : State) : Outcome :=
  let k := s.core core
  if k.journal.replaying && decide (k.journal.since + k.waitlim.toNat ≤ s.now) && !s.replayReady core then .next (s.diverge core)
  else .refused (.notEnabled "REPLAY_DIVERGE")

end Sys2Proof.Machine
end

