-- ==== Sys2Proof/Machine/VecCmp.lean ====
section
/-! DEFINITION. Comparisons into masks (07 R132). -/

namespace Sys2Proof.Machine

/-- An integer comparison into a mask. -/
def State.vcmp (s : State) (vd va vb vm : VReg) (mp : Fin 2) (dt : Fin 16) (c : Int → Int → Bool) : Outcome :=
  let w := dtWidth dt.val
  let x := fun (r : VReg) i => laneInt (dtSigned dt.val) w (lane (s.getV r) w i)
  .next (s.vretire vd (maskResult (dtLanes dt.val) (s.getV vd) (s.active vm) (mp == 1) fun i => c (x va i) (x vb i)))

/-- A float comparison into a mask, with the flags of the active lanes. -/
def State.vfcmp (s : State) (vd va vb vm : VReg) (mp : Fin 2) (dt : Fin 16) (c nv : Val → Val → Bool) : Outcome :=
  let w := dtWidth dt.val
  let x := fun (r : VReg) i => (dtFmt dt.val).val (lane (s.getV r) w i)
  let v := maskResult (dtLanes dt.val) (s.getV vd) (s.active vm) (mp == 1) fun i => c (x va i) (x vb i)
  let fl := unionFlags (dtLanes dt.val) (s.active vm) fun i => { nv := nv (x va i) (x vb i) }
  .next ((s.raise fl).vretire vd v)

/-- `vceq`: mask bit i ← a = b (07 R132). -/
def execVceq (vd va vb vm : VReg) (mp : Fin 2) (dt : Fin 16) (s : State) : Outcome :=
  s.vcmp vd va vb vm mp dt fun a b => decide (a = b)

/-- `vcne`: mask bit i ← a ≠ b (07 R132). -/
def execVcne (vd va vb vm : VReg) (mp : Fin 2) (dt : Fin 16) (s : State) : Outcome :=
  s.vcmp vd va vb vm mp dt fun a b => decide (a ≠ b)

/-- `vclt`: mask bit i ← int(a) < int(b) (07 R132). -/
def execVclt (vd va vb vm : VReg) (mp : Fin 2) (dt : Fin 16) (s : State) : Outcome :=
  s.vcmp vd va vb vm mp dt fun a b => decide (a < b)

/-- `vcle`: mask bit i ← int(a) ≤ int(b) (07 R132). -/
def execVcle (vd va vb vm : VReg) (mp : Fin 2) (dt : Fin 16) (s : State) : Outcome :=
  s.vcmp vd va vb vm mp dt fun a b => decide (a ≤ b)

/-- `vcltn`: mask bit i ← nat(a) < nat(b) (07 R132). -/
def execVcltn (vd va vb vm : VReg) (mp : Fin 2) (dt : Fin 16) (s : State) : Outcome :=
  s.vcmp vd va vb vm mp dt fun a b => decide (a < b)

/-- `vclen`: mask bit i ← nat(a) ≤ nat(b) (07 R132). -/
def execVclen (vd va vb vm : VReg) (mp : Fin 2) (dt : Fin 16) (s : State) : Outcome :=
  s.vcmp vd va vb vm mp dt fun a b => decide (a ≤ b)

/-- `vfceq`: mask bit i ← a = b, false for a NaN; NV for a signalling one (07 R132). -/
def execVfceq (vd va vb vm : VReg) (mp : Fin 2) (dt : Fin 16) (s : State) : Outcome :=
  s.vfcmp vd va vb vm mp dt (fun a b => a.eq b) fun a b => a.isSn || b.isSn

/-- `vfclt`: mask bit i ← a < b, false for a NaN; NV for any (07 R132). -/
def execVfclt (vd va vb vm : VReg) (mp : Fin 2) (dt : Fin 16) (s : State) : Outcome :=
  s.vfcmp vd va vb vm mp dt (fun a b => a.lt b) fun a b => a.isNan || b.isNan

/-- `vfcle`: mask bit i ← a ≤ b, false for a NaN; NV for any (07 R132). -/
def execVfcle (vd va vb vm : VReg) (mp : Fin 2) (dt : Fin 16) (s : State) : Outcome :=
  s.vfcmp vd va vb vm mp dt (fun a b => a.lt b || a.eq b) fun a b => a.isNan || b.isNan

/-- `vfcun`: mask bit i ← either is NaN; NV for a signalling one (07 R132). -/
def execVfcun (vd va vb vm : VReg) (mp : Fin 2) (dt : Fin 16) (s : State) : Outcome :=
  s.vfcmp vd va vb vm mp dt (fun a b => a.isNan || b.isNan) fun a b => a.isSn || b.isSn

end Sys2Proof.Machine
end

