-- ==== Sys2Proof/Machine/VecFloat.lean ====
section
/-! DEFINITION. Floating-point vector arithmetic (07 R130, R131). -/

namespace Sys2Proof.Machine

/-- A float lane instruction on the values of a, b and the old lane c, rounded once under RM (07 R130). -/
def State.vflt (s : State) (vd va vb vm : VReg) (mp : Fin 2) (dt : Fin 16) (bound : Nat)
    (f : Nat → Val → Val → Val → Exact) : Outcome :=
  let w := dtWidth dt.val
  let fm := dtFmt dt.val
  let rm := s.cx.ws.rm
  s.lanewiseF vd vm mp dt.val bound fun i =>
    fm.finish rm (f rm (fm.val (lane (s.getV va) w i)) (fm.val (lane (s.getV vb) w i)) (fm.val (lane (s.getV vd) w i)))

/-- A float lane instruction on patterns, without rounding (07 R130, R131). -/
def State.vfbits (s : State) (vd va vb vm : VReg) (mp : Fin 2) (dt : Fin 16) (f : Fmt → Nat → Nat → Nat × Flags) :
    Outcome :=
  let w := dtWidth dt.val
  s.lanewiseF vd vm mp dt.val 1 fun i => f (dtFmt dt.val) (lane (s.getV va) w i) (lane (s.getV vb) w i)

/-- The occupancy bound of division and square root (07 R140). -/
def divBound (dt : Fin 16) : Nat := if dt = 13 then 24 else 12

/-- `vfadd`: each active lane ← round(a + b, RM) (07 R130). -/
def execVfadd (vd va vb vm : VReg) (mp : Fin 2) (dt : Fin 16) (s : State) : Outcome :=
  s.vflt vd va vb vm mp dt 1 fun rm a b _ => a.add rm b

/-- `vfsub`: each active lane ← round(a − b, RM) (07 R130). -/
def execVfsub (vd va vb vm : VReg) (mp : Fin 2) (dt : Fin 16) (s : State) : Outcome :=
  s.vflt vd va vb vm mp dt 1 fun rm a b _ => a.add rm b.negate

/-- `vfmul`: each active lane ← round(a × b, RM) (07 R130). -/
def execVfmul (vd va vb vm : VReg) (mp : Fin 2) (dt : Fin 16) (s : State) : Outcome :=
  s.vflt vd va vb vm mp dt 1 fun _ a b _ => a.mul b

/-- `vfma`: each active lane ← round(a × b + c, RM) (07 R130). -/
def execVfma (vd va vb vm : VReg) (mp : Fin 2) (dt : Fin 16) (s : State) : Outcome :=
  s.vflt vd va vb vm mp dt 1 fun rm a b c => a.fma rm b c

/-- `vfms`: each active lane ← round(a × b − c, RM) (07 R130). -/
def execVfms (vd va vb vm : VReg) (mp : Fin 2) (dt : Fin 16) (s : State) : Outcome :=
  s.vflt vd va vb vm mp dt 1 fun rm a b c => a.fma rm b c.negate

/-- `vfnma`: each active lane ← round(−(a × b) + c, RM) (07 R130). -/
def execVfnma (vd va vb vm : VReg) (mp : Fin 2) (dt : Fin 16) (s : State) : Outcome :=
  s.vflt vd va vb vm mp dt 1 fun rm a b c => a.negate.fma rm b c

/-- `vfdiv`: each active lane ← round(a ÷ b, RM) (07 R130). -/
def execVfdiv (vd va vb vm : VReg) (mp : Fin 2) (dt : Fin 16) (s : State) : Outcome :=
  s.vflt vd va vb vm mp dt (divBound dt) fun _ a b _ => a.div b

/-- `vfsqrt`: each active lane ← round(√a, RM) (07 R130, R131). -/
def execVfsqrt (vd va vm : VReg) (mp : Fin 2) (dt : Fin 16) (s : State) : Outcome :=
  s.vflt vd va va vm mp dt (divBound dt) fun _ a _ _ => a.sqrt

/-- `vfmin`: each active lane ← the smaller operand, bit for bit (07 R131). -/
def execVfmin (vd va vb vm : VReg) (mp : Fin 2) (dt : Fin 16) (s : State) : Outcome :=
  s.vfbits vd va vb vm mp dt fun f a b => f.minMax false a b

/-- `vfmax`: each active lane ← the larger operand, bit for bit (07 R131). -/
def execVfmax (vd va vb vm : VReg) (mp : Fin 2) (dt : Fin 16) (s : State) : Outcome :=
  s.vfbits vd va vb vm mp dt fun f a b => f.minMax true a b

/-- `vfabs`: each active lane ← a with its sign bit cleared; no flag (07 R130). -/
def execVfabs (vd va vm : VReg) (mp : Fin 2) (dt : Fin 16) (s : State) : Outcome :=
  s.vfbits vd va va vm mp dt fun f a _ => (a % 2 ^ f.sign, {})

/-- `vfneg`: each active lane ← a with its sign bit inverted; no flag (07 R130). -/
def execVfneg (vd va vm : VReg) (mp : Fin 2) (dt : Fin 16) (s : State) : Outcome :=
  s.vfbits vd va va vm mp dt fun f a _ => (a ^^^ 2 ^ f.sign, {})

/-- `vfclass`: each active lane ← the class word of a; no flag (07 R131). -/
def execVfclass (vd va vm : VReg) (mp : Fin 2) (dt : Fin 16) (s : State) : Outcome :=
  s.vfbits vd va va vm mp dt fun f a _ => (f.classOf a, {})

end Sys2Proof.Machine
end

