-- ==== Sys2Proof/Machine/VecInt.lean ====
section
/-! DEFINITION. Integer vector arithmetic (07 R129). -/

namespace Sys2Proof.Machine

/-- A two-source integer lane instruction: the lane patterns a and b give the new lane (07 R129). -/
def State.vint (s : State) (vd va vb vm : VReg) (mp : Fin 2) (dt : Fin 16) (f : Bool → Nat → Nat → Nat → Nat) : Outcome :=
  let w := dtWidth dt.val
  s.lanewise vd vm mp w fun i => f (dtSigned dt.val) w (lane (s.getV va) w i) (lane (s.getV vb) w i)

/-- `vadd`: each active lane ← a + b, wrapping (07 R129). -/
def execVadd (vd va vb vm : VReg) (mp : Fin 2) (dt : Fin 16) (s : State) : Outcome :=
  s.vint vd va vb vm mp dt fun sg w a b => wrapInt w (laneInt sg w a + laneInt sg w b)

/-- `vsub`: each active lane ← a − b, wrapping (07 R129). -/
def execVsub (vd va vb vm : VReg) (mp : Fin 2) (dt : Fin 16) (s : State) : Outcome :=
  s.vint vd va vb vm mp dt fun sg w a b => wrapInt w (laneInt sg w a - laneInt sg w b)

/-- `vmul`: each active lane ← the low half of a × b (07 R129). -/
def execVmul (vd va vb vm : VReg) (mp : Fin 2) (dt : Fin 16) (s : State) : Outcome :=
  s.vint vd va vb vm mp dt fun sg w a b => wrapInt w (laneInt sg w a * laneInt sg w b)

/-- `vmulh`: each active lane ← the high half of the exact product (07 R129). -/
def execVmulh (vd va vb vm : VReg) (mp : Fin 2) (dt : Fin 16) (s : State) : Outcome :=
  s.vint vd va vb vm mp dt fun sg w a b => wrapInt w (laneInt sg w a * laneInt sg w b / 2 ^ w)

/-- `vmin`: each active lane ← the smaller of a and b (07 R129). -/
def execVmin (vd va vb vm : VReg) (mp : Fin 2) (dt : Fin 16) (s : State) : Outcome :=
  s.vint vd va vb vm mp dt fun sg w a b => if laneInt sg w b < laneInt sg w a then b else a

/-- `vmax`: each active lane ← the larger of a and b (07 R129). -/
def execVmax (vd va vb vm : VReg) (mp : Fin 2) (dt : Fin 16) (s : State) : Outcome :=
  s.vint vd va vb vm mp dt fun sg w a b => if laneInt sg w a < laneInt sg w b then b else a

/-- `vand`: each active lane ← a and b (07 R129). -/
def execVand (vd va vb vm : VReg) (mp : Fin 2) (dt : Fin 16) (s : State) : Outcome :=
  s.vint vd va vb vm mp dt fun _ _ a b => a &&& b

/-- `vor`: each active lane ← a or b (07 R129). -/
def execVor (vd va vb vm : VReg) (mp : Fin 2) (dt : Fin 16) (s : State) : Outcome :=
  s.vint vd va vb vm mp dt fun _ _ a b => a ||| b

/-- `vxor`: each active lane ← a xor b (07 R129). -/
def execVxor (vd va vb vm : VReg) (mp : Fin 2) (dt : Fin 16) (s : State) : Outcome :=
  s.vint vd va vb vm mp dt fun _ _ a b => a ^^^ b

/-- `vsll`: each active lane ← a << (b mod w) (07 R129). -/
def execVsll (vd va vb vm : VReg) (mp : Fin 2) (dt : Fin 16) (s : State) : Outcome :=
  s.vint vd va vb vm mp dt fun _ w a b => a * 2 ^ (b % w) % 2 ^ w

/-- `vsrl`: each active lane ← a >> (b mod w), filling with 0 (07 R129). -/
def execVsrl (vd va vb vm : VReg) (mp : Fin 2) (dt : Fin 16) (s : State) : Outcome :=
  s.vint vd va vb vm mp dt fun _ w a b => a / 2 ^ (b % w)

/-- `vsra`: each active lane ← a >> (b mod w), filling with the top bit of a (07 R129). -/
def execVsra (vd va vb vm : VReg) (mp : Fin 2) (dt : Fin 16) (s : State) : Outcome :=
  s.vint vd va vb vm mp dt fun _ w a b => wrapInt w (laneInt true w a / 2 ^ (b % w))

/-- `vsadd`: each active lane ← a + b clamped to the range of dt (07 R129). -/
def execVsadd (vd va vb vm : VReg) (mp : Fin 2) (dt : Fin 16) (s : State) : Outcome :=
  s.vint vd va vb vm mp dt fun sg w a b => wrapInt w (clampInt (rangeOf sg w) (laneInt sg w a + laneInt sg w b))

/-- `vssub`: each active lane ← a − b clamped to the range of dt (07 R129). -/
def execVssub (vd va vb vm : VReg) (mp : Fin 2) (dt : Fin 16) (s : State) : Outcome :=
  s.vint vd va vb vm mp dt fun sg w a b => wrapInt w (clampInt (rangeOf sg w) (laneInt sg w a - laneInt sg w b))

/-- `vabs`: each active lane ← |a| mod 2^w (07 R129). -/
def execVabs (vd va vm : VReg) (mp : Fin 2) (dt : Fin 16) (s : State) : Outcome :=
  s.vint vd va va vm mp dt fun _ w a _ => (laneInt true w a).natAbs % 2 ^ w

end Sys2Proof.Machine
end

