-- ==== Sys2Proof/Machine/VecMask.lean ====
section
/-! DEFINITION. Permutations and mask operations (07 R133). They move bits, set no flag and count nothing. -/

namespace Sys2Proof.Machine

/-- One bits of a mask below lane `n`. -/
def maskCount (v : VWord) (n : Nat) : Nat := popNat n v.toNat

/-- `vsel`: lane i ← lane i of a where the mask bit is 1, else of b (07 R133). -/
def execVsel (vd va vb vm : VReg) (dt : Fin 16) (s : State) : Outcome :=
  let w := dtWidth dt.val
  .next (s.vretire vd (ofLanes w ((List.range (dtLanes dt.val)).map fun i =>
    lane (s.getV (if (s.getV vm).getLsbD i then va else vb)) w i)))

/-- `vperm`: lane i ← lane (nat(lane(b, i)) mod L) of a (07 R133). -/
def execVperm (vd va vb vm : VReg) (mp : Fin 2) (dt : Fin 16) (s : State) : Outcome :=
  let w := dtWidth dt.val
  s.lanewise vd vm mp w fun i => lane (s.getV va) w (lane (s.getV vb) w i % dtLanes dt.val)

/-- `vslup`: lane i ← lane i−s of a for i ≥ s, else 0 (07 R133). -/
def execVslup (vd va vb vm : VReg) (mp : Fin 2) (dt : Fin 16) (s : State) : Outcome :=
  let w := dtWidth dt.val
  let n := lane (s.getV vb) 64 0
  s.lanewise vd vm mp w fun i => if n ≤ i then lane (s.getV va) w (i - n) else 0

/-- `vsldn`: lane i ← lane i+s of a for i+s < L, else 0 (07 R133). -/
def execVsldn (vd va vb vm : VReg) (mp : Fin 2) (dt : Fin 16) (s : State) : Outcome :=
  let w := dtWidth dt.val
  let n := lane (s.getV vb) 64 0
  s.lanewise vd vm mp w fun i => if i + n < dtLanes dt.val then lane (s.getV va) w (i + n) else 0

/-- `mand`: V(vd) ← V(va) and V(vb) (07 R133). -/
def execMand (vd va vb : VReg) (s : State) : Outcome := .next (s.vretire vd (s.getV va &&& s.getV vb))

/-- `mor`: V(vd) ← V(va) or V(vb) (07 R133). -/
def execMor (vd va vb : VReg) (s : State) : Outcome := .next (s.vretire vd (s.getV va ||| s.getV vb))

/-- `mxor`: V(vd) ← V(va) xor V(vb) (07 R133). -/
def execMxor (vd va vb : VReg) (s : State) : Outcome := .next (s.vretire vd (s.getV va ^^^ s.getV vb))

/-- `mnot`: V(vd) ← not V(va) (07 R133). -/
def execMnot (vd va : VReg) (s : State) : Outcome := .next (s.vretire vd (~~~(s.getV va)))

/-- `mpop`: lane 0 as n64 ← the one bits of V(va)[L−1:0]; the rest 0 (07 R133). -/
def execMpop (vd va : VReg) (dt : Fin 16) (s : State) : Outcome :=
  .next (s.vretire vd (BitVec.ofNat 512 (maskCount (s.getV va) (dtLanes dt.val))))

/-- `mfirst`: lane 0 as n64 ← the index of the lowest one bit of V(va)[L−1:0], all ones without one (07 R133). -/
def execMfirst (vd va : VReg) (dt : Fin 16) (s : State) : Outcome :=
  let l := dtLanes dt.val
  let i := ctzNat l 0 (s.getV va).toNat
  .next (s.vretire vd (BitVec.ofNat 512 (if i < l then i else 2 ^ 64 - 1)))

/-- `viota`: lane i ← the one bits of V(va)[i−1:0] (07 R133). -/
def execViota (vd va vm : VReg) (mp : Fin 2) (dt : Fin 16) (s : State) : Outcome :=
  s.lanewise vd vm mp (dtWidth dt.val) fun i => maskCount (s.getV va) i

/-- `vzip`: lane 2j ← lane j of a and lane 2j+1 ← lane j of b (07 R133). -/
def execVzip (vd va vb vm : VReg) (mp : Fin 2) (dt : Fin 16) (s : State) : Outcome :=
  let w := dtWidth dt.val
  s.lanewise vd vm mp w fun i => lane (s.getV (if i % 2 = 0 then va else vb)) w (i / 2)

/-- `vunzip`: lane j ← lane 2j of a and lane L/2+j ← lane 2j of b (07 R133). -/
def execVunzip (vd va vb vm : VReg) (mp : Fin 2) (dt : Fin 16) (s : State) : Outcome :=
  let w := dtWidth dt.val
  let h := dtLanes dt.val / 2
  s.lanewise vd vm mp w fun i => if i < h then lane (s.getV va) w (2 * i) else lane (s.getV vb) w (2 * (i - h))

end Sys2Proof.Machine
end

