-- ==== Sys2Proof/Machine/VecRed.lean ====
section
/-! DEFINITION. Reductions by the pairwise tree (02 R45, 07 R134). -/

namespace Sys2Proof.Machine

/-- One level of the tree: a node with one absent child passes the other on, one with two is absent (02 R45). -/
def pairUp {α : Type} (f : α → α → α) : List (Option α) → List (Option α)
  | [] => []
  | [x] => [x]
  | some a :: some b :: t => some (f a b) :: pairUp f t
  | some a :: none :: t => some a :: pairUp f t
  | none :: x :: t => x :: pairUp f t

/-- The tree over at most 2^n lanes. -/
def reduceTree {α : Type} (f : α → α → α) : Nat → List (Option α) → Option α
  | _, [] => none
  | _, [x] => x
  | 0, x :: _ => x
  | n + 1, xs => reduceTree f n (pairUp f xs)

/-- The active lanes of a register, masked-off lanes absent. -/
def State.laneList (s : State) (va vm : VReg) (dt : Nat) : List (Option Nat) :=
  (List.range (dtLanes dt)).map fun i => if s.active vm i then some (lane (s.getV va) (dtWidth dt) i) else none

/-- A reduction of integer patterns: the result in lane 0, the rest 0 (07 R134). -/
def State.vred (s : State) (vd va vm : VReg) (dt : Fin 16) (id : Nat → Nat) (f : Nat → Nat → Nat → Nat) : Outcome :=
  let w := dtWidth dt.val
  .next (s.vretire vd (BitVec.ofNat 512 ((reduceTree (f w) 7 (s.laneList va vm dt.val)).getD (id w) % 2 ^ w)))

/-- A reduction of float patterns with flags (07 R134). DESIGN CHOICE: the flags are those of the combining steps alone, so that one
active lane sets none, be it a signalling NaN (log entry 16). -/
def State.vfred (s : State) (vd va vm : VReg) (dt : Fin 16) (id : Fmt → Nat) (norm : Bool)
    (f : Fmt → Nat → Nat → Nat × Flags) : Outcome :=
  let fm := dtFmt dt.val
  let g := fun (a b : Nat × Flags) => let r := f fm a.1 b.1; (r.1, (a.2.or b.2).or r.2)
  let xs := (s.laneList va vm dt.val).map fun x => x.map fun a => (a, ({} : Flags))
  let (x, fl) := (reduceTree g 7 xs).getD (id fm, {})
  let x := if norm && (fm.val x).isNan then fm.nan else x
  .next ((s.raise fl).vretire vd (BitVec.ofNat 512 x))

/-- `vrsum`: the wrapping sum (07 R134). -/
def execVrsum (vd va vm : VReg) (dt : Fin 16) (s : State) : Outcome :=
  s.vred vd va vm dt (fun _ => 0) fun w a b => (a + b) % 2 ^ w

/-- `vrmax`: the signed larger; the most negative without a lane (07 R134). -/
def execVrmax (vd va vm : VReg) (dt : Fin 16) (s : State) : Outcome :=
  s.vred vd va vm dt (fun w => 2 ^ (w - 1)) fun w a b => if laneInt true w a < laneInt true w b then b else a

/-- `vrmin`: the signed smaller; the most positive without a lane (07 R134). -/
def execVrmin (vd va vm : VReg) (dt : Fin 16) (s : State) : Outcome :=
  s.vred vd va vm dt (fun w => 2 ^ (w - 1) - 1) fun w a b => if laneInt true w b < laneInt true w a then b else a

/-- `vrmaxn`: the natural larger; 0 without a lane (07 R134). -/
def execVrmaxn (vd va vm : VReg) (dt : Fin 16) (s : State) : Outcome := s.vred vd va vm dt (fun _ => 0) fun _ a b => max a b

/-- `vrminn`: the natural smaller; all ones without a lane (07 R134). -/
def execVrminn (vd va vm : VReg) (dt : Fin 16) (s : State) : Outcome :=
  s.vred vd va vm dt (fun w => 2 ^ w - 1) fun _ a b => min a b

/-- `vrand`: bitwise and; all ones without a lane (07 R134). -/
def execVrand (vd va vm : VReg) (dt : Fin 16) (s : State) : Outcome :=
  s.vred vd va vm dt (fun w => 2 ^ w - 1) fun _ a b => a &&& b

/-- `vror`: bitwise or; 0 without a lane (07 R134). -/
def execVror (vd va vm : VReg) (dt : Fin 16) (s : State) : Outcome := s.vred vd va vm dt (fun _ => 0) fun _ a b => a ||| b

/-- `vfrsum`: each addition rounded under RM; +0 without a lane (02 R45, 07 R134). -/
def execVfrsum (vd va vm : VReg) (dt : Fin 16) (s : State) : Outcome :=
  let rm := s.cx.ws.rm
  s.vfred vd va vm dt (fun _ => 0) false fun f a b => f.finish rm ((f.val a).add rm (f.val b))

/-- `vfrmax`: the larger; the default NaN with a NaN lane, −∞ without a lane (07 R134). -/
def execVfrmax (vd va vm : VReg) (dt : Fin 16) (s : State) : Outcome :=
  s.vfred vd va vm dt (fun f => f.signed true f.inf) true fun f a b => f.minMax true a b

/-- `vfrmin`: the smaller; the default NaN with a NaN lane, +∞ without a lane (07 R134). -/
def execVfrmin (vd va vm : VReg) (dt : Fin 16) (s : State) : Outcome :=
  s.vfred vd va vm dt (fun f => f.inf) true fun f a b => f.minMax false a b

end Sys2Proof.Machine
end

