-- ==== Sys2Proof/Machine/Dispatch.lean ====
section
/-! DEFINITION. One arm for every step of the K4: its meaning. -/

namespace Sys2Proof.Machine

/-- What a step does to the module. An instruction word is executed by the context `cur`. -/
def exec (i : Instr) (s : State) : Host.Outcome State Fault Refusal :=
  match i with
  | .illegalWord w => Sys2Proof.Machine.execIllegalWord w s
  | .add rd ra rb => Sys2Proof.Machine.execAdd rd ra rb s
  | .sub rd ra rb => Sys2Proof.Machine.execSub rd ra rb s
  | .and rd ra rb => Sys2Proof.Machine.execAnd rd ra rb s
  | .or rd ra rb => Sys2Proof.Machine.execOr rd ra rb s
  | .xor rd ra rb => Sys2Proof.Machine.execXor rd ra rb s
  | .andn rd ra rb => Sys2Proof.Machine.execAndn rd ra rb s
  | .sll rd ra rb => Sys2Proof.Machine.execSll rd ra rb s
  | .srl rd ra rb => Sys2Proof.Machine.execSrl rd ra rb s
  | .sra rd ra rb => Sys2Proof.Machine.execSra rd ra rb s
  | .slt rd ra rb => Sys2Proof.Machine.execSlt rd ra rb s
  | .sltn rd ra rb => Sys2Proof.Machine.execSltn rd ra rb s
  | .mul rd ra rb => Sys2Proof.Machine.execMul rd ra rb s
  | .mulh rd ra rb => Sys2Proof.Machine.execMulh rd ra rb s
  | .mulhn rd ra rb => Sys2Proof.Machine.execMulhn rd ra rb s
  | .div rd ra rb => Sys2Proof.Machine.execDiv rd ra rb s
  | .divn rd ra rb => Sys2Proof.Machine.execDivn rd ra rb s
  | .rem rd ra rb => Sys2Proof.Machine.execRem rd ra rb s
  | .remn rd ra rb => Sys2Proof.Machine.execRemn rd ra rb s
  | .min rd ra rb => Sys2Proof.Machine.execMin rd ra rb s
  | .max rd ra rb => Sys2Proof.Machine.execMax rd ra rb s
  | .minn rd ra rb => Sys2Proof.Machine.execMinn rd ra rb s
  | .maxn rd ra rb => Sys2Proof.Machine.execMaxn rd ra rb s
  | .clz rd ra => Sys2Proof.Machine.execClz rd ra s
  | .ctz rd ra => Sys2Proof.Machine.execCtz rd ra s
  | .popc rd ra => Sys2Proof.Machine.execPopc rd ra s
  | .sext rd ra sh => Sys2Proof.Machine.execSext rd ra sh s
  | .zext rd ra sh => Sys2Proof.Machine.execZext rd ra sh s
  | .addx rd ra rb sh => Sys2Proof.Machine.execAddx rd ra rb sh s
  | .rotl rd ra rb sh => Sys2Proof.Machine.execRotl rd ra rb sh s
  | .bext rd ra rb sh => Sys2Proof.Machine.execBext rd ra rb sh s
  | .cmov rd ra rb => Sys2Proof.Machine.execCmov rd ra rb s
  | .addi rd ra imm => Sys2Proof.Machine.execAddi rd ra imm s
  | .andi rd ra imm => Sys2Proof.Machine.execAndi rd ra imm s
  | .ori rd ra imm => Sys2Proof.Machine.execOri rd ra imm s
  | .xori rd ra imm => Sys2Proof.Machine.execXori rd ra imm s
  | .slli rd ra n => Sys2Proof.Machine.execSlli rd ra n s
  | .srli rd ra n => Sys2Proof.Machine.execSrli rd ra n s
  | .srai rd ra n => Sys2Proof.Machine.execSrai rd ra n s
  | .slti rd ra imm => Sys2Proof.Machine.execSlti rd ra imm s
  | .sltni rd ra imm => Sys2Proof.Machine.execSltni rd ra imm s
  | .setqZ rd q imm => Sys2Proof.Machine.execSetqZ rd q imm s
  | .setqK rd q imm => Sys2Proof.Machine.execSetqK rd q imm s
  | .pcadd rd imm => Sys2Proof.Machine.execPcadd rd imm s
  | .ldB rd ra off => Sys2Proof.Machine.execLdB rd ra off s
  | .ldH rd ra off => Sys2Proof.Machine.execLdH rd ra off s
  | .ldW rd ra off => Sys2Proof.Machine.execLdW rd ra off s
  | .ldD rd ra off => Sys2Proof.Machine.execLdD rd ra off s
  | .ldBn rd ra off => Sys2Proof.Machine.execLdBn rd ra off s
  | .ldHn rd ra off => Sys2Proof.Machine.execLdHn rd ra off s
  | .ldWn rd ra off => Sys2Proof.Machine.execLdWn rd ra off s
  | .stB rs ra off => Sys2Proof.Machine.execStB rs ra off s
  | .stH rs ra off => Sys2Proof.Machine.execStH rs ra off s
  | .stW rs ra off => Sys2Proof.Machine.execStW rs ra off s
  | .stD rs ra off => Sys2Proof.Machine.execStD rs ra off s
  | .stNib rs ra off => Sys2Proof.Machine.execStNib rs ra off s
  | .lda rd ra sc wd => Sys2Proof.Machine.execLda rd ra sc wd s
  | .str ra rb sc wd => Sys2Proof.Machine.execStr ra rb sc wd s
  | .amoadd rd ra rb sc aq rl wd => Sys2Proof.Machine.execAmoadd rd ra rb sc aq rl wd s
  | .amoswap rd ra rb sc aq rl wd => Sys2Proof.Machine.execAmoswap rd ra rb sc aq rl wd s
  | .amoand rd ra rb sc aq rl wd => Sys2Proof.Machine.execAmoand rd ra rb sc aq rl wd s
  | .amoor rd ra rb sc aq rl wd => Sys2Proof.Machine.execAmoor rd ra rb sc aq rl wd s
  | .amoxor rd ra rb sc aq rl wd => Sys2Proof.Machine.execAmoxor rd ra rb sc aq rl wd s
  | .amomin rd ra rb sc aq rl wd => Sys2Proof.Machine.execAmomin rd ra rb sc aq rl wd s
  | .amomax rd ra rb sc aq rl wd => Sys2Proof.Machine.execAmomax rd ra rb sc aq rl wd s
  | .amominn rd ra rb sc aq rl wd => Sys2Proof.Machine.execAmominn rd ra rb sc aq rl wd s
  | .amomaxn rd ra rb sc aq rl wd => Sys2Proof.Machine.execAmomaxn rd ra rb sc aq rl wd s
  | .amocas rd ra rb sc aq rl wd => Sys2Proof.Machine.execAmocas rd ra rb sc aq rl wd s
  | .amocasq rd ra rb sc aq rl => Sys2Proof.Machine.execAmocasq rd ra rb sc aq rl s
  | .amodecp rd ra rb sc aq rl wd => Sys2Proof.Machine.execAmodecp rd ra rb sc aq rl wd s
  | .amofaddS rd ra rb sc aq rl => Sys2Proof.Machine.execAmofaddS rd ra rb sc aq rl s
  | .amofaddD rd ra rb sc aq rl => Sys2Proof.Machine.execAmofaddD rd ra rb sc aq rl s
  | .fence sc kinds => Sys2Proof.Machine.execFence sc kinds s
  | .beq ra rb off => Sys2Proof.Machine.execBeq ra rb off s
  | .bne ra rb off => Sys2Proof.Machine.execBne ra rb off s
  | .blt ra rb off => Sys2Proof.Machine.execBlt ra rb off s
  | .bge ra rb off => Sys2Proof.Machine.execBge ra rb off s
  | .bltn ra rb off => Sys2Proof.Machine.execBltn ra rb off s
  | .bgen ra rb off => Sys2Proof.Machine.execBgen ra rb off s
  | .jal rd off => Sys2Proof.Machine.execJal rd off s
  | .jalr rd ra imm => Sys2Proof.Machine.execJalr rd ra imm s
  | .trap code => Sys2Proof.Machine.execTrap code s
  | .brk code => Sys2Proof.Machine.execBrk code s
  | .wpswap rd ra => Sys2Proof.Machine.execWpswap rd ra s
  | .mqwait n => Sys2Proof.Machine.execMqwait n s
  | .sprd rd imm => Sys2Proof.Machine.execSprd rd imm s
  | .cpyLaunch rd => Sys2Proof.Machine.execCpyLaunch rd s
  | .spwr ra imm => Sys2Proof.Machine.execSpwr ra imm s
  | .rpt cnt rep sd sa sb sm => Sys2Proof.Machine.execRpt cnt rep sd sa sb sm s
  | .cbbind x cb => Sys2Proof.Machine.execCbbind x cb s
  | .cbget x cb need off => Sys2Proof.Machine.execCbget x cb need off s
  | .cbput x cb need off => Sys2Proof.Machine.execCbput x cb need off s
  | .cbpop x cb need => Sys2Proof.Machine.execCbpop x cb need s
  | .cbpush x cb need => Sys2Proof.Machine.execCbpush x cb need s
  | .cbstat x cb => Sys2Proof.Machine.execCbstat x cb s
  | .cbwfill x cb need off => Sys2Proof.Machine.execCbwfill x cb need off s
  | .cbwfree x cb need off => Sys2Proof.Machine.execCbwfree x cb need off s
  | .bsinit ra dir => Sys2Proof.Machine.execBsinit ra dir s
  | .bsget rd n => Sys2Proof.Machine.execBsget rd n s
  | .bspeek rd n => Sys2Proof.Machine.execBspeek rd n s
  | .bsskip n => Sys2Proof.Machine.execBsskip n s
  | .bsput ra n => Sys2Proof.Machine.execBsput ra n s
  | .bspos rd => Sys2Proof.Machine.execBspos rd s
  | .laclr ra => Sys2Proof.Machine.execLaclr ra s
  | .laaddD ra rb => Sys2Proof.Machine.execLaaddD ra rb s
  | .lamulD rd ra rb => Sys2Proof.Machine.execLamulD rd ra rb s
  | .lasubD ra rb => Sys2Proof.Machine.execLasubD ra rb s
  | .laaddS ra rb => Sys2Proof.Machine.execLaaddS ra rb s
  | .larndD rd ra => Sys2Proof.Machine.execLarndD rd ra s
  | .larndS rd ra => Sys2Proof.Machine.execLarndS rd ra s
  | .lastat rd ra => Sys2Proof.Machine.execLastat rd ra s
  | .vadd vd va vb vm mp dt => Sys2Proof.Machine.execVadd vd va vb vm mp dt s
  | .vsub vd va vb vm mp dt => Sys2Proof.Machine.execVsub vd va vb vm mp dt s
  | .vmul vd va vb vm mp dt => Sys2Proof.Machine.execVmul vd va vb vm mp dt s
  | .vmulh vd va vb vm mp dt => Sys2Proof.Machine.execVmulh vd va vb vm mp dt s
  | .vmin vd va vb vm mp dt => Sys2Proof.Machine.execVmin vd va vb vm mp dt s
  | .vmax vd va vb vm mp dt => Sys2Proof.Machine.execVmax vd va vb vm mp dt s
  | .vand vd va vb vm mp dt => Sys2Proof.Machine.execVand vd va vb vm mp dt s
  | .vor vd va vb vm mp dt => Sys2Proof.Machine.execVor vd va vb vm mp dt s
  | .vxor vd va vb vm mp dt => Sys2Proof.Machine.execVxor vd va vb vm mp dt s
  | .vsll vd va vb vm mp dt => Sys2Proof.Machine.execVsll vd va vb vm mp dt s
  | .vsrl vd va vb vm mp dt => Sys2Proof.Machine.execVsrl vd va vb vm mp dt s
  | .vsra vd va vb vm mp dt => Sys2Proof.Machine.execVsra vd va vb vm mp dt s
  | .vabs vd va vm mp dt => Sys2Proof.Machine.execVabs vd va vm mp dt s
  | .vsadd vd va vb vm mp dt => Sys2Proof.Machine.execVsadd vd va vb vm mp dt s
  | .vssub vd va vb vm mp dt => Sys2Proof.Machine.execVssub vd va vb vm mp dt s
  | .vfadd vd va vb vm mp dt => Sys2Proof.Machine.execVfadd vd va vb vm mp dt s
  | .vfsub vd va vb vm mp dt => Sys2Proof.Machine.execVfsub vd va vb vm mp dt s
  | .vfmul vd va vb vm mp dt => Sys2Proof.Machine.execVfmul vd va vb vm mp dt s
  | .vfma vd va vb vm mp dt => Sys2Proof.Machine.execVfma vd va vb vm mp dt s
  | .vfms vd va vb vm mp dt => Sys2Proof.Machine.execVfms vd va vb vm mp dt s
  | .vfnma vd va vb vm mp dt => Sys2Proof.Machine.execVfnma vd va vb vm mp dt s
  | .vfmin vd va vb vm mp dt => Sys2Proof.Machine.execVfmin vd va vb vm mp dt s
  | .vfmax vd va vb vm mp dt => Sys2Proof.Machine.execVfmax vd va vb vm mp dt s
  | .vfabs vd va vm mp dt => Sys2Proof.Machine.execVfabs vd va vm mp dt s
  | .vfneg vd va vm mp dt => Sys2Proof.Machine.execVfneg vd va vm mp dt s
  | .vfdiv vd va vb vm mp dt => Sys2Proof.Machine.execVfdiv vd va vb vm mp dt s
  | .vfsqrt vd va vm mp dt => Sys2Proof.Machine.execVfsqrt vd va vm mp dt s
  | .vfclass vd va vm mp dt => Sys2Proof.Machine.execVfclass vd va vm mp dt s
  | .vceq vd va vb vm mp dt => Sys2Proof.Machine.execVceq vd va vb vm mp dt s
  | .vcne vd va vb vm mp dt => Sys2Proof.Machine.execVcne vd va vb vm mp dt s
  | .vclt vd va vb vm mp dt => Sys2Proof.Machine.execVclt vd va vb vm mp dt s
  | .vcle vd va vb vm mp dt => Sys2Proof.Machine.execVcle vd va vb vm mp dt s
  | .vcltn vd va vb vm mp dt => Sys2Proof.Machine.execVcltn vd va vb vm mp dt s
  | .vclen vd va vb vm mp dt => Sys2Proof.Machine.execVclen vd va vb vm mp dt s
  | .vfceq vd va vb vm mp dt => Sys2Proof.Machine.execVfceq vd va vb vm mp dt s
  | .vfclt vd va vb vm mp dt => Sys2Proof.Machine.execVfclt vd va vb vm mp dt s
  | .vfcle vd va vb vm mp dt => Sys2Proof.Machine.execVfcle vd va vb vm mp dt s
  | .vfcun vd va vb vm mp dt => Sys2Proof.Machine.execVfcun vd va vb vm mp dt s
  | .vsel vd va vb vm dt => Sys2Proof.Machine.execVsel vd va vb vm dt s
  | .vperm vd va vb vm mp dt => Sys2Proof.Machine.execVperm vd va vb vm mp dt s
  | .vslup vd va vb vm mp dt => Sys2Proof.Machine.execVslup vd va vb vm mp dt s
  | .vsldn vd va vb vm mp dt => Sys2Proof.Machine.execVsldn vd va vb vm mp dt s
  | .mand vd va vb => Sys2Proof.Machine.execMand vd va vb s
  | .mor vd va vb => Sys2Proof.Machine.execMor vd va vb s
  | .mxor vd va vb => Sys2Proof.Machine.execMxor vd va vb s
  | .mnot vd va => Sys2Proof.Machine.execMnot vd va s
  | .mpop vd va dt => Sys2Proof.Machine.execMpop vd va dt s
  | .mfirst vd va dt => Sys2Proof.Machine.execMfirst vd va dt s
  | .viota vd va vm mp dt => Sys2Proof.Machine.execViota vd va vm mp dt s
  | .vzip vd va vb vm mp dt => Sys2Proof.Machine.execVzip vd va vb vm mp dt s
  | .vunzip vd va vb vm mp dt => Sys2Proof.Machine.execVunzip vd va vb vm mp dt s
  | .vrsum vd va vm dt => Sys2Proof.Machine.execVrsum vd va vm dt s
  | .vrmax vd va vm dt => Sys2Proof.Machine.execVrmax vd va vm dt s
  | .vrmin vd va vm dt => Sys2Proof.Machine.execVrmin vd va vm dt s
  | .vrmaxn vd va vm dt => Sys2Proof.Machine.execVrmaxn vd va vm dt s
  | .vrminn vd va vm dt => Sys2Proof.Machine.execVrminn vd va vm dt s
  | .vfrsum vd va vm dt => Sys2Proof.Machine.execVfrsum vd va vm dt s
  | .vfrmax vd va vm dt => Sys2Proof.Machine.execVfrmax vd va vm dt s
  | .vfrmin vd va vm dt => Sys2Proof.Machine.execVfrmin vd va vm dt s
  | .vrand vd va vm dt => Sys2Proof.Machine.execVrand vd va vm dt s
  | .vror vd va vm dt => Sys2Proof.Machine.execVror vd va vm dt s
  | .vcvt vd va st vm mp dt => Sys2Proof.Machine.execVcvt vd va st vm mp dt s
  | .vdec vd va st vm mp dt => Sys2Proof.Machine.execVdec vd va st vm mp dt s
  | .venc vd va st vm mp dt => Sys2Proof.Machine.execVenc vd va st vm mp dt s
  | .vscl vd va st vm mp dt => Sys2Proof.Machine.execVscl vd va st vm mp dt s
  | .vld vd ra rb vm mp dt => Sys2Proof.Machine.execVld vd ra rb vm mp dt s
  | .vlds vd ra rb vm mp dt => Sys2Proof.Machine.execVlds vd ra rb vm mp dt s
  | .vldb vd ra rb vm mp dt => Sys2Proof.Machine.execVldb vd ra rb vm mp dt s
  | .vtbl ra dt => Sys2Proof.Machine.execVtbl ra dt s
  | .vst vd ra rb vm dt => Sys2Proof.Machine.execVst vd ra rb vm dt s
  | .vsts vd ra rb vm dt => Sys2Proof.Machine.execVsts vd ra rb vm dt s
  | .vstnib vd ra rb vm => Sys2Proof.Machine.execVstnib vd ra rb vm s
  | .vins vd ra rb dt => Sys2Proof.Machine.execVins vd ra rb dt s
  | .vext vd ra rb dt => Sys2Proof.Machine.execVext vd ra rb dt s
  | .vsplat vd ra vm dt => Sys2Proof.Machine.execVsplat vd ra vm dt s
  | .send ra rb sc => Sys2Proof.Machine.execSend ra rb sc s
  | .sendv ra vb sc => Sys2Proof.Machine.execSendv ra vb sc s
  | .mget rd n => Sys2Proof.Machine.execMget rd n s
  | .vmget vd half => Sys2Proof.Machine.execVmget vd half s
  | .htset ra rb n => Sys2Proof.Machine.execHtset ra rb n s
  | .dqpush ra => Sys2Proof.Machine.execDqpush ra s
  | .dqpop rd ra => Sys2Proof.Machine.execDqpop rd ra s
  | .spawn ra sc => Sys2Proof.Machine.execSpawn ra sc s
  | .actdecl ra slot => Sys2Proof.Machine.execActdecl ra slot s
  | .actarm slot => Sys2Proof.Machine.execActarm slot s
  | .actoff slot => Sys2Proof.Machine.execActoff slot s
  | .dqstat rd => Sys2Proof.Machine.execDqstat rd s
  | .barArr rd ra level => Sys2Proof.Machine.execBarArr rd ra level s
  | .barWait ra rb level => Sys2Proof.Machine.execBarWait ra rb level s
  | .barArrw rd ra level => Sys2Proof.Machine.execBarArrw rd ra level s
  | .obarArr rd ra rb sc => Sys2Proof.Machine.execObarArr rd ra rb sc s
  | .obarWait ra rb sc => Sys2Proof.Machine.execObarWait ra rb sc s
  | .rcfg ra => Sys2Proof.Machine.execRcfg ra s
  | .rinj rd ra => Sys2Proof.Machine.execRinj rd ra s
  | .rmset ra rb => Sys2Proof.Machine.execRmset ra rb s
  | .rmclr ra rb => Sys2Proof.Machine.execRmclr ra rb s
  | .rphase ra rb trk sc => Sys2Proof.Machine.execRphase ra rb trk sc s
  | .rcnt rd ra sel trk => Sys2Proof.Machine.execRcnt rd ra sel trk s
  | .rfetch rd rb => Sys2Proof.Machine.execRfetch rd rb s
  | .rdrain rd trk => Sys2Proof.Machine.execRdrain rd trk s
  | .cwait rd ra => Sys2Proof.Machine.execCwait rd ra s
  | .cstat rd => Sys2Proof.Machine.execCstat rd s
  | .ccancel rd ra => Sys2Proof.Machine.execCcancel rd ra s
  | .vgath vd ra sc vm mp dt => Sys2Proof.Machine.execVgath vd ra sc vm mp dt s
  | .vscat vd ra sc vm dt => Sys2Proof.Machine.execVscat vd ra sc vm dt s
  | .vscadd vd ra sc vm dt => Sys2Proof.Machine.execVscadd vd ra sc vm dt s
  | .vgathw vd ra sc vm mp dt => Sys2Proof.Machine.execVgathw vd ra sc vm mp dt s
  | .mverOpen rd ra => Sys2Proof.Machine.execMverOpen rd ra s
  | .mverTag rd ra => Sys2Proof.Machine.execMverTag rd ra s
  | .mverDone ra rb => Sys2Proof.Machine.execMverDone ra rb s
  | .mverStat rd ra sel => Sys2Proof.Machine.execMverStat rd ra sel s
  | .prgGo rd ra op => Sys2Proof.Machine.execPrgGo rd ra op s
  | .prgStat rd ra => Sys2Proof.Machine.execPrgStat rd ra s
  | .stash rd ra => Sys2Proof.Machine.execStash rd ra s
  | .unstash rd ra rb ret => Sys2Proof.Machine.execUnstash rd ra rb ret s
  | .wshad rd ra rb blk => Sys2Proof.Machine.execWshad rd ra rb blk s
  | .ltdecl rd ra => Sys2Proof.Machine.execLtdecl rd ra s
  | .ltuse rd ra rb => Sys2Proof.Machine.execLtuse rd ra rb s
  | .ltdrop ra mode => Sys2Proof.Machine.execLtdrop ra mode s
  | .ltstat rd ra => Sys2Proof.Machine.execLtstat rd ra s
  | .rbput rd ra rb => Sys2Proof.Machine.execRbput rd ra rb s
  | .rbret rd ra => Sys2Proof.Machine.execRbret rd ra s
  | .rbstat rd ra => Sys2Proof.Machine.execRbstat rd ra s
  | .collGo rd ra => Sys2Proof.Machine.execCollGo rd ra s
  | .collWait rd ra => Sys2Proof.Machine.execCollWait rd ra s
  | .rsplan rd ra => Sys2Proof.Machine.execRsplan rd ra s
  | .rsgo rd ra => Sys2Proof.Machine.execRsgo rd ra s
  | .rsstat rd ra => Sys2Proof.Machine.execRsstat rd ra s
  | .lkput rd ra => Sys2Proof.Machine.execLkput rd ra s
  | .pmcfg ra n => Sys2Proof.Machine.execPmcfg ra n s
  | .pmrdCore rd ra => Sys2Proof.Machine.execPmrdCore rd ra s
  | .pmrdSlice rd ra => Sys2Proof.Machine.execPmrdSlice rd ra s
  | .jrnlStart rd ra => Sys2Proof.Machine.execJrnlStart rd ra s
  | .jrnlStop rd ra => Sys2Proof.Machine.execJrnlStop rd ra s
  | .jrnlMark rd ra => Sys2Proof.Machine.execJrnlMark rd ra s
  | .jrnlStatus rd ra => Sys2Proof.Machine.execJrnlStatus rd ra s
  | .fcstrd rd ra sel => Sys2Proof.Machine.execFcstrd rd ra sel s
  | .done => Sys2Proof.Machine.execDone s
  | .yield => Sys2Proof.Machine.execYield s
  | .tret => Sys2Proof.Machine.execTret s
  | .wfe => Sys2Proof.Machine.execWfe s
  | .nop => Sys2Proof.Machine.execNop s
  | .bsflush => Sys2Proof.Machine.execBsflush s
  | .bsalign => Sys2Proof.Machine.execBsalign s
  | .mrel => Sys2Proof.Machine.execMrel s
  | .htsync => Sys2Proof.Machine.execHtsync s
  | .cvtThreshold core ctx => Sys2Proof.Machine.execCvtThreshold core ctx s
  | .chargedFault core ctx => Sys2Proof.Machine.execChargedFault core ctx s
  | .loadReturn core ctx => Sys2Proof.Machine.execLoadReturn core ctx s
  | .waitRelease core ctx => Sys2Proof.Machine.execWaitRelease core ctx s
  | .waitlimit core ctx => Sys2Proof.Machine.execWaitlimit core ctx s
  | .firingDispatch core ctx => Sys2Proof.Machine.execFiringDispatch core ctx s
  | .firingPromote core ix => Sys2Proof.Machine.execFiringPromote core ix s
  | .messageTransmit core vn dropped => Sys2Proof.Machine.execMessageTransmit core vn dropped s
  | .messageAccept core ix => Sys2Proof.Machine.execMessageAccept core ix s
  | .creditReturn core => Sys2Proof.Machine.execCreditReturn core s
  | .stealRound core => Sys2Proof.Machine.execStealRound core s
  | .stealRequest core => Sys2Proof.Machine.execStealRequest core s
  | .stealAnswer core => Sys2Proof.Machine.execStealAnswer core s
  | .stealBackoffExpiry core => Sys2Proof.Machine.execStealBackoffExpiry core s
  | .spawnPush core ctx => Sys2Proof.Machine.execSpawnPush core ctx s
  | .spawnWithdraw core ctx => Sys2Proof.Machine.execSpawnWithdraw core ctx s
  | .spawnAck core ctx => Sys2Proof.Machine.execSpawnAck core ctx s
  | .dependencyPush ix => Sys2Proof.Machine.execDependencyPush ix s
  | .actorReady core slot => Sys2Proof.Machine.execActorReady core slot s
  | .barrierRelease core level id => Sys2Proof.Machine.execBarrierRelease core level id s
  | .barrierStaggerExpiry core ctx => Sys2Proof.Machine.execBarrierStaggerExpiry core ctx s
  | .mcfg quad src => Sys2Proof.Machine.execMcfg quad src s
  | .mctx quad src => Sys2Proof.Machine.execMctx quad src s
  | .mld quad src => Sys2Proof.Machine.execMld quad src s
  | .mst quad src => Sys2Proof.Machine.execMst quad src s
  | .mma quad src => Sys2Proof.Machine.execMma quad src s
  | .mmat quad src => Sys2Proof.Machine.execMmat quad src s
  | .mmas quad src => Sys2Proof.Machine.execMmas quad src s
  | .mzero quad src => Sys2Proof.Machine.execMzero quad src s
  | .lanternMrel quad src => Sys2Proof.Machine.execLanternMrel quad src s
  | .mopt quad src => Sys2Proof.Machine.execMopt quad src s
  | .msync quad src => Sys2Proof.Machine.execMsync quad src s
  | .mmask quad src => Sys2Proof.Machine.execMmask quad src s
  | .mnorm quad src => Sys2Proof.Machine.execMnorm quad src s
  | .lanternWaitTimeout quad src => Sys2Proof.Machine.execLanternWaitTimeout quad src s
  | .lanternRetire quad src => Sys2Proof.Machine.execLanternRetire quad src s
  | .ringBeat clu ring parity => Sys2Proof.Machine.execRingBeat clu ring parity s
  | .ringDrainEnd clu ring trk => Sys2Proof.Machine.execRingDrainEnd clu ring trk s
  | .accDelivery clu ring trk ix => Sys2Proof.Machine.execAccDelivery clu ring trk ix s
  | .recoveryStart clu station trk entry => Sys2Proof.Machine.execRecoveryStart clu station trk entry s
  | .lateAddApply core ix => Sys2Proof.Machine.execLateAddApply core ix s
  | .phaseComplete clu ring trk => Sys2Proof.Machine.execPhaseComplete clu ring trk s
  | .copyStart core => Sys2Proof.Machine.execCopyStart core s
  | .copyComplete core => Sys2Proof.Machine.execCopyComplete core s
  | .gsLane core ctx lane => Sys2Proof.Machine.execGsLane core ctx lane s
  | .snufferDropEnd die region => Sys2Proof.Machine.execSnufferDropEnd die region s
  | .prgStep die => Sys2Proof.Machine.execPrgStep die s
  | .prgDraw die => Sys2Proof.Machine.execPrgDraw die s
  | .prgRepack die => Sys2Proof.Machine.execPrgRepack die s
  | .repackSlotSwitch die => Sys2Proof.Machine.execRepackSlotSwitch die s
  | .retirementJob die => Sys2Proof.Machine.execRetirementJob die s
  | .linkPutTransfer core link peer => Sys2Proof.Machine.execLinkPutTransfer core link peer s
  | .linkPutComplete core link => Sys2Proof.Machine.execLinkPutComplete core link s
  | .rbTransfer core link peer => Sys2Proof.Machine.execRbTransfer core link peer s
  | .fillAdd link core desc => Sys2Proof.Machine.execFillAdd link core desc s
  | .fillAck core desc => Sys2Proof.Machine.execFillAck core desc s
  | .returnAdd link core desc => Sys2Proof.Machine.execReturnAdd link core desc s
  | .linkDown link => Sys2Proof.Machine.execLinkDown link s
  | .linkUp link peer lanes => Sys2Proof.Machine.execLinkUp link peer lanes s
  | .collStart die => Sys2Proof.Machine.execCollStart die s
  | .collStartTimeout die => Sys2Proof.Machine.execCollStartTimeout die s
  | .collEnd die peers => Sys2Proof.Machine.execCollEnd die peers s
  | .reshardPassStart die => Sys2Proof.Machine.execReshardPassStart die s
  | .reshardRegionDone die peer => Sys2Proof.Machine.execReshardRegionDone die peer s
  | .lqtailDoorbell asid tail => Sys2Proof.Machine.execLqtailDoorbell asid tail s
  | .launchServe chosen => Sys2Proof.Machine.execLaunchServe chosen s
  | .gangPlace => Sys2Proof.Machine.execGangPlace s
  | .gangWithdraw => Sys2Proof.Machine.execGangWithdraw s
  | .teamEnd tid => Sys2Proof.Machine.execTeamEnd tid s
  | .forecastWrite die => Sys2Proof.Machine.execForecastWrite die s
  | .clockLimitChange die mhz => Sys2Proof.Machine.execClockLimitChange die mhz s
  | .powerCapWindow watts => Sys2Proof.Machine.execPowerCapWindow watts s
  | .diePark die => Sys2Proof.Machine.execDiePark die s
  | .dieUnpark die => Sys2Proof.Machine.execDieUnpark die s
  | .thermalLimit die celsius => Sys2Proof.Machine.execThermalLimit die celsius s
  | .thermalRelease die celsius => Sys2Proof.Machine.execThermalRelease die celsius s
  | .thermalTrip die celsius => Sys2Proof.Machine.execThermalTrip die celsius s
  | .faultRecordPost die => Sys2Proof.Machine.execFaultRecordPost die s
  | .fqszWrite die v => Sys2Proof.Machine.execFqszWrite die v s
  | .frespRetry die seq => Sys2Proof.Machine.execFrespRetry die seq s
  | .frespSkip die seq => Sys2Proof.Machine.execFrespSkip die seq s
  | .frespDiscard die seq => Sys2Proof.Machine.execFrespDiscard die seq s
  | .frespUpcall die seq => Sys2Proof.Machine.execFrespUpcall die seq s
  | .frespEnd die seq => Sys2Proof.Machine.execFrespEnd die seq s
  | .walkComplete die asid page => Sys2Proof.Machine.execWalkComplete die asid page s
  | .invalidateStart v => Sys2Proof.Machine.execInvalidateStart v s
  | .invalidateDone => Sys2Proof.Machine.execInvalidateDone s
  | .sliceFillReturn line => Sys2Proof.Machine.execSliceFillReturn line s
  | .refusalRetry core ctx => Sys2Proof.Machine.execRefusalRetry core ctx s
  | .sliceWriteback sector => Sys2Proof.Machine.execSliceWriteback sector s
  | .preemptRequest => Sys2Proof.Machine.execPreemptRequest s
  | .forcedSave => Sys2Proof.Machine.execForcedSave s
  | .restoreRequest => Sys2Proof.Machine.execRestoreRequest s
  | .replayDiverge core => Sys2Proof.Machine.execReplayDiverge core s
  | .checkpointHost => Sys2Proof.Machine.execCheckpointHost s
  | .checkpointMirror peerReady => Sys2Proof.Machine.execCheckpointMirror peerReady s
  | .checkpointRestore => Sys2Proof.Machine.execCheckpointRestore s
  | .checkpointDone => Sys2Proof.Machine.execCheckpointDone s
  | .hostBar2Access off size req => Sys2Proof.Machine.execHostBar2Access off size req s
  | .bar0RegisterWrite off v => Sys2Proof.Machine.execBar0RegisterWrite off v s
  | .smbusTemperature pec celsius => Sys2Proof.Machine.execSmbusTemperature pec celsius s
  | .smbusPower pec watts => Sys2Proof.Machine.execSmbusPower pec watts s
  | .smbusPowerCap pec watts => Sys2Proof.Machine.execSmbusPowerCap pec watts s
  | .smbusState pec => Sys2Proof.Machine.execSmbusState pec s
  | .smbusEnterRetain pec => Sys2Proof.Machine.execSmbusEnterRetain pec s
  | .smbusLeaveRetain pec => Sys2Proof.Machine.execSmbusLeaveRetain pec s
  | .smbusUnlockToken pec chunk => Sys2Proof.Machine.execSmbusUnlockToken pec chunk s
  | .reset env => Sys2Proof.Machine.execReset env s
  | .observeToken token => Sys2Proof.Machine.execObserveToken token s
  | .spdmRequest request => Sys2Proof.Machine.execSpdmRequest request s
  | .debugStep core ctx => Sys2Proof.Machine.execDebugStep core ctx s
  | .debugResume core ctx => Sys2Proof.Machine.execDebugResume core ctx s
  | .debugMemoryAccess core addr size data => Sys2Proof.Machine.execDebugMemoryAccess core addr size data s
  | .fetchFault core ctx => Sys2Proof.Machine.execFetchFault core ctx s
  | .writePerformed core ix => Sys2Proof.Machine.execWritePerformed core ix s
  | .softError place => Sys2Proof.Machine.execSoftError place s
  | .debugHalt core ctx => Sys2Proof.Machine.execDebugHalt core ctx s
  | .linkLaneLoss link lanes => Sys2Proof.Machine.execLinkLaneLoss link lanes s
  | .modulePowerLoss => Sys2Proof.Machine.execModulePowerLoss s
  | .peerTransferServe link target data => Sys2Proof.Machine.execPeerTransferServe link target data s
  | .mirroredCheckpointReceive image => Sys2Proof.Machine.execMirroredCheckpointReceive image s

end Sys2Proof.Machine
end

