-- ==== Sys2Proof/Machine/Issue.lean ====
section
/-! DEFINITION. Which context of a core issues and what (01 R9, R11, R12, 07 R142), how time passes, and how a word is placed
for the next step. `Step.lean` only calls these. -/

namespace Sys2Proof.Machine

/-! ### Choosing a context (01 R9) -/

/-- ctx1-ctx3 in round-robin order after the one that issued last. -/
def Core.turnOrder (k : Core) : List CtxId :=
  ([0, 1, 2] : List Nat).map fun i => Fin.ofNat 4 ((k.rrLast.val + i) % 3 + 1)

/-- ctx0 has issued on each of the three cycles before this one. -/
def Core.ctx0Hot (k : Core) (now : Nat) : Bool :=
  decide (3 ≤ k.ctx0Run) && (k.lastIssue.any fun t => t + 1 == now)

/-- The context that issues in a cycle, of those that may: ctx0 with its exception, or the next of ctx1-ctx3; none where none may
or the core has issued in this cycle. -/
def Core.pickCtx (k : Core) (now : Nat) (may : CtxId → Bool) : Option CtxId :=
  let next := k.turnOrder.find? may
  if k.lastIssue == some now then none
  else if may 0 && !(k.ctx0Hot now && next.isSome) then some 0
  else next

/-- A context takes its core's issue slot of this cycle. -/
def Core.takeSlot (k : Core) (c : CtxId) (now : Nat) : Core :=
  { k with
    rrLast := if c = 0 then k.rrLast else c
    ctx0Run := if c ≠ 0 then 0 else if k.lastIssue.any (fun t => t + 1 == now) then k.ctx0Run + 1 else 1
    lastIssue := some now }

/-- A context takes its core's issue slot. -/
def State.takeSlot (s : State) (g : Nat) (c : CtxId) : State := s.modCore g fun k => k.takeSlot c s.now

/-- A context that the debugger steps is halted again from its instruction on (24 R401). -/
def Context.endStep (x : Context) (now : Nat) : Context :=
  if x.stepping then { x with stepping := false, halted := true, haltedAt := now } else x

/-- The image of an active workspace is one that it has had (01 R22). -/
def Context.note (x : Context) : Context :=
  if !x.active || x.past.head? == some x.ws then x else { x with past := x.ws :: x.past }

/-- The images of a core's workspaces are noted. -/
def Core.note (k : Core) : Core := { k with ctxs := Vector.ofFn fun c => (k.ctx c).note }

/-- A step begins: the images of all workspaces are noted, and what it leaves open is chosen anew (log entry 4). -/
def State.note (s : State) : State :=
  { s with freeCtr := s.freeCtr + 1, cores := s.cores.map fun k => (k.1, k.2.note) }

/-- A context that issues has had the PC after its instruction (01 R11). -/
def Context.noteNext (x : Context) : Context :=
  if x.active then { x with past := { x.ws with pc := x.shownPc true } :: x.past } else x

/-- A context issues a word: it becomes the executing one, and the issue is counted (20 R367). -/
def State.issued (s : State) (g : Nat) (c : CtxId) (w : Nat) : State :=
  let s := (s.note.modCtx ⟨g, c⟩ fun x => (x.endStep s.now).noteNext).count ⟨g, c⟩ 1 1
  { s with cur := ⟨g, c⟩, curWord := BitVec.ofNat 32 w }

/-! ### What it issues -/

/-- What a ready context does next: it takes a pending fault or trap, or issues a word of its frame or at its PC. -/
inductive Turn where
  | charged
  | crossing
  | fetchFault
  | word (w : Nat)
  deriving DecidableEq, Repr

/-- A context's turn: charged faults first, then crossings while ECAUSE[63] = 0 (02 R52), then the word of an open frame
(07 R142) or the word at the PC (01 R11). -/
def State.turnOf (s : State) (g : Nat) (c : CtxId) : Turn :=
  let x := s.ctx ⟨g, c⟩
  if !x.charged.isEmpty then .charged
  else if !x.crossings.isEmpty && !x.ws.ecause.getLsbD 63 then .crossing
  else match x.frame with
    | some f => .word f.word
    | none => if (s.fetchFlaw g x.ws.pc).isSome then .fetchFault else .word (s.fetchWord g x.ws.pc)

/-- A word is of a vector major (03 R60). -/
def isVectorWord (w : Nat) : Bool := decide (0x20 ≤ bits w 31 26) && decide (bits w 31 26 ≤ 0x28)

/-- A context may issue: it is ready, and no vector word of it waits for the unit to be free (07 R140). -/
def State.mayIssue (s : State) (g : Nat) (c : CtxId) : Bool :=
  (s.ctx ⟨g, c⟩).ready && (decide ((s.core g).vecUntil ≤ s.now) || (match s.turnOf g c with
    | .word w => !isVectorWord w
    | _ => true))

/-- The context that issues at a core now. -/
def State.pickCtx (s : State) (g : Nat) : Option CtxId := (s.core g).pickCtx s.now (s.mayIssue g)

/-- The instruction of a word, ILLEGAL included (03 R63). -/
noncomputable def instrOf (w : Nat) : Instr :=
  match decodeWord w with
  | .ok i => i
  | .error _ => .illegalWord (BitVec.ofNat 32 w)

/-- A word neither accesses memory nor releases: scalar and vector arithmetic, branches and `rpt` (03 R60). -/
def isPlainWord (w : Nat) : Bool :=
  let m := bits w 31 26
  decide (m ≤ 0x0A) || (decide (0x11 ≤ m) && decide (m ≤ 0x18)) || m == 0x1C || (decide (0x20 ≤ m) && decide (m ≤ 0x25)) || m == 0x28

/-- A core fetches a context's word, unless it stands in its frame's buffer, which corrects a correctable soft error (20 R354); lanes of
its other contexts come before a word that accesses memory. -/
def State.fetched (s : State) (g : Nat) (c : CtxId) (w : Nat) : State :=
  let x := s.ctx ⟨g, c⟩
  let s := if x.frame.isSome then s else s.correct [fetchPlace g x.ws.pc]
  if isPlainWord w then s else s.lanesBefore g c

/-- A context's turn takes place. -/
noncomputable def State.takeTurn (s : State) (g : Nat) (c : CtxId) : Outcome :=
  let t := s.takeSlot g c
  match s.turnOf g c with
  | .charged => exec (.chargedFault g c) t
  | .crossing => exec (.cvtThreshold g c) t
  | .fetchFault => exec (.fetchFault g c) t
  | .word w => exec (instrOf w) ((t.fetched g c w).issued g c w)

/-- A core issues. -/
noncomputable def State.issue (s : State) (g : Nat) : Outcome :=
  match s.pickCtx g with
  | some c => s.takeTurn g c
  | none => .refused (.notEnabled "issue")

/-! ### Time (20 R367) -/

/-- What a core counts in `n` cycles: cycles, and cycles in which a context waits. -/
def Core.elapse (k : Core) (n : Nat) : Core :=
  let k := k.count 0 0 n
  ([0, 1, 2, 3] : List CtxId).foldl (fun k c => if (k.ctx c).wait.isSome then k.count c 2 n else k) k

/-- The waits of a core whose limit has passed are settled (03 R67). -/
def State.markWaits (s : State) (g : Nat) : State :=
  ([0, 1, 2, 3] : List CtxId).foldl (fun s c => s.markWait ⟨g, c⟩ s.now) s

/-- `n` cycles pass, and every wait whose limit has come is settled: of contexts, Lantern commands, meetings and collectives. -/
def State.elapse (s : State) (n : Nat) : State :=
  let t : State := { s with now := s.now + n, cores := s.cores.map fun c => (c.1, c.2.elapse n) }
  let t := (t.cores.map (·.1)).foldl State.markWaits t
  let t := (t.quads.map (·.1)).foldl State.markHeads t
  (t.dies.map (·.1)).foldl (fun t d => t.markColl d t.now) t

/-! ### Without an agenda -/

/-- What may go on at a core where no context is ready, in the order in which it is tried. -/
noncomputable def State.goesOn (s : State) (g : Nat) : List Instr :=
  let one := fun (c : CtxId) =>
    let x := s.ctx ⟨g, c⟩
    let lanes := match x.gather with
      | some a => (a.left.head?.map fun l => Instr.gsLane g c l.1).toList
      | none => []
    [.loadReturn g c, .refusalRetry g c, .barrierStaggerExpiry g c, .waitRelease g c, .waitlimit g c, .spawnPush g c,
      .spawnWithdraw g c, .spawnAck g c, .firingDispatch g c] ++ lanes
  ([0, 1, 2, 3] : List CtxId).flatMap one ++ (s.dev.fills.map fun f => Instr.sliceFillReturn f.1) ++ [.writePerformed g 0]

/-- The first of some steps that takes place. -/
def State.firstOf (s : State) : List Instr → Option State
  | [] => none
  | i :: t =>
    match exec i s with
    | .next u => some u
    | _ => State.firstOf s t

/-- One cycle passes, and the focused core issues in it, or something goes on there. -/
noncomputable def State.idle (s : State) : Outcome :=
  let t := s.elapse 1
  match t.pickCtx t.focus with
  | some c => t.takeTurn t.focus c
  | none => .next ((t.note.firstOf (t.goesOn t.focus)).getD t)

/-! ### One move -/

/-- A step of the agenda that is not an instruction word. -/
def State.event (s : State) (i : Instr) : Outcome :=
  if i.isWord then .refused .notAnEvent
  else if !i.wf then .fault .noSuchAgent
  else exec i s.note

/-- A step of the agenda in which the links drop what an engine sends to an address (20 R355). -/
def State.dropIn (s : State) (i : Instr) (a : Nat) : Outcome :=
  match (s.modDev fun v => { v with linkDrop := some a }).event i with
  | .next t => .next (t.modDev fun v => { v with linkDrop := none })
  | o => o

/-- Something happens at a core that the module has (00 R2). -/
def State.atCore (s : State) (g : Nat) (f : State → Outcome) : Outcome := if g < 8192 then f s else .fault .noSuchAgent

/-- The next move: the head of the agenda, or one cycle of the focused core. -/
noncomputable def State.move (s : State) : Outcome :=
  match s.agenda with
  | [] => s.idle
  | .issue g :: t => if g < 8192 then { s with agenda := t }.issue g else .fault .noSuchAgent
  | .event i :: t => { s with agenda := t }.event i
  | .elapse n :: t => .next ({ s with agenda := t }.elapse n)
  | .linkFails g c :: t => { s with agenda := t }.atCore g fun s => .next (s.modCtx ⟨g, c⟩ fun x => { x with linkFails := true })
  | .dropWrite g i :: t => { s with agenda := t }.atCore g fun s => s.dropWrite g i
  | .dropSteal g :: t => { s with agenda := t }.atCore g fun s => s.dropSteal g
  | .dropIn i a :: t => { s with agenda := t }.dropIn i a
  | .softError p :: t => { s with agenda := t }.softError p
  | .resizeBar2 n :: t => { s with agenda := t }.resizeBar2 n
  | .peerPairing l v :: t => { s with agenda := t }.peerPairing l v
  | .configRequest :: t => { s with agenda := t }.configRequest
  | .smbusOther n :: t => { s with agenda := t }.smbusOther n

/-! ### A word for the next step -/

/-- A context that holds a firing and is ready at the start of its core's TCM. -/
def Context.started (x : Context) : Context :=
  { x with
    firing := true, suspended := false, halted := false, stepping := false, wait := none, stalled := false, owing := false
    refused := false, linkFails := false, past := [], stagger := none, gather := none, frame := none, charged := [], crossings := []
    ws := { x.ws with pc := 0x8000000000000000 } }

/-- A context that is not ready. -/
def Context.idle (x : Context) : Context := { x with firing := false }

/-- A core whose ctx1 runs from the start of its TCM, placed as the one core of interest of a one-cluster team. -/
def Core.started (k : Core) : Core :=
  { k with
    ctxs := #v[(k.ctx 0).idle, (k.ctx 1).started, (k.ctx 2).idle, (k.ctx 3).idle]
    team := 1, lastIssue := none, vecUntil := 0 }

/-- The words of an instruction stand at the start of the focused core's TCM, and ctx1 of that core fetches there next. The
core's cluster is the one cluster of team 1, in address space 0 (log entry 7). -/
def State.place (s : State) (nbits w : Nat) : State :=
  let g := s.focus
  let t : Team := { clus := [cluOfCore g], asid := 0, prio := 0, lakeOrg := 0, lakeSize := 0, entry := 0 }
  let s := (s.modCore g Core.started).setRaw (tcmPlace g 0) (bytesOfWord (w % 2 ^ nbits) ++ [0, 0, 0, 0])
  { s with
    agenda := [], teams := SMap.put s.teams 1 t
    poison := s.poison.filter fun p => p != tcmPlace g 0 }

end Sys2Proof.Machine
end

