-- ==== Sys2Proof/Machine/Step.lean ====
section
/-! DEFINITION. One step of the K4: the next move of the agenda, or one cycle of the focused core. -/

namespace Sys2Proof.Machine

/-- One step. -/
noncomputable def step : State → Host.Outcome State Fault Refusal := State.move

/-- The state with an instruction's words where `step` fetches its next instruction. -/
def State.withFetchWord (s : State) (nbits w : Nat) : State := s.place nbits w

end Sys2Proof.Machine
end

