-- ==== Sys2Proof/Safety.lean ====
section
/-! DEFINITION. What a safe run is: it never names an agent that the module does not have, so the model never stops for
good, and the memory that it leaves is canonical. Faults and traps of the K4 are next states, no stops. -/

namespace Sys2Proof.Machine

/-- The state after `n` steps, where each of them answers a next state. -/
noncomputable def State.after (s : State) : Nat → Option State
  | 0 => some s
  | n + 1 =>
    match step s with
    | .next t => State.after t n
    | _ => none

/-- A step does not stop with a fault of the model. -/
def State.safe (s : State) : Prop := ∀ r, step s ≠ .fault r

/-- Every step of a run of `n` steps is safe. -/
def State.safeFor (s : State) (n : Nat) : Prop := ∀ m t, m ≤ n → s.after m = some t → t.safe

/-- The invariant of every step: memory is in its canonical form (14 R257, R259). -/
def State.Inv (s : State) : Prop := s.mem.wf = true

end Sys2Proof.Machine
end

