-- ==== Sys2Proof/Certificates/Slice0/Obligations.lean ====
section
/-! DEFINITION. The statements about the model that the provers prove, with the spec's formulas they are written in. Where a
statement rests on a choice of the model and not on a rule, its text names the log entry. -/

namespace Sys2Proof.Says

open Sys2Proof.Machine

/-! ### What a step leaves unchanged -/

/-- Memory, its error marks, the sectors that slices cache, the releases that stand in memory and the placements through which it
was reached are unchanged. -/
def SameMemory (s t : State) : Prop :=
  t.mem = s.mem ∧ t.poison = s.poison ∧ t.soft = s.soft ∧ t.sectors = s.sectors ∧ t.tags = s.tags ∧ t.reached = s.reached

/-- Every byte of memory at a place that `p` does not name reads as before, in memory and at a slice through each placement
and policy. -/
def SameBytes (s t : State) (p : Nat → Prop) : Prop :=
  ∀ a, ¬ p a → Memory.read t.mem a = Memory.read s.mem a ∧ ∀ plc pol, t.hbmByte plc pol a = s.hbmByte plc pol a

/-- Everything outside the cores is unchanged. -/
def SameUnits (s t : State) : Prop :=
  t.quads = s.quads ∧ t.clusters = s.clusters ∧ t.dies = s.dies ∧ t.teams = s.teams ∧ t.dev = s.dev

/-- Every core but one is unchanged. -/
def SameCores (s t : State) (g : Nat) : Prop := ∀ h, h ≠ g → t.core h = s.core h

/-- The registers of a core that belong to no context are unchanged, and so are its other contexts. -/
def SameCore (s t : State) (r : CtxRef) : Prop :=
  ({ t.core r.core with ctxs := (s.core r.core).ctxs } : Core) = s.core r.core ∧
    ∀ c, c ≠ r.ctx → t.ctx ⟨r.core, c⟩ = s.ctx ⟨r.core, c⟩

/-- A context is unchanged but for its workspace and for where it goes on. -/
def SameContext (s t : State) (r : CtxRef) : Prop :=
  let x := s.ctx r
  ({ t.ctx r with ws := x.ws, frame := x.frame, resume := x.resume, refusals := x.refusals, wait := x.wait } : Context) = x

/-- A workspace is unchanged but for its PC, the scalar registers that `w` names, the vector registers that `v` names and
the CFLAGS bits of `f`. -/
def SameWs (s t : State) (r : CtxRef) (w : Reg → Prop) (v : VReg → Prop) (f : Word) : Prop :=
  let x := (s.ctx r).ws
  let y := (t.ctx r).ws
  ({ y with w := x.w, v := x.v, pc := x.pc, cflags := x.cflags } : Workspace) = x ∧
    (∀ n : Reg, ¬ w n → y.w[n] = x.w[n]) ∧ (∀ n : VReg, ¬ v n → y.v[n] = x.v[n]) ∧ y.cflags &&& ~~~f = x.cflags &&& ~~~f

/-- THE FRAME of a step of the executing context that writes registers of its own only. -/
def OnlyOwn (s t : State) (w : Reg → Prop) (v : VReg → Prop) (f : Word) : Prop :=
  SameMemory s t ∧ SameUnits s t ∧ SameCores s t s.cur.core ∧ SameCore s t s.cur ∧ SameContext s t s.cur ∧
    SameWs s t s.cur w v f ∧ t.cur = s.cur ∧ t.now = s.now

/-- No register. -/
def none {α : Type} : α → Prop := fun _ => False

end Sys2Proof.Says
namespace Sys2Proof.Says

open Sys2Proof.Machine

/-! ### The scalar formulas of 06 R101 to R106, over integers and naturals -/

/-- `sext(x, n)` of 03 R66 as an integer. -/
def signedLow (x n : Nat) : Int := if 2 ^ (n - 1) ≤ x % 2 ^ n then (x % 2 ^ n : Nat) - (2 ^ n : Nat) else (x % 2 ^ n : Nat)

/-- What a register or immediate instruction writes and where, as the tables of 06 R101 to R106 give it; `cmov` is not
among them. -/
def scalarResult (s : State) : Instr → Option (Reg × Word)
  | .add rd a b => some (rd, .ofNat 64 ((s.getW a).toNat + (s.getW b).toNat))
  | .sub rd a b => some (rd, .ofInt 64 ((s.getW a).toNat - (s.getW b).toNat))
  | .and rd a b => some (rd, .ofNat 64 ((s.getW a).toNat &&& (s.getW b).toNat))
  | .or rd a b => some (rd, .ofNat 64 ((s.getW a).toNat ||| (s.getW b).toNat))
  | .xor rd a b => some (rd, .ofNat 64 ((s.getW a).toNat ^^^ (s.getW b).toNat))
  | .andn rd a b => some (rd, .ofNat 64 ((s.getW a).toNat &&& (2 ^ 64 - 1 - (s.getW b).toNat)))
  | .sll rd a b => some (rd, .ofNat 64 ((s.getW a).toNat * 2 ^ ((s.getW b).toNat % 64)))
  | .srl rd a b => some (rd, .ofNat 64 ((s.getW a).toNat / 2 ^ ((s.getW b).toNat % 64)))
  | .sra rd a b => some (rd, .ofInt 64 ((s.getW a).toInt / 2 ^ ((s.getW b).toNat % 64)))
  | .slt rd a b => some (rd, if (s.getW a).toInt < (s.getW b).toInt then 1 else 0)
  | .sltn rd a b => some (rd, if (s.getW a).toNat < (s.getW b).toNat then 1 else 0)
  | .mul rd a b => some (rd, .ofNat 64 ((s.getW a).toNat * (s.getW b).toNat))
  | .mulh rd a b => some (rd, .ofInt 64 ((s.getW a).toInt * (s.getW b).toInt / 2 ^ 64))
  | .mulhn rd a b => some (rd, .ofNat 64 ((s.getW a).toNat * (s.getW b).toNat / 2 ^ 64))
  | .div rd a b => some (rd,
      if s.getW b = 0 then 0xFFFFFFFFFFFFFFFF
      else if s.getW a = 0x8000000000000000 ∧ s.getW b = 0xFFFFFFFFFFFFFFFF then 0x8000000000000000
      else .ofInt 64 ((s.getW a).toInt.tdiv (s.getW b).toInt))
  | .divn rd a b => some (rd, if s.getW b = 0 then 0xFFFFFFFFFFFFFFFF else .ofNat 64 ((s.getW a).toNat / (s.getW b).toNat))
  | .rem rd a b => some (rd,
      if s.getW b = 0 then s.getW a
      else if s.getW a = 0x8000000000000000 ∧ s.getW b = 0xFFFFFFFFFFFFFFFF then 0
      else .ofInt 64 ((s.getW a).toInt.tmod (s.getW b).toInt))
  | .remn rd a b => some (rd, if s.getW b = 0 then s.getW a else .ofNat 64 ((s.getW a).toNat % (s.getW b).toNat))
  | .min rd a b => some (rd, .ofInt 64 (min (s.getW a).toInt (s.getW b).toInt))
  | .max rd a b => some (rd, .ofInt 64 (max (s.getW a).toInt (s.getW b).toInt))
  | .minn rd a b => some (rd, .ofNat 64 (min (s.getW a).toNat (s.getW b).toNat))
  | .maxn rd a b => some (rd, .ofNat 64 (max (s.getW a).toNat (s.getW b).toNat))
  | .clz rd a => some (rd, if s.getW a = 0 then 64 else .ofNat 64 (63 - (s.getW a).toNat.log2))
  | .ctz rd a => some (rd, .ofNat 64 (((List.range 64).find? fun i => (s.getW a).getLsbD i).getD 64))
  | .popc rd a => some (rd, .ofNat 64 ((List.range 64).countP fun i => (s.getW a).getLsbD i))
  | .sext rd a sh => some (rd, .ofInt 64 (signedLow (s.getW a).toNat (sh.val + 1)))
  | .zext rd a sh => some (rd, .ofNat 64 ((s.getW a).toNat % 2 ^ (sh.val + 1)))
  | .addx rd a b sh => some (rd, .ofNat 64 ((s.getW a).toNat + (s.getW b).toNat * 2 ^ sh.val))
  | .rotl rd a b sh =>
    let k := ((s.getW b).toNat % 64 + sh.val) % 64
    some (rd, .ofNat 64 ((s.getW a).toNat * 2 ^ k + (s.getW a).toNat / 2 ^ (64 - k)))
  | .bext rd a b sh => some (rd, .ofNat 64 ((s.getW a).toNat / 2 ^ ((s.getW b).toNat % 64) % 2 ^ (sh.val + 1)))
  | .addi rd a imm => some (rd, .ofInt 64 ((s.getW a).toInt + imm.toInt))
  | .andi rd a imm => some (rd, .ofNat 64 ((s.getW a).toNat &&& imm.toNat))
  | .ori rd a imm => some (rd, .ofNat 64 ((s.getW a).toNat ||| imm.toNat))
  | .xori rd a imm => some (rd, .ofNat 64 ((s.getW a).toNat ^^^ imm.toNat))
  | .slti rd a imm => some (rd, if (s.getW a).toInt < imm.toInt then 1 else 0)
  | .sltni rd a imm => some (rd, if (s.getW a).toNat < imm.toNat then 1 else 0)
  | .slli rd a n => some (rd, .ofNat 64 ((s.getW a).toNat * 2 ^ n.val))
  | .srli rd a n => some (rd, .ofNat 64 ((s.getW a).toNat / 2 ^ n.val))
  | .srai rd a n => some (rd, .ofInt 64 ((s.getW a).toInt / 2 ^ n.val))
  | .setqZ rd q imm => some (rd, .ofNat 64 (imm.toNat * 2 ^ (16 * q.val)))
  | .setqK rd q imm =>
    let x := (s.getW rd).toNat
    some (rd, .ofNat 64 (x - x / 2 ^ (16 * q.val) % 2 ^ 16 * 2 ^ (16 * q.val) + imm.toNat * 2 ^ (16 * q.val)))
  | .pcadd rd imm => some (rd, .ofInt 64 (s.ia.toInt + imm.toInt * 4096))
  | _ => .none

/-- Where a scalar register, immediate or conditional-move instruction writes. -/
def scalarDest : Instr → Option Reg
  | .cmov rd _ _ => some rd
  | i => (scalarResult {} i).map (·.1)

/-- The condition of a branch and its offset (06 R111). -/
def branchTaken (s : State) : Instr → Option (Prop × BitVec 16)
  | .beq a b off => some (s.getW a = s.getW b, off)
  | .bne a b off => some (s.getW a ≠ s.getW b, off)
  | .blt a b off => some ((s.getW a).toInt < (s.getW b).toInt, off)
  | .bge a b off => some ((s.getW b).toInt ≤ (s.getW a).toInt, off)
  | .bltn a b off => some ((s.getW a).toNat < (s.getW b).toNat, off)
  | .bgen a b off => some ((s.getW b).toNat ≤ (s.getW a).toNat, off)
  | _ => .none

/-- The size, destination, address and extension of a load, and its scope where it is an acquire: the plain ones (06 R108) and
`lda` (15 R285). -/
def loadForm (s : State) : Instr → Option (Nat × Reg × Word × (List Byte → Word) × Option Nat)
  | .ldB rd a off => some (1, rd, effAddr (s.getW a) off, sbytes, .none)
  | .ldH rd a off => some (2, rd, effAddr (s.getW a) off, sbytes, .none)
  | .ldW rd a off => some (4, rd, effAddr (s.getW a) off, sbytes, .none)
  | .ldD rd a off => some (8, rd, effAddr (s.getW a) off, zbytes, .none)
  | .ldBn rd a off => some (1, rd, effAddr (s.getW a) off, zbytes, .none)
  | .ldHn rd a off => some (2, rd, effAddr (s.getW a) off, zbytes, .none)
  | .ldWn rd a off => some (4, rd, effAddr (s.getW a) off, zbytes, .none)
  | .lda rd a sc wd => some (if wd = 0 then 4 else 8, rd, s.getW a, sbytes, some sc.val)
  | _ => .none

/-- The size, address and value of a plain store of whole bytes (06 R108). -/
def storeForm (s : State) : Instr → Option (Nat × Word × Word)
  | .stB x a off => some (1, effAddr (s.getW a) off, s.getW x)
  | .stH x a off => some (2, effAddr (s.getW a) off, s.getW x)
  | .stW x a off => some (4, effAddr (s.getW a) off, s.getW x)
  | .stD x a off => some (8, effAddr (s.getW a) off, s.getW x)
  | _ => .none

/-- A place with no error mark, no write of the executing core or of a core whose releases it has read on its way to its location
(15 R274), none posted there, and no release standing there (15 R278). -/
def PlainPlace (s : State) (p : Nat) : Prop :=
  p / 8 * 8 ∉ s.poison ∧ p / 8 * 8 ∉ s.soft ∧
    (∀ w ∈ s.me.writes ++ s.dev.posted ++ s.me.sees.flatMap (fun x => (s.core x.1).writes), ∀ c ∈ w.cells, c.1 / 8 ≠ p / 8) ∧
    ∀ x ∈ s.tags, x.1 ≠ p / 8

/-- Bytes of the executing core's own TCM that hold plain memory: in the window, in no active workspace, at plain places. -/
def PlainTcm (s : State) (off n : Nat) : Prop :=
  off + n ≤ 0x80000 ∧ ∀ i, i < n → s.me.wsAt (off + i) = .none ∧ PlainPlace s (tcmPlace s.cur.core (off + i))

/-! ### Writes on their way (15 R275, R278) -/

/-- A byte under the cells of some writes, in order. -/
def overlay (ws : List PendWrite) (p : Nat) (b : Byte) : Byte :=
  ws.foldl (fun b w => w.cells.foldl (fun b c => if c.1 = p then (b &&& ~~~c.2.2) ||| (c.2.1 &&& c.2.2) else b) b) b

/-- A write on its way to host memory, to a Pond or a Lake, or to plain bytes of a TCM, whose cells lie there. -/
def SimpleWrite (s : State) (w : PendWrite) : Prop :=
  (w.space = .host ∧ ∀ c ∈ w.cells, hostPlace 0 ≤ c.1) ∨
    ((∀ c ∈ w.cells, c.1 < hostPlace 0) ∧ ((∃ n, w.space = .pond n) ∨ (∃ n, w.space = .lake n) ∨
      ∃ g, w.space = .tcm g ∧ ∀ c ∈ w.cells, (s.core g).wsAt (c.1 % 0x80000) = .none))

/-- The writes of a core that are not its copy engine's. -/
def ownWrites (k : Core) : List PendWrite := k.writes.filter fun w => w.agent != .copy

/-- The writes of a core's copy engine. -/
def copyWrites (k : Core) : List PendWrite := k.writes.filter fun w => w.agent == .copy

/-- The releases that the executing core has read and whose cores still owe writes: what its next release passes on (15 R278). -/
def passedOn (s : State) : List Tag := s.me.owes.filter fun x => (s.core x.1).writes.any (·.owed)

/-- The writes of a core after a release below `.dev`: its instructions' are owed. -/
def owedWrites (k : Core) : List PendWrite := k.writes.map fun w => { w with owed := w.owed || w.agent != .copy }

/-- Every posted store lies in host memory. -/
def HostPosted (s : State) : Prop := ∀ w ∈ s.dev.posted, w.space = .host ∧ ∀ c ∈ w.cells, hostPlace 0 ≤ c.1

/-- Every byte reads as it did before, under the cells of some writes in order: host memory as the agents of the module see it. -/
def HoldInOrder (ws : List PendWrite) (s t : State) : Prop :=
  ∀ p, if p < hostPlace 0 then Memory.read t.mem p = overlay ws p (Memory.read s.mem p)
    else t.hostByte p = overlay ws p (s.hostByte p)

/-! ### Atomic operations (15 R285 to R288) -/

/-- An atomic operation of 15 R286 on a value of n bytes: n, rd, ra, the new value of the old one, and what rd receives. -/
def atomicForm (s : State) : Instr → Option (Nat × Reg × Reg × (Nat → Nat) × (Nat → Word)) := fun i =>
  let n := fun (wd : Fin 2) => if wd = 0 then 4 else 8
  let b := fun (rb : Reg) (wd : Fin 2) => (s.getW rb).toNat % 2 ^ (8 * n wd)
  let sx := fun (wd : Fin 2) (o : Nat) => BitVec.ofInt 64 (signedLow o (8 * n wd))
  match i with
  | .amoadd rd ra rb _ _ _ wd => some (n wd, rd, ra, fun o => (o + b rb wd) % 2 ^ (8 * n wd), sx wd)
  | .amoswap rd ra rb _ _ _ wd => some (n wd, rd, ra, fun _ => b rb wd, sx wd)
  | .amoand rd ra rb _ _ _ wd => some (n wd, rd, ra, fun o => o &&& b rb wd, sx wd)
  | .amoor rd ra rb _ _ _ wd => some (n wd, rd, ra, fun o => o ||| b rb wd, sx wd)
  | .amoxor rd ra rb _ _ _ wd => some (n wd, rd, ra, fun o => o ^^^ b rb wd, sx wd)
  | .amomin rd ra rb _ _ _ wd =>
    some (n wd, rd, ra, fun o => if signedLow (b rb wd) (8 * n wd) < signedLow o (8 * n wd) then b rb wd else o, sx wd)
  | .amomax rd ra rb _ _ _ wd =>
    some (n wd, rd, ra, fun o => if signedLow o (8 * n wd) < signedLow (b rb wd) (8 * n wd) then b rb wd else o, sx wd)
  | .amominn rd ra rb _ _ _ wd => some (n wd, rd, ra, fun o => min o (b rb wd), BitVec.ofNat 64)
  | .amomaxn rd ra rb _ _ _ wd => some (n wd, rd, ra, fun o => max o (b rb wd), BitVec.ofNat 64)
  | .amocas rd ra rb _ _ _ wd =>
    some (n wd, rd, ra, fun o => if o = (s.getW rd).toNat % 2 ^ (8 * n wd) then b rb wd else o, sx wd)
  | _ => .none

/-- The little-endian value of n bytes of the executing core's TCM as memory holds them. -/
def tcmValue (s : State) (off n : Nat) : Nat := ofBytes ((List.range n).map fun j => Memory.read s.mem (tcmPlace s.cur.core (off + j)))

/-- The executing context waits: its registers and everything outside it are unchanged. -/
def Waits (s t : State) : Prop :=
  t.cx.wait.isSome ∧ t.cx.ws = s.cx.ws ∧ SameMemory s t ∧ SameUnits s t ∧ SameCores s t s.cur.core ∧ SameCore s t s.cur

end Sys2Proof.Says

namespace Sys2Proof.Says

open Sys2Proof.Machine

/-! ### Layer records in the own cluster's Pond (18 R322, R325) -/

/-- A layer record that stands whole in the Pond of the executing core's cluster, a cluster of its team, at an address that is a
multiple of 256: plain places, with no write of the core on its way and no link that drops the context's requests. -/
def PondRecord (s : State) (l : Word) (off : Nat) : Prop :=
  l = BitVec.ofNat 64 (0x8000000010000000 + off) ∧ off % 256 = 0 ∧ off + 256 ≤ 0x400000 ∧
    Team.hasClu (s.teamOf s.cur.core) (cluOfCore s.cur.core) = true ∧ s.cx.linkFails = false ∧ s.me.writes = [] ∧
    ∀ i, i < 256 → PlainPlace s (pondPlace (cluOfCore s.cur.core) (off + i))

/-- The bytes of a record from `k` on, in the Pond of the executing core's cluster. -/
def recBytes (s : State) (off k n : Nat) : List Byte :=
  (List.range n).map fun j => Memory.read s.mem (pondPlace (cluOfCore s.cur.core) (off + k + j))

/-- The word at +k of a record. -/
def recWord (s : State) (off k : Nat) : Nat := ofBytes (recBytes s off k 8)

/-- Every byte but those of a record from +k to +k + n reads as before. -/
def SameButRecord (s t : State) (off k n : Nat) : Prop :=
  SameBytes s t fun p => pondPlace (cluOfCore s.cur.core) (off + k) ≤ p ∧ p < pondPlace (cluOfCore s.cur.core) (off + k + n)

/-- NEWEST of a version header. -/
def newestOf (h : Nat) : Nat := h % 2 ^ 16

/-- SHADV of a version header. -/
def shadvOf (h : Nat) : Nat := h / 2 ^ 16 % 2 ^ 16

/-- NLIVE of a version header. -/
def nliveOf (h : Nat) : Nat := h / 2 ^ 32 % 8

/-- RETP of a version header. -/
def retpOf (h : Nat) : Nat := h / 2 ^ 35 % 2

/-- VER of a version word. -/
def verOf (x : Nat) : Nat := x % 2 ^ 16

/-- REFS of a version word. -/
def refsOf (x : Nat) : Nat := x / 2 ^ 16 % 2 ^ 16

/-- STATE of a version word. -/
def stateOf (x : Nat) : Nat := x / 2 ^ 32 % 4

/-- A version block, a header and four version words, that is not malformed (18 R325). -/
def BlockGood (h : Nat) (vt : Nat → Nat) : Prop :=
  h < 2 ^ 36 ∧ (∀ n, n < 4 → vt n < 2 ^ 34) ∧ newestOf h ≤ 0xFFFE ∧ stateOf (vt (newestOf h % 4)) = 1 ∧
    verOf (vt (newestOf h % 4)) = newestOf h ∧
    (∀ n, n < 4 → n ≠ newestOf h % 4 → stateOf (vt n) = 0 ∨ (2 ≤ stateOf (vt n) ∧ verOf (vt n) < newestOf h)) ∧
    nliveOf h = (List.range 4).countP fun n => stateOf (vt n) ≠ 0

end Sys2Proof.Says

namespace Sys2Proof.Says

open Sys2Proof.Machine

/-! ### Special register numbers -/

/-- The special register numbers that 01 R24 and 20 R367 assign. -/
def sprAssigned (n : Nat) : Bool :=
  n < 0x018 || (0x019 ≤ n && n ≤ 0x01F) || (0x040 ≤ n && n ≤ 0x052)

/-- The special register numbers that may be written, each with the bits that a write sets. -/
def sprMask (n : Nat) : Option Word :=
  match n with
  | 0x006 => some 0xFFFFFFFF
  | 0x007 => some 0xFFFFFFFFFFFFFFFC
  | 0x008 => some 0x80000000000000FF
  | 0x00B => some 0x1F7
  | 0x00C => some 1
  | 0x012 => some 0x0000FFFF01FFFFFF
  | 0x015 => some 0x7FF
  | 0x016 => some 7
  | 0x01A => some 0xF
  | 0x01D => some 0xFFFF
  | 0x01E => some 0xFF
  | 0x01F => some 3
  | n =>
    if n = 0x009 ∨ n = 0x00A ∨ (0x010 ≤ n ∧ n ≤ 0x017) ∨ (0x040 ≤ n ∧ n ≤ 0x047) then some 0xFFFFFFFFFFFFFFFF
    else if 0x048 ≤ n ∧ n ≤ 0x04F then some 0x1FFF else .none

end Sys2Proof.Says

namespace Sys2Proof.Says

open Sys2Proof.Machine

/-! ### The vector formulas of 07 R128 to R135 -/

/-- The registers of a core that belong to no context are unchanged but for its performance counters and the end of its vector
unit's occupancy, and so are its other contexts: what a vector instruction leaves (07 R140, 20 R367). -/
def SameCoreButCounters (s t : State) (r : CtxRef) : Prop :=
  ({ t.core r.core with
      ctxs := (s.core r.core).ctxs, pmc := (s.core r.core).pmc, vecUntil := (s.core r.core).vecUntil } : Core) = s.core r.core ∧
    ∀ c, c ≠ r.ctx → t.ctx ⟨r.core, c⟩ = s.ctx ⟨r.core, c⟩

/-- THE FRAME of a vector instruction: it changes the scalar registers of `w`, the vector registers of `v`, the CFLAGS bits
of `f`, the PC, the performance counters of its core and its vector unit's occupancy. -/
def OnlyVec (s t : State) (w : Reg → Prop) (v : VReg → Prop) (f : Word) : Prop :=
  SameMemory s t ∧ SameUnits s t ∧ SameCores s t s.cur.core ∧ SameCoreButCounters s t s.cur ∧ SameContext s t s.cur ∧
    SameWs s t s.cur w v f ∧ t.cur = s.cur ∧ t.now = s.now

/-- The value of a lane pattern of a type: signed for the types 0 to 3 (03 R57). -/
def laneVal (dt x : Nat) : Int := if dt < 4 then signedLow x (dtWidth dt) else x

/-- An integer in the range of a type's integers: the nearest value of the type (02 R31). -/
def clampTo (dt : Nat) (x : Int) : Int :=
  let w := dtWidth dt
  if dt < 4 then max (-(2 ^ (w - 1))) (min (2 ^ (w - 1) - 1) x) else max 0 (min (2 ^ w - 1) x)

/-- A lane-wise instruction: its destination, mask, policy, type, the pattern of each active lane as an integer modulo
2^w, and the flags of each active lane. -/
structure LaneForm where
  vd : VReg
  vm : VReg
  mp : Fin 2
  dt : Nat
  f : Nat → Int
  flags : Nat → Flags := fun _ => {}

/-- The integer lane instructions and the permutations (07 R129, R133), and `vsplat` (07 R139). -/
def laneForm (s : State) (i : Instr) : Option LaneForm :=
  let two := fun (vd va vb vm : VReg) (mp : Fin 2) (dt : Fin 16) (f : Nat → Nat → Int) =>
    let x := fun (r : VReg) k => lane (s.getV r) (dtWidth dt.val) k
    some (LaneForm.mk vd vm mp dt.val (fun k => f (x va k) (x vb k)) fun _ => {})
  let move := fun (vd vm : VReg) (mp : Fin 2) (dt : Nat) (f : Nat → Nat) => some (LaneForm.mk vd vm mp dt (fun k => f k) fun _ => {})
  match i with
  | .vadd vd va vb vm mp dt => two vd va vb vm mp dt fun a b => laneVal dt a + laneVal dt b
  | .vsub vd va vb vm mp dt => two vd va vb vm mp dt fun a b => laneVal dt a - laneVal dt b
  | .vmul vd va vb vm mp dt => two vd va vb vm mp dt fun a b => laneVal dt a * laneVal dt b
  | .vmulh vd va vb vm mp dt => two vd va vb vm mp dt fun a b => laneVal dt a * laneVal dt b / 2 ^ dtWidth dt
  | .vmin vd va vb vm mp dt => two vd va vb vm mp dt fun a b => min (laneVal dt a) (laneVal dt b)
  | .vmax vd va vb vm mp dt => two vd va vb vm mp dt fun a b => max (laneVal dt a) (laneVal dt b)
  | .vand vd va vb vm mp dt => two vd va vb vm mp dt fun a b => (a &&& b : Nat)
  | .vor vd va vb vm mp dt => two vd va vb vm mp dt fun a b => (a ||| b : Nat)
  | .vxor vd va vb vm mp dt => two vd va vb vm mp dt fun a b => (a ^^^ b : Nat)
  | .vsll vd va vb vm mp dt => two vd va vb vm mp dt fun a b => (a * 2 ^ (b % dtWidth dt) : Nat)
  | .vsrl vd va vb vm mp dt => two vd va vb vm mp dt fun a b => (a / 2 ^ (b % dtWidth dt) : Nat)
  | .vsra vd va vb vm mp dt => two vd va vb vm mp dt fun a b => signedLow a (dtWidth dt) / 2 ^ (b % dtWidth dt)
  | .vsadd vd va vb vm mp dt => two vd va vb vm mp dt fun a b => clampTo dt (laneVal dt a + laneVal dt b)
  | .vssub vd va vb vm mp dt => two vd va vb vm mp dt fun a b => clampTo dt (laneVal dt a - laneVal dt b)
  | .vabs vd va vm mp dt => two vd va va vm mp dt fun a _ => |signedLow a (dtWidth dt)|
  | .vperm vd va vb vm mp dt =>
    move vd vm mp dt fun k => lane (s.getV va) (dtWidth dt) (lane (s.getV vb) (dtWidth dt) k % dtLanes dt)
  | .vslup vd va vb vm mp dt => move vd vm mp dt fun k =>
      let n := (s.getV vb).toNat % 2 ^ 64
      if n ≤ k then lane (s.getV va) (dtWidth dt) (k - n) else 0
  | .vsldn vd va vb vm mp dt => move vd vm mp dt fun k =>
      let n := (s.getV vb).toNat % 2 ^ 64
      if k + n < dtLanes dt then lane (s.getV va) (dtWidth dt) (k + n) else 0
  | .viota vd va vm mp dt => move vd vm mp dt fun k => (List.range k).countP fun j => (s.getV va).getLsbD j
  | .vzip vd va vb vm mp dt =>
    move vd vm mp dt fun k => lane (s.getV (if k % 2 = 0 then va else vb)) (dtWidth dt) (k / 2)
  | .vunzip vd va vb vm mp dt => move vd vm mp dt fun k =>
      let h := dtLanes dt / 2
      if k < h then lane (s.getV va) (dtWidth dt) (2 * k) else lane (s.getV vb) (dtWidth dt) (2 * (k - h))
  | .vsplat vd ra vm dt => move vd vm 0 dt fun _ => (s.getW ra).toNat
  | _ => .none

/-- The floating-point lane instructions (07 R130, R131): each lane rounded once under RM, or taken bit for bit. -/
def floatForm (s : State) (i : Instr) : Option LaneForm :=
  let rm := s.cx.ws.cflags.toNat % 4
  let lanes := fun (vd va vb vm : VReg) (mp : Fin 2) (dt : Fin 16) (f : Fmt → Nat → Nat → Nat → Nat × Flags) =>
    let x := fun (r : VReg) k => lane (s.getV r) (dtWidth dt.val) k
    let y := fun k => f (dtFmt dt.val) (x va k) (x vb k) (x vd k)
    some (LaneForm.mk vd vm mp dt.val (fun k => ((y k).1 : Nat)) fun k => (y k).2)
  match i with
  | .vfadd vd va vb vm mp dt => lanes vd va vb vm mp dt fun f a b _ => f.finish rm ((f.val a).add rm (f.val b))
  | .vfsub vd va vb vm mp dt => lanes vd va vb vm mp dt fun f a b _ => f.finish rm ((f.val a).add rm (f.val b).negate)
  | .vfmul vd va vb vm mp dt => lanes vd va vb vm mp dt fun f a b _ => f.finish rm ((f.val a).mul (f.val b))
  | .vfma vd va vb vm mp dt => lanes vd va vb vm mp dt fun f a b c => f.finish rm ((f.val a).fma rm (f.val b) (f.val c))
  | .vfms vd va vb vm mp dt =>
    lanes vd va vb vm mp dt fun f a b c => f.finish rm ((f.val a).fma rm (f.val b) (f.val c).negate)
  | .vfnma vd va vb vm mp dt =>
    lanes vd va vb vm mp dt fun f a b c => f.finish rm ((f.val a).negate.fma rm (f.val b) (f.val c))
  | .vfdiv vd va vb vm mp dt => lanes vd va vb vm mp dt fun f a b _ => f.finish rm ((f.val a).div (f.val b))
  | .vfsqrt vd va vm mp dt => lanes vd va va vm mp dt fun f a _ _ => f.finish rm (f.val a).sqrt
  | .vfmin vd va vb vm mp dt => lanes vd va vb vm mp dt fun f a b _ => f.minMax false a b
  | .vfmax vd va vb vm mp dt => lanes vd va vb vm mp dt fun f a b _ => f.minMax true a b
  | .vfabs vd va vm mp dt => lanes vd va va vm mp dt fun f a _ _ => (a % 2 ^ (f.ew + f.fw), {})
  | .vfneg vd va vm mp dt => lanes vd va va vm mp dt fun f a _ _ =>
      (if a / 2 ^ (f.ew + f.fw) % 2 = 1 then a - 2 ^ (f.ew + f.fw) else a + 2 ^ (f.ew + f.fw), {})
  | .vfclass vd va vm mp dt => lanes vd va va vm mp dt fun f a _ _ => (f.classOf a, {})
  | _ => .none

/-- The bit of a comparison for each lane, with the flags of each lane (07 R132). -/
def compareForm (s : State) (i : Instr) : Option (VReg × VReg × Fin 2 × Nat × (Nat → Bool) × (Nat → Bool)) :=
  let out := fun (vd vm : VReg) (mp : Fin 2) (dt : Nat) (c nv : Nat → Bool) => some (vd, vm, mp, dt, c, nv)
  let ints := fun (vd va vb vm : VReg) (mp : Fin 2) (dt : Fin 16) (c : Int → Int → Bool) =>
    let x := fun (r : VReg) k => laneVal dt.val (lane (s.getV r) (dtWidth dt.val) k)
    out vd vm mp dt.val (fun k => c (x va k) (x vb k)) fun _ => false
  let floats := fun (vd va vb vm : VReg) (mp : Fin 2) (dt : Fin 16) (c nv : Val → Val → Bool) =>
    let x := fun (r : VReg) k => (dtFmt dt.val).val (lane (s.getV r) (dtWidth dt.val) k)
    out vd vm mp dt.val (fun k => c (x va k) (x vb k)) fun k => nv (x va k) (x vb k)
  match i with
  | .vceq vd va vb vm mp dt => ints vd va vb vm mp dt fun a b => a == b
  | .vcne vd va vb vm mp dt => ints vd va vb vm mp dt fun a b => a != b
  | .vclt vd va vb vm mp dt => ints vd va vb vm mp dt fun a b => a < b
  | .vcle vd va vb vm mp dt => ints vd va vb vm mp dt fun a b => a ≤ b
  | .vcltn vd va vb vm mp dt => ints vd va vb vm mp dt fun a b => a < b
  | .vclen vd va vb vm mp dt => ints vd va vb vm mp dt fun a b => a ≤ b
  | .vfceq vd va vb vm mp dt => floats vd va vb vm mp dt (fun a b => a.eq b) fun a b => a.isSn || b.isSn
  | .vfclt vd va vb vm mp dt => floats vd va vb vm mp dt (fun a b => a.lt b) fun a b => a.isNan || b.isNan
  | .vfcle vd va vb vm mp dt => floats vd va vb vm mp dt (fun a b => a.lt b || a.eq b) fun a b => a.isNan || b.isNan
  | .vfcun vd va vb vm mp dt => floats vd va vb vm mp dt (fun a b => a.isNan || b.isNan) fun a b => a.isSn || b.isSn
  | _ => .none

/-- The patterns of the active lanes of a register, lane 0 first. -/
def activeList (s : State) (va vm : VReg) (dt : Nat) : List Nat :=
  ((List.range (dtLanes dt)).filter (s.active vm)).map fun k => lane (s.getV va) (dtWidth dt) k

/-- An integer reduction as a fold over the active lanes: its result without a lane and its operation (07 R134). -/
def reduceForm : Instr → Option (VReg × VReg × VReg × Nat × Nat × (Nat → Nat → Nat)) := fun i =>
  let half := fun (dt : Nat) => 2 ^ (dtWidth dt - 1)
  match i with
  | .vrsum vd va vm dt => some (vd, va, vm, dt, 0, fun a b => (a + b) % 2 ^ dtWidth dt)
  | .vrmax vd va vm dt =>
    some (vd, va, vm, dt, half dt, fun a b => if signedLow a (dtWidth dt) < signedLow b (dtWidth dt) then b else a)
  | .vrmin vd va vm dt =>
    some (vd, va, vm, dt, half dt - 1, fun a b => if signedLow b (dtWidth dt) < signedLow a (dtWidth dt) then b else a)
  | .vrmaxn vd va vm dt => some (vd, va, vm, dt, 0, max)
  | .vrminn vd va vm dt => some (vd, va, vm, dt, 2 ^ dtWidth dt - 1, min)
  | .vrand vd va vm dt => some (vd, va, vm, dt, 2 ^ dtWidth dt - 1, fun a b => a &&& b)
  | .vror vd va vm dt => some (vd, va, vm, dt, 0, fun a b => a ||| b)
  | _ => .none

/-- A conversion (08 R159 to R162): destination, source, mask, policy, the two types and what each element becomes. -/
def convertForm (s : State) (i : Instr) : Option (VReg × VReg × VReg × Fin 2 × Nat × Nat × (Nat → Nat → Elem)) :=
  let rm := s.cx.ws.cflags.toNat % 4
  let val := fun (st a : Nat) => elemVal s.me.tableQ8 s.me.tableQ4 st a
  match i with
  | .vcvt vd va st vm mp dt => some (vd, va, vm, mp, st, dt, fun _ a => cvtElem st dt rm a)
  | .vdec vd va st vm mp dt => some (vd, va, vm, mp, st, dt, fun _ a => deliverElem (dtFmt dt) rm (val st a))
  | .venc vd va st vm mp dt => some (vd, va, vm, mp, st, dt, fun _ a =>
      let r := encodeVal (dt == 9) s.cx.ws.qsat (if dt = 9 then s.me.tableQ8 else s.me.tableQ4) ((dtFmt st).val a)
      ⟨r.1, {}, r.2⟩)
  | .vscl vd va st vm mp dt => some (vd, va, vm, mp, st, dt, fun k a =>
      let r := deliverElem (dtFmt dt) rm (scaleVal (val st a) (lane (s.getV (va + 1)) 8 (k / 32)))
      { r with flags := r.flags.or { nv := (val st a).isSn } })
  | _ => .none

/-! ### Vector memory (07 R135 to R137) -/

/-- Bytes at an address that are plain bytes of own TCM. -/
def PlainAt (s : State) (a : Word) (n : Nat) : Prop :=
  0x8000000000000000 ≤ a.toNat ∧ PlainTcm s (a.toNat - 0x8000000000000000) n

/-- The little-endian value at an own-TCM address as memory holds it. -/
def valueAt (s : State) (a : Word) (n : Nat) : Nat := tcmValue s (a.toNat - 0x8000000000000000) n

/-- The place of an own-TCM address. -/
def placeAt (s : State) (a : Word) : Nat := tcmPlace s.cur.core (a.toNat - 0x8000000000000000)

/-- A vector load: destination, mask, policy, width, and the address of each lane's element, with the alignment of the
first (07 R135, R136). -/
def vloadForm (s : State) : Instr → Option (VReg × VReg × Fin 2 × Nat × (Nat → Word) × Nat)
  | .vld vd ra rb vm mp dt =>
    some (vd, vm, mp, dtWidth dt, (fun k => s.getW ra + s.getW rb + BitVec.ofNat 64 (k * (dtWidth dt / 8))), 64)
  | .vlds vd ra rb vm mp dt =>
    some (vd, vm, mp, dtWidth dt, (fun k => s.getW ra + BitVec.ofNat 64 k * s.getW rb), dtWidth dt / 8)
  | .vldb vd ra rb vm mp dt => some (vd, vm, mp, dtWidth dt, (fun _ => s.getW ra + s.getW rb), dtWidth dt / 8)
  | _ => .none

/-- A vector store: the source, mask, width, the address of each lane's element and the alignment of the first. -/
def vstoreForm (s : State) : Instr → Option (VReg × VReg × Nat × (Nat → Word) × Nat)
  | .vst vd ra rb vm dt =>
    some (vd, vm, dtWidth dt, (fun k => s.getW ra + s.getW rb + BitVec.ofNat 64 (k * (dtWidth dt / 8))), 64)
  | .vsts vd ra rb vm dt => some (vd, vm, dtWidth dt, (fun k => s.getW ra + BitVec.ofNat 64 k * s.getW rb), dtWidth dt / 8)
  | _ => .none

end Sys2Proof.Says
namespace Sys2Proof.Says

open Sys2Proof.Machine

/-! ### Steps that are no word -/

/-- In state `s`, `exec` of `i` answers a next state, and `p` holds of it. -/
def Completes (s : State) (i : Instr) (p : State → Prop) : Prop := ∃ t, exec i s = .next t ∧ p t

/-- A state whose executing context is no longer held for what it has read: a stop that is found in it. -/
def settled (s : State) : State := s.modCx fun x => { x with stalled := false, owing := false }

/-- In state `s`, the step `i` does not take place: its refusal names it. -/
def NotEnabled (s : State) (i : Instr) : Prop := ∃ name, exec i s = .refused (.notEnabled name)

end Sys2Proof.Says

section
open Sys2Proof Sys2Proof.Machine Sys2Proof.Says

/-! ### Encoding and decoding (03 R53 to R63) -/

/-- Every word of the encoding tables decodes to the instruction it encodes, with every operand at every value (03 R53 to R62). -/
def Obligations.DecodeEncode : Prop :=
  ∀ (i : Instr) (w : Nat), i.wf = true → encode i = some w → w < 2 ^ 32 ∧ decodeWord w = .ok i

/-- An instruction word has one meaning: what decodes to an instruction is the word that encodes it (03 R62, R63). -/
def Sys2Proof.Says.WordHasOneMeaning : Prop :=
  ∀ (i : Instr) (w : Nat), w < 2 ^ 32 → decodeWord w = .ok i → i.wf = true ∧ encode i = some w

/-- The zero word, and every word whose major is 0x00, 0x29 or 0x34 to 0x3F, is no instruction (03 R62 reasons 1 and 2). -/
def Sys2Proof.Says.DecodeRejectsMajors : Prop :=
  ∀ w : Nat, w < 2 ^ 32 → (w = 0 ∨ w / 2 ^ 26 = 0 ∨ w / 2 ^ 26 = 0x29 ∨ 0x34 ≤ w / 2 ^ 26) → ∃ e, decodeWord w = .error e

/-- An instruction word has one meaning: what decodes to an instruction is the word that encodes it (03 R62, R63).
The zero word, and every word whose major is 0x00, 0x29 or 0x34 to 0x3F, is no instruction (03 R62 reasons 1 and 2). -/
def Obligations.EncodeDecode : Prop :=
  Says.WordHasOneMeaning ∧ Says.DecodeRejectsMajors

/-- Words that the spec writes out decode to the instructions they stand for: one of each of several majors. -/
def Obligations.SpecWordsDecode : Prop :=
  decodeWord 0xB4010000 = .ok (.rcfg 1) ∧ decodeWord 0xB4074040 = .ok (.rmset 7 8) ∧
    decodeWord 0xB405308A = .ok (.rphase 5 6 1 2) ∧ decodeWord 0xC0410000 = .ok (.mverOpen 2 1) ∧
    decodeWord 0xC0810061 = .ok (.mverStat 4 1 1) ∧ decodeWord 0xC10148E1 = .ok (.unstash 8 1 9 1) ∧
    decodeWord 0xC8470040 = .ok (.rbstat 2 7)

/-- A word that is no instruction raises the system-level fault ILLEGAL with EPC its address, EVAL the word and no other
effect on the executing context's registers (03 R63, 20 R347). -/
def Obligations.IllegalWordFaults : Prop :=
  ∀ (w : BitVec 32) (s : State), s.cx.frame = .none →
    ∃ t, exec (.illegalWord w) s = .next t ∧ t.cx.ws.epc = s.cx.ws.pc ∧ t.cx.ws.eval = w.setWidth 64 ∧
      t.cx.ws.ecause = (s.cx.ws.ecause &&& 0x8000000000000000) ||| 1 ∧ t.cx.suspended = true ∧
      t.cx.ws.w = s.cx.ws.w ∧ t.cx.ws.v = s.cx.ws.v ∧ t.cx.ws.pc = s.cx.ws.pc ∧ t.cx.firing = s.cx.firing ∧ SameMemory s t

/-! ### Steps -/

/-- A step without an agenda, whose focused core picks a context that no charged fault or crossing waits for, runs the
instruction that the word at that context's PC decodes to, after one cycle, with the context in its core's issue slot and the
word fetched; a word that is no instruction runs as ILLEGAL. The fetch of a word that accesses no memory changes nothing where no
word of memory has a soft error.
It rests on the choices of log entries 1 and 6. -/
def Obligations.StepRunsDecodedWord : Prop :=
  ∀ (s : State) (c : CtxId), s.agenda = [] →
    let t := s.elapse 1
    let x := t.ctx ⟨t.focus, c⟩
    t.pickCtx t.focus = some c → x.charged = [] → x.crossings = [] → x.frame = .none →
    t.fetchFlaw t.focus x.ws.pc = .none →
    let w := t.fetchWord t.focus x.ws.pc
    let u := t.takeSlot t.focus c
    let v := (u.fetched t.focus c w).issued t.focus c w
    (∀ i, decodeWord w = .ok i → step s = exec i v) ∧
      (∀ e, decodeWord w = .error e → step s = exec (.illegalWord (BitVec.ofNat 32 w)) v) ∧
      (isPlainWord w = true → s.soft = [] → v = u.issued t.focus c w)

/-- A step with an agenda makes its first move: it lets cycles pass, issues at the named core, or takes a well-formed step
that is no word. The links drop a write on its way or a steal request at the fourth failure of its parity, with POISON charged; a
correctable soft error waits for its read; the host resizes BAR 2, and an SMBus code that names no command gets NACK. A step may
take place with the links dropping what an engine sends to an address, and the other end of a link may set its pairing.
It rests on the choices of log entries 1, 44 and 49. -/
def Obligations.StepFollowsAgenda : Prop :=
  ∀ (s : State) (m : Move) (l : List Move), s.agenda = m :: l →
    let t := { s with agenda := l }
    (∀ n, m = .elapse n → step s = .next (t.elapse n)) ∧
      (∀ g, m = .issue g → g < 8192 → step s = t.issue g) ∧
      (∀ i, m = .event i → i.wf = true → i.isWord = false → step s = exec i t.note) ∧
      (∀ i, m = .event i → i.isWord = true → step s = .refused .notAnEvent) ∧
      (∀ g c, m = .linkFails g c → g < 8192 → ∃ u, step s = .next u ∧ u.ctx ⟨g, c⟩ = { s.ctx ⟨g, c⟩ with linkFails := true } ∧
        SameMemory s u ∧ SameUnits s u) ∧
      (∀ g i w, m = .dropWrite g i → g < 8192 → (s.core g).writes[i]? = some w → ∃ u, step s = .next u ∧ SameMemory s u ∧
        (w.core = g → (u.core g).writes = (s.core g).writes.eraseIdx i ∧
          ((u.ctx ⟨g, w.ctx⟩).charged.map fun f => (f.record.cause, f.record.value)) =
            ((s.ctx ⟨g, w.ctx⟩).charged.map fun f => (f.record.cause, f.record.value)) ++ [(0x05, w.addr)])) ∧
      (∀ g v n, m = .dropSteal g → g < 8192 → (s.core g).round = some ⟨some v, n, Option.none⟩ → (s.core g).journal.on = false → ∃ u, step s = .next u ∧
        SameMemory s u ∧
        let r : CtxRef := ⟨g, (s.core g).freeCtx.getD 1⟩
        ((u.ctx r).charged.map fun f => f.record.cause) = ((s.ctx r).charged.map fun f => f.record.cause) ++ [0x05]) ∧
      (∀ i a, m = .dropIn i a → i.wf = true → i.isWord = false →
        ∀ u, exec i (t.modDev fun v => { v with linkDrop := some a }).note = .next u →
          step s = .next (u.modDev fun v => { v with linkDrop := Option.none })) ∧
      (∀ l v, m = .peerPairing l v → l < 12 →
        step s = .next (t.modDev fun d => { d with peerPairs := SMap.put d.peerPairs l v })) ∧
      (∀ p, m = .softError p → placeExists p = true → ∃ u, step s = .next u ∧ granule p ∈ u.soft ∧ u.mem = s.mem ∧ u.poison = s.poison) ∧
      (∀ n, m = .resizeBar2 n → s.hostUp = true → 30 ≤ n → n ≤ 39 → step s = .next (t.modDev fun v => { v with bar2Log := n })) ∧
      (m = .configRequest → s.dev.power ≠ .off → s.dev.boot ≠ .retain → step s = .next (t.emit (.config (s.dev.boot == .booting)))) ∧
      (∀ n, m = .smbusOther n → (n < 1 ∨ 7 < n) → step s = .next (t.emit .nack))

/-- Memory stays in its canonical form: places rise and no listed byte is what an unlisted place reads as, whatever the
next move is.
It rests on the choice of log entry 2. -/
def Obligations.StepKeepsCanonicalMemory : Prop := ∀ s t : State, s.Inv → step s = .next t → t.Inv

/-- Reset memory is in canonical form.
It rests on the choice of log entry 2. -/
def Obligations.ResetMemoryIsCanonical : Prop := State.reset.Inv

/-- When a core leaves reset: WP of each context, four active workspaces whose registers read 0 with PC 0 and FPCTL 0, no
firing held and no context ready, TCM bytes 0, and what every special register that `sprd` reads holds: WP, the context, the core,
its address, WAITLIM 0x10_0000, and 0 in every other.
It rests on the choice of log entry 3. -/
def Obligations.ResetCore : Prop :=
  ∀ g : Nat, (∀ c : CtxId,
      let x := State.reset.ctx ⟨g, c⟩
      x.wp = BitVec.ofNat 64 (0x800000000007E800 + c.val * 0x600) ∧ x.active = true ∧ x.ws = {} ∧ x.firing = false ∧
        x.ready = false) ∧
    ((∀ n : Reg, (State.reset.ctx ⟨g, 0⟩).ws.w[n] = 0) ∧ (∀ n : VReg, (State.reset.ctx ⟨g, 0⟩).ws.v[n] = 0) ∧
      (State.reset.ctx ⟨g, 0⟩).ws.pc = 0 ∧ (State.reset.ctx ⟨g, 0⟩).ws.cflags = 0) ∧
    (∀ off, Memory.read State.reset.mem (tcmPlace g off) = 0) ∧
    (∀ (c : CtxId) (n : Nat), sprAssigned n = true →
      ({ State.reset with cur := ⟨g, c⟩ } : State).sprRead n = some
        (if n = 0x000 then BitVec.ofNat 64 (0x800000000007E800 + c.val * 0x600) else if n = 0x001 then BitVec.ofNat 64 c.val
          else if n = 0x002 then BitVec.ofNat 64 g else if n = 0x003 then BitVec.ofNat 64 (4 * g)
          else if n = 0x006 then 0x100000 else 0)) ∧
    State.reset.pickCtx g = .none

/-! ### Registers and the next instruction (01 R11, R16, 07 R142) -/

/-- w0 reads as zero whatever its place holds, and an instruction that names w0 as destination discards the result. -/
def Sys2Proof.Says.RegisterZero : Prop :=
  ∀ (s : State) (v : Word), s.getW 0 = 0 ∧ s.setW 0 v = s ∧ (s.retire 0 v) = s.advance

/-- A result that retires stands in its register and in no other; outside a frame the context goes on at IA + 4. -/
def Sys2Proof.Says.RetireWritesOneRegister : Prop :=
  ∀ (s : State) (rd n : Reg) (v : Word),
    (s.retire rd v).getW n = (if n = rd ∧ rd ≠ 0 then v else s.getW n) ∧
      (s.cx.frame = .none → (s.retire rd v).cx.ws.pc = s.cx.ws.pc + 4) ∧ OnlyOwn s (s.retire rd v) (· = rd) none 0

/-- w0 reads as zero whatever its place holds, and an instruction that names w0 as destination discards the result.
A result that retires stands in its register and in no other; outside a frame the context goes on at IA + 4. -/
def Obligations.RegisterFile : Prop :=
  Says.RegisterZero ∧ Says.RetireWritesOneRegister

/-- In a repeat frame of c words and n passes at an `rpt` at IA, the next word of the frame is the one after in its pass, then the
first of the next pass, and after the last word of the last pass the context goes on at IA + 4 + 4c. -/
def Sys2Proof.Says.FrameNext : Prop :=
  ∀ (s : State) (f : Frame), s.cx.frame = some f →
    let x := s.advance.cx
    (f.pos + 1 < f.words.length → x.frame = some { f with pos := f.pos + 1 } ∧ x.ws = s.cx.ws) ∧
      (f.words.length ≤ f.pos + 1 → f.pass + 1 < f.passes →
        x.frame = some { f with pass := f.pass + 1, pos := 0 } ∧ x.ws = s.cx.ws) ∧
      (f.words.length ≤ f.pos + 1 → f.passes ≤ f.pass + 1 →
        x.frame = .none ∧ x.ws = { s.cx.ws with pc := f.ia + 4 + 4 * BitVec.ofNat 64 f.words.length })

/-- A field of a word: n bits from a bit on. -/
def Sys2Proof.Says.fieldAt (w lo n : Nat) : Nat := w / 2 ^ lo % 2 ^ n

/-- The word that a pass issues for a captured word: the fields vd and vm, and in an F-V word va and vb, are advanced by their
steps times the pass, and every other bit is the captured word's (03 R64). -/
def Sys2Proof.Says.PassWord (f : Frame) (w p : Nat) : Prop :=
  let stepped := fun (lo n : Nat) => fieldAt p lo 4 = (fieldAt w lo 4 + f.pass * n) % 16
  let fv := fieldAt w 26 6 ≤ 0x25
  p < 2 ^ 32 ∧ stepped 22 f.sd ∧ (fv → stepped 18 f.sa ∧ stepped 14 f.sb ∧ stepped 10 f.sm) ∧ (¬ fv → stepped 8 f.sm) ∧
    ∀ i, i < 32 → ¬ (22 ≤ i ∧ i < 26) → (fv → i < 10 ∨ 22 ≤ i) → (¬ fv → i < 8 ∨ 12 ≤ i) → p.testBit i = w.testBit i

/-- A step without an agenda, whose focused core picks a context in a repeat frame that no charged fault or crossing waits for,
runs the captured word at the frame's position, as its pass issues it. -/
def Sys2Proof.Says.FrameWordIssues : Prop :=
  ∀ (s : State) (c : CtxId) (f : Frame) (w : BitVec 32), s.agenda = [] →
    let t := s.elapse 1
    let x := t.ctx ⟨t.focus, c⟩
    t.pickCtx t.focus = some c → x.charged = [] → x.crossings = [] → x.frame = some f → f.words[f.pos]? = some w →
    ∃ p, PassWord f w.toNat p ∧ ∀ i, decodeWord p = .ok i →
      step s = exec i (((t.takeSlot t.focus c).fetched t.focus c p).issued t.focus c p)

/-- In a repeat frame of c words and n passes at an `rpt` at IA, the next word of the frame is the one after in its pass, then the
first of the next pass, and after the last word of the last pass the context goes on at IA + 4 + 4c.
A step without an agenda, whose focused core picks a context in a repeat frame that no charged fault or crossing waits for,
runs the captured word at the frame's position, as its pass issues it: vd and vm, and in an F-V word va and vb, advanced by their
steps times the pass, and every other bit as captured. -/
def Obligations.FrameAdvances : Prop :=
  Says.FrameNext ∧ Says.FrameWordIssues

/-! ### Scalar instructions (06 R100 to R114) -/

/-- Every register and immediate instruction completes with the value that its table gives, in every state. -/
def Sys2Proof.Says.ScalarTableResults : Prop :=
  ∀ (s : State) (i : Instr) (rd : Reg) (v : Word), scalarResult s i = some (rd, v) → exec i s = .next (s.retire rd v)

/-- `cmov` completes: rd ← W(ra) if W(rb) ≠ 0, else rd is unchanged. -/
def Sys2Proof.Says.CmovResult : Prop :=
  ∀ (s : State) (rd ra rb : Reg), ∃ t, exec (.cmov rd ra rb) s = .next t ∧
    (∀ n, t.getW n = if n = rd ∧ rd ≠ 0 ∧ s.getW rb ≠ 0 then s.getW ra else s.getW n) ∧
    (s.cx.frame = .none → t.cx.ws.pc = s.cx.ws.pc + 4)

/-- Every register and immediate instruction completes with the value that its table gives, in every state.
`cmov` completes: rd ← W(ra) if W(rb) ≠ 0, else rd is unchanged. -/
def Obligations.ScalarResults : Prop :=
  Says.ScalarTableResults ∧ Says.CmovResult

/-- The register and immediate instructions change no register but rd, no flag, no special register and no memory. -/
def Obligations.ScalarFrame : Prop :=
  ∀ (s t : State) (i : Instr) (rd : Reg), scalarDest i = some rd → exec i s = .next t → OnlyOwn s t (· = rd) none 0

/-- A branch completes: to IA + sext(off) × 4 if its condition holds, else to IA + 4; it writes no register. -/
def Sys2Proof.Says.BranchTargets : Prop :=
  ∀ (s : State) (i : Instr) (p : Prop) (off : BitVec 16), branchTaken s i = some (p, off) → s.cx.frame = .none →
    ∃ t, exec i s = .next t ∧ OnlyOwn s t none none 0 ∧
      (p → t.cx.ws.pc = s.cx.ws.pc + BitVec.ofInt 64 (off.toInt * 4)) ∧ (¬ p → t.cx.ws.pc = s.cx.ws.pc + 4)

/-- The branches of majors 0x11 to 0x16 are format F-B. -/
def Sys2Proof.Says.BranchWords : Prop :=
  ∀ (ra rb : Reg) (off : BitVec 16),
    let word := fun (op : Nat) => some (op * 2 ^ 26 + ra.val * 2 ^ 21 + rb.val * 2 ^ 16 + off.toNat)
    encode (.beq ra rb off) = word 0x11 ∧ encode (.bne ra rb off) = word 0x12 ∧ encode (.blt ra rb off) = word 0x13 ∧
      encode (.bge ra rb off) = word 0x14 ∧ encode (.bltn ra rb off) = word 0x15 ∧ encode (.bgen ra rb off) = word 0x16

/-- A branch completes: to IA + sext(off) × 4 if its condition holds, else to IA + 4; it writes no register.
The branches of majors 0x11 to 0x16 are format F-B. -/
def Obligations.BranchResults : Prop := Says.BranchTargets ∧ Says.BranchWords

/-- `jal` and `jalr` complete: rd ← IA + 4 and PC ← the target, which `jalr` computes before it writes rd. They are majors 0x17,
format F-J, and 0x18, format F-I. -/
def Obligations.JumpResults : Prop :=
  ∀ (s : State) (rd ra : Reg) (off : BitVec 21) (imm : BitVec 16),
    encode (.jal rd off) = some (0x17 * 2 ^ 26 + rd.val * 2 ^ 21 + off.toNat) ∧
    encode (.jalr rd ra imm) = some (0x18 * 2 ^ 26 + rd.val * 2 ^ 21 + ra.val * 2 ^ 16 + imm.toNat) ∧
    (∃ t, exec (.jal rd off) s = .next t ∧ t.cx.ws.pc = s.cx.ws.pc + BitVec.ofInt 64 (off.toInt * 4) ∧
      (∀ n, t.getW n = if n = rd ∧ rd ≠ 0 then s.cx.ws.pc + 4 else s.getW n) ∧ OnlyOwn s t (· = rd) none 0) ∧
    (∃ t, exec (.jalr rd ra imm) s = .next t ∧ t.cx.ws.pc = s.getW ra + BitVec.ofInt 64 imm.toInt ∧
      (∀ n, t.getW n = if n = rd ∧ rd ≠ 0 then s.cx.ws.pc + 4 else s.getW n) ∧ OnlyOwn s t (· = rd) none 0)

/-! ### Loads and stores (06 R107 to R109, 14 R258) -/

/-- A load completes where its address is aligned and its bytes pass the checks: rd ← the extended bytes. One that is
misaligned raises MISALIGN, and one that a check stops raises that check's fault; neither writes rd. -/
def Sys2Proof.Says.LoadOfCheckedBytes : Prop :=
  ∀ (s : State) (i : Instr) (n : Nat) (rd : Reg) (ea : Word) (f : List Byte → Word) (acq : Option Nat),
    loadForm s i = some (n, rd, ea, f, acq) →
    (∀ bs t, ea.toNat % n = 0 → s.load ea n acq = .ok (bs, t) → exec i s = .next (t.retire rd (f bs))) ∧
      (ea.toNat % n ≠ 0 → exec i s = .next (s.sysFault 0x02 ea ea .read)) ∧
      (∀ c v a k, ea.toNat % n = 0 → s.load ea n acq = .error (.sys c v a k) → exec i s = .next (s.sysFault c v a k))

/-- A load from plain bytes of the core's own TCM completes with what memory holds there, and changes nothing else. -/
def Sys2Proof.Says.LoadFromOwnTcm : Prop :=
  ∀ (s : State) (i : Instr) (n off : Nat) (rd : Reg) (ea : Word) (f : List Byte → Word) (acq : Option Nat),
    loadForm s i = some (n, rd, ea, f, acq) → ea = BitVec.ofNat 64 (0x8000000000000000 + off) → off % n = 0 → PlainTcm s off n →
    exec i s = .next (s.retire rd (f ((List.range n).map fun j => Memory.read s.mem (tcmPlace s.cur.core (off + j)))))

/-- A load completes where its address is aligned and its bytes pass the checks: rd ← the extended bytes. One that is
misaligned raises MISALIGN, and one that a check stops raises that check's fault; neither writes rd.
A load from plain bytes of the core's own TCM completes with what memory holds there, and changes nothing else. -/
def Obligations.LoadResults : Prop :=
  Says.LoadOfCheckedBytes ∧ Says.LoadFromOwnTcm

/-- A store completes where its address is aligned and its bytes pass the checks; a misaligned one raises MISALIGN and
stores nothing. -/
def Sys2Proof.Says.StoreOfCheckedBytes : Prop :=
  ∀ (s : State) (i : Instr) (n : Nat) (ea x : Word), storeForm s i = some (n, ea, x) →
    (∀ t, ea.toNat % n = 0 → s.store ea (toBytes n x.toNat) = .ok t → exec i s = .next t.advance) ∧
      (ea.toNat % n ≠ 0 → exec i s = .next (s.sysFault 0x02 ea ea .write)) ∧
      (∀ c v a k, ea.toNat % n = 0 → s.store ea (toBytes n x.toNat) = .error (.sys c v a k) →
        exec i s = .next (s.sysFault c v a k))

/-- A store to plain bytes of the core's own TCM completes: memory then holds the value's low bytes there, the lowest first;
every other byte, every register and every other unit is unchanged. -/
def Sys2Proof.Says.StoreToOwnTcm : Prop :=
  ∀ (s : State) (i : Instr) (n off : Nat) (ea x : Word),
    s.Inv → storeForm s i = some (n, ea, x) → ea = BitVec.ofNat 64 (0x8000000000000000 + off) → off % n = 0 →
    PlainTcm s off n →
    let at_ := tcmPlace s.cur.core off
    ∃ t, exec i s = .next t ∧
      (∀ j, j < n → Memory.read t.mem (at_ + j) = BitVec.ofNat 8 (x.toNat / 256 ^ j)) ∧
      SameBytes s t (fun p => at_ ≤ p ∧ p < at_ + n) ∧ SameUnits s t ∧ SameCores s t s.cur.core ∧ SameCore s t s.cur ∧
      SameContext s t s.cur ∧ SameWs s t s.cur none none 0 ∧ t.sectors = s.sectors

/-- `st.nib` completes where the byte passes the checks: one nibble of it, which W(rs)[4] names, receives W(rs)[3:0]. -/
def Sys2Proof.Says.NibbleStore : Prop :=
  ∀ (s : State) (rs ra : Reg) (off : Nat) (d : BitVec 13),
    s.Inv → effAddr (s.getW ra) d = BitVec.ofNat 64 (0x8000000000000000 + off) → PlainTcm s off 1 →
    let p := tcmPlace s.cur.core off
    let old := (Memory.read s.mem p).toNat
    let v := (s.getW rs).toNat % 16
    ∃ t, exec (.stNib rs ra d) s = .next t ∧
      (Memory.read t.mem p).toNat = (if (s.getW rs).toNat / 16 % 2 = 0 then old / 16 * 16 + v else v * 16 + old % 16) ∧
      SameBytes s t (· = p) ∧ SameWs s t s.cur none none 0

/-- A store completes where its address is aligned and its bytes pass the checks; a misaligned one raises MISALIGN and
stores nothing.
A store to plain bytes of the core's own TCM completes: memory then holds the value's low bytes there, the lowest first;
every other byte, every register and every other unit is unchanged.
`st.nib` completes where the byte passes the checks: one nibble of it, which W(rs)[4] names, receives W(rs)[3:0]. -/
def Obligations.StoreResults : Prop :=
  Says.StoreOfCheckedBytes ∧ Says.StoreToOwnTcm ∧ Says.NibbleStore


/-! ### Atomic operations and release (15 R281 to R291) -/

/-- An atomic operation on plain bytes of own TCM completes: memory holds the new value of 15 R286 there, rd the old one,
extended; every other byte, register and unit is unchanged. A misaligned one raises MISALIGN. -/
def Obligations.AtomicResults : Prop :=
  ∀ (s : State) (i : Instr) (n off : Nat) (rd ra : Reg) (new : Nat → Nat) (res : Nat → Word),
    atomicForm s i = some (n, rd, ra, new, res) →
    ((s.getW ra).toNat % n ≠ 0 → exec i s = .next (s.sysFault 0x02 (s.getW ra) (s.getW ra) .amo)) ∧
    (s.Inv → s.getW ra = BitVec.ofNat 64 (0x8000000000000000 + off) → off % n = 0 → PlainTcm s off n → s.me.writes = [] →
      s.dev.posted = [] →
      let o := tcmValue s off n
      let at_ := tcmPlace s.cur.core off
      ∃ t, exec i s = .next t ∧ tcmValue t off n = new o ∧ (∀ m, t.getW m = if m = rd ∧ rd ≠ 0 then res o else s.getW m) ∧
        SameBytes s t (fun p => at_ ≤ p ∧ p < at_ + n) ∧ SameUnits s t ∧ SameCores s t s.cur.core ∧
        SameWs s t s.cur (· = rd) none 0 ∧ t.sectors = s.sectors)

/-- `amocasq`, `amodecp` and `amofadd` complete on plain bytes of own TCM, and every other byte reads as before. `amocasq` compares
and replaces 16 bytes; `amodecp` takes W(rb) from COUNT, and where COUNT becomes 0 that was not 0 its RECORD is pushed to the core
it names, or REMOTE_ERROR with the object's address is charged where RECORD is malformed or names a core outside the team;
`amofadd` adds under RM and merges its flags. -/
def Obligations.WideAtomicResults : Prop :=
  ∀ (s : State) (off : Nat) (rd ra rb : Reg) (sc : Fin 8) (aq rl wd : Fin 2),
    s.Inv → s.getW ra = BitVec.ofNat 64 (0x8000000000000000 + off) → s.me.writes = [] → s.dev.posted = [] →
    let wide := fun (r : Reg) => (s.getW r).toNat + (s.getW (r + 1)).toNat * 2 ^ 64
    let but := fun (t : State) (n : Nat) => SameBytes s t fun p => tcmPlace s.cur.core off ≤ p ∧ p < tcmPlace s.cur.core off + n
    (off % 16 = 0 → PlainTcm s off 16 → rd.val % 2 = 0 → rd ≠ 0 → rb.val % 2 = 0 →
      let o := tcmValue s off 16
      ∃ t, exec (.amocasq rd ra rb sc aq rl) s = .next t ∧ t.getW rd = BitVec.ofNat 64 o ∧
        t.getW (rd + 1) = BitVec.ofNat 64 (o / 2 ^ 64) ∧ tcmValue t off 16 = (if o = wide rd then wide rb else o) ∧ but t 16) ∧
    (let n := if wd = 0 then 4 else 8
      let o := tcmValue s off n
      let b := (s.getW rb).toNat % 2 ^ (8 * n)
      let w0 := tcmValue s (off + 16) 8
      let w1 := tcmValue s (off + 24) 8
      let target := w0 / 2 ^ 8 % 2 ^ 13
      let good := w0 / 2 ^ 21 % 2 ^ 11 = 0 ∧ w0 / 2 ^ 6 % 4 = 0 ∧ Team.hasClu (s.teamOf s.cur.core) (target / 64) = true
      off % 32 = 0 → PlainTcm s off n → (o = 0 ∨ o ≠ b ∨ PlainTcm s (off + 16) 16) →
      ∃ t, exec (.amodecp rd ra rb sc aq rl wd) s = .next t ∧ tcmValue t off n = (o + 2 ^ (8 * n) - b) % 2 ^ (8 * n) ∧
        (rd ≠ 0 → t.getW rd = BitVec.ofNat 64 o) ∧ but t n ∧
        (o = 0 ∨ o ≠ b → t.dev = s.dev) ∧
        (o ≠ 0 → o = b → good → t.cx.charged = s.cx.charged ∧ ∃ ts, t.dev = { s.dev with pushes := s.dev.pushes ++
          [⟨BitVec.ofNat 64 w0, BitVec.ofNat 64 w1, s.cur.core, s.cur.ctx, target, s.getW ra, ts⟩] }) ∧
        (o ≠ 0 → o = b → ¬ good → t.dev = s.dev ∧ (t.cx.charged.map fun f => (f.record.cause, f.record.value)) =
          (s.cx.charged.map fun f => (f.record.cause, f.record.value)) ++ [(0x12, s.getW ra)])) ∧
    (∀ (f : Fmt) (n : Nat) (i : Instr),
      (f = fp32 ∧ n = 4 ∧ i = .amofaddS rd ra rb sc aq rl) ∨ (f = fp64 ∧ n = 8 ∧ i = .amofaddD rd ra rb sc aq rl) →
      off % n = 0 → PlainTcm s off n →
      let o := tcmValue s off n
      let rm := (s.cx.ws.cflags.toNat % 4)
      let x := f.finish rm ((f.val o).add rm (f.val ((s.getW rb).toNat % 2 ^ (8 * n))))
      ∃ t, exec i s = .next t ∧ tcmValue t off n = x.1 % 2 ^ (8 * n) ∧ (rd ≠ 0 → t.getW rd = BitVec.ofNat 64 o) ∧ but t n ∧
        t.cx.ws.cflags = s.cx.ws.cflags ||| x.2.word)

/-- A release at `.dev` or wider performs the earlier writes of a core, each in turn: its copy engine's alone are left, memory and
the slices hold what their arrivals in order give, and a byte off HBM is what it was under their cells in order. At `.sys` no posted
store is left. Below `.dev` the earlier writes stay on their way, owed, and a context's release holds it while they do. -/
def Sys2Proof.Says.ReleasePerforms : Prop :=
  ∀ (s : State) (sc : Nat),
    let g := s.cur.core
    let t := s.releaseBy g sc
    let u := (ownWrites s.me).foldl State.arrive (s.modMe fun k => { k with writes := copyWrites k })
    (4 ≤ sc → (t.core g).writes = copyWrites s.me ∧
      (sc ≠ 6 → t.mem = u.mem ∧ t.sectors = u.sectors ∧ t.dev.posted = u.dev.posted) ∧ (sc = 6 → t.dev.posted = []) ∧
      (s.Inv → (∀ w ∈ ownWrites s.me, SimpleWrite s w) → HostPosted s → HoldInOrder (ownWrites s.me) s t)) ∧
    (sc < 4 → SameMemory s t ∧ SameUnits s t ∧ SameCores s t g ∧
      (t.core g).writes = owedWrites s.me) ∧
    (let r := s.releaseWith sc;
      (∃ w ∈ t.me.writes, w.owed = true) → r = t.modCx fun x => { x with stalled := true, owing := true }) ∧
    ((∀ w ∈ t.me.writes, w.owed = false) → s.releaseWith sc = t)

/-- A store that arrives at a slice-cached page is what a read of the page through the same placement then returns. -/
def Sys2Proof.Says.SliceWriteArrives : Prop :=
  ∀ (s : State) (w : PendWrite) (die slice plc p : Nat) (v : Byte),
    w.space = .hbm die slice plc 0 → w.cells = [(p, v, 0xFF)] →
    (∀ x, SMap.find s.sectors (sectorKey plc p) = some x → x.bytes.length = 48) →
    (s.arrive w).hbmByte plc 0 p = v ∧ (s.arrive w).hbmByte plc 2 p = v

/-- `str` completes where its address is aligned and its bytes pass the checks: it releases, then stores. To plain bytes of own
TCM memory then holds the value there; at `.dev` and above no earlier write of the core's instructions is left, and below it the
release stands at the value for the agents that read it while earlier writes are left. Else it raises MISALIGN. -/
def Sys2Proof.Says.StoreReleaseResults : Prop :=
  ∀ (s : State) (ra rb : Reg) (sc : Fin 8) (wd : Fin 2),
    let n := if wd = 0 then 4 else 8
    let bs := toBytes n (s.getW rb).toNat
    ((s.getW ra).toNat % n ≠ 0 → exec (.str ra rb sc wd) s = .next (s.sysFault 0x02 (s.getW ra) (s.getW ra) .write)) ∧
    (∀ t, (s.getW ra).toNat % n = 0 → (s.store (s.getW ra) bs 0xFF (some sc.val)).isOk →
      (s.releaseWith sc.val).store (s.getW ra) bs 0xFF (some sc.val) = .ok t → exec (.str ra rb sc wd) s = .next t.advance) ∧
    (∀ off, s.Inv → s.getW ra = BitVec.ofNat 64 (0x8000000000000000 + off) → off % n = 0 → PlainTcm s off n →
      (∀ w ∈ s.me.writes, w.space ≠ .tcm s.cur.core) →
      let at_ := tcmPlace s.cur.core off
      ∃ t, exec (.str ra rb sc wd) s = .next t ∧
        (∀ j, j < n → Memory.read t.mem (at_ + j) = BitVec.ofNat 8 ((s.getW rb).toNat / 256 ^ j)) ∧
        SameWs s t s.cur none none 0 ∧ (s.cx.frame = .none → t.cx.ws.pc = s.cx.ws.pc + 4) ∧
        (4 ≤ sc.val → t.me.writes = copyWrites s.me) ∧
        (sc.val < 4 → t.me.writes = owedWrites s.me ∧
          (ownWrites s.me ≠ [] → t.cx.stalled = true ∧
            ∃ ts, SMap.find t.tags (at_ / 8) = some ts ∧ (s.cur.core, sc.val) ∈ ts.1)) ∧
        (s.me.writes = [] → s.dev.posted = [] → SameBytes s t (fun p => at_ ≤ p ∧ p < at_ + n)))

/-- `fence` completes with every scope and kind. One that names earlier writes performs all of the core's instructions; one that
drains leaves none of them posted, on its way or toward the host; with neither it changes nothing but the PC. -/
def Sys2Proof.Says.FenceResults : Prop :=
  ∀ (s : State) (sc : Fin 8) (kinds : Fin 32), ∃ t, exec (.fence sc kinds) s = .next t ∧
    ((∀ w ∈ s.me.writes, w.space ≠ .tcm s.cur.core) →
      SameWs s t s.cur none none 0 ∧ (s.cx.frame = .none → t.cx.ws.pc = s.cx.ws.pc + 4)) ∧
    (kinds.val / 4 % 4 ≠ 0 → t.me.writes = copyWrites s.me ∧
      (s.Inv → (∀ w ∈ ownWrites s.me, SimpleWrite s w) → HostPosted s → HoldInOrder (ownWrites s.me) s t)) ∧
    (16 ≤ kinds.val → (∀ w ∈ ownWrites t.me, ¬ w.posted) ∧ ∀ w ∈ t.dev.posted, w.core ≠ s.cur.core) ∧
    (kinds.val < 4 → OnlyOwn s t none none 0) ∧
    (s.me.writes = [] → (∀ w ∈ s.dev.posted, w.core ≠ s.cur.core) → OnlyOwn s t none none 0)

/-- A release at `.dev` or wider performs the earlier writes of a core, each in turn: its copy engine's alone are left, memory and
the slices hold what their arrivals in order give, and a byte off HBM is what it was under their cells in order. At `.sys` no posted
store is left. Below `.dev` the earlier writes stay on their way, owed, and a context's release holds it while they do.
A store that arrives at a slice-cached page is what a read of the page through the same placement then returns.
`str` completes where its address is aligned and its bytes pass the checks: it releases, then stores. To plain bytes of own
TCM memory then holds the value there; at `.dev` and above no earlier write of the core's instructions is left, and below it the
release stands at the value for the agents that read it while earlier writes are left. Else it raises MISALIGN.
`fence` completes with every scope and kind. One that names earlier writes performs all of the core's instructions; one that
drains leaves none of them posted, on its way or toward the host; with neither it changes nothing but the PC.
It rests on the choice of log entry 5. -/
def Obligations.ReleaseAndFence : Prop :=
  Says.ReleasePerforms ∧ Says.SliceWriteArrives ∧ Says.StoreReleaseResults ∧ Says.FenceResults

/-! ### System instructions, traps and faults (06 R115 to R126, 20 R347) -/

/-- `nop` and `yield` complete and go on at IA + 4; `yield` in ctx1 to ctx3 makes the context last in round-robin order. -/
def Sys2Proof.Says.NopYieldResults : Prop :=
  ∀ s : State, s.cx.frame = .none →
    (∃ t, exec .nop s = .next t ∧ OnlyOwn s t none none 0 ∧ t.cx.ws.pc = s.cx.ws.pc + 4) ∧
    (∃ t, exec .yield s = .next t ∧ SameMemory s t ∧ SameUnits s t ∧ SameCores s t s.cur.core ∧
      SameWs s t s.cur none none 0 ∧ t.cx.ws.pc = s.cx.ws.pc + 4 ∧
      t.me.rrLast = (if s.cur.ctx = 0 then s.me.rrLast else s.cur.ctx))

/-- `done` completes: the context is free, UTA, FP and the KIND of FIRING read 0, and in ctx0 the message firing ends:
MSGHDR and MSGSRC read 0 and a request without a reply returns its credit to its sender. -/
def Obligations.DoneResults : Prop :=
  ∀ s : State, ∃ t, exec .done s = .next t ∧ t.cx.firing = false ∧ t.cx.fp = false ∧
    t.cx.firingReg = s.cx.firingReg &&& ~~~7 ∧ t.cx.ws.ecause.getLsbD 63 = false ∧ t.cx.actorSlot = .none ∧
    t.cx.ws.w = s.cx.ws.w ∧ t.cx.ws.v = s.cx.ws.v ∧ SameMemory s t ∧
    (∀ m, s.cur.ctx = 0 → s.me.net.openMsg = some m →
      t.me.net.openMsg = .none ∧ t.me.msghdr = 0 ∧ t.me.msgsrc = 0 ∧
      (t.core m.arrival.src).net.creditReturns = (s.core m.arrival.src).net.creditReturns +
        if m.arrival.hdr.getLsbD 50 = false ∧ m.replied = false then 1 else 0)

/-- `wfe` completes where the context's event latch is set and clears it; `mqwait` completes where at most n commands of
the core have not retired. Else they wait, or trap at once with WAITLIM 0, which event 13 counts. -/
def Sys2Proof.Says.WfeMqwaitResults : Prop :=
  ∀ (s : State) (n : Fin 16),
    let c := (s.cmdQueue s.cur.core).cmds.length
    (s.cx.evl = true → ∃ t, exec .wfe s = .next t ∧ t.cx.evl = false ∧ SameWs s t s.cur none none 0 ∧ SameMemory s t ∧
      (s.cx.frame = .none → t.cx.ws.pc = s.cx.ws.pc + 4)) ∧
    (c ≤ n.val → ∃ t, exec (.mqwait n) s = .next t ∧ OnlyOwn s t none none 0 ∧
      (s.cx.frame = .none → t.cx.ws.pc = s.cx.ws.pc + 4)) ∧
    (s.me.waitlim ≠ 0 → (s.cx.evl = false → ∃ t, exec .wfe s = .next t ∧ Waits s t) ∧
      (n.val < c → ∃ t, exec (.mqwait n) s = .next t ∧ Waits s t)) ∧
    (s.me.waitlim = 0 → (s.cx.evl = false → exec .wfe s = .next ((s.count s.cur 13 1).userTrap 0x06 0 s.cx.ws.pc)) ∧
      (n.val < c → exec (.mqwait n) s = .next ((s.count s.cur 13 1).userTrap 0x06 (BitVec.ofNat 64 c) s.cx.ws.pc)))

/-- `nop` and `yield` complete and go on at IA + 4; `yield` in ctx1 to ctx3 makes the context last in round-robin order.
`wfe` completes where the context's event latch is set and clears it; `mqwait` completes where at most n commands of
the core have not retired. Else they wait, or trap at once with WAITLIM 0, which event 13 counts. -/
def Obligations.NopYieldWaitResults : Prop :=
  Says.NopYieldResults ∧ Says.WfeMqwaitResults

/-- `trap` enters the user-level trap: EPC = IA + 4, EVAL = code, ECAUSE = UTA and 0x10, PC = UTVEC where UTVEC is a
4-byte-aligned own-TCM address. Where it is none, the entry is the system-level fault ACCESS with EVAL = UTVEC and UTA 1. -/
def Obligations.TrapEntry : Prop :=
  ∀ (s : State) (code : BitVec 12), s.cx.frame = .none →
    let v := s.me.utvec
    ∃ t, exec (.trap code) s = .next t ∧ t.cx.ws.epc = s.cx.ws.pc + 4 ∧ t.cx.ws.w = s.cx.ws.w ∧ t.cx.ws.v = s.cx.ws.v ∧
      t.cx.ws.cflags = s.cx.ws.cflags ∧ SameMemory s t ∧
      (v.toNat % 4 = 0 ∧ 0x8000000000000000 ≤ v.toNat ∧ v.toNat ≤ 0x800000000007FFFC →
        t.cx.ws.eval = code.setWidth 64 ∧ t.cx.ws.ecause = 0x8000000000000010 ∧ t.cx.ws.pc = v ∧
        t.cx.suspended = s.cx.suspended ∧ SameUnits s t) ∧
      (¬ (v.toNat % 4 = 0 ∧ 0x8000000000000000 ≤ v.toNat ∧ v.toNat ≤ 0x800000000007FFFC) →
        t.cx.ws.eval = v ∧ t.cx.ws.ecause = 0x8000000000000003 ∧ t.cx.ws.pc = s.cx.ws.pc ∧ t.cx.suspended = true)

/-- `tret` completes where UTA is 1: PC ← EPC and UTA ← 0, and nothing else changes. Where UTA is 0 it raises ILLEGAL
with EVAL = the word. -/
def Sys2Proof.Says.TrapReturn : Prop :=
  ∀ s : State,
    (s.cx.ws.ecause.getLsbD 63 = true → ∃ t, exec .tret s = .next t ∧ t.cx.ws.pc = s.cx.ws.epc ∧
      t.cx.ws.ecause = s.cx.ws.ecause &&& 0x7FFFFFFFFFFFFFFF ∧ t.cx.ws.epc = s.cx.ws.epc ∧ t.cx.ws.eval = s.cx.ws.eval ∧
      t.cx.ws.w = s.cx.ws.w ∧ t.cx.ws.v = s.cx.ws.v ∧ t.cx.ws.cflags = s.cx.ws.cflags ∧ SameMemory s t ∧ SameUnits s t ∧
      SameCores s t s.cur.core ∧ SameCore s t s.cur) ∧
    (s.cx.ws.ecause.getLsbD 63 = false → exec .tret s = .next (s.sysFault 0x01 (s.curWord.setWidth 64) 0 .none))

/-- `brk` raises the system-level fault BRK with EVAL = code, but in the debug state INVASIVE it halts its context, to go
on at IA + 4. -/
def Sys2Proof.Says.BreakpointResults : Prop :=
  ∀ (s : State) (code : BitVec 12),
    (s.dev.debug ≠ .invasive → exec (.brk code) s = .next (s.sysFault 0x0F (code.setWidth 64) 0 .none)) ∧
    (s.dev.debug = .invasive → ∃ t, exec (.brk code) s = .next t ∧ t.cx.halted = true ∧ t.cx.suspended = s.cx.suspended ∧
      t.cx.ws.epc = s.cx.ws.pc ∧ t.cx.ws.eval = code.setWidth 64 ∧ t.cx.ws.pc = s.cx.ws.pc + 4 ∧
      t.cx.ws.ecause = (s.cx.ws.ecause &&& 0x8000000000000000) ||| 0x0F ∧ SameMemory s t ∧ SameUnits s t)

/-- `tret` completes where UTA is 1: PC ← EPC and UTA ← 0, and nothing else changes. Where UTA is 0 it raises ILLEGAL
with EVAL = the word.
`brk` raises the system-level fault BRK with EVAL = code, but in the debug state INVASIVE it halts its context, to go
on at IA + 4. -/
def Obligations.TrapReturnAndBreakpoint : Prop :=
  Says.TrapReturn ∧ Says.BreakpointResults

/-- Taking a system-level fault in the executing context: EPC = IA, ECAUSE[7:0] = the cause with UTA unchanged, EVAL = the
value, or in a frame FRM, PASS, POS and the value's low bits; the context is suspended; its other registers, memory and
every other core are unchanged; and the record goes to its die: an XLATE to a walk, any other to the fault queue.
It rests on the choice of log entry 12. -/
def Obligations.SystemFaultEntry : Prop :=
  ∀ (s : State) (c : BitVec 8) (v a : Word) (k : Kind),
    let t := s.sysFault c v a k
    t.cx.ws.epc = s.cx.ws.pc ∧ t.cx.ws.ecause = (s.cx.ws.ecause &&& 0x8000000000000000) ||| c.setWidth 64 ∧
      (s.cx.frame = .none → t.cx.ws.eval = v ∧ t.cx.fp = false) ∧
      (∀ f, s.cx.frame = some f → f.pass < 64 → f.pos < 16 → t.cx.fp = true ∧
        t.cx.ws.eval.toNat = 2 ^ 63 + f.pass * 2 ^ 57 + f.pos * 2 ^ 53 + v.toNat % 2 ^ 53) ∧
      t.cx.suspended = true ∧ t.cx.frame = .none ∧ t.cx.firing = s.cx.firing ∧ t.cx.ws.w = s.cx.ws.w ∧ t.cx.ws.v = s.cx.ws.v ∧
      t.cx.ws.pc = s.cx.ws.pc ∧ t.cx.ws.cflags = s.cx.ws.cflags ∧ SameMemory s t ∧ SameCores s t s.cur.core ∧
      (c ≠ 0x04 → ∃ f, (t.die (s.cur.core / 2048)).faults = (s.die (s.cur.core / 2048)).faults ++ [f] ∧ f.cause = c ∧
        f.core = s.cur.core ∧ f.ctx = s.cur.ctx ∧ f.epc = s.cx.ws.pc ∧ f.value = v ∧ f.addr = a ∧ f.kind = k ∧
        f.agent = .context ∧ f.word = s.curWord) ∧
      (c = 0x04 → ∃ d w f, w ∈ (t.die d).walks ∧ f ∈ w.joined ∧ w.asid = s.asidOf s.cur.core ∧ w.page = a.toNat / 49152 ∧
        f.cause = 0x04 ∧ f.core = s.cur.core ∧ f.ctx = s.cur.ctx ∧ f.epc = s.cx.ws.pc ∧ f.value = v ∧ f.addr = a ∧
        f.kind = k ∧ f.word = s.curWord)

/-- `sprd` completes for every assigned number with the register's value and `spwr` for every writable one: the register
then reads the written value with its reserved bits 0, and every other special register, w, v and memory are unchanged.
Other numbers raise ILLEGAL with EVAL = the word. -/
def Sys2Proof.Says.SpecialRegisterAccess : Prop :=
  ∀ (s : State) (rd ra : Reg) (n : BitVec 16),
    (sprAssigned n.toNat → ∃ v, s.sprRead n.toNat = some v ∧ exec (.sprd rd n) s = .next (s.retire rd v)) ∧
    (∀ m, sprMask n.toNat = some m → ∃ t, exec (.spwr ra n) s = .next t ∧ t.sprRead n.toNat = some (s.getW ra &&& m) ∧
      (∀ k, k ≠ n.toNat → t.sprRead k = s.sprRead k) ∧ t.cx.ws.w = s.cx.ws.w ∧ t.cx.ws.v = s.cx.ws.v ∧ SameMemory s t ∧
      SameUnits s t ∧ SameCores s t s.cur.core ∧ (s.cx.frame = .none → t.cx.ws.pc = s.cx.ws.pc + 4)) ∧
    (sprAssigned n.toNat = false → exec (.sprd rd n) s = .next (s.sysFault 0x01 (s.curWord.setWidth 64) 0 .none)) ∧
    (sprMask n.toNat = Option.none → exec (.spwr ra n) s = .next (s.sysFault 0x01 (s.curWord.setWidth 64) 0 .none))

/-- The read-only special registers read WP, the context, the core, its address (its die, cluster, quad and core), TEAM, CYCLE,
FIRING, the transfer id, the forecast of the core's die and the job control block's address; MSGHDR and MSGSRC read 0 outside ctx0. -/
def Sys2Proof.Says.SpecialRegisterValues : Prop :=
  ∀ s : State, s.sprRead 0 = some s.cx.wp ∧ s.sprRead 1 = some (BitVec.ofNat 64 s.cur.ctx.val) ∧
    s.sprRead 2 = some (BitVec.ofNat 64 s.cur.core) ∧ s.sprRead 4 = some s.me.team ∧
    (let g := s.cur.core;
      g < 8192 → s.sprRead 3 = some
        (BitVec.ofNat 64 (g / 2048 * 2 ^ 13 + g / 64 % 32 * 2 ^ 8 + g / 4 % 16 * 2 ^ 4 + g % 4 * 2 ^ 2))) ∧
    s.sprRead 5 = some (BitVec.ofNat 64 s.now) ∧ s.sprRead 0x00F = some s.cx.firingReg ∧ s.sprRead 0x01C = some s.me.jcb ∧
    s.sprRead 0x019 = some (s.cx.cpyXid.setWidth 64) ∧ s.sprRead 0x01B = some (s.die (s.cur.core / 2048)).forecast ∧
    s.sprRead 0x00D = some (if s.cur.ctx = 0 then s.me.msghdr else 0) ∧
    s.sprRead 0x00E = some (if s.cur.ctx = 0 then s.me.msgsrc.setWidth 64 else 0) ∧ s.sprRead 0x018 = .none ∧
    (∀ n, 0x020 ≤ n → n < 0x040 → s.sprRead n = .none)

/-- `sprd` completes for every assigned number with the register's value and `spwr` for every writable one: the register
then reads the written value with its reserved bits 0, and every other special register, w, v and memory are unchanged.
Other numbers raise ILLEGAL with EVAL = the word.
The read-only special registers read WP, the context, the core, its address (its die, cluster, quad and core), TEAM, CYCLE,
FIRING, the transfer id, the forecast of the core's die and the job control block's address; MSGHDR and MSGSRC read 0 outside ctx0. -/
def Obligations.SpecialRegisters : Prop :=
  Says.SpecialRegisterAccess ∧ Says.SpecialRegisterValues

/-- `wpswap` completes: the previous workspace stands in TCM with its PC at IA + 4, the context holds the workspace that
TCM holds at W(ra), and rd of it receives the previous WP. An address that may be no workspace raises WSFAULT. -/
def Obligations.WorkspaceSwap : Prop :=
  ∀ (s : State) (rd ra : Reg), s.Inv →
    let n := s.getW ra
    let old := s.cx
    (s.me.wpOk s.cur.ctx n = false → exec (.wpswap rd ra) s = .next (s.sysFault 0x11 n n .none)) ∧
    (s.me.wpOk s.cur.ctx n = true → n ≠ old.wp → ∃ t, exec (.wpswap rd ra) s = .next t ∧ t.cx.wp = n ∧
      (rd ≠ 0 → t.getW rd = old.wp) ∧
      (∀ o, 8 ≤ o → o < 1536 → Memory.read t.mem (tcmPlace s.cur.core (old.wpOff + o)) =
        ({ old.ws with pc := old.ws.pc + 4 } : Workspace).byte o) ∧
      (∀ x, x = t.loadWs s.cur.core (n.toNat % 0x80000) → t.cx.ws.v = x.v ∧ t.cx.ws.pc = x.pc ∧
        ∀ m, m ≠ rd → t.getW m = if m = 0 then 0 else x.w[m]) ∧
      SameUnits s t ∧ SameCores s t s.cur.core) ∧
    (s.me.wpOk s.cur.ctx n = true → n = old.wp → exec (.wpswap rd ra) s = .next (s.retire rd n))

/-- `rpt` completes: the frame opens with the words that follow it, at its first word and pass, and no register changes; as the
first instruction after `tret` or a resumption, where FP and EVAL[63] are 1, it opens at POS of PASS and clears EVAL[63], or raises
ILLEGAL where they lie outside the frame. The PC stays at the `rpt`. A frame past the end of TCM raises ACCESS, a poisoned captured
word POISON, and a word that may stand in no frame ILLEGAL.
It rests on the choice of log entry 12. -/
def Obligations.RepeatResults : Prop :=
  ∀ (s : State) (cnt : Fin 16) (rep : Fin 64) (sd sa sb sm : Fin 8),
    let c := cnt.val + 1
    let ia := s.cx.ws.pc
    let ws := (List.range c).map fun i => s.fetchWord s.cur.core (ia + BitVec.ofNat 64 (4 * (i + 1))) true
    let pass := s.cx.ws.eval.toNat / 2 ^ 57 % 64
    let pos := s.cx.ws.eval.toNat / 2 ^ 53 % 16
    let resumes := s.cx.resume = true ∧ s.cx.fp = true ∧ s.cx.ws.eval.getLsbD 63 = true
    let opens := fun (t : State) (pass pos : Nat) (x : Workspace) =>
      t.cx.frame = some ⟨ia, ws.map (BitVec.ofNat 32), rep.val + 1, sd.val, sa.val, sb.val, sm.val, pass, pos⟩ ∧ t.cx.ws = x ∧
        t.cx.fp = false ∧ SameMemory s { t with soft := s.soft } ∧ SameUnits s t ∧ SameCores s t s.cur.core
    (0x800000000007FFFC < ia.toNat + 4 * c → exec (.rpt cnt rep sd sa sb sm) s =
      .next (s.sysFault 0x03 0x8000000000080000 0x8000000000080000 .read)) ∧
    (∀ a, ia.toNat + 4 * c ≤ 0x800000000007FFFC → s.capturePoison s.cur.core ia c = some a →
      exec (.rpt cnt rep sd sa sb sm) s = .next (s.sysFault 0x05 a a .read)) ∧
    (ia.toNat + 4 * c ≤ 0x800000000007FFFC → s.capturePoison s.cur.core ia c = .none → ∀ i w, frameBreach sd.val sa.val sb.val sm.val (rep.val + 1) ws = some (i, w) →
      exec (.rpt cnt rep sd sa sb sm) s = .next (s.sysFault 0x01 (BitVec.ofNat 64 (2 ^ 36 + i * 2 ^ 32 + w)) 0 .none)) ∧
    (ia.toNat + 4 * c ≤ 0x800000000007FFFC → s.capturePoison s.cur.core ia c = .none →
      frameBreach sd.val sa.val sb.val sm.val (rep.val + 1) ws = .none →
      (¬ resumes → ∃ t, exec (.rpt cnt rep sd sa sb sm) s = .next t ∧ opens t 0 0 s.cx.ws) ∧
      (resumes → pass ≤ rep.val → pos < c → ∃ t, exec (.rpt cnt rep sd sa sb sm) s = .next t ∧
        opens t pass pos { s.cx.ws with eval := s.cx.ws.eval &&& 0x7FFFFFFFFFFFFFFF }) ∧
      (resumes → rep.val < pass ∨ c ≤ pos →
        exec (.rpt cnt rep sd sa sb sm) s = .next (s.sysFault 0x01 (s.curWord.setWidth 64) 0 .none)))


/-! ### Streams, the bit buffer and the long accumulator (08 R146 to R165) -/

/-- A waiting stream instruction: whether it is the producer's, its register, handle, need and byte offset (08 R149). -/
def Sys2Proof.Says.streamForm : Instr → Option (Bool × Reg × Fin 8 × Nat × Nat)
  | .cbget x cb need off => some (false, x, cb, need.val + 1, off.toNat * 64)
  | .cbput x cb need off => some (true, x, cb, need.val + 1, off.toNat * 64)
  | .cbpop x cb need => some (false, x, cb, need.val + 1, 0)
  | .cbpush x cb need => some (true, x, cb, need.val + 1, 0)
  | .cbwfill x cb need off => some (false, x, cb, need.val + 1, off.toNat * 64)
  | .cbwfree x cb need off => some (true, x, cb, need.val + 1, off.toNat * 64)
  | _ => .none

/-- The occupied slots of a handle by its local count and the other side's counter: filled for a consumer, taken for a
producer (08 R147). -/
def Sys2Proof.Says.occupied (d : BitVec 128) (other : Nat) : Int :=
  (if cbProd d then (cbLcnt d : Int) - other else other - cbLcnt d) % 2 ^ 16

/-- The ready count of a handle whose pair is consistent. -/
def Sys2Proof.Says.ready (d : BitVec 128) (other : Nat) : Int :=
  if cbProd d then cbN d - occupied d other else occupied d other

/-- A handle passes the checks of 08 R150 before a wait. -/
def Sys2Proof.Says.HandleFits (d : BitVec 128) (prod : Bool) (need off : Nat) : Prop :=
  cbSound d = true ∧ cbProd d = prod ∧ need ≤ cbN d ∧ off < need * cbS d

/-- The counter pair of a handle is plain bytes of the executing core's own TCM, from `p` on. -/
def Sys2Proof.Says.OwnPair (s : State) (d : BitVec 128) (p : Nat) : Prop :=
  bits (cbHi d) 46 34 = s.cur.core ∧ p = bits (cbHi d) 31 16 * 8 ∧ PlainTcm s p 8

/-- A handle that is not bound, of the wrong side, malformed or too small for the operands, or whose pair is found
inconsistent, raises ILLEGAL with its reason 1 to 5; but for the read of the pair it has no other effect. -/
def Sys2Proof.Says.StreamChecks : Prop :=
  ∀ (s : State) (i : Instr) (prod : Bool) (x : Reg) (cb : Fin 8) (k o : Nat),
    let d := s.getCb cb
    let bad := fun (i : Instr) (r : Nat) =>
      exec i s = .next (s.sysFault 0x01 (BitVec.ofNat 64 (cb.val * 2 ^ 32 + r)) 0 .none)
    let found := fun (i : Instr) (t : State) =>
      exec i s = .next ((settled t).sysFault 0x01 (BitVec.ofNat 64 (cb.val * 2 ^ 32 + 5)) 0 .none)
    (streamForm i = some (prod, x, cb, k, o) →
      (cbBound d = false → bad i 1) ∧
      (cbBound d = true → cbProd d ≠ prod → bad i 2) ∧
      (cbBound d = true → cbProd d = prod → cbSound d = false → bad i 3) ∧
      (cbSound d = true → cbProd d = prod → (cbN d < k ∨ k * cbS d ≤ o) → bad i 4) ∧
      (∀ bs t, HandleFits d prod k o → s.load (cbOther d) 4 (some (cbSc d)) = .ok (bs, t) →
        (cbN d : Int) < occupied d (ofBytes bs % 2 ^ 16) → found i t)) ∧
    (cbBound d = false → bad (.cbstat x cb) 1) ∧ (cbBound d = true → cbSound d = false → bad (.cbstat x cb) 3) ∧
    (∀ bs t, cbSound d = true → s.load (cbOther d) 4 (some (cbSc d)) = .ok (bs, t) →
      (cbN d : Int) < occupied d (ofBytes bs % 2 ^ 16) → found (.cbstat x cb) t)

/-- A waiting stream instruction whose count has not reached its need waits; with WAITLIM 0 it raises WAITLIMIT with the handle
and the count. -/
def Sys2Proof.Says.StreamWaits : Prop :=
  ∀ (s : State) (i : Instr) (prod : Bool) (x : Reg) (cb : Fin 8) (k o n : Nat) (t : State),
    streamForm i = some (prod, x, cb, k, o) → HandleFits (s.getCb cb) prod k o →
    s.cbCount (s.getCb cb) = .ok (some n, t) → n < k →
    (s.me.waitlim ≠ 0 → ∃ u, exec i s = .next u ∧ Waits s u) ∧
      (s.me.waitlim = 0 → exec i s =
        .next ((s.count s.cur 13 1).userTrap 0x06 (BitVec.ofNat 64 (cb.val * 2 ^ 16 + n)) s.cx.ws.pc))

/-- Where the count reaches the need, the waiting stream instructions complete, wherever the pair and the slots lie: the count is
read first, then the effect. -/
def Sys2Proof.Says.StreamEffects : Prop :=
  ∀ (s : State) (x : Reg) (cb need : Fin 8) (off : BitVec 8) (n : Nat) (t : State),
    let d := s.getCb cb
    let k := need.val + 1
    let o := off.toNat * 64
    let l := (cbLcnt d + k) % 2 ^ 16
    let stored := fun (i : Instr) => ∀ u, (t.store (cbOwn d) (toBytes 4 l) 0xFF (some (cbSc d))).isOk →
      (t.releaseWith (cbSc d)).store (cbOwn d) (toBytes 4 l) 0xFF (some (cbSc d)) = .ok u →
      exec i s = .next ((u.setCb cb (cbWithLcnt d l)).retire x (BitVec.ofNat 64 l))
    s.cbCount d = .ok (some n, t) → k ≤ n →
    (HandleFits d false k o → exec (.cbwfill x cb need off) s = .next (t.retire x (cbAddr d o)) ∧
      ∀ bs u, t.load (cbAddr d o) 8 = .ok (bs, u) → exec (.cbget x cb need off) s = .next (u.retire x (zbytes bs))) ∧
    (HandleFits d true k o → exec (.cbwfree x cb need off) s = .next (t.retire x (cbAddr d o)) ∧
      ∀ u, t.store (cbAddr d o) (toBytes 8 (s.getW x).toNat) = .ok u → exec (.cbput x cb need off) s = .next u.advance) ∧
    (HandleFits d false k 0 → stored (.cbpop x cb need)) ∧ (HandleFits d true k 0 → stored (.cbpush x cb need))

/-- With the counter pair in own TCM every stream instruction completes, on conditions of the state and the operands alone:
`cbwfill` and `cbwfree` with the slot's address, `cbget` and `cbput` with the 8 bytes there, `cbpop` and `cbpush` with this side's
counter advanced in the descriptor and stored in its word of the pair, `cbstat` with the count, LCNT and DIR, and `cbbind` with the
image and LCNT from this side's counter. -/
def Sys2Proof.Says.StreamCompletions : Prop :=
  ∀ (s : State) (x : Reg) (cb need : Fin 8) (off : BitVec 8) (p : Nat),
    let d := s.getCb cb
    let k := need.val + 1
    let o := off.toNat * 64
    let l := (cbLcnt d + k) % 2 ^ 16
    let n := ready d (tcmValue s (if cbProd d then p + 4 else p) 4 % 2 ^ 16)
    let moved := fun (i : Instr) (own : Nat) => ∃ t, exec i s = .next t ∧ tcmValue t own 4 = l ∧
      t.getCb cb = cbWithLcnt d l ∧ (∀ c, c ≠ cb → t.getCb c = s.getCb c) ∧
      (∀ r, t.getW r = if r = x ∧ x ≠ 0 then BitVec.ofNat 64 l else s.getW r) ∧ (4 ≤ cbSc d → t.me.writes = copyWrites s.me) ∧
      (s.me.writes = [] → s.dev.posted = [] →
        SameBytes s t fun q => tcmPlace s.cur.core own ≤ q ∧ q < tcmPlace s.cur.core own + 4)
    s.Inv → OwnPair s d p → occupied d (tcmValue s (if cbProd d then p + 4 else p) 4 % 2 ^ 16) ≤ cbN d →
    (HandleFits d false k o → (k : Int) ≤ n → exec (.cbwfill x cb need off) s = .next (s.retire x (cbAddr d o)) ∧
      (PlainAt s (cbAddr d o) 8 →
        exec (.cbget x cb need off) s = .next (s.retire x (BitVec.ofNat 64 (valueAt s (cbAddr d o) 8))))) ∧
    (HandleFits d true k o → (k : Int) ≤ n → exec (.cbwfree x cb need off) s = .next (s.retire x (cbAddr d o)) ∧
      (PlainAt s (cbAddr d o) 8 → ∃ t, exec (.cbput x cb need off) s = .next t ∧
        valueAt t (cbAddr d o) 8 = (s.getW x).toNat ∧ SameWs s t s.cur none none 0 ∧
        SameBytes s t fun q => placeAt s (cbAddr d o) ≤ q ∧ q < placeAt s (cbAddr d o) + 8)) ∧
    (HandleFits d false k 0 → (k : Int) ≤ n → moved (.cbpop x cb need) (p + 4)) ∧
    (HandleFits d true k 0 → (k : Int) ≤ n → moved (.cbpush x cb need) p) ∧
    (cbSound d = true → ∃ v, exec (.cbstat x cb) s = .next (s.retire x v) ∧
      (v.toNat : Int) = n + cbLcnt d * 2 ^ 16 + if cbProd d then 2 ^ 32 else 0)

/-- `cbbind` completes where its 16 bytes and this side's counter are plain bytes of own TCM and the image is well formed: the
descriptor is the image with LCNT from that counter, and no register changes. A misaligned address raises MISALIGN, and a malformed
image reason 3. -/
def Sys2Proof.Says.StreamBinds : Prop :=
  ∀ (s : State) (x : Reg) (cb : Fin 8) (p : Nat),
    let a := s.getW x
    let d := BitVec.ofNat 128 (valueAt s a 16)
    (a.toNat % 8 ≠ 0 → exec (.cbbind x cb) s = .next (s.sysFault 0x02 a a .read)) ∧
    (a.toNat % 8 = 0 → PlainAt s a 16 → cbSound d = false → exec (.cbbind x cb) s =
      .next ((settled s).sysFault 0x01 (BitVec.ofNat 64 (cb.val * 2 ^ 32 + 3)) 0 .none)) ∧
    (a.toNat % 8 = 0 → PlainAt s a 16 → cbSound d = true → OwnPair s d p → ∃ t, exec (.cbbind x cb) s = .next t ∧
      cbLcnt (t.getCb cb) = tcmValue s (if cbProd d then p else p + 4) 4 % 2 ^ 16 ∧
      (t.getCb cb).toNat / 2 ^ 80 = d.toNat / 2 ^ 80 ∧ (t.getCb cb).toNat % 2 ^ 64 = d.toNat % 2 ^ 64 ∧
      (∀ c, c ≠ cb → t.getCb c = s.getCb c) ∧ (∀ r, t.getW r = s.getW r) ∧ SameMemory s t ∧ SameUnits s t)

/-- A handle that is not bound, of the wrong side, malformed or too small for the operands, or whose pair is found
inconsistent, raises ILLEGAL with its reason 1 to 5; but for the read of the pair it has no other effect.
A waiting stream instruction whose count has not reached its need waits; with WAITLIM 0 it raises WAITLIMIT with the handle
and the count.
Where the count reaches the need, the waiting stream instructions complete, wherever the pair and the slots lie: the count is
read first, then the effect.
With the counter pair in own TCM every stream instruction completes, on conditions of the state and the operands alone:
`cbwfill` and `cbwfree` with the slot's address, `cbget` and `cbput` with the 8 bytes there, `cbpop` and `cbpush` with this side's
counter advanced in the descriptor and stored in its word of the pair, `cbstat` with the count, LCNT and DIR, and `cbbind` with the
image and LCNT from this side's counter.
`cbbind` completes where its 16 bytes and this side's counter are plain bytes of own TCM and the image is well formed: the
descriptor is the image with LCNT from that counter, and no register changes. A misaligned address raises MISALIGN, and a malformed
image reason 3.
It rests on the choices of log entries 5 and 48. -/
def Obligations.StreamResults : Prop :=
  Says.StreamChecks ∧ Says.StreamWaits ∧ Says.StreamEffects ∧ Says.StreamCompletions ∧ Says.StreamBinds

/-- The reading bit-stream instructions: n bits come from the held ones, or from those and the next block of own TCM, which
refills the buffer; `bsget` and `bsskip` consume them and `bspeek` does not. -/
def Sys2Proof.Says.BitReadResults : Prop :=
  ∀ (s : State) (rd : Reg) (nf : Fin 64),
    let w := s.cx.ws
    let n := if nf.val = 0 then 64 else nf.val
    let c := w.bsn.toNat
    let held := w.bsb.toNat % 2 ^ c
    c ≤ 64 → w.bsp.toNat % 8 = 0 → (n ≤ c ∨ PlainTcm s w.bsp.toNat 8) →
    let x := if n ≤ c then held else held + tcmValue s w.bsp.toNat 8 * 2 ^ c
    let m := if n ≤ c then c - n else c + 64 - n
    let p := if n ≤ c then w.bsp else w.bsp + 8
    (∃ t, exec (.bsget rd nf) s = .next t ∧ (∀ r, t.getW r = if r = rd ∧ rd ≠ 0 then BitVec.ofNat 64 (x % 2 ^ n) else s.getW r) ∧
      t.cx.ws.bsb = BitVec.ofNat 64 (x / 2 ^ n) ∧ t.cx.ws.bsn.toNat = m ∧ t.cx.ws.bsp = p ∧ SameMemory s t ∧ SameUnits s t ∧
      SameCores s t s.cur.core ∧ SameCore s t s.cur) ∧
    (∃ t, exec (.bspeek rd nf) s = .next t ∧ OnlyOwn s t (· = rd) none 0 ∧
      (rd ≠ 0 → t.getW rd = BitVec.ofNat 64 (x % 2 ^ n))) ∧
    (∃ t, exec (.bsskip nf) s = .next t ∧ (∀ r, t.getW r = s.getW r) ∧ t.cx.ws.bsb = BitVec.ofNat 64 (x / 2 ^ n) ∧
      t.cx.ws.bsn.toNat = m ∧ t.cx.ws.bsp = p ∧ SameMemory s t ∧ SameUnits s t ∧ SameCores s t s.cur.core ∧ SameCore s t s.cur)

/-- The writing bit-stream instructions: `bsput` appends n bits and writes a full block to own TCM, `bsflush` writes the held
bits as a block and leaves the buffer; and for both directions `bsinit`, `bsalign`, which writes a block that it fills, and
`bspos`. -/
def Sys2Proof.Says.BitWriteResults : Prop :=
  ∀ (s : State) (ra rd : Reg) (nf : Fin 64) (dir : Fin 2),
    let w := s.cx.ws
    let n := if nf.val = 0 then 64 else nf.val
    let c := w.bsn.toNat % 2 ^ 31
    let held := w.bsb.toNat % 2 ^ c
    let x := held + (s.getW ra).toNat % 2 ^ n * 2 ^ c
    let out := w.bsn.getLsbD 31
    ((s.getW ra).toNat % 8 = 0 → 0x8000000000000000 ≤ (s.getW ra).toNat → (s.getW ra).toNat < 0x8000000000080000 →
      ∃ t, exec (.bsinit ra dir) s = .next t ∧ t.cx.ws.bsb = 0 ∧ t.cx.ws.bsn.toNat = dir.val * 2 ^ 31 + w.bsn.toNat % 2 ^ 31 / 2 ^ 7 * 2 ^ 7 ∧
        t.cx.ws.bsp.toNat = (s.getW ra).toNat - 0x8000000000000000 ∧ (∀ r, t.getW r = s.getW r) ∧ SameMemory s t) ∧
    (c ≤ 64 → w.bsp.toNat % 8 = 0 →
      (out = true → c + n < 64 → ∃ t, exec (.bsput ra nf) s = .next t ∧ t.cx.ws.bsb.toNat = x ∧
        t.cx.ws.bsn.toNat = 2 ^ 31 + c + n ∧ t.cx.ws.bsp = w.bsp ∧ SameMemory s t) ∧
      (out = true → s.Inv → PlainTcm s w.bsp.toNat 8 →
        (64 ≤ c + n → ∃ t, exec (.bsput ra nf) s = .next t ∧ tcmValue t w.bsp.toNat 8 = x % 2 ^ 64 ∧
          t.cx.ws.bsb.toNat = x / 2 ^ 64 ∧ t.cx.ws.bsn.toNat = 2 ^ 31 + (c + n - 64) ∧ t.cx.ws.bsp = w.bsp + 8) ∧
        ∃ t, exec .bsflush s = .next t ∧ tcmValue t w.bsp.toNat 8 = held % 2 ^ 64 ∧ t.cx.ws.bsb = w.bsb ∧ t.cx.ws.bsn = w.bsn ∧
          t.cx.ws.bsp = w.bsp) ∧
      (out = true → c ≤ 56 → ∃ t, exec .bsalign s = .next t ∧ t.cx.ws.bsn.toNat = 2 ^ 31 + (c + 7) / 8 * 8 ∧
        t.cx.ws.bsb.toNat = held ∧ SameMemory s t) ∧
      (out = true → 57 ≤ c → s.Inv → PlainTcm s w.bsp.toNat 8 → ∃ t, exec .bsalign s = .next t ∧
        tcmValue t w.bsp.toNat 8 = held % 2 ^ 64 ∧ t.cx.ws.bsb = 0 ∧ t.cx.ws.bsn.toNat = 2 ^ 31 ∧ t.cx.ws.bsp = w.bsp + 8) ∧
      (out = false → ∃ t, exec .bsalign s = .next t ∧ t.cx.ws.bsn.toNat = c / 8 * 8 ∧ t.cx.ws.bsb = w.bsb >>> (c % 8) ∧
        SameMemory s t) ∧
      exec (.bspos rd) s =
        .next (s.retire rd (BitVec.ofInt 64 (8 * (w.bsp.toNat : Int) + if out then (c : Int) else -(c : Int)))))

/-- A bit-stream instruction checks its state first: ILLEGAL with EVAL 1 where DIR does not match, and with EVAL 2 where more
than 64 bits are held, a reserved bit of BSN is set or BSP is no multiple of 8. `bsinit` raises MISALIGN or ACCESS. -/
def Sys2Proof.Says.BitStreamChecks : Prop :=
  ∀ (s : State) (rd ra : Reg) (nf : Fin 64) (dir : Fin 2),
    let w := s.cx.ws
    let a := s.getW ra
    let bad := fun (i : Instr) (v : Word) => exec i s = .next (s.sysFault 0x01 v 0 .none)
    let out := w.bsn.getLsbD 31
    let odd := 64 < w.bsn.toNat % 2 ^ 7 ∨ w.bsn.toNat / 2 ^ 7 % 2 ^ 24 ≠ 0 ∨ w.bsp.toNat % 8 ≠ 0
    (∀ i, i = .bsget rd nf ∨ i = .bspeek rd nf ∨ i = .bsskip nf → (out = true → bad i 1) ∧ (out = false → odd → bad i 2)) ∧
      (∀ i, i = .bsput ra nf ∨ i = .bsflush → (out = false → bad i 1) ∧ (out = true → odd → bad i 2)) ∧
      (odd → bad .bsalign 2 ∧ bad (.bspos rd) 2) ∧
      (a.toNat % 8 ≠ 0 → exec (.bsinit ra dir) s = .next (s.sysFault 0x02 a a .none)) ∧
      (a.toNat % 8 = 0 → (a.toNat < 0x8000000000000000 ∨ 0x8000000000080000 ≤ a.toNat) →
        exec (.bsinit ra dir) s = .next (s.sysFault 0x03 a a .none))

/-- The reading bit-stream instructions: n bits come from the held ones, or from those and the next block of own TCM, which
refills the buffer; `bsget` and `bsskip` consume them and `bspeek` does not.
The writing bit-stream instructions: `bsput` appends n bits and writes a full block to own TCM, `bsflush` writes the held
bits as a block and leaves the buffer; and for both directions `bsinit`, `bsalign`, which writes a block that it fills, and
`bspos`.
A bit-stream instruction checks its state first: ILLEGAL with EVAL 1 where DIR does not match, and with EVAL 2 where more
than 64 bits are held, a reserved bit of BSN is set or BSP is no multiple of 8. `bsinit` raises MISALIGN or ACCESS. -/
def Obligations.BitStreamResults : Prop :=
  Says.BitReadResults ∧ Says.BitWriteResults ∧ Says.BitStreamChecks

/-- The conversion counters of the executing core's team lie outside the local space, and no release stands in memory: where a
flush to zero is counted, no byte of TCM changes. -/
def Sys2Proof.Says.CountersApart (s : State) : Prop := s.me.jcb.toNat + 0x80 ≤ 2 ^ 63 ∧ s.tags = []

/-- The status word of an accumulator with some flags set: its reserved bits are then 0 (02 R46, R47). -/
def Sys2Proof.Says.withFlags (st f : Nat) : Nat := if st % 16 ||| f = st % 16 then st else st % 16 ||| f

/-- An offer to the long accumulator at plain bytes of own TCM completes: a finite addend, without its bits below 2^-544, is added
modulo 2^1088; LDISC is set where such bits are discarded and LOVF where the exact sum leaves the range; a NaN or an infinity leaves
the value and sets LNONF; no register changes. `laclr` clears all 144 bytes. -/
def Sys2Proof.Says.LongAccumulatorOffers : Prop :=
  ∀ (s : State) (off : Nat) (ra rb rd : Reg), s.Inv → s.getW ra = BitVec.ofNat 64 (0x8000000000000000 + off) → off % 8 = 0 →
    PlainTcm s off 144 →
    (∃ t, exec (.laclr ra) s = .next t ∧ tcmValue t off 144 = 0 ∧ (∀ r, t.getW r = s.getW r) ∧
      SameBytes s t (fun p => tcmPlace s.cur.core off ≤ p ∧ p < tcmPlace s.cur.core off + 144)) ∧
    ∀ (i : Instr) (y : Val),
      (i = .laaddD ra rb ∧ y = fp64.val (s.getW rb).toNat) ∨ (i = .lasubD ra rb ∧ y = (fp64.val (s.getW rb).toNat).negate) ∨
        (i = .laaddS ra rb ∧ y = fp32.val ((s.getW rb).toNat % 2 ^ 32)) ∨
        (i = .lamulD rd ra rb ∧ y = ((fp64.val (s.getW rd).toNat).mul (fp64.val (s.getW rb).toNat)).val) →
      let v := tcmValue s off 136
      let st := tcmValue s (off + 136) 8
      (∀ neg m e, y = .num neg m e →
        let k := if -544 ≤ e then m * 2 ^ (e + 544).toNat else m / 2 ^ (-544 - e).toNat
        let lost := e < -544 ∧ m % 2 ^ (-544 - e).toNat ≠ 0
        let sum : Int := signedLow v 1088 + if neg then -(k : Int) else k
        let flags := (if sum < -(2 ^ 1087) ∨ 2 ^ 1087 ≤ sum then 1 else 0) + (if lost then 2 else 0)
        (lost → CountersApart s) → ∃ t, exec i s = .next t ∧ (∀ r, t.getW r = s.getW r) ∧
          (tcmValue t off 136 : Int) = sum % 2 ^ 1088 ∧ tcmValue t (off + 136) 8 = withFlags st flags) ∧
      ((y.isNan ∨ ∃ b, y = .inf b) → ∃ t, exec i s = .next t ∧ (∀ r, t.getW r = s.getW r) ∧ tcmValue t off 136 = v ∧
        tcmValue t (off + 136) 8 = withFlags st 8)

/-- A round-out of the long accumulator completes: rd receives the correctly rounded value under RM, or the default NaN
with NV where the accumulator overflowed or met a NaN; `lastat` completes with its status word. -/
def Sys2Proof.Says.LongAccumulatorRounds : Prop :=
  ∀ (s : State) (off : Nat) (ra rd : Reg), s.Inv → s.getW ra = BitVec.ofNat 64 (0x8000000000000000 + off) → off % 8 = 0 →
    PlainTcm s off 144 → rd ≠ 0 →
    let v := tcmValue s off 136
    let st := tcmValue s (off + 136) 8
    let x : Int := signedLow v 1088
    exec (.lastat rd ra) s = .next (s.retire rd (BitVec.ofNat 64 st)) ∧
    ∀ (i : Instr) (f : Fmt), (i = .larndD rd ra ∧ f = fp64) ∨ (i = .larndS rd ra ∧ f = fp32) →
      let r := f.round (s.cx.ws.cflags.toNat % 4) (decide (x < 0)) x.natAbs (-544)
      (st % 2 = 0 → st / 8 % 2 = 0 → (x ≠ 0 → r.bits % 2 ^ (f.ew + f.fw) = 0 → CountersApart s) → ∃ t, exec i s = .next t ∧
        t.getW rd = BitVec.ofNat 64 r.bits ∧ tcmValue t off 136 = v ∧ t.cx.ws.cflags = s.cx.ws.cflags ||| r.flags.word ∧
        tcmValue t (off + 136) 8 = if r.flags.nx then withFlags st 4 else st) ∧
      (st % 2 = 1 ∨ st / 8 % 2 = 1 → ∃ t, exec i s = .next t ∧ t.getW rd = BitVec.ofNat 64 f.nan ∧
        t.cx.ws.cflags = s.cx.ws.cflags ||| 0x10)

/-- An offer to the long accumulator at plain bytes of own TCM completes: a finite addend, without its bits below 2^-544, is added
modulo 2^1088; LDISC is set where such bits are discarded and LOVF where the exact sum leaves the range; a NaN or an infinity leaves
the value and sets LNONF; no register changes. `laclr` clears all 144 bytes.
A round-out of the long accumulator completes: rd receives the correctly rounded value under RM, or the default NaN
with NV where the accumulator overflowed or met a NaN; `lastat` completes with its status word.
It rests on the choices of log entries 16 and 62. -/
def Obligations.LongAccumulator : Prop :=
  Says.LongAccumulatorOffers ∧ Says.LongAccumulatorRounds

/-! ### Vector instructions (03 R57 to R59, 07 R128 to R140, 08 R158 to R162) -/

/-- Every integer lane instruction and permutation completes: each active lane of vd holds the table's value modulo 2^w, each
inactive lane is kept or all ones, and nothing else changes. -/
def Sys2Proof.Says.IntegerLaneResults : Prop :=
  ∀ (s : State) (i : Instr) (x : LaneForm), laneForm s i = some x →
    let w := dtWidth x.dt
    ∃ t, exec i s = .next t ∧ OnlyVec s t none (· = x.vd) 0 ∧ (∀ k, k < 512 / w →
      (lane (t.getV x.vd) w k : Int) = if x.vm = 0 ∨ (s.getV x.vm).getLsbD k then x.f k % 2 ^ w
        else if x.mp = 1 then 2 ^ w - 1 else lane (s.getV x.vd) w k)

/-- Every floating-point lane instruction completes: each active lane is rounded once under RM in the format of dt, and CFLAGS
receives the union of the active lanes' flags. -/
def Sys2Proof.Says.FloatLaneResults : Prop :=
  ∀ (s : State) (i : Instr) (x : LaneForm), floatForm s i = some x →
    let w := dtWidth x.dt
    ∃ t, exec i s = .next t ∧ OnlyVec s t none (· = x.vd) 0x1F0 ∧
      t.cx.ws.cflags = s.cx.ws.cflags ||| (unionFlags (dtLanes x.dt) (s.active x.vm) x.flags).word ∧
      (∀ k, k < 512 / w → (lane (t.getV x.vd) w k : Int) = if x.vm = 0 ∨ (s.getV x.vm).getLsbD k then x.f k % 2 ^ w
        else if x.mp = 1 then 2 ^ w - 1 else lane (s.getV x.vd) w k)

/-- Every integer lane instruction and permutation completes: each active lane of vd holds the table's value modulo 2^w, each
inactive lane is kept or all ones, and nothing else changes.
Every floating-point lane instruction completes: each active lane is rounded once under RM in the format of dt, and CFLAGS
receives the union of the active lanes' flags.
It rests on the choice of log entry 4. -/
def Obligations.LaneResults : Prop :=
  Says.IntegerLaneResults ∧ Says.FloatLaneResults

/-- Rounding gives a representable number back with no flag, in every format and rounding mode (02 R34, R35). -/
def Obligations.RoundingIsExactOnRepresentable : Prop :=
  ∀ (f : Fmt) (mode x : Nat) (neg : Bool) (m : Nat) (e : Int),
    f = fp64 ∨ f = fp32 ∨ f = fp16 ∨ f = bf16 ∨ f = f19 → x < 2 ^ (f.ew + f.fw + 1) → f.val x = .num neg m e →
    f.round mode neg m e = ⟨x, {}, false⟩

/-- Every comparison completes with a mask: bit k is the lane's comparison where active, else kept or 1; bits from L up
are 0; a float comparison raises NV where an active lane asks for it.
It rests on the choice of log entry 4. -/
def Obligations.CompareResults : Prop :=
  ∀ (s : State) (i : Instr) (vd vm : VReg) (mp : Fin 2) (dt : Nat) (c nv : Nat → Bool),
    compareForm s i = some (vd, vm, mp, dt, c, nv) →
    ∃ t, exec i s = .next t ∧ OnlyVec s t none (· = vd) 0x10 ∧
      (∀ k, (t.getV vd).getLsbD k = (decide (k < dtLanes dt) &&
        if vm = 0 ∨ (s.getV vm).getLsbD k then c k else mp == 1 || (s.getV vd).getLsbD k)) ∧
      t.cx.ws.cflags.getLsbD 4 = (s.cx.ws.cflags.getLsbD 4 ||
        (List.range (dtLanes dt)).any fun k => (vm == 0 || (s.getV vm).getLsbD k) && nv k)

/-- The mask operations and `vsel` complete: bitwise results, counts below L, and selections; nothing else changes. -/
def Sys2Proof.Says.MaskResults : Prop :=
  ∀ (s : State) (vd va vb vm : VReg) (dt : Fin 16),
    let a := s.getV va
    let b := s.getV vb
    let l := dtLanes dt
    let w := dtWidth dt
    let ok := fun (i : Instr) (p : VWord → Prop) => ∃ t, exec i s = .next t ∧ OnlyVec s t none (· = vd) 0 ∧ p (t.getV vd)
    ok (.mand vd va vb) (· = a &&& b) ∧ ok (.mor vd va vb) (· = a ||| b) ∧ ok (.mxor vd va vb) (· = a ^^^ b) ∧
      ok (.mnot vd va) (· = ~~~a) ∧ ok (.mpop vd va dt) (·.toNat = (List.range l).countP fun k => a.getLsbD k) ∧
      ok (.mfirst vd va dt) (·.toNat = ((List.range l).find? fun k => a.getLsbD k).getD (2 ^ 64 - 1)) ∧
      ok (.vsel vd va vb vm dt) fun x => ∀ k, k < l → lane x w k = lane (if (s.getV vm).getLsbD k then a else b) w k

/-- Every integer reduction completes with the fold of the active lanes, which its tree does not depend on, in lane 0 and
zeros above. -/
def Sys2Proof.Says.IntegerReductionResults : Prop :=
  ∀ (s : State) (i : Instr) (vd va vm : VReg) (dt id : Nat) (f : Nat → Nat → Nat),
    reduceForm i = some (vd, va, vm, dt, id, f) →
    ∃ t, exec i s = .next t ∧ OnlyVec s t none (· = vd) 0 ∧ (t.getV vd).toNat = (activeList s va vm dt).foldl f id

/-- A node of the pairwise tree of 02 R45: at height 0 the leaves, above it two adjacent nodes combined, where one that is absent
passes the other on. -/
def Sys2Proof.Says.treeNode {α : Type} (f : α → α → α) (leaf : Nat → Option α) : Nat → Nat → Option α
  | 0, k => leaf k
  | h + 1, k =>
    match treeNode f leaf h (2 * k), treeNode f leaf h (2 * k + 1) with
    | some a, some b => some (f a b)
    | some a, .none => some a
    | .none, y => y

/-- The float reductions complete: `vfrmax` and `vfrmin` give the default NaN where an active lane is NaN and else the
extreme lane; `vfrsum` gives the root of the pairwise tree over the active lanes, each addition rounded under RM, and +0 without one.
CFLAGS receives the union of the combining steps' flags. -/
def Sys2Proof.Says.FloatReductionResults : Prop :=
  ∀ (s : State) (vd va vm : VReg) (dt : Fin 16),
    let f := dtFmt dt
    let xs := activeList s va vm dt
    let best := fun (larger : Bool) (id : Nat) =>
      if xs.any fun a => (f.val a).isNan then f.nan else xs.foldl (fun a b => (f.minMax larger a b).1) id
    let root := fun (step : Nat → Nat → Nat × Flags) => treeNode (fun (a b : Nat × Flags) =>
        ((step a.1 b.1).1, (a.2.or b.2).or (step a.1 b.1).2))
      (fun k => if k < dtLanes dt ∧ (vm = 0 ∨ (s.getV vm).getLsbD k) then some (lane (s.getV va) (dtWidth dt) k, {}) else .none) 7 0
    let raised := fun (t : State) (step : Nat → Nat → Nat × Flags) =>
      t.cx.ws.cflags = s.cx.ws.cflags ||| ((root step).elim 0 fun x => x.2.word)
    let sum := fun a b => f.finish (s.cx.ws.cflags.toNat % 4) ((f.val a).add (s.cx.ws.cflags.toNat % 4) (f.val b))
    10 ≤ dt.val → dt.val < 14 →
      (∃ t, exec (.vfrmax vd va vm dt) s = .next t ∧ OnlyVec s t none (· = vd) 0x10 ∧
        (t.getV vd).toNat = best true (f.signed true f.inf) ∧ raised t (f.minMax true)) ∧
      (∃ t, exec (.vfrmin vd va vm dt) s = .next t ∧ OnlyVec s t none (· = vd) 0x10 ∧ (t.getV vd).toNat = best false f.inf ∧
        raised t (f.minMax false)) ∧
      (∃ t, exec (.vfrsum vd va vm dt) s = .next t ∧ OnlyVec s t none (· = vd) 0x1F0 ∧
        (t.getV vd).toNat = ((root sum).elim 0 fun x => x.1) ∧ raised t sum)

/-- Every integer reduction completes with the fold of the active lanes, which its tree does not depend on, in lane 0 and
zeros above.
The float reductions complete: `vfrmax` and `vfrmin` give the default NaN where an active lane is NaN and else the
extreme lane; `vfrsum` gives the root of the pairwise tree over the active lanes, each addition rounded under RM, and +0 without one.
CFLAGS receives the union of the combining steps' flags.
It rests on the choices of log entries 4 and 16. -/
def Obligations.ReductionResults : Prop :=
  Says.IntegerReductionResults ∧ Says.FloatReductionResults

/-- Every conversion completes: min(Ls, Ld) elements of vd are converted, kept or all ones, the rest of vd is 0; where no
element counts, nothing else changes but CFLAGS.
It rests on the choices of log entries 4 and 57. -/
def Obligations.ConversionResults : Prop :=
  ∀ (s : State) (i : Instr) (vd va vm : VReg) (mp : Fin 2) (st dt : Nat) (f : Nat → Nat → Elem),
    convertForm s i = some (vd, va, vm, mp, st, dt, f) →
    let n := min (dtLanes st) (dtLanes dt)
    let w := dtWidth dt
    let act := fun k => vm == 0 || (s.getV vm).getLsbD k
    let x := fun k => f k (lane (s.getV va) (dtWidth st) k)
    ∃ t, exec i s = .next t ∧ (∀ k, k < 512 / w → lane (t.getV vd) w k =
        if n ≤ k then 0 else if act k then (x k).bits % 2 ^ w else if mp = 1 then 2 ^ w - 1 else lane (s.getV vd) w k) ∧
      t.cx.ws.cflags = s.cx.ws.cflags ||| (unionFlags n act fun k => (x k).flags).word ∧
      ((∀ k, k < n → act k → (x k).count = .nothing) → OnlyVec s t none (· = vd) 0x1F0)

/-- A vector load from plain bytes of own TCM completes: each active lane holds the element at its address, the others are
kept or all ones, and nothing else changes.
It rests on the choice of log entry 4. -/
def Obligations.VectorLoadResults : Prop :=
  ∀ (s : State) (i : Instr) (vd vm : VReg) (mp : Fin 2) (w : Nat) (ea : Nat → Word) (al : Nat),
    vloadForm s i = some (vd, vm, mp, w, ea, al) →
    let act := fun k => vm = 0 ∨ (s.getV vm).getLsbD k
    (ea 0).toNat % al = 0 → (∀ k, k < 512 / w → act k → (ea k).toNat % (w / 8) = 0 ∧ PlainAt s (ea k) (w / 8)) →
    ∃ t, exec i s = .next t ∧ OnlyVec s t none (· = vd) 0 ∧ (∀ k, k < 512 / w → lane (t.getV vd) w k =
      if act k then valueAt s (ea k) (w / 8) else if mp = 1 then 2 ^ w - 1 else lane (s.getV vd) w k)

/-- A vector store to plain bytes of own TCM completes: each active lane's element stands at its address where no later
active lane meets it, and every byte outside the active elements and every register is unchanged. -/
def Sys2Proof.Says.WholeElementStores : Prop :=
  ∀ (s : State) (i : Instr) (vd vm : VReg) (w : Nat) (ea : Nat → Word) (al : Nat),
    vstoreForm s i = some (vd, vm, w, ea, al) → s.Inv →
    let act := fun k => vm = 0 ∨ (s.getV vm).getLsbD k
    let covers := fun k p => placeAt s (ea k) ≤ p ∧ p < placeAt s (ea k) + w / 8
    (ea 0).toNat % al = 0 → (∀ k, k < 512 / w → act k → (ea k).toNat % (w / 8) = 0 ∧ PlainAt s (ea k) (w / 8)) →
    ∃ t, exec i s = .next t ∧ (∀ k, k < 512 / w → act k →
        (∀ j, k < j → j < 512 / w → act j → ea j ≠ ea k) → valueAt t (ea k) (w / 8) = lane (s.getV vd) w k) ∧
      SameBytes s t (fun p => ∃ k, k < 512 / w ∧ act k ∧ covers k p) ∧ SameUnits s t ∧ SameCores s t s.cur.core ∧
      SameWs s t s.cur none none 0 ∧ t.sectors = s.sectors

/-- An unmasked `vst` of 64 aligned bytes to the own Lantern queue window places a command where an entry is free: it goes last in
the core's queue with its context, and the core's writes on their way are owed. Where none is free it waits. -/
def Obligations.CommandPlacement : Prop :=
  ∀ (s : State) (vd : VReg) (ra rb : Reg) (dt : Fin 8),
    let ea := s.getW ra + s.getW rb
    let q := (s.cmdQueue s.cur.core).cmds
    0x8000000040000000 ≤ ea.toNat → ea.toNat < 0x8000000040010000 → ea.toNat % 64 = 0 →
    (q.length < 8 → ∃ t c, exec (.vst vd ra rb 0 dt) s = .next t ∧
      (t.cmdQueue s.cur.core).cmds = q ++ [c] ∧ c.bytes = s.getV vd ∧ c.ctx = s.cur.ctx ∧ SameMemory s t ∧
      SameWs s t s.cur none none 0 ∧ t.me.writes = owedWrites s.me) ∧
    (8 ≤ q.length → s.me.waitlim ≠ 0 → ∃ t, exec (.vst vd ra rb 0 dt) s = .next t ∧ Waits s t)

/-- `vstnib` to plain bytes of own TCM completes: the nibble of each active lane is written and every other bit of memory is
unchanged. -/
def Sys2Proof.Says.NibbleVectorStore : Prop :=
  ∀ (s : State) (vd vm : VReg) (ra rb : Reg), s.Inv →
    let ea := s.getW ra + s.getW rb
    let act := fun k => vm = 0 ∨ (s.getV vm).getLsbD k
    ea.toNat % 64 = 0 → PlainAt s ea 64 →
    ∃ t, exec (.vstnib vd ra rb vm) s = .next t ∧
      (∀ k, k < 128 → valueAt t (ea + BitVec.ofNat 64 (k / 2)) 1 / 16 ^ (k % 2) % 16 =
        if act k then lane (s.getV vd) 4 k else valueAt s (ea + BitVec.ofNat 64 (k / 2)) 1 / 16 ^ (k % 2) % 16) ∧
      SameBytes s t (fun p => placeAt s ea ≤ p ∧ p < placeAt s ea + 64) ∧ SameWs s t s.cur none none 0

/-- A vector store to plain bytes of own TCM completes: each active lane's element stands at its address where no later
active lane meets it, and every byte outside the active elements and every register is unchanged.
`vstnib` to plain bytes of own TCM completes: the nibble of each active lane is written and every other bit of memory is
unchanged.
It rests on the choice of log entry 4. -/
def Obligations.VectorStoreResults : Prop :=
  Says.WholeElementStores ∧ Says.NibbleVectorStore

/-- `vins` and `vext` complete with one lane; `vtbl` completes with a valid image of own TCM as the core's table and raises
ILLEGAL with the index of the lowest entry of an invalid one. -/
def Sys2Proof.Says.LaneMovesAndTables : Prop :=
  ∀ (s : State) (vd : VReg) (ra rb : Reg) (dt : Fin 8) (q : Fin 2),
    let w := dtWidth dt
    let j := (s.getW rb).toNat % (512 / w)
    (∃ t, exec (.vins vd ra rb dt) s = .next t ∧ OnlyVec s t none (· = vd) 0 ∧ (∀ k, k < 512 / w →
      lane (t.getV vd) w k = if k = j then (s.getW ra).toNat % 2 ^ w else lane (s.getV vd) w k)) ∧
    (∃ t, exec (.vext vd ra rb dt) s = .next t ∧ OnlyVec s t (· = ra) none 0 ∧
      (ra ≠ 0 → t.getW ra = BitVec.ofInt 64 (laneVal dt (lane (s.getV vd) w j)))) ∧
    (∀ bs t, (s.getW ra).toNat % 4 = 0 → s.load (s.getW ra) (if q = 1 then 512 else 32) = .ok (bs, t) →
      let image := (List.range (if q = 1 then 128 else 8)).map fun k => BitVec.ofNat 32 (ofBytes ((bs.drop (4 * k)).take 4))
      (tableBad image = .none → ∃ u, exec (.vtbl ra q) s = .next u ∧
        u.me.q8 = (if q = 1 then image else s.me.q8) ∧ u.me.q4 = (if q = 1 then s.me.q4 else image)) ∧
      (∀ k, tableBad image = some k → exec (.vtbl ra q) s = .next ((settled t).sysFault 0x01 (BitVec.ofNat 64 k) 0 .none)))

/-- The mask operations and `vsel` complete: bitwise results, counts below L, and selections; nothing else changes.
`vins` and `vext` complete with one lane; `vtbl` completes with a valid image of own TCM as the core's table and raises
ILLEGAL with the index of the lowest entry of an invalid one.
It rests on the choices of log entries 4 and 10. -/
def Obligations.MaskAndMoveResults : Prop :=
  Says.MaskResults ∧ Says.LaneMovesAndTables

/-- A gather or scatter without an active lane completes: every lane of the destination of a gather is kept, or all ones where
the policy says so, and no other register changes. One whose lanes pass their checks completes
its issue with every active lane still to be performed at its owner, as the events of the interface then do.
It rests on the choice of log entry 26. -/
def Obligations.GatherScatterIssue : Prop :=
  ∀ (s : State) (vd vm : VReg) (ra : Reg) (sc : Fin 8) (mp : Fin 2) (dt : Fin 8) (d2 : Fin 2), s.me.writes = [] →
    s.dev.posted = [] → ∀ (i : Instr) (fn d : Nat),
      (i = .vgath vd ra sc vm mp dt ∧ fn = 0 ∧ d = dt) ∨ (i = .vscat vd ra sc vm dt ∧ fn = 1 ∧ d = dt) ∨
        (i = .vscadd vd ra sc vm dt ∧ fn = 2 ∧ d = dt.val + 8) ∨
        (i = .vgathw vd ra sc vm mp d2 ∧ fn = 3 ∧ d = if d2 = 0 then 2 else 6) →
      let n := if fn = 3 then 8 else dtWidth d / 8
      let ls := ((List.range (512 / dtWidth d)).filter (s.active vm)).map fun k =>
        (k, s.getW ra + BitVec.ofInt 64 ((if fn = 2 then (lane (s.getV vd) (dtWidth d) k : Int)
          else laneVal d (lane (s.getV vd) (dtWidth d) k)) * n))
      (ls = [] → ∃ t, exec i s = .next t ∧ t.cx.gather = s.cx.gather ∧ OnlyVec s t none (fun r => r = vd ∨ r = vd + 1) 0 ∧
        ∀ r, t.getV r = if mp = 1 ∧ (fn = 0 ∧ r = vd ∨ fn = 3 ∧ (r = vd ∨ r = vd + 1)) then ~~~0 else s.getV r) ∧
      (ls ≠ [] → s.gsCheck fn n ls = .ok () → ∃ t g, exec i s = .next t ∧ t.cx.gather = some g ∧ g.left = ls ∧ g.got = [] ∧
        g.vd = vd ∧ t.cx.ws = s.cx.ws ∧ SameMemory s t) ∧
      (∀ c v a k, s.gsCheck fn n ls = .error (.sys c v a k) → exec i s = .next (s.sysFault c v a k))


/-! ### Messages, tasks, actors and barriers (10, 11, 15 R292 to R294) -/

/-- `send` and `sendv` complete where the header passes its checks and their queue has room, a request taking a credit: the
message is queued with its payload. A malformed header raises ILLEGAL; a request of ctx0 that cannot enter traps SENDFULL.
It rests on the choice of log entry 12. -/
def Obligations.SendResults : Prop :=
  ∀ (s : State) (ra rb : Reg) (vb : VReg) (sc : Fin 8) (i : Instr) (pay : List Word),
    let h := s.getW ra
    let len := h.toNat / 2 ^ 36 % 16
    (i = .send ra rb sc ∧ (len = 0 ∨ rb.val + len ≤ 32) ∧
        pay = (List.range len).map fun k => s.getW (Fin.ofNat 32 (rb.val + k))) ∨
      (i = .sendv ra vb sc ∧ pay = (List.range len).map fun k => BitVec.ofNat 64 ((s.getV vb).toNat / 2 ^ (64 * k))) →
    (8 < len ∨ 5 < h.toNat / 2 ^ 40 % 16 ∨ h.toNat / 2 ^ 34 % 4 ≠ 0 ∨ (h.getLsbD 33 ∧ ¬ h.getLsbD 32) →
      exec i s = .next (s.sysFault 0x01 h 0 .none)) ∧
    (s.checkHeader h = .ok () → s.me.writes = [] → s.dev.posted = [] →
      let m : Msg := ⟨h, pay, sc.val, s.cur.core, s.cur.ctx, passedOn s, s.curWord⟩
      (h.getLsbD 50 = false → s.me.net.sendReq.length < 4 → 0 < s.me.net.credits → ∃ t, exec i s = .next t ∧
        t.me.net.sendReq = s.me.net.sendReq ++ [m] ∧
        t.me.net.credits = s.me.net.credits - 1 ∧ SameWs s t s.cur none none 0 ∧ SameMemory s t ∧ SameUnits s t ∧
        SameCores s t s.cur.core) ∧
      (h.getLsbD 50 = true → s.me.net.sendRep.length < 4 → ∃ t, exec i s = .next t ∧
        t.me.net.sendRep = s.me.net.sendRep ++ [m] ∧
        (∀ m, t.me.net.openMsg = some m → m.replied = true) ∧ SameWs s t s.cur none none 0 ∧ SameMemory s t) ∧
      (h.getLsbD 50 = false → s.cur.ctx = 0 → 4 ≤ s.me.net.sendReq.length ∨ s.me.net.credits = 0 →
        ∃ t, exec i s = .next t ∧ t.cx.ws.fa[0] = h ∧ t.cx.ws.fa[1] = s.curWord.setWidth 64 ∧
          t.me.net.sendReq = s.me.net.sendReq ∧
          (s.cx.frame = Option.none → utvecOk s.me.utvec = true → t.cx.ws.epc = s.cx.ws.pc + 4 ∧
            t.cx.ws.ecause = 0x8000000000000007 ∧ t.cx.ws.pc = s.me.utvec)))

/-- The message instructions of a handler complete: `mget` and `vmget` give landed words, `mrel` closes the window and frees
its slot, `htset` replaces a handler entry, and `htsync` completes in ctx0 and where no message latched a replaced entry.
It rests on the choice of log entry 17. -/
def Obligations.HandlerWords : Prop :=
  ∀ (s : State) (ra rb rd : Reg) (vd : VReg) (n : Fin 16) (half : Fin 2) (nets : Fin 4),
    exec (.mget rd n) s = .next (s.retire rd (s.landedWord n.val)) ∧
    (∃ t, exec (.vmget vd half) s = .next t ∧ OnlyOwn s t none (· = vd) 0 ∧
      ∀ k, k < 8 → lane (t.getV vd) 64 k = (s.landedWord (8 * half.val + k)).toNat) ∧
    (∀ m, s.cur.ctx = 0 → s.me.net.openMsg = some m → m.window = true →
      (∀ k, k < 8 → (s.landedWord k).toNat = ofBytes ((m.arrival.landed.drop (8 * k)).take 8) % 2 ^ 64) ∧
      ∃ t, exec .mrel s = .next t ∧ (t.me.net.openMsg.map fun x => x.window) = some false ∧
        t.me.net.slotsHeld (hdrVn m.arrival.hdr) + 1 = s.me.net.slotsHeld (hdrVn m.arrival.hdr) ∧
        SameWs s t s.cur none none 0) ∧
    (s.cur.ctx ≠ 0 → s.landedWord n.val = 0 ∧ ∃ t, exec .mrel s = .next t ∧ OnlyOwn s t none none 0) ∧
    (63 < (s.getW ra).toNat → exec (.htset ra rb nets) s = .next (s.sysFault 0x01 (s.getW ra) 0 .none)) ∧
    ((s.getW ra).toNat ≤ 63 → entryOk (s.getW rb) = true → ∃ t, exec (.htset ra rb nets) s = .next t ∧
      SMap.find t.me.net.handlers (s.getW ra).toNat = some ⟨s.getW rb, BitVec.ofNat 32 nets.val⟩ ∧
      (∀ k, k ≠ (s.getW ra).toNat → SMap.find t.me.net.handlers k = SMap.find s.me.net.handlers k) ∧
      SameWs s t s.cur none none 0 ∧ SameMemory s t) ∧
    (s.cur.ctx = 0 ∨ s.me.net.outstanding s.me.net.htSets = 0 → exec .htsync s = .next s.advance)

/-- The deque, spawn and actor instructions complete: `dqpush` puts the record of memory at the local end, `dqpop` takes it
from there, `dqstat` reads the counts, `spawn` sends a record as a release and waits for its acknowledgement, `actdecl`, `actarm`
and `actoff` declare, arm and disarm a slot. A record with a reserved bit set raises ILLEGAL, and a `spawn` outside the team ACCESS.
It rests on the choice of log entry 19. -/
def Obligations.TaskWords : Prop :=
  ∀ (s : State) (rd ra : Reg) (sc slot : Fin 8),
    let a := s.me.actors[slot]
    (∀ w0 w1 t, s.readTask ra = .ok (w0, w1, t) →
      (taskOk w0 = true → s.me.deque.length < 64 → (∀ r ∈ s.me.deque, r.slot = Option.none) → ∃ u, exec (.dqpush ra) s = .next u ∧
        u.me.deque = { word0 := withCore w0 s.cur.core, arg1 := w1, since := s.now } :: s.me.deque ∧
        u.me.backoff = Option.none ∧ SameWs s u s.cur none none 0) ∧
      (taskOk w0 = true → s.sameTeam s.cur.core (taskCore w0) = true → ∃ u ts, exec (.spawn ra sc) s = .next u ∧
        u.cx.spawn = some ⟨w0, w1, .flying, ts⟩ ∧ u.cx.wait.isSome ∧ u.cx.ws = s.cx.ws ∧
        u.me.writes = if sc.val < 4 then owedWrites t.me else copyWrites t.me) ∧
      (taskOk w0 = false → ∀ i, i = .dqpush ra ∨ i = .spawn ra sc →
        exec i s = .next ((settled t).sysFault 0x01 (s.getW ra) 0 .none)) ∧
      (taskOk w0 = true → s.sameTeam s.cur.core (taskCore w0) = false →
        exec (.spawn ra sc) s = .next ((settled t).sysFault 0x03 (s.getW ra) (s.getW ra) .none))) ∧
    ((s.getW ra).toNat % 16 ≠ 0 → exec (.dqpush ra) s = .next (s.sysFault 0x02 (s.getW ra) (s.getW ra) .read) ∧
      exec (.dqpop rd ra) s = .next (s.sysFault 0x02 (s.getW ra) (s.getW ra) .write)) ∧
    (∀ r d u, (s.getW ra).toNat % 16 = 0 → s.me.deque = r :: d → d.length ≤ 64 → (∀ x ∈ r :: d, x.slot = Option.none) →
      s.store (s.getW ra) (bytesOf [r.word0, r.arg1]) = .ok u →
      ∃ t, exec (.dqpop rd ra) s = .next t ∧ t.me.deque = d ∧ (rd ≠ 0 → t.getW rd = 1)) ∧
    ((s.getW ra).toNat % 16 = 0 → s.me.deque = [] → exec (.dqpop rd ra) s = .next (s.retire rd 0)) ∧
    (∃ v, exec (.dqstat rd) s = .next (s.retire rd v) ∧ (s.me.deque.length < 2 ^ 16 → s.me.tspill < 2 ^ 19 →
      v.toNat = s.me.deque.length + (64 + s.me.tspill / 16) * 2 ^ 16)) ∧
    (actorDeclOk (s.getW ra) = true → a.armed = false → a.firing = false → ∃ t, exec (.actdecl ra slot) s = .next t ∧
      t.me.actors[slot] = { decl := s.getW ra } ∧ SameWs s t s.cur none none 0 ∧ SameMemory s t) ∧
    (actorAval a.decl = true → a.armed = false → a.firing = false → s.actorUnbound a.decl = Option.none →
      s.actorPairs (actorTerms a.decl) = .ok () → ∃ t, exec (.actarm slot) s = .next t ∧
        t.me.actors[slot] = ({ a with
          armed := true, off := false, byCtx := s.cur.ctx
          cbs := (actorTerms a.decl).map fun x => (x.1, s.getCb x.1) } : Actor) ∧ SameWs s t s.cur none none 0) ∧
    (∃ t, exec (.actoff slot) s = .next t ∧ SameWs s t s.cur none none 0 ∧ SameMemory s t ∧
      t.me.actors[slot] = if a.firing then { a with off := true } else { a with armed := false })

/-- The barrier instructions complete: `bar.arr` and `bar.arrw` count the core once in the generation and give it to rd, the
last arrival ends the generation, `bar.wait` goes on where the generation is not the token, and `obar.arr` and `obar.wait` do
the same on a barrier object of own TCM.
It rests on the choice of log entry 20. -/
def Obligations.BarrierWords : Prop :=
  ∀ (s : State) (rd ra rb : Reg) (level : Fin 32) (sc : Fin 8) (tm : Team),
    let id := (s.getW ra).toNat
    let g := s.cur.core
    let key := barKey level.val g id
    let b := s.barrier g key
    (id ≤ 15 → s.teamOf g = some tm → g ∉ b.arrived → (s.me.barKnown key).1 = b.gen → b.gen < 65536 → s.me.writes = [] →
      s.dev.posted = [] →
      let tags := (b.tags ++ passedOn s).dedup
      let arrived : Barrier := if s.barEnds g level.val (b.arrived ++ [g]) then
          { gen := (b.gen + 1) % 65536, done := (b.done ++ tags).dedup }
        else { b with arrived := b.arrived ++ [g], tags }
      (∃ t, exec (.barArr rd ra level) s = .next t ∧ (rd ≠ 0 → t.getW rd = BitVec.ofNat 64 b.gen) ∧ SameMemory s t ∧
        t.barrier g key = arrived) ∧
      (s.me.waitlim ≠ 0 → ∃ t, exec (.barArrw rd ra level) s = .next t ∧ t.cx.wait.isSome ∧
        (rd ≠ 0 → t.getW rd = BitVec.ofNat 64 b.gen) ∧ t.barrier g key = arrived)) ∧
    (id ≤ 15 → (s.getW rb).toNat ≤ 65535 → (s.me.barKnown key).1 ≠ (s.getW rb).toNat →
      ∃ t, exec (.barWait ra rb level) s = .next t ∧ SameWs s t s.cur none none 0 ∧ SameMemory s t ∧
        (s.cx.frame = Option.none → t.cx.ws.pc = s.cx.ws.pc + 4) ∧
        t.cx.stagger = (if s.now < (s.me.barKnown key).2 + s.barDelay g then some ((s.me.barKnown key).2 + s.barDelay g)
          else Option.none)) ∧
    (15 < id → exec (.barArr rd ra level) s = .next (s.sysFault 0x01 (s.getW ra) 0 .none) ∧
      exec (.barArrw rd ra level) s = .next (s.sysFault 0x01 (s.getW ra) 0 .none) ∧
      exec (.barWait ra rb level) s = .next (s.sysFault 0x01 (s.getW ra) 0 .none)) ∧
    (∀ off, s.Inv → s.getW ra = BitVec.ofNat 64 (0x8000000000000000 + off) → off % 16 = 0 → PlainTcm s off 16 →
      s.me.writes = [] → s.dev.posted = [] →
      let o := tcmValue s off 16
      let n := (s.getW rb).toNat
      let ph := o / 2 ^ 32 % 16
      let arr := o / 2 ^ 16 % 2 ^ 16 + n
      (0 < n → n < 256 → o / 2 ^ 37 % 2 ^ 27 = 0 → arr ≤ o % 2 ^ 16 → ∃ t, exec (.obarArr rd ra rb sc) s = .next t ∧
        (rd ≠ 0 → t.getW rd = BitVec.ofNat 64 ph) ∧ tcmValue t off 16 % 2 ^ 64 = o % 2 ^ 16 + o / 2 ^ 36 % 2 * 2 ^ 36 +
          (if arr = o % 2 ^ 16 then (ph + 1) % 16 * 2 ^ 32 else arr * 2 ^ 16 + ph * 2 ^ 32)) ∧
      (n < 16 → n ≠ ph → exec (.obarWait ra rb sc) s = .next s.advance))


/-! ### Rings, copies, lifetime regions, mask versions, the exchange units and the performance unit (12, 17, 18, 20, 21) -/

/-- `rcfg` completes on a quiet cluster with nothing staged: it sets cut and beat, and another cut makes every entry and
template invalid with status 0 (12 R245). -/
def Sys2Proof.Says.RcfgResult : Prop :=
  ∀ (s : State) (ra : Reg),
    let a := s.getW ra
    let c := s.cluster s.myClu
    a.toNat % 4 < 3 → 32 ≤ a.toNat / 256 → a.toNat < 2 ^ 16 → a.toNat / 4 % 64 = 0 → c.quiet = true → c.staging = [] →
      ∃ t, exec (.rcfg ra) s = .next t ∧ (t.cluster s.myClu).cut = a.toNat % 4 ∧ (t.cluster s.myClu).beat = a.toNat / 256 ∧
        (a.toNat % 4 ≠ c.cut → (t.cluster s.myClu).templates = [] ∧ ∀ ring st trk ix,
          entValid ((t.cluster s.myClu).entry ring st trk ix) = false ∧ entMet ((t.cluster s.myClu).entry ring st trk ix) = false ∧
          entMissed ((t.cluster s.myClu).entry ring st trk ix) = false ∧ entMcnt ((t.cluster s.myClu).entry ring st trk ix) = 0) ∧
        SameWs s t s.cur none none 0 ∧ SameMemory s t

/-- `rmset` completes where its image passes the checks: the entry is the image with its status kept or cleared, or the template
is the image, valid. From plain bytes of own TCM it completes on the image that memory holds, and an image that breaks a rule
raises ILLEGAL (12 R247). -/
def Sys2Proof.Says.RmsetResult : Prop :=
  ∀ (s : State) (ra rb : Reg) (x : Loct),
    let a := s.getW ra
    let c := s.cluster s.myClu
    let ring := (s.ringOf s.cur.core).1
    locator (s.getW rb) s.myLen = .ok x →
    (x.tmpl = false → SMap.sorted c.entries = true →
      (∀ bs u, a.toNat % 32 = 0 → s.load a 32 = .ok (bs, u) → entImageOk (BitVec.ofNat 256 (ofBytes bs)) = true →
        ∃ t, exec (.rmset ra rb) s = .next t ∧ (u.cluster s.myClu = c → (t.cluster s.myClu).entry ring x.st x.trk x.ix =
          entWrite (c.entry ring x.st x.trk x.ix) (BitVec.ofNat 256 (ofBytes bs)))) ∧
      ∀ off, a = BitVec.ofNat 64 (0x8000000000000000 + off) → off % 32 = 0 → PlainTcm s off 32 →
        let e := BitVec.ofNat 256 (tcmValue s off 32)
        (entImageOk e = true → ∃ t, exec (.rmset ra rb) s = .next t ∧
          (t.cluster s.myClu).entry ring x.st x.trk x.ix = entWrite (c.entry ring x.st x.trk x.ix) e ∧
          SameMemory s t ∧ SameWs s t s.cur none none 0) ∧
        (entImageOk e = false → exec (.rmset ra rb) s = .next ((settled s).sysFault 0x01 a 0 .none))) ∧
    (x.tmpl = true → ∀ off, a = BitVec.ofNat 64 (0x8000000000000000 + off) → off % 64 = 0 → PlainTcm s off 64 →
      let v := BitVec.ofNat 512 (tcmValue s off 64)
      (tmplImageOk v = true → ∃ t, exec (.rmset ra rb) s = .next t ∧
        (t.cluster s.myClu).template ring x.st x.ix = some v ∧ SameMemory s t ∧ SameWs s t s.cur none none 0) ∧
      (tmplImageOk v = false → exec (.rmset ra rb) s = .next ((settled s).sysFault 0x01 a 0 .none)))

/-- `rmclr` completes: its entries are invalid with status 0, or its template is invalid (12 R247). -/
def Sys2Proof.Says.RmclrResult : Prop :=
  ∀ (s : State) (ra rb : Reg) (x : Loct),
    let n := (s.getW ra).toNat
    let c := s.cluster s.myClu
    let ring := (s.ringOf s.cur.core).1
    locator (s.getW rb) s.myLen = .ok x →
    (x.tmpl = false → 0 < n → x.ix + n ≤ 512 → ∃ t, exec (.rmclr ra rb) s = .next t ∧
      SameWs s t s.cur none none 0 ∧ SameMemory s t ∧ (SMap.sorted c.entries = true → ∀ k, x.ix ≤ k → k < x.ix + n →
        entValid ((t.cluster s.myClu).entry ring x.st x.trk k) = false ∧
        entMcnt ((t.cluster s.myClu).entry ring x.st x.trk k) = 0)) ∧
    (x.tmpl = true → n = 1 → ∃ t, exec (.rmclr ra rb) s = .next t ∧ SameWs s t s.cur none none 0 ∧ SameMemory s t ∧
      (SMap.sorted c.templates = true → (t.cluster s.myClu).template ring x.st x.ix = Option.none))

/-- `rphase` on an IDLE track opens the phase that its operands name, and every entry of the track has MET and MISSED 0 (12
R248). -/
def Sys2Proof.Says.RphaseResult : Prop :=
  ∀ (s : State) (ra rb : Reg) (trk : Fin 2) (sc : Fin 8),
    let a := s.getW ra
    let b := s.getW rb
    let ring := (s.ringOf s.cur.core).1
    a.toNat / 2 ^ 16 % 256 ≠ 0 → a.toNat / 2 ^ 25 % 128 = 0 → b.toNat % 8 = 0 → s.recordOk b 16 = .ok () →
    ((s.cluster s.myClu).phase ring trk.val).st = .idle →
    ∃ t, exec (.rphase ra rb trk sc) s = .next t ∧
      (∀ q, q = (t.cluster s.myClu).phase ring trk.val → q.st = .running ∧ q.num.toNat = a.toNat % 2 ^ 16 ∧
        q.nb = a.toNat / 2 ^ 16 % 256 ∧ q.recov = a.getLsbD 24 ∧ q.expect = a.toNat / 2 ^ 32 ∧ q.c = 0 ∧ q.beat = 0 ∧ q.sc = sc.val ∧
        q.recAddr = b ∧ q.core = s.cur.core ∧ q.ctx = s.cur.ctx) ∧
      (∀ st ix, st < s.myLen → ix < 512 → entMet ((t.cluster s.myClu).entry ring st trk.val ix) = false ∧
        entMissed ((t.cluster s.myClu).entry ring st trk.val ix) = false) ∧
      SameWs s t s.cur none none 0 ∧ SameMemory s t

/-- `rcnt` reads EXPECT and C, the state and number of the phase with its count of MISSED entries, or an entry's status (12 R249).
`rdrain` of an IDLE track gives the last record's word 0 (12 R251). -/
def Sys2Proof.Says.RcntRdrainResults : Prop :=
  ∀ (s : State) (rd ra : Reg) (trk : Fin 2),
    let c := s.cluster s.myClu
    let ring := (s.ringOf s.cur.core).1
    let ph := c.phase ring trk.val
    (∃ v, exec (.rcnt rd ra 0 trk) s = .next (s.retire rd v) ∧ (ph.expect < 2 ^ 32 → v.toNat = ph.expect * 2 ^ 32 + ph.c % 2 ^ 32)) ∧
    (∃ v, exec (.rcnt rd ra 1 trk) s = .next (s.retire rd v) ∧ ((c.missedEntries ring trk.val).length < 2 ^ 32 → v.toNat =
      (match ph.st with | .idle => 0 | .running => 1 | .draining => 2 | .recover => 3) * 2 ^ 48 + ph.num.toNat * 2 ^ 32 +
        (c.missedEntries ring trk.val).length)) ∧
    (∀ (sel : Fin 4) (x : Loct), 2 ≤ sel.val → locator (s.getW ra) s.myLen = .ok x → x.tmpl = false →
      exec (.rcnt rd ra sel trk) s =
        .next (s.retire rd (BitVec.ofNat 64 ((c.entry ring x.st x.trk x.ix).toNat / 2 ^ 128 % 2 ^ 32)))) ∧
    (ph.st = .idle → ∃ t, exec (.rdrain rd trk) s = .next t ∧ SameWs s t s.cur (· = rd) none 0 ∧
      (rd ≠ 0 → t.getW rd = ph.lastRec) ∧
      (s.me.writes = [] → s.me.sees = [] → s.dev.posted = [] → s.tags = [] → s.soft = [] →
        t = { s.retire rd ph.lastRec with reached := t.reached }))

/-- `rfetch` answers 2 where the track is not recovering with RECOV 1, 1 where the entry is not MISSED, else 0, and the entry's
recovery starts: MET, not MISSED, one more MCNT (12 R250). -/
def Sys2Proof.Says.RfetchResult : Prop :=
  ∀ (s : State) (rd rb : Reg) (x : Loct),
    let c := s.cluster s.myClu
    let ring := (s.ringOf s.cur.core).1
    let ph := c.phase ring x.trk
    let e := c.entry ring x.st x.trk x.ix
    locator (s.getW rb) s.myLen = .ok x → x.tmpl = false →
    (ph.st ≠ .recover ∨ ph.recov = false ∨ ph.faulted = true → exec (.rfetch rd rb) s = .next (s.retire rd 2)) ∧
    (ph.st = .recover → ph.recov = true → ph.faulted = false →
      (entMissed e = false → exec (.rfetch rd rb) s = .next (s.retire rd 1)) ∧
      (entMissed e = true → ∃ t, exec (.rfetch rd rb) s = .next t ∧ (rd ≠ 0 → t.getW rd = 0) ∧
        SameWs s t s.cur (· = rd) none 0 ∧ SameMemory s t ∧
        (let f := (t.cluster s.myClu).entry ring x.st x.trk x.ix
        entMissed f = false ∧ entMet f = true ∧ entMcnt f = (entMcnt e + 1) % 2 ^ 16) ∧
        ((t.cluster s.myClu).phase ring x.trk).fetchQ.length = ph.fetchQ.length +
          ph.missed.countP (fun m => m.station = x.st ∧ m.entryIx = x.ix)))

/-- `rinj` answers 2 where the phase that the tile names is not IDLE, 1 where its staging place is taken, 3 where it is
longer than a beat, else 0, and the tile stands staged with its data, SRC and DST (12 R246). -/
def Sys2Proof.Says.RinjResult : Prop :=
  ∀ (s : State) (rd ra : Reg),
    let a := s.getW ra
    let c := s.cluster s.myClu
    let ring := (s.ringOf s.cur.core).1
    ∀ bs u h0 h1 src dst, a.toNat % 32 = 0 → s.inOwnTcm s.cur.core a 32 = true → s.load a 32 = .ok (bs, u) →
      wordsOf bs = [h0, h1, src, dst] → injectOk h0 h1 src dst = true →
      u.inHome s.cur.core src (tileLen h1 * 64) = true →
      (tileAcc h1 = true → u.inHome s.cur.core dst (tileLen h1 * 64) = true) → u.cluster s.myClu = c →
      let ph := c.phase ring (tileTrk h0)
      let key := stageKey (quadOfCore s.cur.core % 16) h0
      (ph.st ≠ .idle → ph.num.toNat = tilePhase h0 → exec (.rinj rd ra) s = .next (u.retire rd 2)) ∧
      (ph.st = .idle ∨ ph.num.toNat ≠ tilePhase h0 →
        ((SMap.find c.staging key).isSome → exec (.rinj rd ra) s = .next (u.retire rd 1)) ∧
        (SMap.find c.staging key = Option.none → c.beat < tileLen h1 → exec (.rinj rd ra) s = .next (u.retire rd 3)) ∧
        ∀ rs es d v, SMap.find c.staging key = Option.none → tileLen h1 ≤ c.beat →
          u.resolve (u.whoAgent s.cur.core) .read src.toNat (tileLen h1 * 64) = .ok (rs, es) →
          (u.performOver s.cur.core (placesOf rs)).agentRead (u.whoAgent s.cur.core) src (tileLen h1 * 64) = .ok (d, v) →
          ∃ t x, exec (.rinj rd ra) s = .next t ∧ (rd ≠ 0 → t.getW rd = 0) ∧
            SMap.find (t.cluster s.myClu).staging key = some x ∧ x.data = d ∧ x.src = src ∧ x.dst = dst)

/-- The ring instructions complete: `rcfg` sets cut and beat of a quiet cluster, `rmset` writes an entry or a template whole,
`rmclr` makes entries or a template invalid with status 0, `rphase` opens a phase on an IDLE track, `rcnt` reads its counts,
`rfetch` answers 2, 1 or 0, `rdrain` gives the last record's word 0 of an IDLE track, and `rinj` stages a tile or answers why it
cannot.
It rests on the choices of log entries 22 and 40. -/
def Obligations.RingWords : Prop :=
  Says.RcfgResult ∧ Says.RmsetResult ∧ Says.RmclrResult ∧ Says.RphaseResult ∧ Says.RcntRdrainResults ∧ Says.RfetchResult ∧
    Says.RinjResult

/-- The copy instructions complete: `sprd` of CPY_LAUNCH queues the copy of the shadow set with the next id where fewer than two
copies are queued and waits where two are, `cwait` gives the status of a copy that is not in flight and waits for one that is, `cstat` reads
the engine and `ccancel` ends a queued or running copy with STATUS 3 or answers 0.
It rests on the choice of log entry 23. -/
def Obligations.CopyWords : Prop :=
  ∀ (s : State) (rd ra : Reg),
    let e := s.me.copy
    let x : BitVec 16 := (s.getW ra).setWidth 16
    (∀ bs u, e.shadow[7].toNat % 32 = 0 → s.inOwnTcm s.cur.core e.shadow[7] 32 = true → s.load e.shadow[7] 32 = .ok (bs, u) →
      u.launchReason e.shadow.toList (wordsOf bs) = Option.none →
      (blkRec (wordsOf bs) = 0 ∨ u.recordOk (blkRec (wordsOf bs)) 8 = .ok ()) →
      (blkCnt (wordsOf bs) = 0 ∨ u.recordOk (blkCnt (wordsOf bs)) 4 .amo = .ok ()) → u.me.copy = e → u.cur = s.cur →
      (e.queue.length < 2 → ∃ t ts, exec (.cpyLaunch rd) s = .next t ∧
        (rd ≠ 0 → t.getW rd = e.nextId.setWidth 64) ∧
        t.me.copy.queue = e.queue ++ [⟨e.shadow.toList, wordsOf bs, e.nextId, s.cur.ctx, ts⟩] ∧
        t.me.copy.nextId = (if e.nextId = 0xFFFF then 1 else e.nextId + 1)) ∧
      (u.me.waitlim ≠ 0 → 2 ≤ e.queue.length → ∃ t, exec (.cpyLaunch rd) s = .next t ∧ Waits u t)) ∧
    (∀ bs u r, e.shadow[7].toNat % 32 = 0 → s.inOwnTcm s.cur.core e.shadow[7] 32 = true → s.load e.shadow[7] 32 = .ok (bs, u) →
      u.launchReason e.shadow.toList (wordsOf bs) = some r →
      exec (.cpyLaunch rd) s = .next ((settled u).sysFault 0x01 (BitVec.ofNat 64 r) 0 .none)) ∧
    (65535 < (s.getW ra).toNat → exec (.cwait rd ra) s = .next (s.sysFault 0x01 (s.getW ra) 0 .none) ∧
      exec (.ccancel rd ra) s = .next (s.sysFault 0x01 (s.getW ra) 0 .none)) ∧
    ((s.getW ra).toNat ≤ 65535 → e.inFlight x = false → ∃ t, exec (.cwait rd ra) s = .next t ∧
      SameWs s t s.cur (· = rd) none 0 ∧
      (s.me.writes = [] → s.me.sees = [] → s.dev.posted = [] → s.tags = [] → s.soft = [] →
        OnlyOwn s { t with reached := s.reached } (· = rd) none 0) ∧
      (rd ≠ 0 → (t.getW rd).toNat = match e.history.find? (·.xid == x) with
        | some h => h.status.val + h.cause.toNat * 256
        | Option.none => 0)) ∧
    ((s.getW ra).toNat ≤ 65535 → e.inFlight x = true → s.me.waitlim ≠ 0 → ∃ t, exec (.cwait rd ra) s = .next t ∧ Waits s t) ∧
    (∃ t, exec (.cstat rd) s = .next t ∧ OnlyOwn s t (· = rd) none 0 ∧ (rd ≠ 0 → e.queue.length ≤ 2 →
      (t.getW rd).toNat % 4 = (if e.running.isSome then 1 else 0) ∧ (t.getW rd).toNat / 4 % 4 = e.queue.length ∧
      (t.getW rd).toNat / 2 ^ 16 % 2 ^ 16 = (match e.running with
        | some c => c.job.xid.toNat
        | Option.none => 0) ∧
      (t.getW rd).toNat / 2 ^ 32 = e.nextId.toNat)) ∧
    ((s.getW ra).toNat ≤ 65535 → (∀ j ∈ e.queue, j.xid ≠ x) → (∀ c, e.running = some c → c.job.xid ≠ x) →
      exec (.ccancel rd ra) s = .next (s.retire rd 0)) ∧
    (∀ j, (s.getW ra).toNat ≤ 65535 → e.queue.find? (·.xid == x) = some j → ∃ t, exec (.ccancel rd ra) s = .next t ∧
      (rd ≠ 0 → t.getW rd = 1) ∧ (∀ k ∈ t.me.copy.queue, k.xid ≠ x) ∧ t.me.copy.ending = e.ending ++ [{ job := j }]) ∧
    (∀ c, (s.getW ra).toNat ≤ 65535 → (∀ j ∈ e.queue, j.xid ≠ x) → e.running = some c → c.job.xid = x →
      ∃ t d, exec (.ccancel rd ra) s = .next t ∧ (rd ≠ 0 → t.getW rd = 1) ∧ t.me.copy.running = some d ∧ d.job = c.job ∧
        d.held = false ∧ d.status = (if c.status = some 2 ∨ c.stage ≠ 0 then c.status else some 3))

/-- The lifetime instructions complete: `ltdecl` makes the lowest free region of the die live and gives its handle, `ltuse`
counts uses down, its last use starts the drop, `ltdrop` drops or frees a region or waits for its drop, `ltstat` reads one, and
a region that is not live for the team answers all ones or nothing.
It rests on the choice of log entry 25. -/
def Obligations.LifetimeWords : Prop :=
  ∀ (s : State) (rd ra rb : Reg),
    let a := s.getW ra
    let die := s.cur.core / 2048
    let d := a.toNat / 256
    let i := a.toNat % 256
    (∀ bs u b n w r k, a.toNat % 32 = 0 → s.inOwnTcm s.cur.core a 32 = true → s.load a 32 = .ok (bs, u) →
      wordsOf bs = [b, n, w, r] → b.toNat % 192 = 0 → n.toNat % 192 = 0 → 192 ≤ n.toNat → b.toNat + n.toNat ≤ 2 ^ 48 →
      1 ≤ w.toNat → w.toNat ≤ 65535 → r = 0 → (s.die die).freeRegion = some k →
      ∃ t, exec (.ltdecl rd ra) s = .next t ∧ (rd ≠ 0 → t.getW rd = BitVec.ofNat 64 (die * 256 + k)) ∧
        SMap.find (t.die die).regions k =
          some { base := b, size := n.toNat, uses := w.toNat, tid := u.tidOf s.cur.core, core := s.cur.core }) ∧
    (∀ bs u b n w r, a.toNat % 32 = 0 → s.inOwnTcm s.cur.core a 32 = true → s.load a 32 = .ok (bs, u) →
      wordsOf bs = [b, n, w, r] → b.toNat % 192 = 0 → n.toNat % 192 = 0 → 192 ≤ n.toNat → b.toNat + n.toNat ≤ 2 ^ 48 →
      1 ≤ w.toNat → w.toNat ≤ 65535 → r = 0 → (s.die die).freeRegion = Option.none →
      exec (.ltdecl rd ra) s = .next (u.retire rd 0xFFFFFFFFFFFFFFFF)) ∧
    (1024 ≤ a.toNat → exec (.ltstat rd ra) s = .next (s.sysFault 0x01 a 0 .none) ∧
      exec (.ltuse rd ra rb) s = .next (s.sysFault 0x01 a 0 .none) ∧ ∀ mode, exec (.ltdrop ra mode) s = .next (s.sysFault 0x01 a 0 .none)) ∧
    (a.toNat < 1024 → s.me.writes = [] →
      (∀ r, s.liveRegion d i = some r → 0 < (s.getW rb).toNat → (s.getW rb).toNat < 65536 →
        ((s.getW rb).toNat < r.uses → r.uses < 2 ^ 64 → ∃ t, exec (.ltuse rd ra rb) s = .next t ∧
          (rd ≠ 0 → (t.getW rd).toNat = r.uses - (s.getW rb).toNat) ∧
          SMap.find (t.die d).regions i = some { r with uses := r.uses - (s.getW rb).toNat }) ∧
        (r.uses ≤ (s.getW rb).toNat → ∃ t, exec (.ltuse rd ra rb) s = .next t ∧ t.cx.wait.isSome ∧
          SMap.find (t.die d).regions i = some { r with uses := 0, dropping := true, stash := Option.none })) ∧
      (s.liveRegion d i = Option.none → 0 < (s.getW rb).toNat → (s.getW rb).toNat < 65536 →
        exec (.ltuse rd ra rb) s = .next (s.retire rd 0xFFFFFFFFFFFFFFFF)) ∧
      (∀ r, s.liveRegion d i = some r →
        (∃ t, exec (.ltdrop ra 0) s = .next t ∧ t.cx.wait.isSome ∧
          SMap.find (t.die d).regions i = some { r with uses := 0, dropping := true, stash := Option.none }) ∧
        (SMap.sorted (s.die d).regions = true → ∃ t, exec (.ltdrop ra 1) s = .next t ∧
          SMap.find (t.die d).regions i = Option.none ∧ SameWs s t s.cur none none 0 ∧ SameMemory s t)) ∧
      (∀ mode, SMap.find (s.die d).regions i = Option.none → exec (.ltdrop ra mode) s = .next s.advance) ∧
      (∀ mode r, SMap.find (s.die d).regions i = some r →
        (r.dropping = false → r.tid ≠ s.tidOf s.cur.core → exec (.ltdrop ra mode) s = .next s.advance) ∧
        (r.dropping = true → ∃ t, exec (.ltdrop ra mode) s = .next t ∧ Waits s t)) ∧
      exec (.ltstat rd ra) s = .next (s.retire rd (match SMap.find (s.die d).regions i with
        | some r => if r.tid = s.tidOf s.cur.core then BitVec.ofNat 64 (r.uses + (if r.dropping then 2 else 1) * 65536) else 0
        | Option.none => 0)))

/-- The `sp` instructions complete where their record passes its checks: with the version block of 18 R325 read in one access,
`mver.open` opens version NEWEST + 1, `mver.tag` takes a hold, `mver.done` gives one up, `mver.stat` and `prg.stat` read a word,
`prg.go` queues a job with the next number, `wshad` gives an address or all ones, `stash` gives the buffer of a micro-batch that
holds one or takes the next free one, whose region is then live, and `unstash` finds it. -/
def Sys2Proof.Says.SpOnCheckedRecord : Prop :=
  ∀ (s : State) (rd ra rb : Reg) (sel : Fin 8) (op blk : Fin 4) (ret : Fin 2) (l : Word),
    (s.layerAddr ra .amo = .ok l → s.me.writes = [] →
      (∀ b rs t, s.readBlock l = .ok (b, rs, t) → b.ok = true →
        let v := b.newest
        (b.retp = false → v ≠ 0xFFFE → b.nlive < 4 → b.shad = v + 1 →
          ∃ u, exec (.mverOpen rd ra) s = .next u ∧ (rd ≠ 0 → u.getW rd = BitVec.ofNat 64 (v + 1))) ∧
        (b.retp = false → v ≠ 0xFFFE → b.nlive < 4 → b.shad ≠ v + 1 →
          exec (.mverOpen rd ra) s = .next (t.retire rd 0xFFFFFFFFFFFFFFFF)) ∧
        (b.retp = false → b.nlive = 4 → v ≠ 0xFFFE →
          exec (.mverOpen rd ra) s = .next ((settled t).userTrap 0x0B (BitVec.ofNat 64 v) t.ia)) ∧
        (vtRefs (b.vt v) ≠ 0xFFFF → ∃ u, exec (.mverTag rd ra) s = .next u ∧ u.cx.mver.toNat = v ∧
          (rd ≠ 0 → u.getW rd = BitVec.ofNat 64 v)) ∧
        (vtRefs (b.vt v) = 0xFFFF → exec (.mverTag rd ra) s = .next ((settled t).sysFault 0x01 l 0 .none))) ∧
      (∀ b rs t, s.readBlock l = .ok (b, rs, t) → (s.getW rb).toNat ≤ 65535 →
        let x := b.vt (s.getW rb).toNat
        (vtVer x = (s.getW rb).toNat → (vtState x = 1 ∨ vtState x = 2) → vtRefs x ≠ 0 →
          ∃ u, exec (.mverDone ra rb) s = .next u ∧ SameWs t u s.cur none none 0) ∧
        (vtVer x ≠ (s.getW rb).toNat → exec (.mverDone ra rb) s = .next ((settled t).sysFault 0x01 (s.getW rb) 0 .none))) ∧
      (∀ bs rs t, let d := s.layerDie s.cur.core l
        s.recordOk l 256 .amo = .ok () → d.2.prgRoom d.1 = true →
        d.2.atomRead (l + 0xE0) 8 = .ok (bs, rs, t) → ∃ u j, exec (.prgGo rd ra op) s = .next u ∧
          j.op = op.val ∧ j.seq = (ofBytes bs % 2 ^ 16 + 1) % 2 ^ 16 ∧ (rd ≠ 0 → u.getW rd = BitVec.ofNat 64 j.seq) ∧
          (u.die d.1).prgQueue.getLast? = some j) ∧
      (∀ x clu rs t, s.readStash l = .ok (x, clu, rs, t) → x.ok = false →
        exec (.stash rd ra) s = .next ((settled t).sysFault 0x01 l 0 .none)) ∧
      (∀ x clu rs t, s.readStash l = .ok (x, some clu, rs, t) → x.ok = true → ∀ k, x.find s.cx.mbatch = some k →
        exec (.stash rd ra) s = .next (t.retire rd (x.buffer k))) ∧
      (∀ x clu rs t k i, s.readStash l = .ok (x, some clu, rs, t) → x.ok = true → x.find s.cx.mbatch = Option.none →
        (x.order.find? fun b => !x.taken b) = some k → (s.die (clu / 32)).freeRegion = some i →
        ∃ u, exec (.stash rd ra) s = .next u ∧ (rd ≠ 0 → u.getW rd = x.buffer k) ∧
          ((SMap.find (u.die (clu / 32)).regions i).map fun r => (r.base, r.size, r.uses)) =
            some (x.buffer k, x.size, x.uses)) ∧
      (∀ x clu rs t, s.readStash l = .ok (x, clu, rs, t) → x.ok = true → (s.getW rb).toNat ≤ 255 →
        (x.find ((s.getW rb).setWidth 8) = Option.none → exec (.unstash rd ra rb ret) s = .next (t.retire rd 0)) ∧
        ∀ k, x.find ((s.getW rb).setWidth 8) = some k → exec (.unstash rd ra rb 0) s = .next (t.retire rd (x.buffer k)))) ∧
    (s.layerAddr ra .read = .ok l →
      (∀ bs t, s.load (l + 0x70 + 8 * BitVec.ofNat 64 sel.val) 8 = .ok (bs, t) →
        exec (.mverStat rd ra sel) s = .next (t.retire rd (zbytes bs))) ∧
      (∀ bs t, s.load (l + 0xE0) 8 = .ok (bs, t) → exec (.prgStat rd ra) s = .next (t.retire rd (zbytes bs))) ∧
      (∀ x y t, (s.getW rb).toNat < 2 ^ 32 → (s.getW rb).toNat / 2 ^ 14 % 4 = 0 →
        s.loadParts [(l, 24), (l + 0x70, 40)] = .ok ([x, y], t) →
        let t := (t.countAt l).countAt (l + 0x70)
        (s.cluOf s.cur.core (lr (wordsOf x) 0 6 0) = Option.none →
          exec (.wshad rd ra rb blk) s = .next (t.retire rd 0xFFFFFFFFFFFFFFFF)) ∧
        ∀ clu, s.cluOf s.cur.core (lr (wordsOf x) 0 6 0) = some clu → (s.getW rb).toNat / 2 ^ 10 % 16 < (s.cluster clu).ringLen →
          let e := (s.cluster clu).entry (lr (wordsOf x) 0 9 8) ((s.getW rb).toNat / 2 ^ 10 % 16) ((s.getW rb).toNat / 2 ^ 9 % 2)
            ((s.getW rb).toNat % 2 ^ 9)
          (entValid e = false → exec (.wshad rd ra rb blk) s = .next (t.retire rd 0xFFFFFFFFFFFFFFFF)) ∧
          (entValid e = true → entBorn e ≤ (s.getW rb).toNat / 2 ^ 16 → (s.getW rb).toNat / 2 ^ 16 < entDied e →
            entSv e ((s.getW rb).toNat / 2 ^ 16) = true → (VBlock.ofBytes y).shad = (s.getW rb).toNat / 2 ^ 16 →
            exec (.wshad rd ra rb blk) s = .next (t.retire rd (slotBlock (lr (wordsOf x) 8 63 6) (lr (wordsOf x) 0x10 14 0)
              (lr (wordsOf x) 0 39 35) (lr (wordsOf x) 0 44 40) ((s.getW rb).toNat / 2 ^ 10 % 16)
              (entSlot e ((s.getW rb).toNat / 2 ^ 16)) blk.val)))))

/-- `mver.open` on a record in the own Pond completes: NEWEST and the fresh version, the old one closing, SHADV none, NLIVE one more,
and every closing version without holders retiring, with its job queued (18 R327, R330). -/
def Sys2Proof.Says.MverOpenBlock : Prop :=
  ∀ (s : State) (rd ra : Reg) (off : Nat), s.Inv → PondRecord s (s.getW ra) off →
    let h := recWord s off 0x70
    let vt := fun n => recWord s off (0x78 + 8 * n)
    let v := newestOf h
    BlockGood h vt → retpOf h = 0 → v ≠ 0xFFFE → nliveOf h < 4 → shadvOf h = v + 1 →
    (∀ n, n < 4 → stateOf (vt n) = 2 → verOf (vt n) % 4 = n) →
    let ver := fun n => if n = (v + 1) % 4 then v + 1 else verOf (vt n)
    let refs := fun n => if n = (v + 1) % 4 then 0 else refsOf (vt n)
    let st := fun n => if n = (v + 1) % 4 then 1 else if n = v % 4 then 2 else stateOf (vt n)
    ∃ t, exec (.mverOpen rd ra) s = .next t ∧ (rd ≠ 0 → t.getW rd = BitVec.ofNat 64 (v + 1)) ∧
      (let h' := recWord t off 0x70
      newestOf h' = v + 1 ∧ shadvOf h' = 0xFFFF ∧ nliveOf h' = nliveOf h + 1 ∧
        (retpOf h' = 1 ↔ ∃ n, n < 4 ∧ st n = 2 ∧ refs n = 0)) ∧
      (∀ n, n < 4 → let x := recWord t off (0x78 + 8 * n)
        verOf x = ver n ∧ refsOf x = refs n ∧ stateOf x = (if st n = 2 ∧ refs n = 0 then 3 else st n)) ∧
      (∀ n, n < 4 → st n = 2 → refs n = 0 → ∃ d, ({ l := s.getW ra, version := ver n, core := s.cur.core } : RetireJob) ∈ (t.die d).retire) ∧
      SameButRecord s t off 0x70 40 ∧ SameWs s t s.cur (· = rd) none 0

/-- `mver.tag` on a record in the own Pond completes: one more hold on the newest version, which MVER and rd receive; nothing
else of the block changes. A malformed block, and a version with 65,535 holds, raise ILLEGAL (18 R328). -/
def Sys2Proof.Says.MverTagBlock : Prop :=
  ∀ (s : State) (rd ra : Reg) (off : Nat), s.Inv → PondRecord s (s.getW ra) off →
    let h := recWord s off 0x70
    let vt := fun n => recWord s off (0x78 + 8 * n)
    let v := newestOf h
    (BlockGood h vt → refsOf (vt (v % 4)) ≠ 0xFFFF → ∃ t, exec (.mverTag rd ra) s = .next t ∧
      t.cx.mver.toNat = v ∧ (rd ≠ 0 → t.getW rd = BitVec.ofNat 64 v) ∧
      (let x := recWord t off (0x78 + 8 * (v % 4))
      verOf x = v ∧ refsOf x = refsOf (vt (v % 4)) + 1 ∧ stateOf x = 1) ∧
      SameButRecord s t off (0x78 + 8 * (v % 4)) 8 ∧ SameWs s t s.cur (· = rd) none 0) ∧
    (¬ BlockGood h vt ∨ refsOf (vt (v % 4)) = 0xFFFF →
      exec (.mverTag rd ra) s = .next ((settled s).sysFault 0x01 (s.getW ra) 0 .none))

/-- `mver.done` on a record in the own Pond completes: one hold less on the version; the last hold of a closing one begins its
retirement. NEWEST, SHADV, NLIVE and the other versions are unchanged (18 R329, R330). -/
def Sys2Proof.Says.MverDoneBlock : Prop :=
  ∀ (s : State) (ra rb : Reg) (off : Nat), s.Inv → PondRecord s (s.getW ra) off → (s.getW rb).toNat ≤ 65535 →
    let h := recWord s off 0x70
    let u := (s.getW rb).toNat
    let x := recWord s off (0x78 + 8 * (u % 4))
    let ends := refsOf x = 1 ∧ stateOf x = 2
    (verOf x = u → (stateOf x = 1 ∨ stateOf x = 2) → refsOf x ≠ 0 → ∃ t, exec (.mverDone ra rb) s = .next t ∧
      (let y := recWord t off (0x78 + 8 * (u % 4))
      verOf y = u ∧ refsOf y = refsOf x - 1 ∧ stateOf y = (if ends then 3 else stateOf x)) ∧
      (let h' := recWord t off 0x70
      newestOf h' = newestOf h ∧ shadvOf h' = shadvOf h ∧ nliveOf h' = nliveOf h ∧ retpOf h' = (if ends then 1 else retpOf h)) ∧
      (∀ n, n < 4 → n ≠ u % 4 → recWord t off (0x78 + 8 * n) = recWord s off (0x78 + 8 * n)) ∧
      (ends → ∃ d, ({ l := s.getW ra, version := u, core := s.cur.core } : RetireJob) ∈ (t.die d).retire) ∧
      SameButRecord s t off 0x70 40 ∧ SameWs s t s.cur none none 0) ∧
    (verOf x ≠ u ∨ (stateOf x ≠ 1 ∧ stateOf x ≠ 2) ∨ refsOf x = 0 →
      exec (.mverDone ra rb) s = .next ((settled s).sysFault 0x01 (s.getW rb) 0 .none))

/-- `mver.stat` and `prg.stat` on a record in the own Pond complete with the word that memory holds, and `prg.go` completes where
its engine's queue has room: SEQ is one more, OP is the operation, DONE and RESULT are 0, and the job stands last (18 R331,
R332). -/
def Sys2Proof.Says.RecordWordsAndJobs : Prop :=
  ∀ (s : State) (rd ra : Reg) (sel : Fin 8) (op : Fin 4) (off : Nat), s.Inv → PondRecord s (s.getW ra) off →
    (∃ t, exec (.mverStat rd ra sel) s = .next t ∧ (rd ≠ 0 → t.getW rd = BitVec.ofNat 64 (recWord s off (0x70 + 8 * sel.val))) ∧
      SameMemory s t ∧ SameWs s t s.cur (· = rd) none 0) ∧
    (∃ t, exec (.prgStat rd ra) s = .next t ∧ (rd ≠ 0 → t.getW rd = BitVec.ofNat 64 (recWord s off 0xE0)) ∧
      SameMemory s t ∧ SameWs s t s.cur (· = rd) none 0) ∧
    (let die := (s.layerDie s.cur.core (s.getW ra)).1
    let seq := (recWord s off 0xE0 + 1) % 2 ^ 16
    (s.prgRoom die = true → ∃ t, exec (.prgGo rd ra op) s = .next t ∧ (rd ≠ 0 → t.getW rd = BitVec.ofNat 64 seq) ∧
      recWord t off 0xE0 = seq + op.val * 2 ^ 16 ∧
      (t.die die).prgQueue = (s.die die).prgQueue ++ [⟨s.getW ra, op.val, seq, s.cur.core, s.cur.ctx⟩] ∧
      SameButRecord s t off 0xE0 8 ∧ SameWs s t s.cur (· = rd) none 0) ∧
    (s.prgRoom die = false → s.me.waitlim ≠ 0 → ∃ t, exec (.prgGo rd ra op) s = .next t ∧ Waits s t))

/-- `wshad` on a record in the own Pond completes with the address of the block of a valid entry's slot for a version that is
live or whose fresh slots are prepared, else with all ones; a locator that names no station raises ILLEGAL (18 R341). -/
def Sys2Proof.Says.WshadOnRecord : Prop :=
  ∀ (s : State) (rd ra rb : Reg) (blk : Fin 4) (off : Nat), PondRecord s (s.getW ra) off →
    let w := recWord s off
    let x := (s.getW rb).toNat
    let u := x / 2 ^ 16
    let st := x / 2 ^ 10 % 16
    let gives := fun v => ∃ t, exec (.wshad rd ra rb blk) s = .next t ∧ (rd ≠ 0 → t.getW rd = v) ∧ SameMemory s t ∧
      SameWs s t s.cur (· = rd) none 0
    let bad := fun (u : State) => exec (.wshad rd ra rb blk) s = .next (u.sysFault 0x01 (s.getW rb) 0 .none)
    (2 ^ 32 ≤ x ∨ x / 2 ^ 14 % 4 ≠ 0 → bad s) ∧
    (x < 2 ^ 32 → x / 2 ^ 14 % 4 = 0 →
      (s.cluOf s.cur.core (w 0 % 128) = Option.none → gives 0xFFFFFFFFFFFFFFFF) ∧
      ∀ clu, s.cluOf s.cur.core (w 0 % 128) = some clu →
        (4 * 2 ^ (s.cluster clu).cut ≤ st → bad (settled s)) ∧
        (st < 4 * 2 ^ (s.cluster clu).cut →
          let e := (s.cluster clu).entry (w 0 / 2 ^ 8 % 4) st (x / 2 ^ 9 % 2) (x % 2 ^ 9)
          let vt := w (0x78 + 8 * (u % 4))
          let bs := ((w 0 / 2 ^ 35 % 32 + 1) * (w 0 / 2 ^ 40 % 32 + 1) * 4 + 63) / 64 * 64
          let fits := entValid e = true ∧ entBorn e ≤ u ∧ u < entDied e ∧ entSv e u = true ∧
            ((stateOf vt ≠ 0 ∧ verOf vt = u) ∨ shadvOf (w 0x70) = u)
          (fits → gives (BitVec.ofNat 64
            (w 8 / 64 * 64 + (st * (w 0x10 % 2 ^ 15) + entSlot e u) * 4 * bs + blk.val * bs))) ∧
          (¬ fits → gives 0xFFFFFFFFFFFFFFFF)))

/-- The stash fields of a record in the own Pond. -/
def Sys2Proof.Says.stashAt (s : State) (off : Nat) : Stash :=
  ⟨BitVec.ofNat 64 (recWord s off 0x98), recWord s off 0xA0, recWord s off 0xA8, recBytes s off 0xB0 16, recBytes s off 0xC0 16⟩

/-- `stash` on a record in the own Pond completes: with the buffer that the micro-batch holds, or with the first free one at or
after STNEXT, whose region is then live and whose fields name it; without a free region, with all ones; without a free buffer it
waits, or traps where TRAPNOW is 1 (18 R342). -/
def Sys2Proof.Says.StashOnRecord : Prop :=
  ∀ (s : State) (rd ra : Reg) (off clu : Nat), s.Inv → PondRecord s (s.getW ra) off →
    let x := stashAt s off
    let free := x.order.find? fun b => !x.taken b
    let gives := fun v => ∃ t, exec (.stash rd ra) s = .next t ∧ (rd ≠ 0 → t.getW rd = v) ∧ SameMemory s t ∧
      SameWs s t s.cur (· = rd) none 0
    x.ok = true → s.cluOf s.cur.core (recWord s off 0 % 128) = some clu →
    (∀ k, x.find s.cx.mbatch = some k → gives (x.buffer k)) ∧
    (x.find s.cx.mbatch = Option.none →
      (∀ k, free = some k →
        ((s.die (clu / 32)).freeRegion = Option.none → gives 0xFFFFFFFFFFFFFFFF) ∧
        ∀ i, (s.die (clu / 32)).freeRegion = some i → ∃ t, exec (.stash rd ra) s = .next t ∧
          (rd ≠ 0 → t.getW rd = x.buffer k) ∧
          SMap.find (t.die (clu / 32)).regions i = some { base := x.buffer k, size := x.size, uses := x.uses
                                                          tid := s.tidOf s.cur.core, core := s.cur.core } ∧
          recWord t off 0xA8 = x.occ % 2 ^ 16 + 2 ^ k + (k + 1) % x.count * 2 ^ 16 ∧
          recBytes t off 0xB0 16 = (recBytes s off 0xB0 16).set k s.cx.mbatch ∧
          recBytes t off 0xC0 16 = (recBytes s off 0xC0 16).set k (BitVec.ofNat 8 i) ∧
          SameButRecord s t off 0xA8 40 ∧ SameWs s t s.cur (· = rd) none 0) ∧
      (free = Option.none →
        (s.me.stashctl.getLsbD 0 = true → exec (.stash rd ra) s = .next ((settled s).userTrap 0x0A x.fullVal s.cx.ws.pc)) ∧
        (s.me.stashctl.getLsbD 0 = false → s.me.waitlim ≠ 0 → ∃ t, exec (.stash rd ra) s = .next t ∧ Waits s t)))

/-- `unstash` on a record in the own Pond completes: 0 where no buffer holds the micro-batch, the buffer's address with ret 0, and
with ret 1 one use of its region: the uses that remain, or the wait for its drop (18 R343). -/
def Sys2Proof.Says.UnstashOnRecord : Prop :=
  ∀ (s : State) (rd ra rb : Reg) (off clu : Nat), PondRecord s (s.getW ra) off → (s.getW rb).toNat ≤ 255 →
    let x := stashAt s off
    let gives := fun ret v => ∃ t, exec (.unstash rd ra rb ret) s = .next t ∧ (rd ≠ 0 → t.getW rd = v) ∧ SameMemory s t ∧
      SameWs s t s.cur (· = rd) none 0
    x.ok = true → s.cluOf s.cur.core (recWord s off 0 % 128) = some clu →
    (∀ ret, x.find ((s.getW rb).setWidth 8) = Option.none → gives ret 0) ∧
    ∀ k, x.find ((s.getW rb).setWidth 8) = some k →
      gives 0 (x.buffer k) ∧
      (let i := (x.regions.getD k 0).toNat
      (s.liveRegion (clu / 32) i = Option.none → gives 1 0xFFFFFFFFFFFFFFFF) ∧
      ∀ r, s.liveRegion (clu / 32) i = some r →
        (1 < r.uses → ∃ t, exec (.unstash rd ra rb 1) s = .next t ∧ (rd ≠ 0 → t.getW rd = BitVec.ofNat 64 (r.uses - 1)) ∧
          SMap.find (t.die (clu / 32)).regions i = some { r with uses := r.uses - 1 } ∧ SameWs s t s.cur (· = rd) none 0) ∧
        (r.uses ≤ 1 → ∃ t, exec (.unstash rd ra rb 1) s = .next t ∧ t.cx.wait.isSome ∧ t.cx.ws = s.cx.ws ∧
          SMap.find (t.die (clu / 32)).regions i =
            some { r with uses := 0, dropping := true, stash := some (s.getW ra, k, s.cur.core, s.cur.ctx) }))

/-- The mask-version, job, shadow and stash instructions complete where their record passes its checks, and on a record in the own
Pond they leave what 18 R327 to R332 and R341 to R343 give: the words of the version block, the job, the stash fields and the
region.
It rests on the choices of log entries 27 and 40. -/
def Obligations.VersionWords : Prop :=
  Says.SpOnCheckedRecord ∧ Says.MverOpenBlock ∧ Says.MverTagBlock ∧ Says.MverDoneBlock ∧ Says.RecordWordsAndJobs ∧
    Says.WshadOnRecord ∧ Says.StashOnRecord ∧ Says.UnstashOnRecord

/-- The exchange instructions complete: `lkput`, `rbput` and `rbret` queue their transfer last over a link that is up and paired
with the team, `rbput` and `rbret` with their descriptor's count one more, `rbstat` reads the counts, `coll.go` queues a collective and `coll.wait` gives its record's word 0 once it has ended,
`rsplan`, `rsgo` and `rsstat` answer from the progress record, and `rsgo` queues the pass of a planned or failed one whose
digest is unchanged.
It rests on the choices of log entries 28 and 40. -/
def Obligations.ExchangeWords : Prop :=
  ∀ (s : State) (rd ra rb : Reg), s.me.writes = [] →
    let a := s.getW ra
    (∀ d u, s.tcmDesc ra = .ok (d, u) → u = s →
      (putOk d = true → s.linkUsable s.cur.core (descLink 0x10 d) = true →
        (d.getD 3 0 = 0 ∨ s.recordOk (d.getD 3 0) 16 = .ok ()) →
        (((s.me.opsOn (descLink 0x10 d)).filter LinkOp.isPut).length < 8 → ∃ t, exec (.lkput rd ra) s = .next t ∧
          (rd ≠ 0 → t.getW rd = 0) ∧
          t.me.opsOn (descLink 0x10 d) = s.me.opsOn (descLink 0x10 d) ++ [.put d a s.cur.ctx 0 Option.none 0]) ∧
        (8 ≤ ((s.me.opsOn (descLink 0x10 d)).filter LinkOp.isPut).length → s.me.waitlim ≠ 0 →
          ∃ t, exec (.lkput rd ra) s = .next t ∧ Waits s t)) ∧
      (putOk d = false → exec (.lkput rd ra) s = .next (s.sysFault 0x01 a 0 .none)) ∧
      (putOk d = true → s.linkUsable s.cur.core (descLink 0x10 d) = false →
        exec (.lkput rd ra) s = .next (s.sysFault 0x03 a a .none)) ∧
      (rbOk d = true → rbReceiver d = false → s.linkUsable s.cur.core (descLink 8 d) = true → (s.getW rb).toNat % 64 = 0 →
        ∀ bs t v, s.load a 32 = .ok (bs, t) → wordsOf bs = d → countDiff (rbLow d) (rbHigh d) < rbK d →
          (t.releaseWith 5).store (a + 0x18) (toBytes 4 ((rbLow d + 1) % 2 ^ 32)) = .ok v →
          ∃ w, exec (.rbput rd ra rb) s = .next w ∧ (rd ≠ 0 → w.getW rd = BitVec.ofNat 64 (rbLow d % rbK d)) ∧
            w.me.opsOn (descLink 8 d) = v.me.opsOn (descLink 8 d) ++ [.slot d a (s.getW rb) (rbLow d % rbK d) s.cur.ctx 0] ∧
            ∀ off, s.Inv → a = BitVec.ofNat 64 (0x8000000000000000 + off) → PlainTcm s off 32 →
              tcmValue w (off + 0x18) 4 = (rbLow d + 1) % 2 ^ 32) ∧
      (rbOk d = true → rbReceiver d = true → rbLow d ≠ rbHigh d →
        ∀ v, (s.releaseWith 5).store (a + 0x1C) (toBytes 4 ((rbHigh d + 1) % 2 ^ 32)) = .ok v →
          ∃ w, exec (.rbret rd ra) s = .next w ∧ (rd ≠ 0 → w.getW rd = BitVec.ofNat 64 (rbHigh d % rbK d)) ∧
            w.me.opsOn (descLink 8 d) = v.me.opsOn (descLink 8 d) ++ [.ret d a s.cur.ctx] ∧
            ∀ off, s.Inv → a = BitVec.ofNat 64 (0x8000000000000000 + off) → PlainTcm s off 32 →
              tcmValue w (off + 0x1C) 4 = (rbHigh d + 1) % 2 ^ 32) ∧
      (rbOk d = true → ∃ w, exec (.rbstat rd ra) s = .next w ∧ OnlyOwn s w (· = rd) none 0 ∧
        (rd ≠ 0 → (w.getW rd).toNat =
          if rbReceiver d then countDiff (rbLow d) (rbHigh d) % 2 ^ 16 + rbHigh d % rbK d * 2 ^ 16 + 2 ^ 20
          else (rbK d + 2 ^ 32 - countDiff (rbLow d) (rbHigh d)) % 2 ^ 16 + rbLow d % rbK d * 2 ^ 16 +
            ((SMap.find s.me.unfilled (a.toNat % 0x80000)).getD 0) % 2 ^ 11 * 2 ^ 21)) ∧
      (rbOk d = false → exec (.rbstat rd ra) s = .next (s.sysFault 0x01 a 0 .none))) ∧
    (∀ bs t, a.toNat % 64 = 0 → s.load a 64 = .ok (bs, t) →
      (∀ v, t.readColl a (wordsOf bs) = .ok (Option.none, v) →
        exec (.collGo rd ra) s = .next ((settled v).sysFault 0x01 a 0 .none)) ∧
      (∀ j v, t.readColl a (wordsOf bs) = .ok (some j, v) →
        (collRec j.desc = 0 ∨ v.recordOk (collRec j.desc) 16 = .ok ()) → v.cur = s.cur →
        let queue := fun (x : State) => (x.die (s.cur.core / 2048)).collQueue
        ((queue v).length < 5 → ∃ u, exec (.collGo rd ra) s = .next u ∧ (rd ≠ 0 → u.getW rd = 0) ∧
          SMap.find u.me.colls a.toNat = some { sc := collSc j.desc, go := v.me.collGoes a } ∧ (queue u).length = (queue v).length + 1) ∧
        (5 ≤ (queue v).length → v.me.waitlim ≠ 0 → ∃ u, exec (.collGo rd ra) s = .next u ∧ Waits v u)) ∧
      (SMap.find t.me.colls a.toNat = Option.none → exec (.collWait rd ra) s = .next (t.retire rd 0)) ∧
      (∀ c, SMap.find t.me.colls a.toNat = some c →
        (∀ w, c.ended = some w → exec (.collWait rd ra) s =
          .next ((if c.rec_ = 0 then t else t.acquireAt c.rec_ 16 c.sc).retire rd w)) ∧
        (c.ended = Option.none → t.me.waitlim ≠ 0 → ∃ u, exec (.collWait rd ra) s = .next u ∧ Waits t u))) ∧
    (∀ p rs t, s.progress a = .ok (p, rs, t) →
      exec (.rsstat rd ra) s = .next ((t.acquireAt a 64 (prSc p)).retire rd (p.getD 2 0)) ∧
      (prState p = 0 → exec (.rsgo rd ra) s = .next (t.retire rd 2)) ∧
      (prState p = 3 → exec (.rsgo rd ra) s = .next (t.retire rd 1)) ∧
      (prState p = 2 → exec (.rsgo rd ra) s = .next (t.retire rd 3) ∧
        exec (.rsplan rd ra) s = .next ((settled t).sysFault 0x01 a 0 .none)) ∧
      (∀ x xs ys u, prState p = 1 ∨ prState p = 4 → ctxReader.layouts t p = .ok (x, xs, ys, u) →
        (s.planDigest (s.cur.core / 2048) xs ys = p.getD 5 0 → (s.die (s.cur.core / 2048)).reshardQueue.length < 5 →
          ∃ w, exec (.rsgo rd ra) s = .next w ∧ (rd ≠ 0 → w.getW rd = 0) ∧
            (w.die (s.cur.core / 2048)).reshardQueue =
              (s.die (s.cur.core / 2048)).reshardQueue ++ [{ ra := a, core := s.cur.core, ctx := s.cur.ctx }]) ∧
        (s.planDigest (s.cur.core / 2048) xs ys = p.getD 5 0 → 5 ≤ (s.die (s.cur.core / 2048)).reshardQueue.length →
          s.me.waitlim ≠ 0 → ∃ w, exec (.rsgo rd ra) s = .next w ∧ Waits s w) ∧
        (s.planDigest (s.cur.core / 2048) xs ys ≠ p.getD 5 0 → ∃ w, exec (.rsgo rd ra) s = .next w ∧
          (rd ≠ 0 → w.getW rd = 2) ∧
          w = (u.atomWrite rs (bytesOf (prSet p 0x10 (prWord p (prPass p) 2 4))) Option.none).retire rd 2)) ∧
      (∀ x y xs ys u, prState p ≠ 2 → ctxReader.layouts t p = .ok (some (x, y), xs, ys, u) →
        ∃ w, exec (.rsplan rd ra) s = .next w ∧
          (rd ≠ 0 → w.getW rd = BitVec.ofNat 64 (reshardPlan x y (s.cur.core / 2048)).length)) ∧
      (∀ xs ys u, prState p ≠ 2 → ctxReader.layouts t p = .ok (Option.none, xs, ys, u) →
        exec (.rsplan rd ra) s = .next ((u.atomWrite rs (bytesOf (prSet p 0x10 (prWord p (prPass p) 1 4))) Option.none).retire rd
          0xFFFFFFFFFFFFFFFF)))

/-- The performance instructions complete: `pmcfg` selects an event and clears its counter, `pmrd` reads a counter of the core or
of a slice for its own address space, `jrnl` starts, marks, stops and reads the journal, `fcstrd` reads a die's forecast or clock.
It rests on the choices of log entries 15 and 18. -/
def Obligations.PerfWords : Prop :=
  ∀ (s : State) (rd ra : Reg) (n : Fin 8) (sel : Fin 2),
    let x := s.getW ra
    (x.toNat < 2 ^ 13 → x.toNat % 256 ≤ 13 → ∃ t, exec (.pmcfg ra n) s = .next t ∧ t.me.pmsel[n] = x ∧ t.me.pmc[n] = 0 ∧
      (∀ k : Fin 8, k ≠ n → t.me.pmsel[k] = s.me.pmsel[k] ∧ t.me.pmc[k] = s.me.pmc[k]) ∧ SameWs s t s.cur none none 0) ∧
    (2 ^ 13 ≤ x.toNat ∨ 13 < x.toNat % 256 → exec (.pmcfg ra n) s = .next (s.sysFault 0x01 x 0 .none)) ∧
    (∀ k : Fin 8, x.toNat = k.val → exec (.pmrdCore rd ra) s = .next (s.retire rd s.me.pmc[k])) ∧
    (8 ≤ x.toNat → exec (.pmrdCore rd ra) s = .next (s.sysFault 0x01 x 0 .none)) ∧
    (x.toNat < 2 ^ 14 → x.toNat / 2 ^ 7 % 8 ≤ 4 → (x.toNat / 2 ^ 10 = s.asidOf s.cur.core ∨ s.dev.debug ≠ .none) →
      exec (.pmrdSlice rd ra) s = .next (s.retire rd ((SMap.find (s.die (x.toNat / 2 ^ 5 % 4)).counters
        (x.toNat % 2 ^ 5 * 80 + x.toNat / 2 ^ 10 * 5 + x.toNat / 2 ^ 7 % 8)).getD 0))) ∧
    (x.toNat < 2 ^ 14 → x.toNat / 2 ^ 7 % 8 ≤ 4 → x.toNat / 2 ^ 10 ≠ s.asidOf s.cur.core → s.dev.debug = .none →
      exec (.pmrdSlice rd ra) s = .next (s.sysFault 0x03 x 0 .none)) ∧
    (∀ bs u b w, x.toNat % 16 = 0 → s.load x 16 = .ok (bs, u) → wordsOf bs = [b, w] → s.me.journal.on = false →
      jrnlOk b w = true → ∃ t, exec (.jrnlStart rd ra) s = .next t ∧ (rd ≠ 0 → t.getW rd = 0) ∧ t.me.journal =
        { on := true, replay := w.getLsbD 33, wrap := w.getLsbD 34, base := b, size := w.toNat % 2 ^ 32, since := s.now
          ctx := s.cur.ctx }) ∧
    (∀ bs u b w, x.toNat % 16 = 0 → s.load x 16 = .ok (bs, u) → wordsOf bs = [b, w] → s.me.journal.on = true ∨ jrnlOk b w = false →
      exec (.jrnlStart rd ra) s = .next ((settled u).sysFault 0x01 x 0 .none)) ∧
    (∃ t, exec (.jrnlStop rd ra) s = .next t ∧ t.me.journal.on = false ∧
      (rd ≠ 0 → t.getW rd = BitVec.ofNat 64 s.me.journal.pos)) ∧
    (s.me.journal.on = false ∨ s.me.journal.replay = true → exec (.jrnlMark rd ra) s = .next (s.retire rd 1)) ∧
    (s.me.journal.on = true → s.me.journal.replay = false → ∃ t, exec (.jrnlMark rd ra) s = .next t ∧ (rd ≠ 0 → t.getW rd = 0)) ∧
    (∃ v, exec (.jrnlStatus rd ra) s = .next (s.retire rd v) ∧ v.getLsbD 0 = s.me.journal.on ∧ v.getLsbD 1 = s.me.journal.replay ∧
      v.getLsbD 2 = s.me.journal.div ∧ v.getLsbD 3 = s.me.journal.full) ∧
    (x.toNat < 4 → ∃ v, exec (.fcstrd rd ra sel) s = .next (s.retire rd v) ∧
      (sel = 0 → v = (s.die x.toNat).forecast) ∧ (sel = 1 → v.toNat % 2 ^ 16 = (s.die x.toNat).clock % 2 ^ 16)) ∧
    (4 ≤ x.toNat → exec (.fcstrd rd ra sel) s = .next (s.sysFault 0x01 x 0 .none))

/-! ### Messages, tasks, dispatch, steals and barriers between words (10 R187 to R195, 11 R206 to R226) -/

/-- A message leaves its send queue in order once a slot is free at its destination, and is accepted in order of its pair; with
NOFIRE a request's credit starts back; else it occupies an arrival slot with its latched handler. A credit return gives the
sender its credit. Without a message, or a free slot, nothing leaves.
It rests on the choices of log entries 1 and 17. -/
def Sys2Proof.Says.MessageSteps : Prop :=
  ∀ (s : State) (g : Nat),
    let n := (s.core g).net
    (∀ m l, n.sendReq = m :: l →
      (s.slotFree (hdrDest m.hdr) false = false → ∀ drop, NotEnabled s (.messageTransmit g 0 drop)) ∧
      (s.slotFree (hdrDest m.hdr) false = true →
        (Completes s (.messageTransmit g 0 false) fun t => (t.core g).net = { n with sendReq := l, inFlight := n.inFlight ++ [m] } ∧
          SameMemory s t ∧ SameUnits s t ∧ SameCores s t g) ∧
        Completes s (.messageTransmit g 0 true) fun t =>
          (t.core g).net = { n with sendReq := l, credits := n.credits + 1 } ∧
          ∃ f, (t.ctx ⟨g, m.ctx⟩).charged = (s.ctx ⟨g, m.ctx⟩).charged ++ [⟨f, false⟩] ∧ f.cause = 0x05 ∧ f.agent = .network)) ∧
    (∀ m l, n.sendRep = m :: l → s.slotFree (hdrDest m.hdr) true = true →
      Completes s (.messageTransmit g 1 false) fun t => (t.core g).net = { n with sendRep := l, inFlight := n.inFlight ++ [m] } ∧
        SameMemory s t ∧ SameUnits s t ∧ SameCores s t g) ∧
    (∀ m i, n.inFlight[i]? = some m → (∀ e ∈ n.inFlight.take i, hdrDest e.hdr ≠ hdrDest m.hdr ∨ hdrVn e.hdr ≠ hdrVn m.hdr) →
      hdrDep m.hdr = false →
      let d := hdrDest m.hdr
      let o := (s.core d).net
      (hdrNofire m.hdr = false → Completes s (.messageAccept g i) fun t => ∃ a : Arrival,
        a.hdr = m.hdr ∧ a.src = m.src ∧ a.since = s.now ∧ a.landed = (transformed (s.core d) (hdrXf m.hdr) (bytesOf m.payload)).1 ∧
        a.handler = (SMap.find o.handlers (hdrHidx m.hdr)).getD {} ∧ a.latchGen = o.htGen ∧
        (hdrVn m.hdr = false → (t.core d).net.slotsReq = o.slotsReq ++ [a] ∧ (t.core d).net.slotsRep = o.slotsRep) ∧
        (hdrVn m.hdr = true → (t.core d).net.slotsRep = o.slotsRep ++ [a] ∧ (t.core d).net.slotsReq = o.slotsReq)) ∧
      (hdrNofire m.hdr = true → hdrVn m.hdr = false → Completes s (.messageAccept g i) fun t =>
        (t.core m.src).net.creditReturns = (s.core m.src).net.creditReturns + 1 ∧ (t.core d).net.slotsReq = o.slotsReq)) ∧
    (∀ drop, (n.sendReq = [] → NotEnabled s (.messageTransmit g 0 drop)) ∧ (n.sendRep = [] → NotEnabled s (.messageTransmit g 1 drop)) ∧
      ∀ m l, n.sendRep = m :: l → s.slotFree (hdrDest m.hdr) true = false → NotEnabled s (.messageTransmit g 1 drop)) ∧
    (n.inFlight = [] → ∀ i, NotEnabled s (.messageAccept g i)) ∧
    (n.creditReturns = 0 → NotEnabled s (.creditReturn g)) ∧
    (n.creditReturns ≠ 0 → Completes s (.creditReturn g) fun t =>
      (t.core g).net = { n with creditReturns := n.creditReturns - 1, credits := n.credits + 1 } ∧ SameCores s t g ∧ SameMemory s t)

/-- A firing is dispatched to a free context: FIRING, fa and the PC are set and ECAUSE[63] is 0, with HANDLER_EMPTY where the
handler is 0; ctx0 takes a reply before a request. A firing that has waited 4,096 cycles is promoted, and a ready actor's firing
is pending.
It rests on the choices of log entries 1, 18 and 60. -/
def Sys2Proof.Says.DispatchSteps : Prop :=
  ∀ (s : State) (g : Nat) (c : CtxId),
    let k := s.core g
    let r : CtxRef := ⟨g, c⟩
    ((s.teamOf g).isSome → k.mayTake c = true →
      (∀ x e, s.pickFiring g c = some x → (∀ rep i, x.place ≠ .message rep i) →
        ((SMap.find k.net.handlers x.hidx).getD {}).entry = e → Completes s (.firingDispatch g c) fun t =>
          (t.ctx r).firing = true ∧ (t.ctx r).firingReg = BitVec.ofNat 64 (x.kind + x.hidx * 256 + x.aux * 65536) ∧
          (∀ i : Fin 6, (t.ctx r).ws.fa[i] = x.fa.getD i.val 0) ∧ (t.ctx r).cpyXid = (if x.kind = 3 then x.xid else 0) ∧
          (e ≠ 0 → (t.ctx r).ws.pc = e ∧ (t.ctx r).ws.ecause.getLsbD 63 = false) ∧
          (k.journal.on = false → (∀ i : Reg, (t.ctx r).ws.w[i] = (s.ctx r).ws.w[i]) ∧
          (e = 0 → utvecOk k.utvec = true → (t.ctx r).ws.pc = k.utvec ∧ (t.ctx r).ws.ecause = 0x8000000000000008 ∧
            (t.ctx r).ws.epc = 0))) ∧
      (∀ a l, c = 0 → k.journal.on = false → (k.net.slotsRep = a :: l ∨ k.net.slotsRep = [] ∧ k.net.slotsReq = a :: l) →
        a.handler.entry ≠ 0 → a.handler.cls.getLsbD (if hdrVn a.hdr then 1 else 0) = true →
        Completes s (.firingDispatch g c) fun t => (t.core g).msghdr = a.hdr ∧ (t.core g).msgsrc = BitVec.ofNat 13 a.src ∧
          (t.ctx r).ws.pc = a.handler.entry ∧ (t.ctx r).firingReg = BitVec.ofNat 64 (1 + hdrHidx a.hdr * 256) ∧
          (t.core g).net.openMsg = some { arrival := a })) ∧
    (k.mayTake c = false → NotEnabled s (.firingDispatch g c)) ∧
    (∀ p i, k.firings[i]? = some p → p.since + 4096 ≤ s.now → p.promoted = false → Completes s (.firingPromote g i) fun t =>
      (t.core g).firings = k.firings.set i { p with promoted := true } ∧ SameCores s t g) ∧
    (∀ p i, k.firings[i]? = some p → s.now < p.since + 4096 → NotEnabled s (.firingPromote g i)) ∧
    (∀ slot : Fin 8, k.actors[slot].armed = true → k.actors[slot].firing = false →
      (∀ u, s.actorReady g k.actors[slot] = .ok (true, u) → Completes s (.actorReady g slot) fun t =>
        (t.core g).actors[slot].firing = true ∧ ∃ p : Pending, (t.core g).firings = (u.core g).firings ++ [p] ∧ p.kind = 5 ∧
          p.hidx = k.actors[slot].decl.toNat % 64 ∧ p.aux = slot.val ∧ p.fa = [BitVec.ofNat 64 slot.val]) ∧
      (∀ u, s.actorReady g k.actors[slot] = .ok (false, u) → NotEnabled s (.actorReady g slot)))

/-- Spawns and dependency pushes reach the far end of a deque with room, and their spawner goes on, or is told of the withdrawal
with WAITLIMIT; a steal round asks its victims in turn and its record becomes a stolen-task firing.
It rests on the choices of log entries 1 and 19. -/
def Sys2Proof.Says.TaskSteps : Prop :=
  ∀ (s : State) (g : Nat) (c : CtxId),
    let k := s.core g
    let x := s.ctx ⟨g, c⟩
    (∀ a b ts, x.spawn = some ⟨a, b, .flying, ts⟩ ∨ (x.spawn = some ⟨a, b, .heldFull, ts⟩ ∧ x.spawnLate = false) →
      (s.core (taskCore a)).deque.length < (s.core (taskCore a)).dequeCap →
      Completes s (.spawnPush g c) fun t => (t.ctx ⟨g, c⟩).spawn = some ⟨a, b, .pushed, ts⟩ ∧
        (t.core (taskCore a)).deque.length = (s.core (taskCore a)).deque.length + 1) ∧
    (∀ a b ts, x.spawn = some ⟨a, b, .flying, ts⟩ → (s.core (taskCore a)).dequeCap ≤ (s.core (taskCore a)).deque.length →
      Completes s (.spawnPush g c) fun t => (t.ctx ⟨g, c⟩).spawn = some ⟨a, b, .heldFull, ts⟩ ∧ SameMemory s t) ∧
    (∀ a b ts, x.spawn = some ⟨a, b, .heldFull, ts⟩ → (s.core (taskCore a)).dequeCap ≤ (s.core (taskCore a)).deque.length →
      NotEnabled s (.spawnPush g c)) ∧
    (∀ a b ts, x.spawn = some ⟨a, b, .withdrawing, ts⟩ → Completes s (.spawnWithdraw g c) fun t =>
      (t.ctx ⟨g, c⟩).spawn = some ⟨a, b, .withdrawn, ts⟩ ∧ SameMemory s t ∧ SameCores s t g) ∧
    (∀ a b ts w, x.spawn = some ⟨a, b, .pushed, ts⟩ → x.wait = some w → w.op = .spawn → x.frame = .none →
      Completes s (.spawnAck g c) fun t => (t.ctx ⟨g, c⟩).spawn = .none ∧ (t.ctx ⟨g, c⟩).wait = .none ∧
        (t.ctx ⟨g, c⟩).ws = { x.ws with pc := x.ws.pc + 4 }) ∧
    (∀ a b ts w, x.spawn = some ⟨a, b, .withdrawn, ts⟩ → x.wait = some w → w.op = .spawn → utvecOk k.utvec = true →
      Completes s (.spawnAck g c) fun t => (t.ctx ⟨g, c⟩).spawn = .none ∧ (t.ctx ⟨g, c⟩).ws.epc = x.ws.pc ∧
        (t.ctx ⟨g, c⟩).ws.eval = BitVec.ofNat 64 (taskCore a) ∧ (t.ctx ⟨g, c⟩).ws.ecause = 0x8000000000000006 ∧
        (t.ctx ⟨g, c⟩).ws.pc = k.utvec) ∧
    (∀ i p, s.dev.pushes[i]? = some p →
      ((s.core p.target).deque.length < (s.core p.target).dequeCap → Completes s (.dependencyPush i) fun t =>
        (t.core p.target).deque.length = (s.core p.target).deque.length + 1 ∧ t.dev.pushes = s.dev.pushes.eraseIdx i) ∧
      ((s.core p.target).dequeCap ≤ (s.core p.target).deque.length → NotEnabled s (.dependencyPush i))) ∧
    ((s.teamOf g).isSome → (∃ m : CtxId, m ≠ 0 ∧ k.isFree m = true) → (∀ p ∈ k.firings, p.kind = 7) → k.deque = [] →
      k.round = .none → k.backoff = .none → k.journal.replaying = false → s.noActorReady g = true →
      Completes s (.stealRound g) fun t => (t.core g).round = some { victim := some (g / 4 * 4 + (g + 1) % 4), tried := 1 }) ∧
    (k.deque ≠ [] → k.round = .none → NotEnabled s (.stealRound g)) ∧
    (∀ v n, k.round = some { victim := some v, tried := n } → k.journal.replaying = false →
      ((s.teamOf g).isSome → s.sameTeam g v = true → ∀ l y, (s.core v).deque = l ++ [y] → Completes s (.stealRequest g) fun t =>
        (t.core g).round = some { victim := some v, tried := n, answer := some (some (s.taskOf v y)) } ∧
        (t.core v).deque.length = l.length) ∧
      ((s.core v).deque = [] ∨ s.sameTeam g v = false → Completes s (.stealRequest g) fun t =>
        (t.core g).round = some { victim := some v, tried := n, answer := some Option.none } ∧ SameMemory s t)) ∧
    (∀ v n y, k.round = some { victim := some v, tried := n, answer := some (some y) } → k.journal.on = false → Completes s (.stealAnswer g) fun t =>
      (t.core g).round = .none ∧ ∃ p : Pending, (t.core g).firings = k.firings ++ [p] ∧ p.kind = 7 ∧ p.src = v ∧
        p.hidx = y.word0.toNat % 64 ∧ p.fa = [BitVec.ofNat 64 (y.word0.toNat / 2 ^ 32), y.arg1, BitVec.ofNat 64 v]) ∧
    (∀ v n, k.round = some { victim := some v, tried := n, answer := some Option.none } → k.journal.on = false → n < 3 →
      Completes s (.stealAnswer g) fun t =>
      (t.core g).round = some { victim := some (g / 4 * 4 + (g + n + 1) % 4), tried := n + 1 }) ∧
    (∀ e, k.backoff = some e → e ≤ s.now → Completes s (.stealBackoffExpiry g) fun t => t.core g = { k with backoff := .none } ∧
      SameCores s t g) ∧
    (∀ e, k.backoff = some e → s.now < e → NotEnabled s (.stealBackoffExpiry g))

/-- A barrier release reaches a member core, which then knows the new generation from this cycle on and has its event latches
set; a linked pod instance ends once every member here has arrived and the links are up; a stagger ends in its cycle.
It rests on the choices of log entries 1 and 20. -/
def Sys2Proof.Says.BarrierSteps : Prop :=
  ∀ (s : State) (g : Nat) (level : Fin 5) (id : Fin 16) (c : CtxId),
    let key := barKey level.val g id.val
    let b := s.barrier g key
    ((s.teamOf g).isSome → ((s.core g).barKnown key).1 ≠ b.gen → Completes s (.barrierRelease g level id) fun t =>
      (t.core g).barKnown key = (b.gen, s.now) ∧ (∀ m, (t.ctx ⟨g, m⟩).evl = true ∧ (t.ctx ⟨g, m⟩).ws = (s.ctx ⟨g, m⟩).ws) ∧
        SameMemory s t ∧ SameCores s t g) ∧
    (∀ y, s.teamOf g = some y → ((s.core g).barKnown key).1 = b.gen →
      (level = 4 → s.podLinks (s.tidOf g) ≠ [] → (∀ l ∈ s.podLinks (s.tidOf g), s.linkUp l = true) →
        (∀ m ∈ y.barMembers 4 g, m ∈ b.arrived) → Completes s (.barrierRelease g level id) fun t =>
          (t.core g).barKnown key = ((b.gen + 1) % 65536, s.now) ∧
          (t.barrier g key).gen = (b.gen + 1) % 65536 ∧ (t.barrier g key).arrived = []) ∧
      (level ≠ 4 → NotEnabled s (.barrierRelease g level id))) ∧
    (∀ e, (s.ctx ⟨g, c⟩).stagger = some e →
      (e ≤ s.now → Completes s (.barrierStaggerExpiry g c) fun t => t.ctx ⟨g, c⟩ = { s.ctx ⟨g, c⟩ with stagger := .none } ∧
        SameMemory s t ∧ SameCores s t g) ∧
      (s.now < e → NotEnabled s (.barrierStaggerExpiry g c)))

/-- The steps of the network, of the task queues, of dispatch and of the barriers complete where the manual lets them take
place: messages, firings, tasks, steals, releases. -/
def Obligations.WorkSteps : Prop := Says.MessageSteps ∧ Says.DispatchSteps ∧ Says.TaskSteps ∧ Says.BarrierSteps

/-! ### The Lantern between words (09 R166 to R185, 12 R232, R237) -/

/-- A core's head command takes effect when it is its source's turn: it is then served, or its queue halts with MQ_ILLEGAL charged
to the context that placed it. MCFG, MZERO and MREL set the tiles of TMASK, MCTX the format context; the products round one exact
sum per element; MMASK makes or applies a mask; MLD unpacks rows; MST, MNORM and MSYNC write memory; MOPT steps a weight tile.
It rests on the choices of log entries 1, 16, 21 and 41. -/
def Sys2Proof.Says.LanternCommands : Prop :=
  ∀ (s : State) (quad : Nat) (src : Fin 5) (c : Cmd), src.val < 4 → s.headCmd quad src.val = some c → s.srcTurn quad src = true →
    let v := c.bytes
    let d0 := cmdD v 0
    let g := 4 * quad + src.val
    let q := s.quad quad
    let u := (s.modQuad quad fun q => { q with lastSrc := src }).acquire (s.whoAgent g 1) c.tags
    let who := u.whoAgent g 1
    let fc := q.fctx[(Fin.ofNat 4 src.val)]
    let own := fun (f : Nat) (t : Tile) => q.owned src.val (cmdTile v f) = some t
    let served := fun (i : Instr) (p : State → Prop) =>
      Completes s i fun t => (∃ xs, (t.cmdQueue g).cmds.head? = some { c with served := true, crossings := xs }) ∧ (t.cmdQueue g).halted = false ∧ p t
    let tiles := fun (t : State) (f : Tile → Tile) => ∀ n, n < 8 → (t.quad quad).tile n = if bit (cmdTmask v) n then f (q.tile n) else q.tile n
    let mem := fun (t : State) => SameMemory s t
    let wrote := fun (f : Nat) (e : Nat → Nat → Nat) (x : Tile) (t : State) =>
      let y := (t.quad quad).tile (cmdTile v f)
      (∀ i j, i < x.rows → j < x.cols → y.at i j = e i j) ∧ y.rows = x.rows ∧ y.cols = x.cols ∧ y.fmt = x.fmt ∧ y.valid = true ∧
        ∀ n, n < 8 → n ≠ cmdTile v f → (t.quad quad).tile n = q.tile n
    ((cmdCode v = 0 ∨ 13 < cmdCode v) → Completes s (.mcfg quad src) fun t => (t.cmdQueue g).halted = true ∧
      (t.cmdQueue g).cmds = (s.cmdQueue g).cmds ∧ ∃ f, (t.ctx ⟨g, c.ctx⟩).charged = (s.ctx ⟨g, c.ctx⟩).charged ++ [⟨f, false⟩] ∧
        f.cause = 0x0E ∧ f.agent = .lantern ∧ f.value = BitVec.ofNat 64 (cmdCode v * 256 + 1)) ∧
    (cmdSound v = true →
      (cmdCode v = 1 → shapeOk (d0 / 2 ^ 16 % 16) (d0 / 2 ^ 25 % 32 + 1) = true →
        (∀ n, n < 8 → bit (cmdTmask v) n = true → (q.tile n).valid = true → (q.tile n).owner.val = src.val) →
        served (.mcfg quad src) fun t => mem t ∧ tiles t fun x =>
          if x.valid ∧ x.fmt = d0 / 2 ^ 16 % 16 ∧ x.rows = d0 / 2 ^ 20 % 32 + 1 ∧ x.cols = d0 / 2 ^ 25 % 32 + 1
          then { x with owner := Fin.ofNat 4 src.val }
          else ⟨true, Fin.ofNat 4 src.val, d0 / 2 ^ 16 % 16, d0 / 2 ^ 20 % 32 + 1, d0 / 2 ^ 25 % 32 + 1,
            List.replicate ((d0 / 2 ^ 20 % 32 + 1) * (d0 / 2 ^ 25 % 32 + 1)) 0⟩) ∧
      ((∀ n, n < 8 → bit (cmdTmask v) n = true → (q.tile n).valid = true ∧ (q.tile n).owner.val = src.val) →
        (cmdCode v = 8 → served (.mzero quad src) fun t => mem t ∧ tiles t fun x =>
          { x with els := List.replicate (x.rows * x.cols) 0 }) ∧
        (cmdCode v = 9 → served (.lanternMrel quad src) fun t => mem t ∧ tiles t fun x =>
          { x with valid := false, els := List.replicate (x.rows * x.cols) 0 })) ∧
      (cmdCode v = 2 → bit d0 8 = false → bit d0 9 = false → served (.mctx quad src) fun t => mem t ∧
        (t.quad quad).fctx[(Fin.ofNat 4 src.val)] =
          { fc with qsat := bit d0 10, smode := d0 / 2 ^ 11 % 4, acct := bit d0 13 }) ∧
      (∀ tc ta tb, own 1 tc → own 2 ta → own 3 tb → tc.fmt = 0 → ta.fmt ≠ 5 → tb.fmt ≠ 5 → cmdTile v 1 ≠ cmdTile v 2 →
        cmdTile v 1 ≠ cmdTile v 3 →
        let sum := fun (n : Nat) (a b : Nat → Val) (o : Nat) =>
          let ps := (List.range n).map fun x => ((a x).mul (b x)).val
          rne32 (sumVals (if fc.acct then ps else fp32.val o :: ps))
        let ea := fun i x => fc.val ta.fmt (ta.at i x)
        let eb := fun x j => fc.val tb.fmt (tb.at x j)
        (cmdCode v = 4 → ta.rows = tc.rows → ta.cols = tb.rows → tb.cols = tc.cols → served (.mma quad src)
          (wrote 1 (fun i j => sum ta.cols (ea i) (eb · j) (tc.at i j)) tc)) ∧
        (cmdCode v = 5 → ta.cols = tc.rows → ta.rows = tb.rows → tb.cols = tc.cols → served (.mmat quad src)
          (wrote 1 (fun i j => sum ta.rows (ea · i) (eb · j) (tc.at i j)) tc)) ∧
        (cmdCode v = 6 → fc.smode = 0 → ta.rows = tc.rows → ta.cols = tb.rows → tb.cols = tc.cols → ∀ sa sb w z,
          u.agentRead who (BitVec.ofNat 64 (cmdD v 1)) tc.rows = .ok (sa, w) →
          w.agentRead who (BitVec.ofNat 64 (cmdD v 2)) tc.cols = .ok (sb, z) → served (.mmas quad src)
            (wrote 1 (fun i j => sum ta.cols (fun x => scaleVal (ea i x) ((sa.map BitVec.toNat).getD i 127))
              (fun x => scaleVal (eb x j) ((sb.map BitVec.toNat).getD j 127)) (tc.at i j)) tc))) ∧
      (∀ td tk, own 1 td → own 2 tk → cmdCode v = 12 → tk.fmt = 5 → td.fmt ≠ 5 → td.rows = tk.rows → td.cols = tk.cols →
        (bit d0 16 = true → served (.mmask quad src)
          (wrote 2 (fun i j => if (Val.num false 0 0).lt (fc.val td.fmt (td.at i j)) then 1 else 0) tk)) ∧
        (bit d0 16 = false → served (.mmask quad src) (wrote 1 (fun i j => if tk.at i j = 0 then 0 else td.at i j) td))) ∧
      (∀ t0 bs w, own 1 t0 →
        (cmdCode v = 3 → (bit d0 16 = true → t0.cols = 32 ∧ 16 * 2 ^ (d0 / 2 ^ 17 % 8) ≤ rowBytes t0.fmt t0.cols) →
          rowAlign (BitVec.ofNat 64 (cmdD v 1)) (BitVec.ofNat 64 (cmdD v 2)) t0.rows t0.fmt = .ok () →
          u.agentReads who ((List.range t0.rows).flatMap (mldRow v (rowBytes t0.fmt t0.cols))) = .ok (bs, w) →
          served (.mld quad src) fun t => ((t.quad quad).tile (cmdTile v 1)).els = (List.range t0.rows).flatMap fun i =>
            unpackRow t0.fmt t0.cols ((bs.drop (i * rowBytes t0.fmt t0.cols)).take (rowBytes t0.fmt t0.cols))) ∧
        (cmdCode v = 7 → t0.fmt = d0 / 2 ^ 26 % 16 → shapeOk t0.fmt t0.cols = true →
          rowAlign (BitVec.ofNat 64 (cmdD v 1)) (BitVec.ofNat 64 (cmdD v 2)) t0.rows t0.fmt = .ok () →
          u.agentWrites who ((List.range t0.rows).map fun i =>
            (BitVec.ofNat 64 (cmdD v 1) + BitVec.ofNat 64 i * BitVec.ofNat 64 (cmdD v 2), packRow t0.fmt (t0.row i))) = .ok w →
          served (.mst quad src) fun t => t.mem = w.mem) ∧
        (cmdCode v = 13 → bit d0 16 = false → cmdD v 1 % 4 = 0 →
          u.agentWrite who (BitVec.ofNat 64 (cmdD v 1)) (toBytes 4 (rne32 (normVal fc t0))) = .ok w →
          served (.mnorm quad src) fun t => t.mem = w.mem)) ∧
      (∀ w, cmdCode v = 11 → bit d0 11 = false → cmdD v 1 % (if bit d0 12 then 8 else 4) = 0 →
        u.agentWrite who (BitVec.ofNat 64 (cmdD v 1)) (toBytes (if bit d0 12 then 8 else 4) (cmdD v 2))
          (sc := some (d0 / 2 ^ 8 % 8)) = .ok w →
        served (.msync quad src) fun t => t.mem = w.mem) ∧
      (∀ tw tg tm tv x w y z, own 1 tw → own 2 tg → own 3 tm → own 4 tv → cmdCode v = 10 → optHandleOk v c.cb = true →
        (∀ site : CmdSite, (∀ a b, site.same a b = (cmdTile v a == cmdTile v b)) → optFlaw site tw tg tm tv = Option.none) →
        u.agentRead { who with acq := some (cbSc c.cb) } (cbPair c.cb) 4 = .ok (x, w) →
        w.agentRead who (cbAddr c.cb (d0 / 2 ^ 28 % 256 * 64)) 4 = .ok (y, z) → tw.fmt = 0 →
        ∀ cl, optClip (cmdOpt v) (ofBytes y) = some cl → served (.mopt quad src) fun t =>
          let e := fun i j => optElem (cmdOpt v) 0 cl (tw.at i j) (tg.at i j) (tm.at i j) (tv.at i j)
          (∀ i j, i < tw.rows → j < tw.cols → ((t.quad quad).tile (cmdTile v 1)).at i j = (e i j).1.bits) ∧
            ∀ i j, i < tw.rows → j < tw.cols → ((t.quad quad).tile (cmdTile v 3)).at i j = (e i j).2.1))

/-- A served command retires: its queue moves on and its core's event latches are set; a meeting with NOTE posts its firing. A
head command that has waited for its tiles or its norm for WAITLIM cycles of its core is not served: it is refused with reason 6.
It rests on the choices of log entries 1 and 21. -/
def Sys2Proof.Says.LanternRetirement : Prop :=
  ∀ (s : State) (quad : Nat) (src : Fin 5),
    let g := 4 * quad + src.val
    (src.val < 4 →
      (∀ c l, (s.cmdQueue g).cmds = c :: l → c.served = true → Completes s (.lanternRetire quad src) fun t =>
        (t.cmdQueue g).cmds.map Cmd.bytes = l.map Cmd.bytes ∧ (∀ m, (t.ctx ⟨g, m⟩).evl = true) ∧ SameMemory s t) ∧
      (∀ c l, (s.cmdQueue g).cmds = c :: l → c.served = false → NotEnabled s (.lanternRetire quad src)) ∧
      (∀ c, s.headCmd quad src.val = some c →
        (c.late = true ∨ (s.cmdWaits quad src.val c = true ∧ c.headSince + (s.core g).waitlim.toNat ≤ s.now) → Completes s (.lanternWaitTimeout quad src) fun t =>
          (t.cmdQueue g).halted = true ∧ ∃ f, (t.ctx ⟨g, c.ctx⟩).charged = (s.ctx ⟨g, c.ctx⟩).charged ++ [⟨f, false⟩] ∧
            f.cause = 0x0E ∧ f.value.toNat % 2 ^ 16 = cmdCode c.bytes * 256 + 6) ∧
        (c.late = true → s.srcTurn quad src = false) ∧
        (c.late = false → s.cmdWaits quad src.val c = false ∨ s.now < c.headSince + (s.core g).waitlim.toNat →
          NotEnabled s (.lanternWaitTimeout quad src)))) ∧
    (src.val = 4 → ∀ m l, (s.quad quad).meetings = m :: l → m.served = true → m.recovery = false →
      (entNote m.entry = false → Completes s (.lanternRetire quad src) fun t => (t.quad quad).meetings.length = l.length ∧
        (m.crossings = [] → ((s.cluster m.clu).phase m.ring m.trk.val).faulted = false → t.cores = s.cores ∧ SameMemory s t)) ∧
      (entNote m.entry = true → (s.core (quad * 4 + entNcore m.entry)).mayPost 4 = true → Completes s (.lanternRetire quad src) fun t =>
        (t.quad quad).meetings.length = l.length ∧ ∃ p : Pending,
          (t.core (quad * 4 + entNcore m.entry)).firings = (s.core (quad * 4 + entNcore m.entry)).firings ++ [p] ∧ p.kind = 4 ∧
            p.hidx = tmplNhidx m.tmpl ∧
            p.fa = [BitVec.ofNat 64 (m.station + m.trk.val * 2 ^ 4 + m.entryIx * 2 ^ 8), m.phase.setWidth 64]))

/-- The steps of a Lantern complete where the manual lets them take place. -/
def Obligations.LanternSteps : Prop := Says.LanternCommands ∧ Says.LanternRetirement

/-! ### The ring, the copy engine, the Snuffer and the prune/regrow engine between words (12, 17, 18) -/

/-- A beat moves the tiles of a running phase one station on, and the last one drains it; a parity error on a link ends it with
STATUS 2 and POISON, once its accepted meetings have retired. An accepted pair's entry becomes MET and counts; its command is in
the station's buffer, or RING_FAULT ends the phase. A missed one is MISSED. A settled phase completes with its
record, or ends with RING_FAULT where its count falls short. A record whose write fails leaves the last one, and its opener
is charged.
It rests on the choices of log entries 1, 22 and 50. -/
def Sys2Proof.Says.RingSteps : Prop :=
  ∀ (s : State) (clu ring : Nat) (trk : Fin 2),
    let c := s.cluster clu
    let p := c.phase ring trk.val
    let other := c.phase ring (1 - trk.val)
    let opener : CtxRef := ⟨p.core, p.ctx⟩
    let now := fun (t : State) => (t.cluster clu).phase ring trk.val
    let wrote := fun (t : State) (n : Nat) => (now t).lastRec = p.record n ∨
      ((now t).lastRec = p.lastRec ∧ ∃ f ∈ (t.ctx opener).charged, f.record.agent = .ring ∧ f.record.xid = p.num)
    -- A fault has ended the phase: it drains while accepted meetings are left or XLATE holds its record, else it is IDLE.
    let ended := fun (t : State) =>
      (s.meetingsOf clu ring trk.val ≠ [] ∧ (now t).st = .draining ∧ (now t).faulted = true) ∨
        (s.meetingsOf clu ring trk.val = [] ∧ (((now t).st = .idle ∧ wrote t 2) ∨
          ((now t).st = .draining ∧ (now t).closing = some 2 ∧ t.engineHeld p.core (.ring trk) = true)))
    let fault := fun (t : State) (cause : BitVec 8) => ∃ f ∈ (t.ctx opener).charged, f.record.cause = cause ∧ f.record.agent = .ring ∧
      f.record.xid = p.num
    (ring < c.ringCount → p.st = .running → other.st = .idle → (∀ st k e w, c.matching ring st k e w = Option.none) →
      Completes s (.ringBeat clu ring []) fun t => SameMemory s t ∧ t.quads = s.quads ∧
        now t = if p.beat + 1 < p.nb then { p with beat := p.beat + 1 }
          else { p with beat := p.beat + 1, st := .draining, missedAtEnd := (c.missedEntries ring trk.val).length }) ∧
    (ring < c.ringCount → p.st = .running → other.st = .idle → p.faulted = false → p.closing = Option.none →
      Completes s (.ringBeat clu ring [trk]) fun t => fault t 0x05 ∧ ended t) ∧
    (p.st = .idle → other.st = .idle → NotEnabled s (.ringBeat clu ring [])) ∧
    (∀ st ix rank e w, (s.core p.core).journal.on = false → p.st ≠ .idle → p.faulted = false → p.closing = Option.none →
      let old := c.entry ring st trk.val ix
      let u := (s.modCluster clu fun c => c.setEntry ring st trk.val ix (entMeet old)).modPhase clu ring trk.val fun p =>
        { p with c := p.c + 1, missed := p.missed.filter fun m => !(m.station == st && m.entryIx == ix) }
      let t := s.acceptPair clu ring st trk.val ix rank e w
      let x := (t.cluster clu).entry ring st trk.val ix
      entMet x = true ∧ entMissed x = false ∧ entMcnt x = (entMcnt old + 1) % 2 ^ 16 ∧ (now t).c = p.c + 1 ∧
        (c.template ring st (entTmpl old) = Option.none → fault t 0x0D) ∧
        ∀ y, c.template ring st (entTmpl old) = some y →
          let m := u.meeting clu ring st trk ix rank (entMeet old) y e w false
          ((u.meetFlaw m).1 ≠ Option.none → fault t 0x0D) ∧
          ((u.meetFlaw m).1 = Option.none → (t.quad (stationGlobal c clu ring st)).meetings =
            (s.quad (stationGlobal c clu ring st)).meetings ++ [m]) ∧
          (p.expect < p.c + 1 → fault t 0x0D)) ∧
    (∀ st ix e w, (s.core p.core).journal.on = false →
      let t := s.missPair clu ring st trk.val ix e w
      entMissed ((t.cluster clu).entry ring st trk.val ix) = true ∧ (now t).c = p.c ∧
        { station := st, entryIx := ix, east := e, west := w } ∈ (now t).missed) ∧
    (p.st = .draining → p.faulted = false → s.drained clu ring trk.val = true → c.missedEntries ring trk.val ≠ [] →
      Completes s (.ringDrainEnd clu ring trk) fun t => now t = { p with st := .recover } ∧ t.cores = s.cores ∧ SameMemory s t) ∧
    (s.settled clu ring trk.val = true → p.c ≠ p.expect → Completes s (.ringDrainEnd clu ring trk) fun t =>
      fault t 0x0D ∧ ended t) ∧
    (s.settled clu ring trk.val = true → p.c = p.expect → Completes s (.phaseComplete clu ring trk) fun t =>
      ((now t).st = .idle ∧ wrote t 1 ∧ ∀ m, (t.ctx ⟨p.core, m⟩).evl = true) ∨
        ((now t).closing = some 1 ∧ t.engineHeld p.core (.ring trk) = true)) ∧
    (∀ n, p.closing = some n →
      (s.engineHeld p.core (.ring trk) = true → NotEnabled s (.phaseComplete clu ring trk)) ∧
      (s.engineHeld p.core (.ring trk) = false → Completes s (.phaseComplete clu ring trk) fun t =>
        (now t).st = .idle ∧ (now t).lastRec = p.lastRec ∧ ∀ m, (t.ctx ⟨p.core, m⟩).evl = true)) ∧
    (s.settled clu ring trk.val = false → p.closing = Option.none → NotEnabled s (.phaseComplete clu ring trk)) ∧
    (∀ i x u, p.west[i]? = some x → p.st = .draining → p.faulted = false → tileAcc x.hdr1 = true → x.station ∉ p.delivered →
      (∀ m ∈ s.meetingsOf clu ring trk.val, m.west.station ≠ x.station ∨ m.recovery = true) →
      s.agentWrite (s.whoAgent (tileHome x.hdr1) 2) x.dst x.data = .ok u → Completes s (.accDelivery clu ring trk i) fun t =>
        (now t).delivered = p.delivered ++ [x.station] ∧ t.mem = u.mem) ∧
    (∀ st m e w u v, st < c.ringLen → ring < c.ringCount → s.nextRecovery clu ring st trk.val = some m →
      s.zeroFirst clu ring st = decide (trk = 0) →
      (s.quad (clu * 16 + (ring * c.ringLen + st))).meetings.length < 8 → (s.core p.core).journal.on = false →
      (s.beginRecovery clu ring trk.val m).original clu ring trk.val m.east = .ok (e, u) →
      u.original clu ring trk.val m.west = .ok (w, v) →
      let old := c.entry ring st trk.val m.entryIx
      let from_ := if p.recov then (m.entry, m.tmpl) else (entMeet old, c.template ring st (entTmpl old))
      ∀ y, from_.2 = some y →
        let x := v.meeting clu ring st trk m.entryIx 0 from_.1 y e w true
        (v.meetFlaw x).1 = Option.none →
        Completes s (.recoveryStart clu (ring * c.ringLen + st) trk m.entryIx) fun t =>
          let q := stationGlobal (v.cluster clu) clu ring st
          (t.quad q).meetings = (v.quad q).meetings ++ [x]) ∧
    (∀ g i a bs u w, cluOfCore g = clu → c.lateAdds[i]? = some a → a.home = g → a.ring = ring → a.trk = trk → a.west ∈ p.delivered →
      (∀ b ∈ c.lateAdds.take i, b.dst ≠ a.dst) → (s.core g).journal.on = false → p.c + 1 ≤ p.expect →
      let z := s.modCluster clu fun c => { c with lateAdds := c.lateAdds.eraseIdx i }
      let rb := rowBytes 0 a.product.cols
      let old := { a.product with els := (List.range a.product.rows).flatMap fun r => unpackRow 0 a.product.cols ((bs.drop (r * rb)).take rb) }
      z.agentRead (z.whoAgent g 2) a.dst a.product.bytes.length = .ok (bs, u) →
      u.agentWrite (z.whoAgent g 2) a.dst (addTiles old a.product).bytes = .ok w → Completes s (.lateAddApply g i) fun t =>
        t.mem = w.mem ∧ (now t).c = p.c + 1 ∧ (now t).late = p.late + 1 ∧ (t.cluster clu).lateAdds = c.lateAdds.eraseIdx i)

/-- An idle copy engine starts the oldest queued copy, which acquires its launch and moves its rows; once its writes are
performed, an ended copy leaves it with its history entry, its firing and its issuer's latches.
It rests on the choices of log entries 1 and 23. -/
def Sys2Proof.Says.CopySteps : Prop :=
  ∀ (s₀ : State) (g : Nat),
    let s := s₀
    let e := (s.core g).copy
    (∀ j l, e.running = Option.none → e.queue = j :: l → s.engineHeld g .copy = false →
      let u := (s.acquire (s.whoAgent g) j.tags).modCore g fun k =>
        { k with copy := { k.copy with queue := l, running := some { job := j } } }
      ∀ k m, u.moveRows (u.whoAgent g) (j.write g) j.shadow (cpyRows j.shadow) 0 = (k, m) → Completes s (.copyStart g) fun t =>
        (t.core g).copy.queue = l ∧
        (m.bad = Option.none → (t.core g).copy.running =
          some { job := j, row := k, bytes := k * cpyRb j.shadow + m.bytes, status := some 1 } ∧ t.mem = m.s.mem) ∧
        (∀ b kind, m.bad = some (b, kind) → b.cause ≠ 0x04 → ∃ c, (t.core g).copy.running = some c ∧ c.job = j ∧ c.row = k ∧
          c.status = some 2 ∧ c.cause = b.cause)) ∧
    (e.running ≠ Option.none → NotEnabled s (.copyStart g)) ∧
    (s.engineHeld g .copy = true → NotEnabled s (.copyStart g)) ∧
    let s := s.performSome g fun w => w.agent == .copy
    let e := (s.core g).copy
    let old := fun (i : Instr) (p : State → Prop) => Completes s₀ i p
    (s.engineHeld g .copy = true → NotEnabled s₀ (.copyComplete g)) ∧
    (∀ c x, e.ending = [] → e.running = some c → c.status = some x → s.mayFinish g c x = true → (s.core g).journal.on = false →
      s.engineHeld g .copy = false →
      let b := c.job.block
      let left := fun (t : State) => (t.core g).copy.running = Option.none ∧
        (∃ h, (t.core g).copy.history.head? = some h ∧ h.xid = c.job.xid ∧ h.status = x ∧ h.cause = c.cause) ∧
        (t.core g).firings.length = (s.core g).firings.length + (if bit (blkMisc b) 35 then 1 else 0) ∧
        (blkRec b ≠ 0 → c.stage ≠ 2 → ∀ m, (t.ctx ⟨g, m⟩).evl = true)
      (old (.copyComplete g) fun t => left t ∨
        (t.engineHeld g .copy = true ∧ ∃ n, (t.core g).copy.running = some { c with stage := n })) ∧
      (c.stage = 2 ∨ ((blkRec b = 0 ∨ c.stage = 1) ∧ (blkCnt b = 0 ∨ x ≠ 1)) → old (.copyComplete g) left)) ∧
    (∀ c, e.ending = [] → e.running = some c → c.status = Option.none → NotEnabled s₀ (.copyComplete g)) ∧
    (∀ c l, e.ending = c :: l → s.mayFinish g c 3 = true → s.engineHeld g .copy = false → old (.copyComplete g) fun t =>
      (t.core g).copy.ending = l ∨ (t.engineHeld g .copy = true ∧ ∃ n, (t.core g).copy.ending = { c with stage := n } :: l))

/-- A drop ends with its region free and every sector of its lines that is homed on the die gone from its slice, unwritten; every
other sector stays. A prune/regrow job runs at the head of an idle engine; a record that is unreadable or malformed ends it with
RESULT 4 or 1. What a STEP or a DRAW does beyond that is given through `Lay.step` and `Lay.draw`.
It rests on the choices of log entries 1, 25, 27 and 52. -/
def Sys2Proof.Says.EngineSteps : Prop :=
  ∀ (s : State) (die : Nat),
    let d := s.die die
    (∀ i r, SMap.find d.regions i = some r → r.dropping = true → Completes s (.snufferDropEnd die i) fun t =>
      (SMap.sorted d.regions = true → SMap.find (t.die die).regions i = Option.none) ∧
        (r.stash = Option.none → t.mem = s.mem ∧ t.cores = s.cores ∧ (SMap.sorted s.sectors = true →
          let dropped := fun (q : Nat) => ∃ n p h plc pol es, n < r.size / 192 ∧
            s.translate (s.whoDie r.core die) .any (r.base.toNat + 192 * n) = .ok (⟨p, .hbm die h plc pol⟩, es) ∧
            q ∈ sectorsOfLine (lineKey plc p)
          ∀ q, (dropped q → SMap.find t.sectors q = Option.none) ∧
            (¬ dropped q → SMap.find t.sectors q = SMap.find s.sectors q)))) ∧
    (∀ i r, SMap.find d.regions i = some r → r.dropping = false → NotEnabled s (.snufferDropEnd die i)) ∧
    (∀ j l, d.prgQueue = j :: l → s.prgIdle die = true →
      let u := s.modDie die fun d => { d with prgQueue := l }
      let ends := fun (i : Instr) (w : State) (n hwm : Nat) => Completes s i fun t => t = w.endPrg die j ⟨n, 0, 0, 0⟩ hwm ∧
        (t.prgHeld die = false → ∀ m, (t.ctx ⟨j.core, m⟩).evl = true)
      (∀ n w, u.openJob die j.core j.l = .error (n, w) → (n = 4 ∨ n = 1) ∧ (j.op = 0 → ends (.prgStep die) w n 0) ∧
        (j.op = 1 → ends (.prgDraw die) w n 0) ∧ (j.op = 2 → ends (.prgRepack die) w n 0)) ∧
      (∀ y w, u.openJob die j.core j.l = .ok (y, w) →
        (j.op = 0 → (vtState (lr y.r (0x78 + 8 * ((y.newest + 1) % 4)) 63 0) ≠ 0 ∨ lr y.r 0x70 31 16 ≠ 0xFFFF) →
          ends (.prgStep die) w 2 (y.hwm (w.cluster y.clu))) ∧
        (∀ x z, j.op = 0 → y.step w = .ok (x, z) → Completes s (.prgStep die) fun t =>
          t = z.endPrg die j x (y.hwm (z.cluster y.clu))) ∧
        (∀ z, j.op = 0 → y.step w = .error z → ends (.prgStep die) z 4 (y.hwm (z.cluster y.clu))) ∧
        (∀ x e z, j.op = 1 → y.draw w = .ok (x, e, z) → Completes s (.prgDraw die) fun t =>
          t = match e with
            | some n => z.endPrg die j n (y.hwm (z.cluster y.clu))
            | Option.none => z.modDie die fun d => { d with draw := some ⟨j, y.r, x.seed, x.drawn, x.made, x.got⟩ }) ∧
        (∀ z, j.op = 1 → y.draw w = .error z → ends (.prgDraw die) z 4 (y.hwm (z.cluster y.clu))) ∧
        (j.op = 2 → lr y.r 0x70 31 16 ≠ y.newest + 1 → ends (.prgRepack die) w 2 (y.hwm (w.cluster y.clu))) ∧
        (∀ v z, j.op = 2 → lr y.r 0x70 31 16 = y.newest + 1 → w.shadvNow die j.core j.l = .ok (v, z) →
          (v ≠ y.newest + 1 ∨ ∀ st ∈ y.stations, z.nextMove y st = Option.none) →
          ends (.prgRepack die) (z.modDie die fun d => { d with repack := Option.none }) 0 (y.hwm (z.cluster y.clu))))) ∧
    (∀ j r m y v z, d.repack = some ⟨j, r, some m⟩ →
      let u := s.modDie die fun d => { d with repack := some ⟨j, r, Option.none⟩ }
      u.layOf j.core j.l r = some y → u.shadvNow die j.core j.l = .ok (v, z) → Completes s (.repackSlotSwitch die) fun t =>
        t = if v = lr r 0x70 31 16 ∧ m.fromSlot ∉ z.pinned y m.station then z.modCluster y.clu (y.switchSlot (v % 4) m) else z) ∧
    (∀ j l, d.retire = j :: l → j.freed = Option.none → d.repack = Option.none → d.draw = Option.none → s.prgHeld die = false →
      (∀ n w, s.openJob die j.core j.l = .error (n, w) → Completes s (.retirementJob die) fun t =>
        t = (w.modDie die fun d => { d with retire := l }).endRetire die j.core j.l j.version) ∧
      (∀ y w, s.openJob die j.core j.l = .ok (y, w) → (∀ st, w.pinned y st = []) → Completes s (.retirementJob die) fun t =>
        t = ((w.modCluster y.clu fun k => { k with entries := (y.retire j.version (w.cluster y.clu)).1.entries }).modDie die
          fun d => { d with retire := l }).endRetire die j.core j.l j.version)) ∧
    (d.retire = [] → NotEnabled s (.retirementJob die))

/-- What jobs do to the entries of their layer. A STEP with RESULT 2 or 3 changes nothing. A dropped block's entries die at
v + 1, in every pass. A candidate is regrown at its station's lowest free slot and first free entries, valid from v + 1 on
with status 0. A draw advances SEED once and takes the block of the remainder; it is accepted where the block is neither drawn nor
live and its station has a free candidate entry and slot, and that entry is then a candidate that lives at v only, on that slot, whose
G is zeroed. -/
def Sys2Proof.Says.JobEntries : Prop :=
  ∀ (s : State) (y : Lay) (v : Nat) (p : Plan), v + 1 < 2 ^ 16 →
    let idsOk := fun (q b : Nat) => (y.ids q (b / y.gc) (b % y.gc)).1 < 2 ^ 16 ∧ (y.ids q (b / y.gc) (b % y.gc)).2 < 2 ^ 16
    (∀ x z, y.step s = .ok (x, z) → x.result = 2 ∨ x.result = 3 → z = s) ∧
    (SMap.sorted p.c.entries = true →
      (∀ (x : Blk) q, q ∈ y.passes → entDied (y.get (y.drop v p x).c x.st (y.trk q, y.entb q + x.n)) = v + 1) ∧
      ∀ (n : Nat) (x : Blk) (k f : Nat),
        (List.range y.nent).find? (fun n => (y.blockKeys n).all fun k => !entValid (y.get p.c (y.station x.b) k)) = some k →
        s.freeSlot y p.c (y.station x.b) = some f → f < 2 ^ 15 → (∀ q ∈ y.passes, idsOk q x.b) →
        (s.regrow y v p (n, x)).grown = p.grown ++ [⟨x.b, y.station x.b, k⟩] ∧
        ∀ q, q ∈ y.passes → let e := y.get (s.regrow y v p (n, x)).c (y.station x.b) (y.trk q, y.entb q + k)
          entValid e = true ∧ entCand e = false ∧ entBorn e = v + 1 ∧ entDied e = 0xFFFF ∧ entSv e (v + 1) = true ∧
            entSlot e (v + 1) = f ∧ entMet e = false ∧ entMissed e = false ∧ entMcnt e = 0) ∧
    ((s.core y.g).journal.replaying = false → ∀ x : Draw, let r := s.drawOne y v x
      let b := r.2.1
      let st := y.station b
      r.1.seed = lfsrNext x.seed ∧ b = (lfsrNext x.seed).toNat % (y.gr * y.gc) ∧ r.1.made = x.made + 1 ∧
      (r.2.2 = true ↔ b ∉ x.drawn ∧ (∀ z ∈ y.live x.p.c v, z.b ≠ b) ∧ (∃ k ∈ y.candKeys, entValid (y.get x.p.c st k) = false) ∧
        ∃ f, s.freeSlot y x.p.c st = some f) ∧
      (r.2.2 = true → r.1.got = x.got + 1 ∧ ∀ f, s.freeSlot y x.p.c st = some f → f < 2 ^ 15 → idsOk 2 b →
        SMap.sorted x.p.c.entries = true →
        .bytes (y.block st f 1) (List.replicate y.bs 0) ∈ r.1.p.ws ∧
        ∃ k ∈ y.candKeys, entValid (y.get x.p.c st k) = false ∧ let e := y.get r.1.p.c st k
          entValid e = true ∧ entCand e = true ∧ entBorn e = v ∧ entDied e = v + 1 ∧ entSv e v = true ∧ entSlot e v = f) ∧
      (r.2.2 = false → r.1.got = x.got ∧ r.1.p = x.p))

/-- The steps of the rings, the copy engines, the Snuffers and the prune/regrow engines, and what jobs do to a layer's entries. -/
def Obligations.EngineSteps : Prop := Says.RingSteps ∧ Says.CopySteps ∧ Says.EngineSteps ∧ Says.JobEntries

/-! ### Links, collectives and the reshard engine between words (14 R415, 21 R377 to R393, R417) -/

/-- A fault stands last among those charged to a context. -/
def Sys2Proof.Says.Charges (s t : State) (r : CtxRef) (cause : BitVec 8) (value : Word) : Prop :=
  ∃ f, (t.ctx r).charged = (s.ctx r).charged ++ [⟨f, false⟩] ∧ f.cause = cause ∧ f.value = value

/-- A put's bytes go to the peer and it ends with STATUS 1; where the peer fails after some words it ends with STATUS 2 and
REMOTE_ERROR, and where the links drop a word, with STATUS 2 and POISON at that word; the bytes before stand. Over a link that is no
longer paired with the team it ends with STATUS 2 and REMOTE_ERROR, and nothing more goes. Its record is then
written and the issuer's latches are set, once XLATE does not hold the record. -/
def Sys2Proof.Says.PutTransfers : Prop :=
  ∀ (s : State) (g l : Nat),
    let k := s.core g
    let who := s.whoAgent g 3
    (∀ d a c done w r, s.linkHead g l = some (.put d a c done Option.none w, r) →
      let n := df d 0x10 31 0
      let src := d.getD 0 0 + BitVec.ofNat 64 done
      let dst := d.getD 1 0 + BitVec.ofNat 64 done
      ∀ m bs u, (s.resolve who .read src.toNat m).isOk → s.agentRead who src m = .ok (bs, u) →
        let sent := fun (t : State) => bs ≠ [] → t.dev.out = u.dev.out ++ [.putBytes l (u.peerTag l) dst bs]
        (s.linkPaired l (s.tidOf g) = false → m = 0 → ∀ peer, Completes s (.linkPutTransfer g l peer) fun t =>
          (t.core g).opsOn l = .put d a c done (some 2) 0x12 :: r ∧ t.dev.out = u.dev.out ∧ Says.Charges u t ⟨g, c⟩ 0x12 a) ∧
        (s.linkPaired l (s.tidOf g) = true → m = n - done → done ≤ n → Completes s (.linkPutTransfer g l .performed) fun t =>
          (t.core g).opsOn l = .put d a c n (some 1) 0 :: r ∧ sent t ∧ t.mem = u.mem) ∧
        (s.linkPaired l (s.tidOf g) = true → ∀ i, m = min (done + 8 * i) n - done →
          (Completes s (.linkPutTransfer g l (.failed i)) fun t =>
            (t.core g).opsOn l = .put d a c (done + m) (some 2) 0x12 :: r ∧ sent t ∧ Says.Charges u t ⟨g, c⟩ 0x12 a) ∧
          Completes s (.linkPutTransfer g l (.dropped i)) fun t =>
            (t.core g).opsOn l = .put d a c (done + m) (some 2) 0x05 :: r ∧ sent t ∧
              Says.Charges u t ⟨g, c⟩ 0x05 (d.getD 1 0 + BitVec.ofNat 64 (done + m)))) ∧
    (s.linkHead g l = Option.none → NotEnabled s (.linkPutTransfer g l .performed) ∧ NotEnabled s (.rbTransfer g l .performed)) ∧
    (let ends := fun (r : List LinkOp) (t : State) => (r ≠ [] ∨ SMap.sorted k.linkOps = true → (t.core g).opsOn l = r) ∧
      ∀ m, (t.ctx ⟨g, m⟩).evl = true
    s.linkHeld g l = false →
      (∀ d a c done st w r, k.opsOn l = .put d a c done (some st) w :: r →
        (Completes s (.linkPutComplete g l) fun t => ends r t ∨
          (t.engineHeld g (.link l) = true ∧ (t.core g).opsOn l = .closing :: r)) ∧
        (d.getD 3 0 = 0 → Completes s (.linkPutComplete g l) fun t => ends r t ∧ SameMemory s t)) ∧
      ∀ r, k.opsOn l = .closing :: r → Completes s (.linkPutComplete g l) fun t => ends r t ∧ SameMemory s t)

/-- A pushed slot goes to the peer with its fill; where the peer fails after some words it ends with REMOTE_ERROR, and where the links
drop a word, with POISON at that word; the bytes before stand. A returned slot's add goes to the peer. Fill adds, which the link
acknowledges, return adds and acknowledgements move the counts of remote buffers, where the pairing is symmetric. -/
def Sys2Proof.Says.BufferTransfers : Prop :=
  ∀ (s : State) (g l : Nat),
    let k := s.core g
    (∀ d a src slot c done r, s.linkHead g l = some (.slot d a src slot c done, r) → s.linkPaired l (s.tidOf g) = true →
      let n := df d 0x10 24 0
      let src := src + BitVec.ofNat 64 done
      let dst := d.getD 0 0 + BitVec.ofNat 64 (slot * n)
      ∀ m bs u, (s.resolve (s.whoAgent g 3) .read src.toNat m).isOk → s.agentRead (s.whoAgent g 3) src m = .ok (bs, u) → bs ≠ [] →
        let bytes : Out := .putBytes l (u.peerTag l) (dst + BitVec.ofNat 64 done) bs
        (m = n - done → done ≤ n → Completes s (.rbTransfer g l .performed) fun t =>
          t.dev.out = u.dev.out ++ [bytes, .fill l (u.peerTag l) (df d 8 39 27) (df d 8 13 0)] ∧
          SMap.find (t.core g).fillsOut (a.toNat % 0x80000) =
            some ((SMap.find (u.core g).fillsOut (a.toNat % 0x80000)).getD 0 + 1)) ∧
        (∀ i, m = min (done + 8 * i) n - done → done + m < n →
          (Completes s (.rbTransfer g l (.failed i)) fun t => t.dev.out = u.dev.out ++ [bytes] ∧ Says.Charges u t ⟨g, c⟩ 0x12 a) ∧
          Completes s (.rbTransfer g l (.dropped i)) fun t => t.dev.out = u.dev.out ++ [bytes] ∧
            Says.Charges u t ⟨g, c⟩ 0x05 (dst + BitVec.ofNat 64 (done + m)))) ∧
    (∀ d a c r, s.linkHead g l = some (.ret d a c, r) → s.linkPaired l (s.tidOf g) = true →
      (Completes s (.rbTransfer g l .performed) fun t =>
        t.dev.out = s.dev.out ++ [.ret l (s.peerTag l) (df d 8 39 27) (df d 8 13 0)] ∧ SameMemory s t) ∧
      ∀ i, Completes s (.rbTransfer g l (.failed i)) fun t => Says.Charges s t ⟨g, c⟩ 0x12 a ∧ SameMemory s t) ∧
    (∀ desc, s.linkUp l = true → g < 8192 → desc < 2 ^ 14 →
      (s.linkPaired l (s.tidOf g) = false ∨ s.linkSymmetric l = false →
        (Completes s (.fillAdd l g desc) fun t => t = s) ∧ Completes s (.returnAdd l g desc) fun t => t = s) ∧
      (s.linkPaired l (s.tidOf g) = true → s.linkSymmetric l = true →
        let adds := fun (off : Nat) => s.agentAtom (s.whoAgent g) (BitVec.ofNat 64 (tcmPlace g (desc * 32 + off))) 4
          (fun b => toBytes 4 ((ofBytes b + 1) % 2 ^ 32)) (sc := some 5)
        (∀ bs u, adds 0x18 = .ok (bs, u) → Completes s (.fillAdd l g desc) fun t =>
          t = { u with dev := { u.dev with out := u.dev.out ++ [.fillAck l g desc] } }) ∧
        ∀ bs u, adds 0x1C = .ok (bs, u) → Completes s (.returnAdd l g desc) fun t => t = u)) ∧
    (s.linkUp l = false → ∀ desc, NotEnabled s (.fillAdd l g desc) ∧ NotEnabled s (.returnAdd l g desc)) ∧
    (∀ desc n m, SMap.find k.fillsOut (desc * 32) = some (n + 1) → SMap.find k.unfilled (desc * 32) = some (m + 1) →
      Completes s (.fillAck g desc) fun t => SMap.find (t.core g).unfilled (desc * 32) = some m ∧ SameMemory s t)

/-- A link that is paired with the team moves what its cores have queued: puts, slots, fill adds, return adds and their
acknowledgements.
It rests on the choices of log entries 1 and 24. -/
def Sys2Proof.Says.LinkTransfers : Prop := Says.PutTransfers ∧ Says.BufferTransfers

/-- A link that goes down reads UP 0 and LANES 0 with its PEER kept; one that trains while the module is up, or runs on fewer lanes,
reads UP 1. A peer's
word is written for the paired team in the address space of the peer's pairing, and nothing where the pairing is not symmetric or
the address is neither translated nor in the all-Lakes window.
It rests on the choices of log entries 1, 24 and 44. -/
def Sys2Proof.Says.LinkChanges : Prop :=
  ∀ (s : State) (l peer lanes : Nat) (target : PeerTarget) (data : List Byte), l < 12 →
    (s.linkUp l = true →
      (Completes s (.linkDown l) fun t => t.linkUp l = false ∧ t.linkLanes l = 0 ∧ t.linkPeer l = s.linkPeer l) ∧
      NotEnabled s (.linkUp l peer lanes) ∧
      (lanes ≠ 0 → lanes ≠ s.linkLanes l → lanes &&& s.linkLanes l = lanes → Completes s (.linkLaneLoss l lanes) fun t =>
        t.linkUp l = true ∧ t.linkLanes l = lanes ∧ t.linkPeer l = s.linkPeer l ∧ t.cores = s.cores ∧ SameMemory s t) ∧
      (SMap.find s.teams target.ptid = Option.none ∨ s.linkPaired l target.ptid = false ∨
        (s.bar (linkReg l + 8)).toNat / 2 ^ 16 % 2 ^ 16 ≠ target.ltid →
        Completes s (.peerTransferServe l target data) fun t => t = s) ∧
      (∀ who, s.whoPeer l target = some who → who.asid = target.pasid ∧ who.team = SMap.find s.teams target.ptid ∧
        (peerAddr target.dst = false → Completes s (.peerTransferServe l target data) fun t => t = s) ∧
        ∀ u, data.length = 8 → peerAddr target.dst = true → s.agentWrite who target.dst data = .ok u →
          Completes s (.peerTransferServe l target data) fun t => t = u)) ∧
    (s.linkUp l = false →
      NotEnabled s (.linkDown l) ∧ NotEnabled s (.linkLaneLoss l lanes) ∧ NotEnabled s (.peerTransferServe l target data) ∧
      (s.hostUp = false → NotEnabled s (.linkUp l peer lanes)) ∧
      (s.hostUp = true → 0 < lanes → lanes < 256 → Completes s (.linkUp l peer lanes) fun t => t.linkUp l = true ∧ t.linkLanes l = lanes ∧
        t.linkPeer l = peer % 65536 ∧ t.cores = s.cores ∧ SameMemory s t))

/-- A collective at the head of its engine contributes once its start word has reached the threshold, ends with STATUS 2 and CAUSE
0x06 where it has not within WAITLIM, and ends at its rank with its result written, or with REMOTE_ERROR, or with POISON where its
transfer was dropped; it leaves the engine
once XLATE does not hold its record.
It rests on the choices of log entries 1, 28 and 51. -/
def Sys2Proof.Says.CollectiveSteps : Prop :=
  ∀ (s : State) (die : Nat) (j : CollJob) (r : List CollJob), (s.die die).collQueue = j :: r →
    let leaves := fun (w : Word) (t : State) =>
      ((∃ c, SMap.find (s.core j.core).colls j.ra.toNat = some c ∧ c.go = j.go) →
        SMap.find (t.core j.core).colls j.ra.toNat = some ⟨some w, collSc j.desc, j.go, collRec j.desc⟩) ∧
      ∀ m, (t.ctx ⟨j.core, m⟩).evl = true
    let closes := fun (t : State) (st cause : Nat) => ∃ w : Word, w.toNat = cause * 2 ^ 24 + st * 2 ^ 16 + collCid j.desc ∧
      (leaves w t ∨ (t.engineHeld j.core (.coll die) = true ∧ (t.die die).collQueue = { j with closing := some w } :: r))
    (s.collHeld die = true → NotEnabled s (.collStart die) ∧ NotEnabled s (.collStartTimeout die) ∧
      ∀ peers, NotEnabled s (.collEnd die peers)) ∧
    (s.collHeld die = false → j.closing = Option.none →
      (j.src = Option.none → j.ended = Option.none →
        (∀ v, s.collMayStart die j = .ok (false, v) → NotEnabled s (.collStart die)) ∧
        (j.mark = some false → NotEnabled s (.collStart die)) ∧
        (∀ bs v u, s.collMayStart die j = .ok (true, v) → j.mark ≠ some false →
          v.agentRead (v.whoDie j.core die) (j.desc.headD 0) (dtWidth (collEt j.desc) / 8 * collSrcLen j.desc) = .ok (bs, u) →
          Completes s (.collStart die) fun t => (t.die die).collQueue =
            { j with src := some (collElems (dtWidth (collEt j.desc) / 8) bs (collSrcLen j.desc)) } :: r)) ∧
      (∀ cause xs, j.ended = some (2, cause, xs) → Completes s (.collEnd die []) fun t => closes t 2 cause.toNat ∧
        ∃ f ∈ (t.ctx ⟨j.core, j.ctx⟩).charged, if cause = 0x05 then f.record.cause = 0x05 ∧ f.record.value = j.desc.getD 1 0
          else f.record.cause = 0x12 ∧ f.record.value = j.ra) ∧
      (∀ cause xs u, j.ended = some (1, cause, xs) →
        s.agentWrite (s.whoDie j.core die) (j.desc.getD 1 0) (xs.flatMap (toBytes (dtWidth (collEt j.desc) / 8))) = .ok u →
        Completes s (.collEnd die []) fun t => closes t 1 0)) ∧
    (∀ w, s.collHeld die = false → j.closing = some w → Completes s (.collEnd die []) (leaves w)) ∧
    (∀ e, j.since = some e → j.src = Option.none → j.ended = Option.none → j.closing = Option.none →
      (e + (s.core j.core).waitlim.toNat ≤ s.now → s.collHeld die = false →
        (j.mark = some false ∨ (∃ v, s.collMayStart die j = .ok (false, v)) →
          Completes s (.collStartTimeout die) fun t => closes t 2 6) ∧
        ∀ v, j.mark ≠ some false → s.collMayStart die j = .ok (true, v) → NotEnabled s (.collStartTimeout die)) ∧
      (s.now < e + (s.core j.core).waitlim.toNat → NotEnabled s (.collStartTimeout die)))

/-- A reshard pass starts at CURSOR, or finishes where every region is complete; one of the 8 regions in flight that moves within the
module is read and written, and CURSOR and BYTES advance, over the longest complete prefix: they stay while CURSOR's own region is
not complete.
It rests on the choices of log entries 1 and 14. -/
def Sys2Proof.Says.ReshardSteps : Prop :=
  ∀ (s : State) (die : Nat) (j : ReshardJob) (r : List ReshardJob), (s.die die).reshardQueue = j :: r → s.reshardHeld die = false →
    (j.started = true → j.closing = true → Completes s (.reshardRegionDone die .performed) fun t =>
      t = (s.popReshard die).wake j.core) ∧
    (j.started = true → NotEnabled s (.reshardPassStart die)) ∧
    (j.started = false → ∀ peer, NotEnabled s (.reshardRegionDone die peer)) ∧
    ∀ p z, s.jobRecord j = .ok (p, z) →
      (j.started = false →
        (p.getD 4 0 ≤ p.getD 3 0 → Completes s (.reshardPassStart die) fun t => t = z.finishReshard die j p ∧
          (t.reshardHeld die = false → ∀ m, (t.ctx ⟨j.core, m⟩).evl = true)) ∧
        (p.getD 3 0 < p.getD 4 0 → Completes s (.reshardPassStart die) fun t =>
          t = z.modDie die fun d => { d with reshardQueue := { j with started := true, ahead := [] } :: r })) ∧
      (j.started = true → j.closing = false →
        ∀ peer x y xs ys u, Reader.layouts (engineReader j.core die) z p = .ok (some (x, y), xs, ys, u) →
          let plan := reshardPlan x y die
          let c := (p.getD 3 0).toNat
          let k := (j.flying p).getD (Config.pick u.freeCtr die % (j.flying p).length) c
          let u := { u with freeCtr := u.freeCtr + 1 }
          (j.flying p ≠ [] → c ≤ k ∧ k < c + 8 ∧ k < (p.getD 4 0).toNat ∧ k ∉ j.ahead) ∧
          (plan[k]? = Option.none → Completes s (.reshardRegionDone die peer) fun t => t = u.finishReshard die j p) ∧
          ∀ e bs v w, plan[k]? = some e → (y.ranks.getD e.dst (0, 0, 0)).1 = 0 →
            u.readRuns (u.whoDie j.core die) (joinRuns (loBytes x.r) ((boxElems e.box).map (x.addr e.src))) = .ok (bs, v) →
            v.writeRuns (u.whoDie j.core die) (joinRuns (loBytes x.r) ((boxElems e.box).map (y.addr e.dst))) bs = (w, Option.none) →
            Completes s (.reshardRegionDone die peer) fun t =>
              t = w.advanceReshard die j p (plan.map fun g => g.bytes (loBytes x.r)) k ∧
              (k ≠ c → c ∉ j.ahead → t.mem = w.mem))

/-- The steps of the links, of the collective engines and of the reshard engines complete where the manual lets them take place. -/
def Obligations.LinkSteps : Prop := Says.LinkTransfers ∧ Says.LinkChanges ∧ Says.CollectiveSteps ∧ Says.ReshardSteps

/-! ### Waits, memory, and faults between words (03 R67, 09 R184, 14 R267, R268, 15 R275, 17 R312, 20 R354) -/

/-- A waiting instruction completes, or stops, as soon as its condition holds and not before, where it holds within WAITLIM cycles;
whether it did, and the EVAL of its trap where it did not, is settled as those cycles pass. One whose condition did not, or was lost
again before it went on, ends in WAITLIMIT with the EPC of the instruction, and STASHFULL where it is a `stash`; a spawned record
that found its deque full is withdrawn first. The lanes that other contexts of the core have issued come before it.
It rests on the choices of log entries 1, 42 and 61. -/
def Sys2Proof.Says.WaitSteps : Prop :=
  ∀ (s : State) (g : Nat) (c : CtxId) (w : Wait),
    let r : CtxRef := ⟨g, c⟩
    let x := s.ctx r
    let u := (s.lanesBefore g c).resumeAt r w.word
    let v := s.resumeAt r w.word
    let lapsed := ∃ n, w.limit = some n ∧ w.since + n ≤ s.now
    x.wait = some w → x.halted = false → x.refused = false →
      (w.mark = some false → NotEnabled s (.waitRelease g c)) ∧
      (u.attempt w.op = .ok Option.none → NotEnabled s (.waitRelease g c)) ∧
      (∀ t, w.mark ≠ some false → u.attempt w.op = .ok (some t) → exec (.waitRelease g c) s = .next t) ∧
      (∀ e, w.mark ≠ some false → u.attempt w.op = .error e → exec (.waitRelease g c) s = .next (u.stop e)) ∧
      (w.op = .wfe → w.mark ≠ some false → x.evl = true → x.frame = .none → (∀ d, d ≠ c → (s.ctx ⟨g, d⟩).gather = .none) → Completes s (.waitRelease g c) fun t =>
        (t.ctx r).evl = false ∧ (t.ctx r).wait = .none ∧ (t.ctx r).ws = { x.ws with pc := x.ws.pc + 4 } ∧ SameMemory s t ∧
          SameCores s t g) ∧
      (∀ n m, w.limit = some m → w.mark = Option.none → w.op ≠ .spawn →
        (n < w.since + m → s.markWait r n = s) ∧
        (w.since + m ≤ n → ((s.markWait r n).ctx r).wait = some (if v.attempt w.op = .ok Option.none
          then { w with mark := some false, val := v.waitVal w.op } else { w with mark := some true, val := 0 }))) ∧
      (w.limit = Option.none → ∀ n, s.markWait r n = s) ∧
      (w.op ≠ .spawn → w.mark ≠ some false → (v.attempt w.op ≠ .ok Option.none ∨ ¬ lapsed) → NotEnabled s (.waitlimit g c)) ∧
      (∀ val, (w.mark = some false ∧ val = w.val) ∨
          (w.mark ≠ some false ∧ lapsed ∧ v.attempt w.op = .ok Option.none ∧ val = v.waitVal w.op) → w.op ≠ .spawn →
        (x.frame = .none → utvecOk (s.core g).utvec = true → (∀ rd l, w.op ≠ .stash rd l) →
          Completes s (.waitlimit g c) fun t =>
            (t.ctx r).ws = { x.ws with epc := x.ws.pc, eval := val, ecause := 0x8000000000000006, pc := (s.core g).utvec } ∧
              (t.ctx r).wait = .none ∧ SameMemory s t ∧ SameCores s t g) ∧
        (∀ rd l, w.op = .stash rd l → Completes s (.waitlimit g c) fun t => t = v.userTrap 0x0A val x.ws.pc)) ∧
      (∀ a b ts, w.op = .spawn →
        let full := (s.core (taskCore a)).dequeCap ≤ (s.core (taskCore a)).deque.length
        (x.spawn = some ⟨a, b, .heldFull, ts⟩ → w.mark = some false ∨ (lapsed ∧ full) → Completes s (.waitlimit g c) fun t =>
          (t.ctx r).spawn = some ⟨a, b, .withdrawing, ts⟩ ∧ (t.ctx r).wait = some w ∧ SameMemory s t ∧ SameCores s t g) ∧
        (x.spawn = some ⟨a, b, .flying, ts⟩ → NotEnabled s (.waitlimit g c)) ∧
        (x.spawn = some ⟨a, b, .heldFull, ts⟩ → w.mark ≠ some false → (¬ lapsed ∨ ¬ full) → NotEnabled s (.waitlimit g c)))

/-- A stalled load's context may issue again once no fill answers it, and one that has released once the writes that it covers are
performed; a fill's return brings its sectors into the slice, answers its members and ends the fill; a refused request may be sent again, after three refusals once a buffer is free for it.
It rests on the choices of log entries 1 and 44. -/
def Sys2Proof.Says.LoadSteps : Prop :=
  ∀ (s : State) (g : Nat) (c : CtxId),
    let r : CtxRef := ⟨g, c⟩
    let x := s.ctx r
    (x.stalled = true → x.owing = true → (∃ w ∈ (s.core g).writes, w.owed = true) → NotEnabled s (.loadReturn g c)) ∧
    (x.stalled = true → (∀ f ∈ s.dev.fills, (g, c) ∉ f.2.members) → (x.owing = false ∨ ∀ w ∈ (s.core g).writes, w.owed = false) →
      Completes s (.loadReturn g c) fun t => t.ctx r = { x with stalled := false, owing := false } ∧ SameMemory s t ∧ SameCores s t g ∧ SameUnits s t) ∧
    (x.stalled = false → NotEnabled s (.loadReturn g c)) ∧
    (∀ l f, SMap.find s.dev.fills l = some f → (∀ q ∈ f.sectors, lineOfSector q = l) → Completes s (.sliceFillReturn l) fun t =>
      t.dev.fills = SMap.del s.dev.fills l ∧ (∀ m ∈ f.members, (t.ctx ⟨m.1, m.2⟩).stalled = (s.ctx ⟨m.1, m.2⟩).owing) ∧
      (∀ q ∈ f.sectors, (SMap.find t.sectors q).isSome) ∧ ((s.linesAt f.die f.slice).length < 8192 → t.mem = s.mem)) ∧
    (∀ l, SMap.find s.dev.fills l = Option.none → NotEnabled s (.sliceFillReturn l)) ∧
    (x.refused = true → (x.refusals < 3 ∨ s.bufferFree x.refusedAt.1 x.refusedAt.2 = true) → Completes s (.refusalRetry g c) fun t =>
      t.ctx r = { x with refused := false } ∧ SameMemory s t ∧ SameCores s t g) ∧
    (x.refused = true → 3 ≤ x.refusals → s.bufferFree x.refusedAt.1 x.refusedAt.2 = false → NotEnabled s (.refusalRetry g c)) ∧
    (x.refused = false → NotEnabled s (.refusalRetry g c))

/-- A write on its way is performed after the earlier ones of its agent to its locations: one to plain bytes of a TCM changes those bytes and no
others, one into a workspace that has become active changes nothing and charges WSFAULT, one to host memory is posted, and a posted
one reaches the host without changing what the module's agents see there; a slice refuses one three times at most.
It rests on the choices of log entries 1, 5 and 44. -/
def Sys2Proof.Says.WriteSteps : Prop :=
  ∀ (s : State) (g i : Nat),
    let ws := (s.core g).writes
    (∀ w, ws[i]? = some w →
      ((∃ v ∈ ws.take i, w.follows v = true) → NotEnabled s (.writePerformed g i)) ∧
      ((∀ v ∈ ws.take i, w.follows v = false) →
        (s.writeRefused w.space (w.cells.map Prod.fst) = .none → Completes s (.writePerformed g i) fun t =>
          (t.core g).writes = ws.eraseIdx i) ∧
        (∀ d l, s.writeRefused w.space (w.cells.map Prod.fst) = some (d, l) →
          (w.refusals < 3 → Completes s (.writePerformed g i) fun t =>
            (t.core g).writes = ws.set i { w with refusals := w.refusals + 1 } ∧ SameMemory s t) ∧
          (3 ≤ w.refusals → s.bufferFree d l = false → NotEnabled s (.writePerformed g i)) ∧
          (3 ≤ w.refusals → s.bufferFree d l = true → Completes s (.writePerformed g i) fun t => (t.core g).writes = ws.eraseIdx i)) ∧
        (∀ h p b, s.Inv → w.cells = [(p, b, 0xFF)] → w.space = .tcm h → (s.core h).wsAt (p % 0x80000) = .none →
          (∀ v ∈ s.dev.posted, ∀ y ∈ v.cells, y.1 / 8 ≠ p / 8) → Completes s (.writePerformed g i) fun t => Memory.read t.mem p = b ∧ (∀ q, q ≠ p → Memory.read t.mem q = Memory.read s.mem q) ∧
            t.sectors = s.sectors ∧ t.dev = s.dev) ∧
        (∀ h p b, w.cells = [(p, b, 0xFF)] → w.space = .tcm h → (s.core h).wsAt (p % 0x80000) ≠ .none →
          Completes s (.writePerformed g i) fun t => SameMemory s t ∧ ((t.ctx ⟨w.core, w.ctx⟩).charged.map fun f => f.record.cause) =
            ((s.ctx ⟨w.core, w.ctx⟩).charged.map fun f => f.record.cause) ++ [0x11]) ∧
        (w.space = .host → Completes s (.writePerformed g i) fun t => t.dev.posted = s.dev.posted ++ [w] ∧ t.mem = s.mem))) ∧
    (ws[i]? = .none → ∀ w, (s.dev.posted.filter fun v => v.core == g)[i - ws.length]? = some w → s.Inv → HostPosted s →
      Completes s (.writePerformed g i) fun t => w ∉ t.dev.posted ∧ (∀ p, t.hostByte p = s.hostByte p) ∧ t.cores = s.cores) ∧
    (ws[i]? = .none → (s.dev.posted.filter fun v => v.core == g)[i - ws.length]? = .none → NotEnabled s (.writePerformed g i))

/-- A slice writes a dirty sector back and evicts a clean one; an uncorrectable soft error poisons its granule.
It rests on the choices of log entries 1 and 44. -/
def Sys2Proof.Says.SectorSteps : Prop :=
  ∀ s : State,
    (∀ q e, SMap.find s.sectors q = some e → s.Inv →
      (e.dirty = true → Completes s (.sliceWriteback q) fun t => SMap.find t.sectors q = some { e with dirty := false } ∧
        (∀ i, i < 48 → Memory.read t.mem (q / 3 * 48 + i) = e.bytes.getD i 0) ∧
        ∀ a, (a < q / 3 * 48 ∨ q / 3 * 48 + 48 ≤ a) → Memory.read t.mem a = Memory.read s.mem a) ∧
      (e.dirty = false → Completes s (.sliceWriteback q) fun t => t.sectors = SMap.del s.sectors q ∧ t.mem = s.mem)) ∧
    (∀ q, SMap.find s.sectors q = .none → NotEnabled s (.sliceWriteback q)) ∧
    (∀ p, placeExists p = true → Completes s (.softError p) fun t => granule p ∈ t.poison ∧ t.mem = s.mem ∧ t.cores = s.cores ∧
      ∀ q, q ≠ granule p → (q ∈ t.poison ↔ q ∈ s.poison)) ∧
    (∀ p, placeExists p = false → NotEnabled s (.softError p))

/-- Before its next instruction a ready context takes its first charged fault, then a crossing of a conversion counter as
CVT_THRESHOLD while UTA is 0, then the fault of a fetch; one that is not ready takes none, but that a suspended context still takes
what is charged to it.
It rests on the choice of log entry 6. -/
def Sys2Proof.Says.BeforeInstruction : Prop :=
  ∀ (s : State) (g : Nat) (c : CtxId),
    let r : CtxRef := ⟨g, c⟩
    let x := s.ctx r
    let uta := x.ws.ecause &&& 0x8000000000000000
    (x.ready = true → x.frame = .none →
      (∀ f l, x.charged = ⟨f, false⟩ :: l → f.core = g → Completes s (.chargedFault g c) fun t => (t.ctx r).charged = l ∧ (t.ctx r).suspended = true ∧
        (t.ctx r).ws = { x.ws with epc := x.ws.pc, eval := f.value, ecause := uta ||| f.cause.setWidth 64 } ∧ SameMemory s t ∧ SameCores s t g) ∧
      (∀ f l, x.charged = ⟨f, true⟩ :: l → utvecOk (s.core g).utvec = true → Completes s (.chargedFault g c) fun t =>
        (t.ctx r).charged = l ∧ (t.ctx r).ws =
          { x.ws with epc := x.ws.pc, eval := f.value, ecause := 0x8000000000000000 ||| f.cause.setWidth 64, pc := (s.core g).utvec }) ∧
      (∀ k l, x.charged = [] → x.crossings = k :: l → (∀ y ∈ l, k.counter < y.counter) → x.ws.ecause.getLsbD 63 = false →
        utvecOk (s.core g).utvec = true → Completes s (.cvtThreshold g c) fun t => (t.ctx r).crossings = l ∧ (t.ctx r).ws =
          { x.ws with epc := x.ws.pc, eval := BitVec.ofNat 64 (k.counter.val + 4 * k.source.val), ecause := 0x8000000000000009,
                      pc := (s.core g).utvec }) ∧
      (x.charged = [] → x.crossings = [] →
        let p := x.ws.pc
        let takes := fun (cause : BitVec 8) => Completes s (.fetchFault g c) fun t => (t.ctx r).suspended = true ∧
          (t.ctx r).ws = { x.ws with epc := p, eval := p, ecause := uta ||| cause.setWidth 64 } ∧ SameMemory s t ∧ SameCores s t g
        let own := 0x8000000000000000 ≤ p.toNat ∧ p.toNat ≤ 0x800000000007FFFC
        (p.toNat % 4 ≠ 0 → takes 0x02) ∧ (p.toNat % 4 = 0 → ¬ own → takes 0x03) ∧
        (p.toNat % 4 = 0 → own → granule (tcmPlace g (p.toNat % 0x80000)) ∈ s.poison → takes 0x05) ∧
        (p.toNat % 4 = 0 → own → granule (tcmPlace g (p.toNat % 0x80000)) ∉ s.poison → NotEnabled s (.fetchFault g c)))) ∧
    (x.ready = false → NotEnabled s (.cvtThreshold g c) ∧ NotEnabled s (.fetchFault g c) ∧
      (x.suspended = false → NotEnabled s (.chargedFault g c)))

/-- An owner performs a lane of a gather or scatter in lane order; the last answer completes the instruction, with POISON and its
destination unchanged where a lane met poison.
It rests on the choices of log entries 1 and 26. -/
def Sys2Proof.Says.GatherSteps : Prop :=
  ∀ (s : State) (g : Nat) (c : CtxId) (h : Gather) (x : Nat × Word),
    let r : CtxRef := ⟨g, c⟩
    let y := s.ctx r
    y.gather = some h → h.left.find? (fun z => z.1 == x.1) = some x →
      (s.gsFirst g h x = false → NotEnabled s (.gsLane g c x.1)) ∧
      (∀ v u, s.gsFirst g h x = true → ({ s with cur := r } : State).gsPerform (s.whoAgent g) h x = .ok (v, u) →
        ((∃ z ∈ h.left, z.1 ≠ x.1) → Completes s (.gsLane g c x.1) fun t => ∃ k, (t.ctx r).gather = some k ∧
          k.left = h.left.filter (fun z => z.1 != x.1) ∧ k.got = h.got ++ [(x.1, v)] ∧ t.mem = u.mem) ∧
        ((∀ z ∈ h.left, z.1 = x.1) → h.poisoned = [] → y.frame = .none → h.fn = 0 → Completes s (.gsLane g c x.1) fun t =>
          (t.ctx r).gather = Option.none ∧ (t.ctx r).ws.pc = y.ws.pc + 4 ∧ ∀ i, i < 512 / dtWidth h.dt →
            lane (t.ctx r).ws.v[h.vd] (dtWidth h.dt) i =
              (((h.got ++ [(x.1, v)]).find? fun z => z.1 == i).map (·.2 % 2 ^ dtWidth h.dt)).getD (lane h.lo (dtWidth h.dt) i)) ∧
        ((∀ z ∈ h.left, z.1 = x.1) → ∀ a, h.poisoned = [a] → y.frame = .none → Completes s (.gsLane g c x.1) fun t =>
          (t.ctx r).suspended = true ∧ (t.ctx r).ws.eval = a.2 ∧ (t.ctx r).ws.v = y.ws.v ∧
            (t.ctx r).ws.ecause.toNat % 256 = 5))

/-- The steps that end waits, that memory takes, and that a context takes before an instruction complete where the manual lets
them take place. -/
def Obligations.WaitAndMemorySteps : Prop := 
  Says.WaitSteps ∧ Says.LoadSteps ∧ Says.WriteSteps ∧ Says.SectorSteps ∧ Says.BeforeInstruction ∧ Says.GatherSteps

/-! ### Fault records, responses, translation, pre-emption and the host between words (20 R347 to R365, 21 R374, R375) -/

/-- The oldest unposted record goes to its die's queue while the queue has room: it is outstanding under the next number, its words
stand in the slot, NWAIT counts the accesses that have joined it, the producer index advances and the vector is signalled. A failed walk ends with one coalesced record. Writing
FQSZ empties the queue's indices. An invalidation leaves no entry of its pages on any cluster.
It rests on the choices of log entries 1 and 13. -/
def Sys2Proof.Says.RecordSteps : Prop :=
  ∀ (s : State) (die : Nat) (v : Word),
    let d := s.die die
    let r := fqReg die
    (∀ f l, d.faults = f :: l →
      (s.fqRoom die = false → NotEnabled s (.faultRecordPost die)) ∧
      (s.fqRoom die = true → Completes s (.faultRecordPost die) fun t =>
        (t.die die).faults = l ∧ (t.die die).outstanding = d.outstanding ++ [{ f with seq := d.seq, nwait := d.nwait f }] ∧
        (t.die die).seq = (if 0xFFFF ≤ d.seq then 1 else d.seq + 1) ∧
        (t.bar (r + 0x10)).toNat % 2 ^ 32 = ((s.bar (r + 0x10)).toNat + 1) % 2 ^ 32 ∧
        t.dev.out = s.dev.out ++ [.msix ((s.bar (r + 0x20)).toNat % 2 ^ 11)] ∧
        let slot := (s.bar r).toNat + 64 * ((s.bar (r + 0x10)).toNat % 2 ^ 32 % 2 ^ ((s.bar (r + 8)).toNat % 32))
        (s.Inv → 2 ^ 63 ≤ slot → slot + 64 ≤ 2 ^ 64 →
          ∀ i, i < 64 → t.devByte (slot + i) = (bytesOf ({ f with seq := d.seq, nwait := d.nwait f } : FaultRec).words).getD i 0))) ∧
    (d.faults = [] → NotEnabled s (.faultRecordPost die)) ∧
    (∀ f, f.coalesced = false → d.nwait f = 1) ∧
    (∀ f w l, f.coalesced = true → d.walks = w :: l → w.asid = f.asid → w.page = pageOf f.addr → d.nwait f = w.joined.length) ∧
    (∀ w l f fs, d.walks = w :: l → w.posted = Option.none → w.joined = f :: fs → Completes s (.walkComplete die w.asid w.page) fun t =>
      (t.die die).faults = d.faults ++ [{ f with coalesced := true }] ∧ SameMemory s t ∧ t.cores = s.cores) ∧
    (d.walks = [] → ∀ a p, NotEnabled s (.walkComplete die a p)) ∧
    (s.hostUp = true → die < 4 → Completes s (.fqszWrite die v) fun t => (t.bar (r + 8)).toNat = v.toNat % 32 ∧ t.bar (r + 0x10) = 0 ∧
      t.bar (r + 0x18) = 0 ∧ t.cores = s.cores ∧ SameMemory s t) ∧
    (s.hostUp = true → v.getLsbD 63 = true → s.dev.invalidating = Option.none → Completes s (.invalidateStart v) fun t =>
      t.bar 0x030010 = 1 ∧ t.dev.invalidating = some (v.toNat / 2 ^ 32 % 16, (s.bar 0x030000).toNat / 49152, v.toNat % 2 ^ 32)) ∧
    (s.hostUp = true → v.getLsbD 63 = false → Completes s (.invalidateStart v) fun t => t.dev.invalidating = s.dev.invalidating) ∧
    (∀ a p n, s.dev.invalidating = some (a, p, n) → Completes s .invalidateDone fun t => t.bar 0x030010 = 0 ∧
      t.dev.invalidating = Option.none ∧ (∀ k ∈ t.clusters, ∀ e ∈ k.2.tlb, e.hit a p n = false) ∧ SameMemory s t ∧ t.cores = s.cores) ∧
    (s.dev.invalidating = Option.none → NotEnabled s .invalidateDone)

/-- A response to the one outstanding record of a context that its own instruction raised outside a frame: RETRY goes on at the
instruction, SKIP and DISCARD after it, UPCALL in the trap handler; END ends the team. A number without an outstanding record
answers nothing.
It rests on the choices of log entries 1 and 29. -/
def Sys2Proof.Says.ResponseSteps : Prop :=
  ∀ (s : State) (die seq : Nat), s.hostUp = true →
    let d := s.die die
    ((∀ f ∈ d.outstanding, f.seq ≠ seq) → (Completes s (.frespRetry die seq) fun t => t = s) ∧
      (Completes s (.frespSkip die seq) fun t => t = s) ∧ (Completes s (.frespDiscard die seq) fun t => t = s) ∧
      (Completes s (.frespUpcall die seq) fun t => t = s) ∧ Completes s (.frespEnd die seq) fun t => t = s) ∧
    (∀ f, d.outstanding = [f] → f.seq = seq → dieOfCore f.core = die →
      (∀ m, SMap.find s.teams f.tid = some m → SMap.sorted s.teams = true → f.coalesced = false → Completes s (.frespEnd die seq) fun t =>
        SMap.find t.teams f.tid = Option.none) ∧
      (d.faults = [] → d.walks = [] → d.answered = [] → SMap.sorted s.dies = true →
        (∀ k ∈ s.dies, k.1 ≠ die → k.2.records = [] ∧ k.2.answered = []) → f.coalesced = false → f.suspends = true → f.agent = .context → f.held = .nothing →
        f.frm = false → f.isEntry = false →
        let r : CtxRef := ⟨f.core, f.ctx⟩
        let x := s.ctx r
        let goes := fun (i : Instr) (pc : Word) => Completes s i fun t => (t.ctx r).suspended = false ∧ (t.ctx r).ws = { x.ws with pc } ∧
          (t.die die).outstanding = [] ∧ SameMemory s t
        goes (.frespRetry die seq) (if f.cause = 0x0F then f.epc + 4 else f.epc) ∧ goes (.frespSkip die seq) (f.epc + 4) ∧
          goes (.frespDiscard die seq) (f.epc + 4) ∧
          (utvecOk (s.core f.core).utvec = true → Completes s (.frespUpcall die seq) fun t => (t.ctx r).suspended = false ∧
            (t.ctx r).ws = { x.ws with epc := f.epc, ecause := 0x8000000000000000 ||| f.cause.setWidth 64, pc := (s.core f.core).utvec } ∧
            (t.die die).outstanding = [])))

/-- A sound pre-emption request of a resident team starts its drain period, an unsound one is refused. A team whose DLIM has come is
saved, with a remap entry over each of its TCMs; a sound restore request of a saved team waits for its clusters, and makes it
resident again once they are free, none has failed its self-test and no launch of a higher priority waits. A core
that replays and finds no recorded choice within its WAITLIM goes on freely.
It rests on the choices of log entries 1, 11, 34, 53 and 60. -/
def Sys2Proof.Says.PreemptionSteps : Prop :=
  ∀ (s : State) (g : Nat),
    (∀ w, s.headRequest = some w →
      let tid := (w.getD 0 0).toNat % 65536
      (reqSound w = true → reqRestore w = false → (∀ p ∈ s.dev.preempts, p.tid ≠ tid) → (SMap.find s.teams tid).isSome →
        Completes s .preemptRequest fun t => t.dev.preempts = s.dev.preempts ++ [⟨tid, (w.getD 1 0).toNat,
          if (w.getD 2 0).toNat % 2 ^ 32 = 0 then 188000 else (w.getD 2 0).toNat % 2 ^ 32, s.now⟩] ∧ SameMemory s t ∧ t.cores = s.cores) ∧
      (reqSound w = false → Completes s .preemptRequest fun t => t.dev.preempts = s.dev.preempts ∧ t.teams = s.teams) ∧
      (reqSound w = true → reqRestore w = true → NotEnabled s .preemptRequest) ∧
      (∀ x, reqSound w = true → reqRestore w = true → s.savedAt (w.getD 1 0).toNat = some x → SMap.find s.teams x.tid = Option.none →
        s.dev.placing = Option.none → s.dev.restores = [] →
        let prio := (s.devWord (w.getD 1 0).toNat) / 2 ^ 32 % 8
        ((∀ c ∈ x.team.clus, s.clusterFree c = true ∧ c ∉ s.dev.failedClusters) → s.lakeFree x.team.clus x.team.lakeOrg x.team.lakeSize = true →
          (∀ y, s.headLaunch = some y → s.launchPrio y ≤ prio) → s.dev.ckptRunning = Option.none → s.hostUp = true →
          Completes s .restoreRequest fun t => SMap.find t.teams x.tid = some x.team ∧ t.dev.restores = []) ∧
        ((∃ c ∈ x.team.clus, s.clusterFree c = false ∨ c ∈ s.dev.failedClusters) → Completes s .restoreRequest fun t =>
          t.teams = s.teams ∧ t.dev.restores = [⟨(w.getD 1 0).toNat, prio⟩])) ∧
      (reqSound w = true → reqRestore w = true → s.savedAt (w.getD 1 0).toNat = Option.none → s.dev.restores = [] →
        Completes s .restoreRequest fun t =>
        t.teams = s.teams ∧ t.quads = s.quads)) ∧
    (s.headRequest = Option.none → NotEnabled s .preemptRequest ∧ (s.dev.restores = [] → NotEnabled s .restoreRequest)) ∧
    (∀ p m, s.dueSave = some (p, m) → Completes s .forcedSave fun t =>
      (∃ x ∈ t.dev.saved, x.save = p.save ∧ x.tid = p.tid ∧ x.team = m) ∧
        (∀ g ∈ m.cores, (⟨g, 0, 8192, p.save + 64 * Config.saveUnit p.save g⟩ : Remap) ∈ t.dev.remaps) ∧
        (SMap.sorted s.teams = true → SMap.find t.teams p.tid = Option.none)) ∧
    (s.dueSave = Option.none → NotEnabled s .forcedSave) ∧
    (∀ j, j = (s.core g).journal → j.replaying = true →
        (j.since + (s.core g).waitlim.toNat ≤ s.now → s.replayReady g = false → Completes s (.replayDiverge g) fun t =>
          (t.core g).journal = { j with div := true } ∧ (∀ m, (t.ctx ⟨g, m⟩).evl = true) ∧ SameMemory s t ∧ SameCores s t g) ∧
        (s.now < j.since + (s.core g).waitlim.toNat → NotEnabled s (.replayDiverge g)))

/-- The host reads, writes and takes AtomicOps on HBM through BAR 2 at APBASE, and a read does not see a posted store: an access beyond the memory, to poison that it does not
replace, or to a journal that it may not read is unsupported, and none lies beyond the size of BAR 2.
It rests on the choices of log entries 1, 31 and 56. -/
def Sys2Proof.Says.HostMemorySteps : Prop :=
  ∀ (s : State) (off n : Nat) (bs cs : List Byte),
    let pa := (s.bar 0x070000).toNat + off
    let fits := fun (n : Nat) => off + n ≤ 2 ^ s.dev.bar2Log
    let unsupported := fun (n : Nat) (r : HostRequest) => Completes s (.hostBar2Access off n r) fun t => t = s.emit .unsupported
    let old := (List.range bs.length).map fun i => s.devByte (pa + i)
    let atom := fun (r : HostRequest) (new : List Byte) =>
      ((bs.length = 4 ∨ bs.length = 8) → pa % bs.length = 0 → pa + bs.length ≤ 4 * dieSize → s.devPoisoned pa bs.length false = false →
        s.journalBarred pa bs.length = false → Completes s (.hostBar2Access off bs.length r) fun t => t = (s.devWrite pa new).emit (.bar2 old)) ∧
      (bs.length ≠ 4 → bs.length ≠ 8 → unsupported bs.length r) ∧ (pa % bs.length ≠ 0 → unsupported bs.length r)
    (s.hostUp = false → ∀ r, NotEnabled s (.hostBar2Access off n r)) ∧
    (2 ^ s.dev.bar2Log < off + n → ∀ r, NotEnabled s (.hostBar2Access off n r)) ∧
    (bs.length ≠ n → ∀ r, r = .write bs ∨ r = .fetchAdd bs ∨ r = .swap bs ∨ r = .cas bs cs → NotEnabled s (.hostBar2Access off n r)) ∧
    (s.hostUp = true → fits n →
      (pa + n ≤ 4 * dieSize → s.devPoisoned pa n false = false → s.journalBarred pa n = false →
        Completes s (.hostBar2Access off n .read) fun t =>
          t.dev.out = s.dev.out ++ [.bar2 ((List.range n).map fun i => s.bar2Byte (pa + i))] ∧ SameMemory s t ∧ t.cores = s.cores) ∧
      ((4 * dieSize < pa + n ∨ s.devPoisoned pa n false = true ∨ s.journalBarred pa n = true) → unsupported n .read)) ∧
    (s.hostUp = true → fits bs.length →
      (pa + bs.length ≤ 4 * dieSize → s.devPoisoned pa bs.length true = false → Completes s (.hostBar2Access off bs.length (.write bs)) fun t =>
        t = s.devWrite pa bs) ∧
      (4 * dieSize < pa + bs.length → unsupported bs.length (.write bs)) ∧
      atom (.fetchAdd bs) (toBytes bs.length (ofBytes old + ofBytes bs)) ∧ atom (.swap bs) bs ∧
      (cs.length = bs.length → atom (.cas cs bs) (if old = cs then bs else old)))

/-- A write of a plain BAR 0 register keeps its assigned bits, the second word of a response answers with the first, and a write in
recovery changes nothing. The debugger in INVASIVE halts, resumes and steps a context, but none of a parked die, and accesses memory.
It rests on the choices of log entries 1 and 31. -/
def Sys2Proof.Says.HostSteps : Prop :=
  ∀ (s : State) (off n g d : Nat) (c : CtxId) (v a : Word) (bs : List Byte),
    let r : CtxRef := ⟨g, c⟩
    let x := s.ctx r
    (s.hostUp = true →
      (∀ m, barMask off = some m → (∀ d, d < 4 → off ≠ fqReg d + 0x30) →
        Completes s (.bar0RegisterWrite off v) fun t => t.bar off = v &&& BitVec.ofNat 64 m ∧ (∀ o, o ≠ off → t.bar o = s.bar o) ∧
          t.cores = s.cores ∧ SameMemory s t) ∧
      (d < 4 → Completes s (.bar0RegisterWrite (fqReg d + 0x30) v) fun t =>
        let u := s.setBar (fqReg d + 0x30) v
        let w := (s.bar (fqReg d + 0x28)).toNat
        (∀ k : Fin 5, w / 2 ^ 16 % 8 = k.val → t = u.respond d (w % 2 ^ 16) k) ∧ (5 ≤ w / 2 ^ 16 % 8 → t = u))) ∧
    (s.dev.boot = .recovery → Completes s (.bar0RegisterWrite off v) fun t => t = s) ∧
    (s.dev.debug = .invasive → s.dev.power = .on → (s.die (dieOfCore g)).power ≠ .parked →
      (x.halted = false → Completes s (.debugHalt g c) fun t => t.ctx r = { x with halted := true, haltedAt := s.now, stepping := false } ∧
        SameMemory s t ∧ SameCores s t g) ∧
      (x.halted = true → Completes s (.debugResume g c) fun t => (t.ctx r).halted = false ∧ (t.ctx r).stepping = false ∧
        (t.ctx r).ws = x.ws ∧ (∀ w, x.wait = some w → (t.ctx r).wait = some { w with since := w.since + (s.now - x.haltedAt) }) ∧
        SameMemory s t ∧ SameCores s t g) ∧
      (x.halted = true → x.firing = true → Completes s (.debugStep g c) fun t => (t.ctx r).halted = false ∧ (t.ctx r).stepping = true ∧
        (t.ctx r).ws = x.ws ∧ SameMemory s t ∧ SameCores s t g)) ∧
    ((s.die (dieOfCore g)).power = .parked → NotEnabled s (.debugHalt g c) ∧ NotEnabled s (.debugResume g c) ∧ NotEnabled s (.debugStep g c)) ∧
    (s.dev.debug = .invasive → s.dev.power = .on →
      (s.debugRuns g .read a.toNat n = Option.none → Completes s (.debugMemoryAccess g a n Option.none) fun t =>
        t.dev.out = s.dev.out ++ [.unsupported] ∧ SameMemory s t) ∧
      (∀ qs : List Run, s.debugRuns g .read a.toNat n = some qs → Completes s (.debugMemoryAccess g a n Option.none) fun t =>
        t.dev.out = s.dev.out ++ [.debugData (qs.flatMap fun q => s.readRun (s.debugWho g q.space) q)] ∧ SameMemory s t) ∧
      (∀ q : Run, s.debugRuns g .write a.toNat bs.length = some [q] → Completes s (.debugMemoryAccess g a 0 (some bs)) fun t =>
        t = s.performRuns (s.debugWho g q.space) Option.none false [q] (bs.take q.len))) ∧
    (s.dev.debug ≠ .invasive → NotEnabled s (.debugHalt g c) ∧ NotEnabled s (.debugResume g c) ∧ NotEnabled s (.debugStep g c) ∧
      NotEnabled s (.debugMemoryAccess g a n Option.none))

/-- The steps of the fault queues, of the host's answers, of pre-emption and of the host complete where the manual lets them take
place. -/
def Obligations.FaultAndHostSteps : Prop := Says.RecordSteps ∧ Says.ResponseSteps ∧ Says.PreemptionSteps ∧
  Says.HostMemorySteps ∧ Says.HostSteps

/-! ### Launch, teams, power, security, checkpoints and reset between words (10 R196 to R202, 21 R374, R394, 24 R400 to R410) -/

/-- A doorbell moves LQTAIL, and is read when the host link is ready; one more than the queue ahead is ignored. The head launch is refused with its reason or its clusters are chosen; a gang whose clusters and Lake
ranges are free on dies that run is placed, and one overtaken beyond its window is withdrawn. A team with nothing running or in
flight ends and its clusters are free.
It rests on the choices of log entries 1, 32, 33 and 54. -/
def Sys2Proof.Says.LaunchSteps : Prop :=
  ∀ (s : State) (asid tail tid : Nat) (chosen : List Nat),
    (s.hostUp = true → asid < 16 → s.dev.placing = Option.none → Completes s (.lqtailDoorbell asid tail) fun t =>
      (t.bar (lqReg asid + 0x10)).toNat = tail % 2 ^ 32 ∧ (∀ o, o ≠ lqReg asid + 0x10 → t.bar o = s.bar o) ∧ t.cores = s.cores ∧
        SameMemory s t ∧
        (∀ n, s.queueSize (lqReg asid) = some n → 2 ^ n < s.queueAhead (lqReg asid) (tail % 2 ^ 32) → t.dev.tails = s.dev.tails) ∧
        (∀ n, s.queueSize (lqReg asid) = some n → s.queueAhead (lqReg asid) (tail % 2 ^ 32) ≤ 2 ^ n →
          t.dev.tails = SMap.put s.dev.tails (lqReg asid) (tail % 2 ^ 32))) ∧
    (asid < 16 → s.dev.boot = .booting → Completes s (.lqtailDoorbell asid tail) fun t =>
      t.dev = { s.dev with doorbells := SMap.put s.dev.doorbells (lqReg asid) (tail % 2 ^ 32) } ∧ t.cores = s.cores ∧ SameMemory s t) ∧
    (16 ≤ asid → NotEnabled s (.lqtailDoorbell asid tail)) ∧
    (∀ x, s.headLaunch = some x → s.dev.placing = Option.none → s.dev.restores = [] → s.mayPlace = true →
      let a := s.lqEntry x.1 x.2
      let w := wordsOf (s.devRead a 64)
      let clus := (List.range 128).filter chosen.contains
      let size := s.imgTeam ⟨(w.getD 1 0).toNat / 2 ^ 4 % 2 ^ 4, (w.getD 0 0).toNat⟩
      (∀ r, s.launchFlaw w clus = some r → (r ≠ 5 ∨ clus.length = size) → Completes s (.launchServe chosen) fun t =>
        t = (s.launchStatus a 3 r 0 []).served x ∧ t.dev.placing = Option.none ∧ t.teams = s.teams) ∧
      (s.launchFlaw w clus = Option.none → clus.length = size →
        (∀ c ∈ clus, c ∉ s.dev.failedClusters) → Completes s (.launchServe chosen) fun t => t.teams = s.teams ∧
          t.dev.placing = some ⟨x.1, s.launchPrio x, x.2, clus, s.now, Option.none⟩)) ∧
    (∀ p, s.dev.placing = some p →
      (s.mayPlace = true → (∀ e, p.overtaken = some e → s.now ≤ e + 2048) → s.allReserved p = true →
        (∀ c ∈ p.chosen, (s.die (dieOfClu c)).power ≠ .parked) → Completes s .gangPlace fun t => t.dev.placing = Option.none ∧
          ∃ m, SMap.find t.teams s.freshTid = some m ∧ m.clus = p.chosen ∧ m.prio = p.prio ∧ m.asid = (s.placingImg p).asid) ∧
      (s.allReserved p = false → NotEnabled s .gangPlace) ∧
      (∀ e, p.overtaken = some e → (e + 2048 ≤ s.now → Completes s .gangWithdraw fun t =>
          t.dev.placing = Option.none ∧ t.dev.withdrawn.head? = some (p.queue, p.entry) ∧ t.teams = s.teams) ∧
        (s.now < e + 2048 → NotEnabled s .gangWithdraw)) ∧
      (p.overtaken = Option.none → NotEnabled s .gangWithdraw)) ∧
    (s.dev.placing = Option.none → NotEnabled s .gangPlace ∧ NotEnabled s .gangWithdraw) ∧
    (∀ m, SMap.find s.teams tid = some m → (∀ g ∈ m.cores, s.coreQuiet g = true) → s.saveDue tid = false →
      (∀ c ∈ m.clus, (s.cluster c).stuck = []) → s.restQuiet tid m = true → Completes s (.teamEnd tid) fun t =>
        SMap.sorted s.teams = true → SMap.find t.teams tid = Option.none) ∧
    (∀ m g, SMap.find s.teams tid = some m → g ∈ m.cores → s.coreQuiet g = false → NotEnabled s (.teamEnd tid))

/-- A die samples FORECAST every 940 cycles, reads 0 while parked, changes its clock within its limits only after an old enough
FORECAST, parks after 1 ms without a team, keeps each window of 1 ms within the cap, runs again for a placement, is limited at 95 °C and no longer below 90 °C.
It rests on the choices of log entries 1 and 35. -/
def Sys2Proof.Says.DieSteps : Prop :=
  ∀ (s : State) (die mhz celsius watts : Nat), die < 4 → s.dev.power = .on →
    let d := s.die die
    let hot := d.thermal = true ∨ 95 ≤ s.dev.celsius.getD die 0
    (d.forecastAt + 940 ≤ s.now → Completes s (.forecastWrite die) fun t => (t.die die).forecastAt = s.now ∧
      (d.power = .parked → (t.die die).forecast = 0) ∧ (d.power ≠ .parked → (t.die die).forecast = s.sampleForecast die)) ∧
    (s.now < d.forecastAt + 940 → NotEnabled s (.forecastWrite die)) ∧
    (240 ≤ mhz → mhz ≤ 940 → mhz % 20 = 0 → s.forecastOld die = true → d.power ≠ .parked → (hot → mhz ≤ 600) →
      Completes s (.clockLimitChange die mhz) fun t => t.die die = { d with clock := mhz, power := if mhz < 940 then .throttled else .run } ∧
        t.cores = s.cores ∧ SameMemory s t) ∧
    (s.forecastOld die = false → NotEnabled s (.clockLimitChange die mhz)) ∧
    (hot → 600 < mhz → NotEnabled s (.clockLimitChange die mhz)) ∧
    (watts ≤ s.dev.powerCap → s.dev.windowAt + 940000 ≤ s.now → Completes s (.powerCapWindow watts) fun t =>
      t.dev = { s.dev with watts, windowAt := s.now } ∧ t.cores = s.cores ∧ SameMemory s t) ∧
    (s.dev.powerCap < watts ∨ s.now < s.dev.windowAt + 940000 → NotEnabled s (.powerCapWindow watts)) ∧
    (d.power ≠ .parked → s.dieEmpty die = true → d.idleSince + 940000 ≤ s.now → Completes s (.diePark die) fun t =>
      t.die die = { d with power := .parked, forecast := 0 } ∧ SameMemory s t) ∧
    (s.dieEmpty die = false → NotEnabled s (.diePark die)) ∧
    (∀ p, d.power = .parked → s.dev.placing = some p → (∃ c ∈ p.chosen, dieOfClu c = die) → Completes s (.dieUnpark die) fun t =>
      (t.die die).power = (if d.clock < 940 then .throttled else .run) ∧ SameMemory s t) ∧
    (d.power ≠ .parked → NotEnabled s (.dieUnpark die)) ∧
    (95 ≤ celsius → celsius < 110 → (d.clock ≤ 600 ∨ s.forecastOld die = true) → Completes s (.thermalLimit die celsius) fun t =>
      (t.die die).thermal = true ∧ (t.die die).clock = min d.clock 600 ∧ t.dev.celsius = s.dev.celsius.set die celsius ∧ t.cores = s.cores ∧ SameMemory s t) ∧
    (celsius < 95 ∨ 110 ≤ celsius → NotEnabled s (.thermalLimit die celsius)) ∧
    (d.thermal = true → celsius < 90 → Completes s (.thermalRelease die celsius) fun t => t.die die = { d with thermal := false }) ∧
    (90 ≤ celsius → NotEnabled s (.thermalRelease die celsius))

/-- OFF keeps no byte of the module; RETAIN keeps HBM and the security and debug states. SMBus commands answer the module's states,
set the cap between 400 W and 1,600 W, enter and leave RETAIN, and one with a bad PEC is answered with NACK and changes nothing.
It rests on the choices of log entries 1 and 35. -/
def Sys2Proof.Says.ModulePower : Prop :=
  ∀ (s : State) (die celsius watts : Nat) (cs : List Nat) (chunk : List Byte),
    let off := fun (t : State) (b : Boot) => t.dev.power = .off ∧ t.dev.boot = b ∧ t.cores = [] ∧ t.quads = [] ∧ t.dies = [] ∧ t.teams = [] ∧
      t.sectors = [] ∧ ∀ c ∈ t.mem, hostPlace 0 ≤ c.1
    let nack := fun (i : Instr) => Completes s i fun t => t = s.emit .nack
    let answers := fun (i : Instr) (bs : List Byte) => Completes s i fun t => t.dev.out = s.dev.out ++ [.smbus bs] ∧ t.cores = s.cores ∧ SameMemory s t
    (die < 4 → 110 ≤ celsius → s.dev.power ≠ .off → Completes s (.thermalTrip die celsius) fun t => off t .thermalTrip) ∧
    (celsius < 110 ∨ s.dev.power = .off → NotEnabled s (.thermalTrip die celsius)) ∧
    (s.dev.power ≠ .off → Completes s .modulePowerLoss fun t => off t .booting) ∧
    (s.dev.power = .off → NotEnabled s .modulePowerLoss) ∧
    (s.tempsOk cs = true → answers (.smbusTemperature true cs) (cs.map (BitVec.ofNat 8)) ∧ nack (.smbusTemperature false cs)) ∧
    (s.tempsOk cs = false → NotEnabled s (.smbusTemperature true cs)) ∧
    (cs.length = 4 → s.dev.power ≠ .on → s.tempsOk cs = true) ∧
    (s.tempsOk cs = true → cs.length = 4 ∧ ∀ d, s.dev.power = .on → d < 4 → cs.getD d 0 < 110 ∧ (95 ≤ cs.getD d 0 → (s.die d).thermal = true) ∧
      (cs.getD d 0 < 90 → (s.die d).thermal = false)) ∧
    answers (.smbusPower true s.dev.watts) (toBytes 2 s.dev.watts) ∧ (watts ≠ s.dev.watts → NotEnabled s (.smbusPower true watts)) ∧
    answers (.smbusState true) [if s.dev.security = .prod then 0 else 1,
      match s.dev.debug with | .none => 0 | .observe => 1 | .invasive => 2,
      BitVec.ofNat 8 (((List.range 4).map fun d => (s.die d).power.code * 4 ^ d).sum),
      match s.dev.boot with | .booting => 0 | .ready => 1 | .recovery => 2 | .thermalTrip => 3 | .retain => 4] ∧
    (400 ≤ watts → watts ≤ 1600 → Completes s (.smbusPowerCap true watts) fun t => t.dev = { s.dev with powerCap := watts } ∧ SameMemory s t) ∧
    ((watts < 400 ∨ 1600 < watts) → nack (.smbusPowerCap true watts)) ∧
    (s.mayRetain = true → Completes s (.smbusEnterRetain true) fun t => t.dev.power = .retain ∧ t.dev.boot = .retain ∧
      t.dev.security = s.dev.security ∧ t.dev.debug = s.dev.debug ∧ t.dev.saved = s.dev.saved ∧ t.cores = [] ∧
      t.mem = s.mem.filter fun c => offSram c.1) ∧
    (s.mayRetain = false → nack (.smbusEnterRetain true)) ∧
    (s.dev.power = .retain → s.dev.boot = .retain → Completes s (.smbusLeaveRetain true) fun t => t.dev = { s.dev with boot := .booting } ∧
      SameMemory s t) ∧
    (s.dev.power ≠ .retain → nack (.smbusLeaveRetain true)) ∧
    nack (.smbusPower false watts) ∧ nack (.smbusState false) ∧ nack (.smbusPowerCap false watts) ∧ nack (.smbusEnterRetain false) ∧
      nack (.smbusLeaveRetain false) ∧ nack (.smbusUnlockToken false chunk) ∧
    ∃ t, exec (.smbusUnlockToken true chunk) s = .next t ∧ SameMemory s t ∧ t.cores = s.cores ∧ t.dev.security = s.dev.security ∧
      t.dev.debug = s.dev.debug

/-- A reset fixes the security and debug states, clears SRAM and, in OWNER-DEBUG or from OFF, HBM; with verified firmware the module is
ready, else in recovery. A valid observe token raises NONE to OBSERVE and never lowers; the controller answers an SPDM request with signed measurements, or sets up the link key.
It rests on the choices of log entries 1, 8 and 36. -/
def Sys2Proof.Says.SecuritySteps : Prop :=
  ∀ (s : State) (e : BringUp) (token request : List Byte),
    (s.mayReset e.cause = false → NotEnabled s (.reset e)) ∧
    (s.mayReset e.cause = true → Completes s (.reset e) fun t => t.cores = [] ∧ t.quads = [] ∧ t.clusters = [] ∧ t.dies = [] ∧ t.teams = [] ∧
      t.sectors = [] ∧ t.dev.power = .on ∧ (firmwareOf e = Option.none → t.dev.boot = .recovery) ∧ ((firmwareOf e).isSome → t.dev.boot = .ready) ∧
      (e.cause ≠ .leaveRetain → unlockLevel s.dev.token = Option.none → t.dev.security = .prod ∧ t.dev.debug = .none) ∧
      (∀ l, e.cause ≠ .leaveRetain → unlockLevel s.dev.token = some l → t.dev.security = .ownerDebug ∧ t.dev.debug = l) ∧
      (e.cause = .leaveRetain → t.dev.security = s.dev.security ∧ t.dev.debug = s.dev.debug) ∧
      (∀ c ∈ t.mem, c ∈ s.mem ∧ (hostPlace 0 ≤ c.1 ∨ inHbm c.1 = true)) ∧
      (e.cause = .perst → unlockLevel s.dev.token ≠ Option.none → ∀ c ∈ t.mem, hostPlace 0 ≤ c.1) ∧
      (e.cause = .powerOn → ∀ c ∈ t.mem, hostPlace 0 ≤ c.1)) ∧
    (s.dev.power = .on →
      (tokenValid token 1 1 = true → Completes s (.observeToken token) fun t => t.dev.obs = true ∧ t.dev.security = s.dev.security ∧
        t.dev.debug = (if s.dev.debug = .none then .observe else s.dev.debug) ∧ t.cores = s.cores ∧ SameMemory s t) ∧
      (tokenValid token 1 1 = false → Completes s (.observeToken token) fun t => t = s) ∧
      (∀ a k, Config.spdmExchange (identityKey s.dev.security) request = some (a, k) → Completes s (.spdmRequest request) fun t =>
        t.dev = { s.dev with linkKey := k, out := s.dev.out ++ [.spdm a] } ∧ t.cores = s.cores ∧ SameMemory s t) ∧
      (Config.spdmExchange (identityKey s.dev.security) request = Option.none → Completes s (.spdmRequest request) fun t =>
        let m := s.dev.measurements
        let key := identityKey s.dev.security
        t.dev.out = s.dev.out ++ [.spdm (Config.spdmMeasurements key.1 request m (Config.mlDsaSign key.2 (request ++ m)))] ∧
          t.dev.linkKey = s.dev.linkKey ∧ t.cores = s.cores ∧ SameMemory s t)) ∧
    (s.dev.power ≠ .on → NotEnabled s (.observeToken token) ∧ NotEnabled s (.spdmRequest request))

/-- GO with a resident team or a placement ends at once with CKRES 1, and without all twelve links to one ready peer with CKRES 3;
else the checkpoint runs until it is done, with CKSTATE 2 and its vector. A mirrored image replaces
every byte and every mark of the module's memory, and host memory stays.
It rests on the choices of log entries 1 and 37. -/
def Sys2Proof.Says.CheckpointSteps : Prop :=
  ∀ (s : State) (image : MirrorImage),
    let target := (s.bar 0x080008).toNat / 2 % 4
    let rest := (s.bar 0x080008).toNat / 8 % 2
    let ckres := fun (t : State) (n : Nat) => (t.bar 0x080010).toNat = n * 256 + 3 ∧ t.dev.ckptRunning = Option.none ∧ SameMemory s t ∧ t.cores = s.cores
    (s.hostUp = true → s.dev.ckptRunning = Option.none →
      (s.teams ≠ [] ∨ s.dev.placing.isSome →
        (target ≠ 1 → (target ≠ 0 ∨ rest = 0) → Completes s .checkpointHost fun t => ckres t 1) ∧
        (target = 1 → ∀ ready, Completes s (.checkpointMirror ready) fun t => ckres t 1) ∧
        (target = 0 → rest = 1 → Completes s .checkpointRestore fun t => ckres t 1)) ∧
      (s.teams = [] → s.dev.placing = Option.none →
        (2 ≤ target → Completes s .checkpointHost fun t => ckres t 2) ∧
        (target = 0 → rest = 0 → Completes s .checkpointHost fun t => t.dev.ckptRunning = some 0 ∧ (t.bar 0x080010).toNat = 1 ∧ t.cores = s.cores) ∧
        (target = 1 → ∀ ready, (s.mirrorLinks = false ∨ ready = false) → Completes s (.checkpointMirror ready) fun t => ckres t 3) ∧
        (target = 1 → s.mirrorLinks = true → Completes s (.checkpointMirror true) fun t => t.dev.ckptRunning = some 1 ∧
          (t.bar 0x080010).toNat = 1 ∧ ∃ m, t.dev.out = s.dev.out ++ [.mirror m]) ∧
        (target = 0 → rest = 1 → s.ckMatches = false → Completes s .checkpointRestore fun t => ckres t 4) ∧
        (target = 0 → rest = 1 → s.ckMatches = true → Completes s .checkpointRestore fun t => t.dev.ckptRunning = some 0 ∧ t.sectors = [] ∧
          (t.bar 0x080010).toNat = 1))) ∧
    (s.dev.ckptRunning.isSome → Completes s .checkpointDone fun t => t.dev.ckptRunning = Option.none ∧ (t.bar 0x080010).toNat = 2 ∧
      t.dev.out = s.dev.out ++ [.msix ((s.bar 0x080018).toNat % 2 ^ 11)] ∧ SameMemory s t ∧ t.cores = s.cores) ∧
    (s.dev.ckptRunning = Option.none → NotEnabled s .checkpointDone) ∧
    (s.hostUp = true → (s.bar 0x080008).toNat / 16 % 2 = 1 → s.teams = [] → s.mirrorLinks = true → Completes s (.mirroredCheckpointReceive image) fun t =>
      t.sectors = [] ∧ t.cores = s.cores ∧
      (s.Inv → ∀ p, Memory.read t.mem p = if (ckIndex p).isNone then Memory.read s.mem p
        else (((image.cells.filter fun c => c.1 == p).getLast?).map Prod.snd).getD 0) ∧
      (∀ q, q ∈ t.poison ↔ if (ckIndex q).isNone then q ∈ s.poison else q ∈ image.poison.map granule)) ∧
    (s.teams ≠ [] → NotEnabled s (.mirroredCheckpointReceive image))

/-- The steps of the distributor, of the dies' power, of the module's power, security and checkpoints complete where the manual lets
them take place. -/
def Obligations.ModuleSteps : Prop := Says.LaunchSteps ∧ Says.DieSteps ∧ Says.ModulePower ∧ Says.SecuritySteps ∧ Says.CheckpointSteps

end
end

