-- ==== Sys2Proof/Laws/Memory.lean ====
section
/-! SUPPORT. Laws of the sparse maps and of memory: a read after a write, and that every write keeps the canonical form. -/

namespace Sys2Proof.Machine

variable {α : Type}

/-! ### Sparse maps -/

@[simp] theorem SMap.find_nil (k : Nat) : SMap.find ([] : SMap α) k = none := rfl

@[simp] theorem SMap.find_put_self (m : SMap α) (k : Nat) (v : α) : SMap.find (SMap.put m k v) k = some v := by
  induction m with
  | nil => simp [SMap.put, SMap.find]
  | cons a t ih =>
    obtain ⟨j, w⟩ := a
    unfold SMap.put
    split
    · simp [SMap.find]
    · split
      · simp [SMap.find]
      · next h =>
        simp only [SMap.find]
        rw [if_neg (fun e => h e.symm)]
        exact ih

@[simp] theorem SMap.find_put_ne (m : SMap α) {j k : Nat} (h : j ≠ k) (v : α) : SMap.find (SMap.put m k v) j = SMap.find m j := by
  induction m with
  | nil => simp [SMap.put, SMap.find, h.symm]
  | cons a t ih =>
    obtain ⟨i, w⟩ := a
    unfold SMap.put
    split
    · simp [SMap.find, h.symm]
    · split
      · next e => subst e; simp [SMap.find, h.symm]
      · simp only [SMap.find, ih]

theorem SMap.find_put (m : SMap α) (j k : Nat) (v : α) :
    SMap.find (SMap.put m k v) j = if j = k then some v else SMap.find m j := by
  split
  · next h => subst h; simp
  · next h => simp [h]

@[simp] theorem SMap.find_del_ne (m : SMap α) {j k : Nat} (h : j ≠ k) : SMap.find (SMap.del m k) j = SMap.find m j := by
  induction m with
  | nil => rfl
  | cons a t ih =>
    obtain ⟨i, w⟩ := a
    unfold SMap.del
    split
    · next e => subst e; simp [SMap.find, h.symm]
    · simp only [SMap.find, ih]

/-- The keys of a map rise strictly: the head's is below every other. -/
theorem SMap.sorted_cons {j : Nat} {v : α} {t : SMap α} :
    SMap.sorted ((j, v) :: t) = true ↔ (∀ c ∈ t, j < c.1) ∧ SMap.sorted t = true := by
  induction t generalizing j v with
  | nil => simp [SMap.sorted]
  | cons a u ih =>
    obtain ⟨k, w⟩ := a
    simp only [SMap.sorted, Bool.and_eq_true, decide_eq_true_eq]
    constructor
    · rintro ⟨h, s⟩
      refine ⟨fun c hc => ?_, s⟩
      rcases List.mem_cons.mp hc with rfl | hc
      · exact h
      · exact Nat.lt_trans h ((ih.mp s).1 c hc)
    · rintro ⟨h, s⟩
      exact ⟨h (k, w) (by simp), s⟩

theorem SMap.find_eq_none_of_lt {m : SMap α} {k : Nat} (h : ∀ c ∈ m, k < c.1) : SMap.find m k = none := by
  induction m with
  | nil => rfl
  | cons a t ih =>
    have hk := h a (by simp)
    rw [SMap.find, if_neg (by omega)]
    exact ih fun c hc => h c (by simp [hc])

theorem SMap.find_del_self {m : SMap α} (h : SMap.sorted m = true) (k : Nat) : SMap.find (SMap.del m k) k = none := by
  induction m with
  | nil => rfl
  | cons a t ih =>
    obtain ⟨j, w⟩ := a
    have hs := SMap.sorted_cons.mp h
    unfold SMap.del
    split
    · next e => subst e; exact SMap.find_eq_none_of_lt hs.1
    · next e => rw [SMap.find, if_neg e]; exact ih hs.2

theorem SMap.mem_put {m : SMap α} {k : Nat} {v : α} {c : Nat × α} (h : c ∈ SMap.put m k v) : c = (k, v) ∨ c ∈ m := by
  induction m with
  | nil => simpa [SMap.put] using h
  | cons a t ih =>
    obtain ⟨j, w⟩ := a
    unfold SMap.put at h
    split at h
    · simpa using h
    · split at h
      · rcases List.mem_cons.mp h with rfl | h
        · exact .inl rfl
        · exact .inr (by simp [h])
      · rcases List.mem_cons.mp h with rfl | h
        · exact .inr (by simp)
        · exact (ih h).imp id fun h => by simp [h]

theorem SMap.mem_del {m : SMap α} {k : Nat} {c : Nat × α} (h : c ∈ SMap.del m k) : c ∈ m := by
  induction m with
  | nil => exact h
  | cons a t ih =>
    obtain ⟨j, w⟩ := a
    unfold SMap.del at h
    split at h
    · simp [h]
    · rcases List.mem_cons.mp h with rfl | h
      · simp
      · simp [ih h]

theorem SMap.sorted_put {m : SMap α} (h : SMap.sorted m = true) (k : Nat) (v : α) : SMap.sorted (SMap.put m k v) = true := by
  induction m with
  | nil => rfl
  | cons a t ih =>
    obtain ⟨j, w⟩ := a
    have hs := SMap.sorted_cons.mp h
    unfold SMap.put
    split
    · next e =>
      refine SMap.sorted_cons.mpr ⟨fun c hc => ?_, h⟩
      rcases List.mem_cons.mp hc with rfl | hc
      · exact e
      · exact Nat.lt_trans e (hs.1 c hc)
    · split
      · next e => subst e; exact SMap.sorted_cons.mpr hs
      · refine SMap.sorted_cons.mpr ⟨fun c hc => ?_, ih hs.2⟩
        rcases SMap.mem_put hc with rfl | hc
        · simp only; omega
        · exact hs.1 c hc

theorem SMap.sorted_del {m : SMap α} (h : SMap.sorted m = true) (k : Nat) : SMap.sorted (SMap.del m k) = true := by
  induction m with
  | nil => rfl
  | cons a t ih =>
    obtain ⟨j, w⟩ := a
    have hs := SMap.sorted_cons.mp h
    unfold SMap.del
    split
    · exact hs.2
    · exact SMap.sorted_cons.mpr ⟨fun c hc => hs.1 c (SMap.mem_del hc), ih hs.2⟩

theorem SMap.sorted_filter {m : SMap α} (h : SMap.sorted m = true) (p : Nat × α → Bool) : SMap.sorted (m.filter p) = true := by
  induction m with
  | nil => rfl
  | cons a t ih =>
    obtain ⟨j, w⟩ := a
    have hs := SMap.sorted_cons.mp h
    rw [List.filter_cons]
    split
    · exact SMap.sorted_cons.mpr ⟨fun c hc => hs.1 c (List.mem_filter.mp hc).1, ih hs.2⟩
    · exact ih hs.2

theorem SMap.mem_of_find {m : SMap α} {k : Nat} {v : α} (h : SMap.find m k = some v) : (k, v) ∈ m := by
  induction m with
  | nil => simp [SMap.find] at h
  | cons a t ih =>
    obtain ⟨j, w⟩ := a
    rw [SMap.find] at h
    split at h
    · next e => subst e; simp_all
    · simp [ih h]

theorem SMap.find_of_mem {m : SMap α} (h : SMap.sorted m = true) {k : Nat} {v : α} (hm : (k, v) ∈ m) : SMap.find m k = some v := by
  induction m with
  | nil => simp at hm
  | cons a t ih =>
    obtain ⟨j, w⟩ := a
    have hs := SMap.sorted_cons.mp h
    rcases List.mem_cons.mp hm with e | hm
    · cases e; simp [SMap.find]
    · have := hs.1 _ hm
      rw [SMap.find, if_neg (by simp only at this; omega)]
      exact ih hs.2 hm

/-! ### Memory -/

theorem Memory.wf_iff {m : Memory} : m.wf = true ↔ SMap.sorted m = true ∧ ∀ c ∈ m, c.2 ≠ 0 := by
  simp [Memory.wf, List.all_eq_true]

@[simp] theorem Memory.wf_nil : Memory.wf [] = true := rfl

/-- Every write keeps the canonical form. -/
theorem Memory.wf_write {m : Memory} (h : m.wf = true) (p : Nat) (b : Byte) : (m.write p b).wf = true := by
  obtain ⟨hs, hz⟩ := Memory.wf_iff.mp h
  unfold Memory.write
  split
  · exact Memory.wf_iff.mpr ⟨SMap.sorted_del hs p, fun c hc => hz c (SMap.mem_del hc)⟩
  · next hb =>
    refine Memory.wf_iff.mpr ⟨SMap.sorted_put hs p b, fun c hc => ?_⟩
    rcases SMap.mem_put hc with rfl | hc
    · exact hb
    · exact hz c hc

theorem Memory.wf_filter {m : Memory} (h : m.wf = true) (p : Host.Cell → Bool) : Memory.wf (List.filter p m) = true := by
  obtain ⟨hs, hz⟩ := Memory.wf_iff.mp h
  exact Memory.wf_iff.mpr ⟨SMap.sorted_filter hs p, fun c hc => hz c (List.mem_filter.mp hc).1⟩

/-- A run of writes keeps the canonical form. -/
theorem Memory.wf_foldl {β : Type} (l : List β) (p : β → Nat) (v : β → Byte) {m : Memory} (h : m.wf = true) :
    Memory.wf (l.foldl (fun m x => Memory.write m (p x) (v x)) m) = true := by
  induction l generalizing m with
  | nil => exact h
  | cons a t ih => exact ih (Memory.wf_write h _ _)

/-- A read after a write to the same place gives the byte written. -/
theorem Memory.read_write_self {m : Memory} (h : m.wf = true) (p : Nat) (b : Byte) : (m.write p b).read p = b := by
  unfold Memory.write Memory.read
  split
  · next e => subst e; rw [SMap.find_del_self (Memory.wf_iff.mp h).1]; rfl
  · simp

/-- A write leaves every other place alone. -/
@[simp] theorem Memory.read_write_ne (m : Memory) {p q : Nat} (h : q ≠ p) (b : Byte) : (m.write p b).read q = m.read q := by
  unfold Memory.write Memory.read
  split <;> simp [h]

theorem Memory.read_write {m : Memory} (h : m.wf = true) (p q : Nat) (b : Byte) :
    (m.write p b).read q = if q = p then b else m.read q := by
  split
  · next e => subst e; exact Memory.read_write_self h q b
  · next e => exact Memory.read_write_ne m e b

/-- Reset memory lists nothing. -/
theorem reset_mem : State.reset.mem = [] := rfl

end Sys2Proof.Machine
end

