-- ==== Sys2Proof/Laws/State.lean ====
section
/-! SUPPORT. One lemma per field per update of the state, and what an update of a piece does to that piece and to the others. -/

namespace Sys2Proof.Machine

variable (s : State)

/-! ### `setCore` -/

@[simp] theorem State.setCore_agenda (g : Nat) (c : Core) : (s.setCore g c).agenda = s.agenda := rfl
@[simp] theorem State.setCore_focus (g : Nat) (c : Core) : (s.setCore g c).focus = s.focus := rfl
@[simp] theorem State.setCore_cur (g : Nat) (c : Core) : (s.setCore g c).cur = s.cur := rfl
@[simp] theorem State.setCore_curWord (g : Nat) (c : Core) : (s.setCore g c).curWord = s.curWord := rfl
@[simp] theorem State.setCore_now (g : Nat) (c : Core) : (s.setCore g c).now = s.now := rfl
@[simp] theorem State.setCore_freeCtr (g : Nat) (c : Core) : (s.setCore g c).freeCtr = s.freeCtr := rfl
@[simp] theorem State.setCore_mem (g : Nat) (c : Core) : (s.setCore g c).mem = s.mem := rfl
@[simp] theorem State.setCore_poison (g : Nat) (c : Core) : (s.setCore g c).poison = s.poison := rfl
@[simp] theorem State.setCore_soft (g : Nat) (c : Core) : (s.setCore g c).soft = s.soft := rfl
@[simp] theorem State.setCore_sectors (g : Nat) (c : Core) : (s.setCore g c).sectors = s.sectors := rfl
@[simp] theorem State.setCore_tags (g : Nat) (c : Core) : (s.setCore g c).tags = s.tags := rfl
@[simp] theorem State.setCore_reached (g : Nat) (c : Core) : (s.setCore g c).reached = s.reached := rfl
@[simp] theorem State.setCore_quads (g : Nat) (c : Core) : (s.setCore g c).quads = s.quads := rfl
@[simp] theorem State.setCore_clusters (g : Nat) (c : Core) : (s.setCore g c).clusters = s.clusters := rfl
@[simp] theorem State.setCore_dies (g : Nat) (c : Core) : (s.setCore g c).dies = s.dies := rfl
@[simp] theorem State.setCore_teams (g : Nat) (c : Core) : (s.setCore g c).teams = s.teams := rfl
@[simp] theorem State.setCore_dev (g : Nat) (c : Core) : (s.setCore g c).dev = s.dev := rfl

/-! ### `modCore` -/

@[simp] theorem State.modCore_agenda (g : Nat) (f : Core → Core) : (s.modCore g f).agenda = s.agenda := rfl
@[simp] theorem State.modCore_focus (g : Nat) (f : Core → Core) : (s.modCore g f).focus = s.focus := rfl
@[simp] theorem State.modCore_cur (g : Nat) (f : Core → Core) : (s.modCore g f).cur = s.cur := rfl
@[simp] theorem State.modCore_curWord (g : Nat) (f : Core → Core) : (s.modCore g f).curWord = s.curWord := rfl
@[simp] theorem State.modCore_now (g : Nat) (f : Core → Core) : (s.modCore g f).now = s.now := rfl
@[simp] theorem State.modCore_freeCtr (g : Nat) (f : Core → Core) : (s.modCore g f).freeCtr = s.freeCtr := rfl
@[simp] theorem State.modCore_mem (g : Nat) (f : Core → Core) : (s.modCore g f).mem = s.mem := rfl
@[simp] theorem State.modCore_poison (g : Nat) (f : Core → Core) : (s.modCore g f).poison = s.poison := rfl
@[simp] theorem State.modCore_soft (g : Nat) (f : Core → Core) : (s.modCore g f).soft = s.soft := rfl
@[simp] theorem State.modCore_sectors (g : Nat) (f : Core → Core) : (s.modCore g f).sectors = s.sectors := rfl
@[simp] theorem State.modCore_tags (g : Nat) (f : Core → Core) : (s.modCore g f).tags = s.tags := rfl
@[simp] theorem State.modCore_reached (g : Nat) (f : Core → Core) : (s.modCore g f).reached = s.reached := rfl
@[simp] theorem State.modCore_quads (g : Nat) (f : Core → Core) : (s.modCore g f).quads = s.quads := rfl
@[simp] theorem State.modCore_clusters (g : Nat) (f : Core → Core) : (s.modCore g f).clusters = s.clusters := rfl
@[simp] theorem State.modCore_dies (g : Nat) (f : Core → Core) : (s.modCore g f).dies = s.dies := rfl
@[simp] theorem State.modCore_teams (g : Nat) (f : Core → Core) : (s.modCore g f).teams = s.teams := rfl
@[simp] theorem State.modCore_dev (g : Nat) (f : Core → Core) : (s.modCore g f).dev = s.dev := rfl

/-! ### `modCtx` -/

@[simp] theorem State.modCtx_agenda (r : CtxRef) (f : Context → Context) : (s.modCtx r f).agenda = s.agenda := rfl
@[simp] theorem State.modCtx_focus (r : CtxRef) (f : Context → Context) : (s.modCtx r f).focus = s.focus := rfl
@[simp] theorem State.modCtx_cur (r : CtxRef) (f : Context → Context) : (s.modCtx r f).cur = s.cur := rfl
@[simp] theorem State.modCtx_curWord (r : CtxRef) (f : Context → Context) : (s.modCtx r f).curWord = s.curWord := rfl
@[simp] theorem State.modCtx_now (r : CtxRef) (f : Context → Context) : (s.modCtx r f).now = s.now := rfl
@[simp] theorem State.modCtx_freeCtr (r : CtxRef) (f : Context → Context) : (s.modCtx r f).freeCtr = s.freeCtr := rfl
@[simp] theorem State.modCtx_mem (r : CtxRef) (f : Context → Context) : (s.modCtx r f).mem = s.mem := rfl
@[simp] theorem State.modCtx_poison (r : CtxRef) (f : Context → Context) : (s.modCtx r f).poison = s.poison := rfl
@[simp] theorem State.modCtx_soft (r : CtxRef) (f : Context → Context) : (s.modCtx r f).soft = s.soft := rfl
@[simp] theorem State.modCtx_sectors (r : CtxRef) (f : Context → Context) : (s.modCtx r f).sectors = s.sectors := rfl
@[simp] theorem State.modCtx_tags (r : CtxRef) (f : Context → Context) : (s.modCtx r f).tags = s.tags := rfl
@[simp] theorem State.modCtx_reached (r : CtxRef) (f : Context → Context) : (s.modCtx r f).reached = s.reached := rfl
@[simp] theorem State.modCtx_quads (r : CtxRef) (f : Context → Context) : (s.modCtx r f).quads = s.quads := rfl
@[simp] theorem State.modCtx_clusters (r : CtxRef) (f : Context → Context) : (s.modCtx r f).clusters = s.clusters := rfl
@[simp] theorem State.modCtx_dies (r : CtxRef) (f : Context → Context) : (s.modCtx r f).dies = s.dies := rfl
@[simp] theorem State.modCtx_teams (r : CtxRef) (f : Context → Context) : (s.modCtx r f).teams = s.teams := rfl
@[simp] theorem State.modCtx_dev (r : CtxRef) (f : Context → Context) : (s.modCtx r f).dev = s.dev := rfl

/-! ### `modMe` -/

@[simp] theorem State.modMe_agenda (f : Core → Core) : (s.modMe f).agenda = s.agenda := rfl
@[simp] theorem State.modMe_focus (f : Core → Core) : (s.modMe f).focus = s.focus := rfl
@[simp] theorem State.modMe_cur (f : Core → Core) : (s.modMe f).cur = s.cur := rfl
@[simp] theorem State.modMe_curWord (f : Core → Core) : (s.modMe f).curWord = s.curWord := rfl
@[simp] theorem State.modMe_now (f : Core → Core) : (s.modMe f).now = s.now := rfl
@[simp] theorem State.modMe_freeCtr (f : Core → Core) : (s.modMe f).freeCtr = s.freeCtr := rfl
@[simp] theorem State.modMe_mem (f : Core → Core) : (s.modMe f).mem = s.mem := rfl
@[simp] theorem State.modMe_poison (f : Core → Core) : (s.modMe f).poison = s.poison := rfl
@[simp] theorem State.modMe_soft (f : Core → Core) : (s.modMe f).soft = s.soft := rfl
@[simp] theorem State.modMe_sectors (f : Core → Core) : (s.modMe f).sectors = s.sectors := rfl
@[simp] theorem State.modMe_tags (f : Core → Core) : (s.modMe f).tags = s.tags := rfl
@[simp] theorem State.modMe_reached (f : Core → Core) : (s.modMe f).reached = s.reached := rfl
@[simp] theorem State.modMe_quads (f : Core → Core) : (s.modMe f).quads = s.quads := rfl
@[simp] theorem State.modMe_clusters (f : Core → Core) : (s.modMe f).clusters = s.clusters := rfl
@[simp] theorem State.modMe_dies (f : Core → Core) : (s.modMe f).dies = s.dies := rfl
@[simp] theorem State.modMe_teams (f : Core → Core) : (s.modMe f).teams = s.teams := rfl
@[simp] theorem State.modMe_dev (f : Core → Core) : (s.modMe f).dev = s.dev := rfl

/-! ### `modCx` -/

@[simp] theorem State.modCx_agenda (f : Context → Context) : (s.modCx f).agenda = s.agenda := rfl
@[simp] theorem State.modCx_focus (f : Context → Context) : (s.modCx f).focus = s.focus := rfl
@[simp] theorem State.modCx_cur (f : Context → Context) : (s.modCx f).cur = s.cur := rfl
@[simp] theorem State.modCx_curWord (f : Context → Context) : (s.modCx f).curWord = s.curWord := rfl
@[simp] theorem State.modCx_now (f : Context → Context) : (s.modCx f).now = s.now := rfl
@[simp] theorem State.modCx_freeCtr (f : Context → Context) : (s.modCx f).freeCtr = s.freeCtr := rfl
@[simp] theorem State.modCx_mem (f : Context → Context) : (s.modCx f).mem = s.mem := rfl
@[simp] theorem State.modCx_poison (f : Context → Context) : (s.modCx f).poison = s.poison := rfl
@[simp] theorem State.modCx_soft (f : Context → Context) : (s.modCx f).soft = s.soft := rfl
@[simp] theorem State.modCx_sectors (f : Context → Context) : (s.modCx f).sectors = s.sectors := rfl
@[simp] theorem State.modCx_tags (f : Context → Context) : (s.modCx f).tags = s.tags := rfl
@[simp] theorem State.modCx_reached (f : Context → Context) : (s.modCx f).reached = s.reached := rfl
@[simp] theorem State.modCx_quads (f : Context → Context) : (s.modCx f).quads = s.quads := rfl
@[simp] theorem State.modCx_clusters (f : Context → Context) : (s.modCx f).clusters = s.clusters := rfl
@[simp] theorem State.modCx_dies (f : Context → Context) : (s.modCx f).dies = s.dies := rfl
@[simp] theorem State.modCx_teams (f : Context → Context) : (s.modCx f).teams = s.teams := rfl
@[simp] theorem State.modCx_dev (f : Context → Context) : (s.modCx f).dev = s.dev := rfl

/-! ### `modWsOf` -/

@[simp] theorem State.modWsOf_agenda (r : CtxRef) (f : Workspace → Workspace) : (s.modWsOf r f).agenda = s.agenda := rfl
@[simp] theorem State.modWsOf_focus (r : CtxRef) (f : Workspace → Workspace) : (s.modWsOf r f).focus = s.focus := rfl
@[simp] theorem State.modWsOf_cur (r : CtxRef) (f : Workspace → Workspace) : (s.modWsOf r f).cur = s.cur := rfl
@[simp] theorem State.modWsOf_curWord (r : CtxRef) (f : Workspace → Workspace) : (s.modWsOf r f).curWord = s.curWord := rfl
@[simp] theorem State.modWsOf_now (r : CtxRef) (f : Workspace → Workspace) : (s.modWsOf r f).now = s.now := rfl
@[simp] theorem State.modWsOf_freeCtr (r : CtxRef) (f : Workspace → Workspace) : (s.modWsOf r f).freeCtr = s.freeCtr := rfl
@[simp] theorem State.modWsOf_mem (r : CtxRef) (f : Workspace → Workspace) : (s.modWsOf r f).mem = s.mem := rfl
@[simp] theorem State.modWsOf_poison (r : CtxRef) (f : Workspace → Workspace) : (s.modWsOf r f).poison = s.poison := rfl
@[simp] theorem State.modWsOf_soft (r : CtxRef) (f : Workspace → Workspace) : (s.modWsOf r f).soft = s.soft := rfl
@[simp] theorem State.modWsOf_sectors (r : CtxRef) (f : Workspace → Workspace) : (s.modWsOf r f).sectors = s.sectors := rfl
@[simp] theorem State.modWsOf_tags (r : CtxRef) (f : Workspace → Workspace) : (s.modWsOf r f).tags = s.tags := rfl
@[simp] theorem State.modWsOf_reached (r : CtxRef) (f : Workspace → Workspace) : (s.modWsOf r f).reached = s.reached := rfl
@[simp] theorem State.modWsOf_quads (r : CtxRef) (f : Workspace → Workspace) : (s.modWsOf r f).quads = s.quads := rfl
@[simp] theorem State.modWsOf_clusters (r : CtxRef) (f : Workspace → Workspace) : (s.modWsOf r f).clusters = s.clusters := rfl
@[simp] theorem State.modWsOf_dies (r : CtxRef) (f : Workspace → Workspace) : (s.modWsOf r f).dies = s.dies := rfl
@[simp] theorem State.modWsOf_teams (r : CtxRef) (f : Workspace → Workspace) : (s.modWsOf r f).teams = s.teams := rfl
@[simp] theorem State.modWsOf_dev (r : CtxRef) (f : Workspace → Workspace) : (s.modWsOf r f).dev = s.dev := rfl

/-! ### `modWs` -/

@[simp] theorem State.modWs_agenda (f : Workspace → Workspace) : (s.modWs f).agenda = s.agenda := rfl
@[simp] theorem State.modWs_focus (f : Workspace → Workspace) : (s.modWs f).focus = s.focus := rfl
@[simp] theorem State.modWs_cur (f : Workspace → Workspace) : (s.modWs f).cur = s.cur := rfl
@[simp] theorem State.modWs_curWord (f : Workspace → Workspace) : (s.modWs f).curWord = s.curWord := rfl
@[simp] theorem State.modWs_now (f : Workspace → Workspace) : (s.modWs f).now = s.now := rfl
@[simp] theorem State.modWs_freeCtr (f : Workspace → Workspace) : (s.modWs f).freeCtr = s.freeCtr := rfl
@[simp] theorem State.modWs_mem (f : Workspace → Workspace) : (s.modWs f).mem = s.mem := rfl
@[simp] theorem State.modWs_poison (f : Workspace → Workspace) : (s.modWs f).poison = s.poison := rfl
@[simp] theorem State.modWs_soft (f : Workspace → Workspace) : (s.modWs f).soft = s.soft := rfl
@[simp] theorem State.modWs_sectors (f : Workspace → Workspace) : (s.modWs f).sectors = s.sectors := rfl
@[simp] theorem State.modWs_tags (f : Workspace → Workspace) : (s.modWs f).tags = s.tags := rfl
@[simp] theorem State.modWs_reached (f : Workspace → Workspace) : (s.modWs f).reached = s.reached := rfl
@[simp] theorem State.modWs_quads (f : Workspace → Workspace) : (s.modWs f).quads = s.quads := rfl
@[simp] theorem State.modWs_clusters (f : Workspace → Workspace) : (s.modWs f).clusters = s.clusters := rfl
@[simp] theorem State.modWs_dies (f : Workspace → Workspace) : (s.modWs f).dies = s.dies := rfl
@[simp] theorem State.modWs_teams (f : Workspace → Workspace) : (s.modWs f).teams = s.teams := rfl
@[simp] theorem State.modWs_dev (f : Workspace → Workspace) : (s.modWs f).dev = s.dev := rfl

/-! ### `setV` -/

@[simp] theorem State.setV_agenda (n : VReg) (v : VWord) : (s.setV n v).agenda = s.agenda := rfl
@[simp] theorem State.setV_focus (n : VReg) (v : VWord) : (s.setV n v).focus = s.focus := rfl
@[simp] theorem State.setV_cur (n : VReg) (v : VWord) : (s.setV n v).cur = s.cur := rfl
@[simp] theorem State.setV_curWord (n : VReg) (v : VWord) : (s.setV n v).curWord = s.curWord := rfl
@[simp] theorem State.setV_now (n : VReg) (v : VWord) : (s.setV n v).now = s.now := rfl
@[simp] theorem State.setV_freeCtr (n : VReg) (v : VWord) : (s.setV n v).freeCtr = s.freeCtr := rfl
@[simp] theorem State.setV_mem (n : VReg) (v : VWord) : (s.setV n v).mem = s.mem := rfl
@[simp] theorem State.setV_poison (n : VReg) (v : VWord) : (s.setV n v).poison = s.poison := rfl
@[simp] theorem State.setV_soft (n : VReg) (v : VWord) : (s.setV n v).soft = s.soft := rfl
@[simp] theorem State.setV_sectors (n : VReg) (v : VWord) : (s.setV n v).sectors = s.sectors := rfl
@[simp] theorem State.setV_tags (n : VReg) (v : VWord) : (s.setV n v).tags = s.tags := rfl
@[simp] theorem State.setV_reached (n : VReg) (v : VWord) : (s.setV n v).reached = s.reached := rfl
@[simp] theorem State.setV_quads (n : VReg) (v : VWord) : (s.setV n v).quads = s.quads := rfl
@[simp] theorem State.setV_clusters (n : VReg) (v : VWord) : (s.setV n v).clusters = s.clusters := rfl
@[simp] theorem State.setV_dies (n : VReg) (v : VWord) : (s.setV n v).dies = s.dies := rfl
@[simp] theorem State.setV_teams (n : VReg) (v : VWord) : (s.setV n v).teams = s.teams := rfl
@[simp] theorem State.setV_dev (n : VReg) (v : VWord) : (s.setV n v).dev = s.dev := rfl

/-! ### `setCb` -/

@[simp] theorem State.setCb_agenda (n : Fin 8) (v : BitVec 128) : (s.setCb n v).agenda = s.agenda := rfl
@[simp] theorem State.setCb_focus (n : Fin 8) (v : BitVec 128) : (s.setCb n v).focus = s.focus := rfl
@[simp] theorem State.setCb_cur (n : Fin 8) (v : BitVec 128) : (s.setCb n v).cur = s.cur := rfl
@[simp] theorem State.setCb_curWord (n : Fin 8) (v : BitVec 128) : (s.setCb n v).curWord = s.curWord := rfl
@[simp] theorem State.setCb_now (n : Fin 8) (v : BitVec 128) : (s.setCb n v).now = s.now := rfl
@[simp] theorem State.setCb_freeCtr (n : Fin 8) (v : BitVec 128) : (s.setCb n v).freeCtr = s.freeCtr := rfl
@[simp] theorem State.setCb_mem (n : Fin 8) (v : BitVec 128) : (s.setCb n v).mem = s.mem := rfl
@[simp] theorem State.setCb_poison (n : Fin 8) (v : BitVec 128) : (s.setCb n v).poison = s.poison := rfl
@[simp] theorem State.setCb_soft (n : Fin 8) (v : BitVec 128) : (s.setCb n v).soft = s.soft := rfl
@[simp] theorem State.setCb_sectors (n : Fin 8) (v : BitVec 128) : (s.setCb n v).sectors = s.sectors := rfl
@[simp] theorem State.setCb_tags (n : Fin 8) (v : BitVec 128) : (s.setCb n v).tags = s.tags := rfl
@[simp] theorem State.setCb_reached (n : Fin 8) (v : BitVec 128) : (s.setCb n v).reached = s.reached := rfl
@[simp] theorem State.setCb_quads (n : Fin 8) (v : BitVec 128) : (s.setCb n v).quads = s.quads := rfl
@[simp] theorem State.setCb_clusters (n : Fin 8) (v : BitVec 128) : (s.setCb n v).clusters = s.clusters := rfl
@[simp] theorem State.setCb_dies (n : Fin 8) (v : BitVec 128) : (s.setCb n v).dies = s.dies := rfl
@[simp] theorem State.setCb_teams (n : Fin 8) (v : BitVec 128) : (s.setCb n v).teams = s.teams := rfl
@[simp] theorem State.setCb_dev (n : Fin 8) (v : BitVec 128) : (s.setCb n v).dev = s.dev := rfl

/-! ### `advance` -/

@[simp] theorem State.advance_agenda : (s.advance).agenda = s.agenda := rfl
@[simp] theorem State.advance_focus : (s.advance).focus = s.focus := rfl
@[simp] theorem State.advance_cur : (s.advance).cur = s.cur := rfl
@[simp] theorem State.advance_curWord : (s.advance).curWord = s.curWord := rfl
@[simp] theorem State.advance_now : (s.advance).now = s.now := rfl
@[simp] theorem State.advance_freeCtr : (s.advance).freeCtr = s.freeCtr := rfl
@[simp] theorem State.advance_mem : (s.advance).mem = s.mem := rfl
@[simp] theorem State.advance_poison : (s.advance).poison = s.poison := rfl
@[simp] theorem State.advance_soft : (s.advance).soft = s.soft := rfl
@[simp] theorem State.advance_sectors : (s.advance).sectors = s.sectors := rfl
@[simp] theorem State.advance_tags : (s.advance).tags = s.tags := rfl
@[simp] theorem State.advance_reached : (s.advance).reached = s.reached := rfl
@[simp] theorem State.advance_quads : (s.advance).quads = s.quads := rfl
@[simp] theorem State.advance_clusters : (s.advance).clusters = s.clusters := rfl
@[simp] theorem State.advance_dies : (s.advance).dies = s.dies := rfl
@[simp] theorem State.advance_teams : (s.advance).teams = s.teams := rfl
@[simp] theorem State.advance_dev : (s.advance).dev = s.dev := rfl

/-! ### `jump` -/

@[simp] theorem State.jump_agenda (v : Word) : (s.jump v).agenda = s.agenda := rfl
@[simp] theorem State.jump_focus (v : Word) : (s.jump v).focus = s.focus := rfl
@[simp] theorem State.jump_cur (v : Word) : (s.jump v).cur = s.cur := rfl
@[simp] theorem State.jump_curWord (v : Word) : (s.jump v).curWord = s.curWord := rfl
@[simp] theorem State.jump_now (v : Word) : (s.jump v).now = s.now := rfl
@[simp] theorem State.jump_freeCtr (v : Word) : (s.jump v).freeCtr = s.freeCtr := rfl
@[simp] theorem State.jump_mem (v : Word) : (s.jump v).mem = s.mem := rfl
@[simp] theorem State.jump_poison (v : Word) : (s.jump v).poison = s.poison := rfl
@[simp] theorem State.jump_soft (v : Word) : (s.jump v).soft = s.soft := rfl
@[simp] theorem State.jump_sectors (v : Word) : (s.jump v).sectors = s.sectors := rfl
@[simp] theorem State.jump_tags (v : Word) : (s.jump v).tags = s.tags := rfl
@[simp] theorem State.jump_reached (v : Word) : (s.jump v).reached = s.reached := rfl
@[simp] theorem State.jump_quads (v : Word) : (s.jump v).quads = s.quads := rfl
@[simp] theorem State.jump_clusters (v : Word) : (s.jump v).clusters = s.clusters := rfl
@[simp] theorem State.jump_dies (v : Word) : (s.jump v).dies = s.dies := rfl
@[simp] theorem State.jump_teams (v : Word) : (s.jump v).teams = s.teams := rfl
@[simp] theorem State.jump_dev (v : Word) : (s.jump v).dev = s.dev := rfl

/-! ### `returnTrap` -/

@[simp] theorem State.returnTrap_agenda : (s.returnTrap).agenda = s.agenda := rfl
@[simp] theorem State.returnTrap_focus : (s.returnTrap).focus = s.focus := rfl
@[simp] theorem State.returnTrap_cur : (s.returnTrap).cur = s.cur := rfl
@[simp] theorem State.returnTrap_curWord : (s.returnTrap).curWord = s.curWord := rfl
@[simp] theorem State.returnTrap_now : (s.returnTrap).now = s.now := rfl
@[simp] theorem State.returnTrap_freeCtr : (s.returnTrap).freeCtr = s.freeCtr := rfl
@[simp] theorem State.returnTrap_mem : (s.returnTrap).mem = s.mem := rfl
@[simp] theorem State.returnTrap_poison : (s.returnTrap).poison = s.poison := rfl
@[simp] theorem State.returnTrap_soft : (s.returnTrap).soft = s.soft := rfl
@[simp] theorem State.returnTrap_sectors : (s.returnTrap).sectors = s.sectors := rfl
@[simp] theorem State.returnTrap_tags : (s.returnTrap).tags = s.tags := rfl
@[simp] theorem State.returnTrap_reached : (s.returnTrap).reached = s.reached := rfl
@[simp] theorem State.returnTrap_quads : (s.returnTrap).quads = s.quads := rfl
@[simp] theorem State.returnTrap_clusters : (s.returnTrap).clusters = s.clusters := rfl
@[simp] theorem State.returnTrap_dies : (s.returnTrap).dies = s.dies := rfl
@[simp] theorem State.returnTrap_teams : (s.returnTrap).teams = s.teams := rfl
@[simp] theorem State.returnTrap_dev : (s.returnTrap).dev = s.dev := rfl

/-! ### `wake` -/

@[simp] theorem State.wake_agenda (g : Nat) : (s.wake g).agenda = s.agenda := rfl
@[simp] theorem State.wake_focus (g : Nat) : (s.wake g).focus = s.focus := rfl
@[simp] theorem State.wake_cur (g : Nat) : (s.wake g).cur = s.cur := rfl
@[simp] theorem State.wake_curWord (g : Nat) : (s.wake g).curWord = s.curWord := rfl
@[simp] theorem State.wake_now (g : Nat) : (s.wake g).now = s.now := rfl
@[simp] theorem State.wake_freeCtr (g : Nat) : (s.wake g).freeCtr = s.freeCtr := rfl
@[simp] theorem State.wake_mem (g : Nat) : (s.wake g).mem = s.mem := rfl
@[simp] theorem State.wake_poison (g : Nat) : (s.wake g).poison = s.poison := rfl
@[simp] theorem State.wake_soft (g : Nat) : (s.wake g).soft = s.soft := rfl
@[simp] theorem State.wake_sectors (g : Nat) : (s.wake g).sectors = s.sectors := rfl
@[simp] theorem State.wake_tags (g : Nat) : (s.wake g).tags = s.tags := rfl
@[simp] theorem State.wake_reached (g : Nat) : (s.wake g).reached = s.reached := rfl
@[simp] theorem State.wake_quads (g : Nat) : (s.wake g).quads = s.quads := rfl
@[simp] theorem State.wake_clusters (g : Nat) : (s.wake g).clusters = s.clusters := rfl
@[simp] theorem State.wake_dies (g : Nat) : (s.wake g).dies = s.dies := rfl
@[simp] theorem State.wake_teams (g : Nat) : (s.wake g).teams = s.teams := rfl
@[simp] theorem State.wake_dev (g : Nat) : (s.wake g).dev = s.dev := rfl

/-! ### `charge` -/

@[simp] theorem State.charge_agenda (f : FaultRec) (u : Bool) : (s.charge f u).agenda = s.agenda := rfl
@[simp] theorem State.charge_focus (f : FaultRec) (u : Bool) : (s.charge f u).focus = s.focus := rfl
@[simp] theorem State.charge_cur (f : FaultRec) (u : Bool) : (s.charge f u).cur = s.cur := rfl
@[simp] theorem State.charge_curWord (f : FaultRec) (u : Bool) : (s.charge f u).curWord = s.curWord := rfl
@[simp] theorem State.charge_now (f : FaultRec) (u : Bool) : (s.charge f u).now = s.now := rfl
@[simp] theorem State.charge_freeCtr (f : FaultRec) (u : Bool) : (s.charge f u).freeCtr = s.freeCtr := rfl
@[simp] theorem State.charge_mem (f : FaultRec) (u : Bool) : (s.charge f u).mem = s.mem := rfl
@[simp] theorem State.charge_poison (f : FaultRec) (u : Bool) : (s.charge f u).poison = s.poison := rfl
@[simp] theorem State.charge_soft (f : FaultRec) (u : Bool) : (s.charge f u).soft = s.soft := rfl
@[simp] theorem State.charge_sectors (f : FaultRec) (u : Bool) : (s.charge f u).sectors = s.sectors := rfl
@[simp] theorem State.charge_tags (f : FaultRec) (u : Bool) : (s.charge f u).tags = s.tags := rfl
@[simp] theorem State.charge_reached (f : FaultRec) (u : Bool) : (s.charge f u).reached = s.reached := rfl
@[simp] theorem State.charge_quads (f : FaultRec) (u : Bool) : (s.charge f u).quads = s.quads := rfl
@[simp] theorem State.charge_clusters (f : FaultRec) (u : Bool) : (s.charge f u).clusters = s.clusters := rfl
@[simp] theorem State.charge_dies (f : FaultRec) (u : Bool) : (s.charge f u).dies = s.dies := rfl
@[simp] theorem State.charge_teams (f : FaultRec) (u : Bool) : (s.charge f u).teams = s.teams := rfl
@[simp] theorem State.charge_dev (f : FaultRec) (u : Bool) : (s.charge f u).dev = s.dev := rfl

/-! ### `modQuad` -/

@[simp] theorem State.modQuad_agenda (q : Nat) (f : Quad → Quad) : (s.modQuad q f).agenda = s.agenda := rfl
@[simp] theorem State.modQuad_focus (q : Nat) (f : Quad → Quad) : (s.modQuad q f).focus = s.focus := rfl
@[simp] theorem State.modQuad_cur (q : Nat) (f : Quad → Quad) : (s.modQuad q f).cur = s.cur := rfl
@[simp] theorem State.modQuad_curWord (q : Nat) (f : Quad → Quad) : (s.modQuad q f).curWord = s.curWord := rfl
@[simp] theorem State.modQuad_now (q : Nat) (f : Quad → Quad) : (s.modQuad q f).now = s.now := rfl
@[simp] theorem State.modQuad_freeCtr (q : Nat) (f : Quad → Quad) : (s.modQuad q f).freeCtr = s.freeCtr := rfl
@[simp] theorem State.modQuad_mem (q : Nat) (f : Quad → Quad) : (s.modQuad q f).mem = s.mem := rfl
@[simp] theorem State.modQuad_poison (q : Nat) (f : Quad → Quad) : (s.modQuad q f).poison = s.poison := rfl
@[simp] theorem State.modQuad_soft (q : Nat) (f : Quad → Quad) : (s.modQuad q f).soft = s.soft := rfl
@[simp] theorem State.modQuad_sectors (q : Nat) (f : Quad → Quad) : (s.modQuad q f).sectors = s.sectors := rfl
@[simp] theorem State.modQuad_tags (q : Nat) (f : Quad → Quad) : (s.modQuad q f).tags = s.tags := rfl
@[simp] theorem State.modQuad_reached (q : Nat) (f : Quad → Quad) : (s.modQuad q f).reached = s.reached := rfl
@[simp] theorem State.modQuad_cores (q : Nat) (f : Quad → Quad) : (s.modQuad q f).cores = s.cores := rfl
@[simp] theorem State.modQuad_clusters (q : Nat) (f : Quad → Quad) : (s.modQuad q f).clusters = s.clusters := rfl
@[simp] theorem State.modQuad_dies (q : Nat) (f : Quad → Quad) : (s.modQuad q f).dies = s.dies := rfl
@[simp] theorem State.modQuad_teams (q : Nat) (f : Quad → Quad) : (s.modQuad q f).teams = s.teams := rfl
@[simp] theorem State.modQuad_dev (q : Nat) (f : Quad → Quad) : (s.modQuad q f).dev = s.dev := rfl

/-! ### `modCmdQueue` -/

@[simp] theorem State.modCmdQueue_agenda (g : Nat) (f : CmdQueue → CmdQueue) : (s.modCmdQueue g f).agenda = s.agenda := rfl
@[simp] theorem State.modCmdQueue_focus (g : Nat) (f : CmdQueue → CmdQueue) : (s.modCmdQueue g f).focus = s.focus := rfl
@[simp] theorem State.modCmdQueue_cur (g : Nat) (f : CmdQueue → CmdQueue) : (s.modCmdQueue g f).cur = s.cur := rfl
@[simp] theorem State.modCmdQueue_curWord (g : Nat) (f : CmdQueue → CmdQueue) : (s.modCmdQueue g f).curWord = s.curWord := rfl
@[simp] theorem State.modCmdQueue_now (g : Nat) (f : CmdQueue → CmdQueue) : (s.modCmdQueue g f).now = s.now := rfl
@[simp] theorem State.modCmdQueue_freeCtr (g : Nat) (f : CmdQueue → CmdQueue) : (s.modCmdQueue g f).freeCtr = s.freeCtr := rfl
@[simp] theorem State.modCmdQueue_mem (g : Nat) (f : CmdQueue → CmdQueue) : (s.modCmdQueue g f).mem = s.mem := rfl
@[simp] theorem State.modCmdQueue_poison (g : Nat) (f : CmdQueue → CmdQueue) : (s.modCmdQueue g f).poison = s.poison := rfl
@[simp] theorem State.modCmdQueue_soft (g : Nat) (f : CmdQueue → CmdQueue) : (s.modCmdQueue g f).soft = s.soft := rfl
@[simp] theorem State.modCmdQueue_sectors (g : Nat) (f : CmdQueue → CmdQueue) : (s.modCmdQueue g f).sectors = s.sectors := rfl
@[simp] theorem State.modCmdQueue_tags (g : Nat) (f : CmdQueue → CmdQueue) : (s.modCmdQueue g f).tags = s.tags := rfl
@[simp] theorem State.modCmdQueue_reached (g : Nat) (f : CmdQueue → CmdQueue) : (s.modCmdQueue g f).reached = s.reached := rfl
@[simp] theorem State.modCmdQueue_cores (g : Nat) (f : CmdQueue → CmdQueue) : (s.modCmdQueue g f).cores = s.cores := rfl
@[simp] theorem State.modCmdQueue_clusters (g : Nat) (f : CmdQueue → CmdQueue) : (s.modCmdQueue g f).clusters = s.clusters := rfl
@[simp] theorem State.modCmdQueue_dies (g : Nat) (f : CmdQueue → CmdQueue) : (s.modCmdQueue g f).dies = s.dies := rfl
@[simp] theorem State.modCmdQueue_teams (g : Nat) (f : CmdQueue → CmdQueue) : (s.modCmdQueue g f).teams = s.teams := rfl
@[simp] theorem State.modCmdQueue_dev (g : Nat) (f : CmdQueue → CmdQueue) : (s.modCmdQueue g f).dev = s.dev := rfl

/-! ### `modCluster` -/

@[simp] theorem State.modCluster_agenda (c : Nat) (f : Cluster → Cluster) : (s.modCluster c f).agenda = s.agenda := rfl
@[simp] theorem State.modCluster_focus (c : Nat) (f : Cluster → Cluster) : (s.modCluster c f).focus = s.focus := rfl
@[simp] theorem State.modCluster_cur (c : Nat) (f : Cluster → Cluster) : (s.modCluster c f).cur = s.cur := rfl
@[simp] theorem State.modCluster_curWord (c : Nat) (f : Cluster → Cluster) : (s.modCluster c f).curWord = s.curWord := rfl
@[simp] theorem State.modCluster_now (c : Nat) (f : Cluster → Cluster) : (s.modCluster c f).now = s.now := rfl
@[simp] theorem State.modCluster_freeCtr (c : Nat) (f : Cluster → Cluster) : (s.modCluster c f).freeCtr = s.freeCtr := rfl
@[simp] theorem State.modCluster_mem (c : Nat) (f : Cluster → Cluster) : (s.modCluster c f).mem = s.mem := rfl
@[simp] theorem State.modCluster_poison (c : Nat) (f : Cluster → Cluster) : (s.modCluster c f).poison = s.poison := rfl
@[simp] theorem State.modCluster_soft (c : Nat) (f : Cluster → Cluster) : (s.modCluster c f).soft = s.soft := rfl
@[simp] theorem State.modCluster_sectors (c : Nat) (f : Cluster → Cluster) : (s.modCluster c f).sectors = s.sectors := rfl
@[simp] theorem State.modCluster_tags (c : Nat) (f : Cluster → Cluster) : (s.modCluster c f).tags = s.tags := rfl
@[simp] theorem State.modCluster_reached (c : Nat) (f : Cluster → Cluster) : (s.modCluster c f).reached = s.reached := rfl
@[simp] theorem State.modCluster_cores (c : Nat) (f : Cluster → Cluster) : (s.modCluster c f).cores = s.cores := rfl
@[simp] theorem State.modCluster_quads (c : Nat) (f : Cluster → Cluster) : (s.modCluster c f).quads = s.quads := rfl
@[simp] theorem State.modCluster_dies (c : Nat) (f : Cluster → Cluster) : (s.modCluster c f).dies = s.dies := rfl
@[simp] theorem State.modCluster_teams (c : Nat) (f : Cluster → Cluster) : (s.modCluster c f).teams = s.teams := rfl
@[simp] theorem State.modCluster_dev (c : Nat) (f : Cluster → Cluster) : (s.modCluster c f).dev = s.dev := rfl

/-! ### `modDie` -/

@[simp] theorem State.modDie_agenda (d : Nat) (f : Die → Die) : (s.modDie d f).agenda = s.agenda := rfl
@[simp] theorem State.modDie_focus (d : Nat) (f : Die → Die) : (s.modDie d f).focus = s.focus := rfl
@[simp] theorem State.modDie_cur (d : Nat) (f : Die → Die) : (s.modDie d f).cur = s.cur := rfl
@[simp] theorem State.modDie_curWord (d : Nat) (f : Die → Die) : (s.modDie d f).curWord = s.curWord := rfl
@[simp] theorem State.modDie_now (d : Nat) (f : Die → Die) : (s.modDie d f).now = s.now := rfl
@[simp] theorem State.modDie_freeCtr (d : Nat) (f : Die → Die) : (s.modDie d f).freeCtr = s.freeCtr := rfl
@[simp] theorem State.modDie_mem (d : Nat) (f : Die → Die) : (s.modDie d f).mem = s.mem := rfl
@[simp] theorem State.modDie_poison (d : Nat) (f : Die → Die) : (s.modDie d f).poison = s.poison := rfl
@[simp] theorem State.modDie_soft (d : Nat) (f : Die → Die) : (s.modDie d f).soft = s.soft := rfl
@[simp] theorem State.modDie_sectors (d : Nat) (f : Die → Die) : (s.modDie d f).sectors = s.sectors := rfl
@[simp] theorem State.modDie_tags (d : Nat) (f : Die → Die) : (s.modDie d f).tags = s.tags := rfl
@[simp] theorem State.modDie_reached (d : Nat) (f : Die → Die) : (s.modDie d f).reached = s.reached := rfl
@[simp] theorem State.modDie_cores (d : Nat) (f : Die → Die) : (s.modDie d f).cores = s.cores := rfl
@[simp] theorem State.modDie_quads (d : Nat) (f : Die → Die) : (s.modDie d f).quads = s.quads := rfl
@[simp] theorem State.modDie_clusters (d : Nat) (f : Die → Die) : (s.modDie d f).clusters = s.clusters := rfl
@[simp] theorem State.modDie_teams (d : Nat) (f : Die → Die) : (s.modDie d f).teams = s.teams := rfl
@[simp] theorem State.modDie_dev (d : Nat) (f : Die → Die) : (s.modDie d f).dev = s.dev := rfl

/-! ### `modDev` -/

@[simp] theorem State.modDev_agenda (f : Device → Device) : (s.modDev f).agenda = s.agenda := rfl
@[simp] theorem State.modDev_focus (f : Device → Device) : (s.modDev f).focus = s.focus := rfl
@[simp] theorem State.modDev_cur (f : Device → Device) : (s.modDev f).cur = s.cur := rfl
@[simp] theorem State.modDev_curWord (f : Device → Device) : (s.modDev f).curWord = s.curWord := rfl
@[simp] theorem State.modDev_now (f : Device → Device) : (s.modDev f).now = s.now := rfl
@[simp] theorem State.modDev_freeCtr (f : Device → Device) : (s.modDev f).freeCtr = s.freeCtr := rfl
@[simp] theorem State.modDev_mem (f : Device → Device) : (s.modDev f).mem = s.mem := rfl
@[simp] theorem State.modDev_poison (f : Device → Device) : (s.modDev f).poison = s.poison := rfl
@[simp] theorem State.modDev_soft (f : Device → Device) : (s.modDev f).soft = s.soft := rfl
@[simp] theorem State.modDev_sectors (f : Device → Device) : (s.modDev f).sectors = s.sectors := rfl
@[simp] theorem State.modDev_tags (f : Device → Device) : (s.modDev f).tags = s.tags := rfl
@[simp] theorem State.modDev_reached (f : Device → Device) : (s.modDev f).reached = s.reached := rfl
@[simp] theorem State.modDev_cores (f : Device → Device) : (s.modDev f).cores = s.cores := rfl
@[simp] theorem State.modDev_quads (f : Device → Device) : (s.modDev f).quads = s.quads := rfl
@[simp] theorem State.modDev_clusters (f : Device → Device) : (s.modDev f).clusters = s.clusters := rfl
@[simp] theorem State.modDev_dies (f : Device → Device) : (s.modDev f).dies = s.dies := rfl
@[simp] theorem State.modDev_teams (f : Device → Device) : (s.modDev f).teams = s.teams := rfl

/-! ### `emit` -/

@[simp] theorem State.emit_agenda (o : Out) : (s.emit o).agenda = s.agenda := rfl
@[simp] theorem State.emit_focus (o : Out) : (s.emit o).focus = s.focus := rfl
@[simp] theorem State.emit_cur (o : Out) : (s.emit o).cur = s.cur := rfl
@[simp] theorem State.emit_curWord (o : Out) : (s.emit o).curWord = s.curWord := rfl
@[simp] theorem State.emit_now (o : Out) : (s.emit o).now = s.now := rfl
@[simp] theorem State.emit_freeCtr (o : Out) : (s.emit o).freeCtr = s.freeCtr := rfl
@[simp] theorem State.emit_mem (o : Out) : (s.emit o).mem = s.mem := rfl
@[simp] theorem State.emit_poison (o : Out) : (s.emit o).poison = s.poison := rfl
@[simp] theorem State.emit_soft (o : Out) : (s.emit o).soft = s.soft := rfl
@[simp] theorem State.emit_sectors (o : Out) : (s.emit o).sectors = s.sectors := rfl
@[simp] theorem State.emit_tags (o : Out) : (s.emit o).tags = s.tags := rfl
@[simp] theorem State.emit_reached (o : Out) : (s.emit o).reached = s.reached := rfl
@[simp] theorem State.emit_cores (o : Out) : (s.emit o).cores = s.cores := rfl
@[simp] theorem State.emit_quads (o : Out) : (s.emit o).quads = s.quads := rfl
@[simp] theorem State.emit_clusters (o : Out) : (s.emit o).clusters = s.clusters := rfl
@[simp] theorem State.emit_dies (o : Out) : (s.emit o).dies = s.dies := rfl
@[simp] theorem State.emit_teams (o : Out) : (s.emit o).teams = s.teams := rfl

/-! ### `setBar` -/

@[simp] theorem State.setBar_agenda (o : Nat) (v : Word) : (s.setBar o v).agenda = s.agenda := rfl
@[simp] theorem State.setBar_focus (o : Nat) (v : Word) : (s.setBar o v).focus = s.focus := rfl
@[simp] theorem State.setBar_cur (o : Nat) (v : Word) : (s.setBar o v).cur = s.cur := rfl
@[simp] theorem State.setBar_curWord (o : Nat) (v : Word) : (s.setBar o v).curWord = s.curWord := rfl
@[simp] theorem State.setBar_now (o : Nat) (v : Word) : (s.setBar o v).now = s.now := rfl
@[simp] theorem State.setBar_freeCtr (o : Nat) (v : Word) : (s.setBar o v).freeCtr = s.freeCtr := rfl
@[simp] theorem State.setBar_mem (o : Nat) (v : Word) : (s.setBar o v).mem = s.mem := rfl
@[simp] theorem State.setBar_poison (o : Nat) (v : Word) : (s.setBar o v).poison = s.poison := rfl
@[simp] theorem State.setBar_soft (o : Nat) (v : Word) : (s.setBar o v).soft = s.soft := rfl
@[simp] theorem State.setBar_sectors (o : Nat) (v : Word) : (s.setBar o v).sectors = s.sectors := rfl
@[simp] theorem State.setBar_tags (o : Nat) (v : Word) : (s.setBar o v).tags = s.tags := rfl
@[simp] theorem State.setBar_reached (o : Nat) (v : Word) : (s.setBar o v).reached = s.reached := rfl
@[simp] theorem State.setBar_cores (o : Nat) (v : Word) : (s.setBar o v).cores = s.cores := rfl
@[simp] theorem State.setBar_quads (o : Nat) (v : Word) : (s.setBar o v).quads = s.quads := rfl
@[simp] theorem State.setBar_clusters (o : Nat) (v : Word) : (s.setBar o v).clusters = s.clusters := rfl
@[simp] theorem State.setBar_dies (o : Nat) (v : Word) : (s.setBar o v).dies = s.dies := rfl
@[simp] theorem State.setBar_teams (o : Nat) (v : Word) : (s.setBar o v).teams = s.teams := rfl

/-! ### `setW` -/

@[simp] theorem State.setW_agenda (n : Reg) (v : Word) : (s.setW n v).agenda = s.agenda := by
  unfold State.setW; split <;> rfl
@[simp] theorem State.setW_focus (n : Reg) (v : Word) : (s.setW n v).focus = s.focus := by
  unfold State.setW; split <;> rfl
@[simp] theorem State.setW_cur (n : Reg) (v : Word) : (s.setW n v).cur = s.cur := by
  unfold State.setW; split <;> rfl
@[simp] theorem State.setW_curWord (n : Reg) (v : Word) : (s.setW n v).curWord = s.curWord := by
  unfold State.setW; split <;> rfl
@[simp] theorem State.setW_now (n : Reg) (v : Word) : (s.setW n v).now = s.now := by
  unfold State.setW; split <;> rfl
@[simp] theorem State.setW_freeCtr (n : Reg) (v : Word) : (s.setW n v).freeCtr = s.freeCtr := by
  unfold State.setW; split <;> rfl
@[simp] theorem State.setW_mem (n : Reg) (v : Word) : (s.setW n v).mem = s.mem := by
  unfold State.setW; split <;> rfl
@[simp] theorem State.setW_poison (n : Reg) (v : Word) : (s.setW n v).poison = s.poison := by
  unfold State.setW; split <;> rfl
@[simp] theorem State.setW_soft (n : Reg) (v : Word) : (s.setW n v).soft = s.soft := by
  unfold State.setW; split <;> rfl
@[simp] theorem State.setW_sectors (n : Reg) (v : Word) : (s.setW n v).sectors = s.sectors := by
  unfold State.setW; split <;> rfl
@[simp] theorem State.setW_tags (n : Reg) (v : Word) : (s.setW n v).tags = s.tags := by
  unfold State.setW; split <;> rfl
@[simp] theorem State.setW_reached (n : Reg) (v : Word) : (s.setW n v).reached = s.reached := by
  unfold State.setW; split <;> rfl
@[simp] theorem State.setW_quads (n : Reg) (v : Word) : (s.setW n v).quads = s.quads := by
  unfold State.setW; split <;> rfl
@[simp] theorem State.setW_clusters (n : Reg) (v : Word) : (s.setW n v).clusters = s.clusters := by
  unfold State.setW; split <;> rfl
@[simp] theorem State.setW_dies (n : Reg) (v : Word) : (s.setW n v).dies = s.dies := by
  unfold State.setW; split <;> rfl
@[simp] theorem State.setW_teams (n : Reg) (v : Word) : (s.setW n v).teams = s.teams := by
  unfold State.setW; split <;> rfl
@[simp] theorem State.setW_dev (n : Reg) (v : Word) : (s.setW n v).dev = s.dev := by
  unfold State.setW; split <;> rfl

/-! ### `retire` -/

@[simp] theorem State.retire_agenda (n : Reg) (v : Word) : (s.retire n v).agenda = s.agenda := by
  unfold State.retire State.setW; split <;> rfl
@[simp] theorem State.retire_focus (n : Reg) (v : Word) : (s.retire n v).focus = s.focus := by
  unfold State.retire State.setW; split <;> rfl
@[simp] theorem State.retire_cur (n : Reg) (v : Word) : (s.retire n v).cur = s.cur := by
  unfold State.retire State.setW; split <;> rfl
@[simp] theorem State.retire_curWord (n : Reg) (v : Word) : (s.retire n v).curWord = s.curWord := by
  unfold State.retire State.setW; split <;> rfl
@[simp] theorem State.retire_now (n : Reg) (v : Word) : (s.retire n v).now = s.now := by
  unfold State.retire State.setW; split <;> rfl
@[simp] theorem State.retire_freeCtr (n : Reg) (v : Word) : (s.retire n v).freeCtr = s.freeCtr := by
  unfold State.retire State.setW; split <;> rfl
@[simp] theorem State.retire_mem (n : Reg) (v : Word) : (s.retire n v).mem = s.mem := by
  unfold State.retire State.setW; split <;> rfl
@[simp] theorem State.retire_poison (n : Reg) (v : Word) : (s.retire n v).poison = s.poison := by
  unfold State.retire State.setW; split <;> rfl
@[simp] theorem State.retire_soft (n : Reg) (v : Word) : (s.retire n v).soft = s.soft := by
  unfold State.retire State.setW; split <;> rfl
@[simp] theorem State.retire_sectors (n : Reg) (v : Word) : (s.retire n v).sectors = s.sectors := by
  unfold State.retire State.setW; split <;> rfl
@[simp] theorem State.retire_tags (n : Reg) (v : Word) : (s.retire n v).tags = s.tags := by
  unfold State.retire State.setW; split <;> rfl
@[simp] theorem State.retire_reached (n : Reg) (v : Word) : (s.retire n v).reached = s.reached := by
  unfold State.retire State.setW; split <;> rfl
@[simp] theorem State.retire_quads (n : Reg) (v : Word) : (s.retire n v).quads = s.quads := by
  unfold State.retire State.setW; split <;> rfl
@[simp] theorem State.retire_clusters (n : Reg) (v : Word) : (s.retire n v).clusters = s.clusters := by
  unfold State.retire State.setW; split <;> rfl
@[simp] theorem State.retire_dies (n : Reg) (v : Word) : (s.retire n v).dies = s.dies := by
  unfold State.retire State.setW; split <;> rfl
@[simp] theorem State.retire_teams (n : Reg) (v : Word) : (s.retire n v).teams = s.teams := by
  unfold State.retire State.setW; split <;> rfl
@[simp] theorem State.retire_dev (n : Reg) (v : Word) : (s.retire n v).dev = s.dev := by
  unfold State.retire State.setW; split <;> rfl

/-! ### `count` -/

@[simp] theorem State.count_agenda (r : CtxRef) (e n : Nat) : (s.count r e n).agenda = s.agenda := by
  unfold State.count; split <;> rfl
@[simp] theorem State.count_focus (r : CtxRef) (e n : Nat) : (s.count r e n).focus = s.focus := by
  unfold State.count; split <;> rfl
@[simp] theorem State.count_cur (r : CtxRef) (e n : Nat) : (s.count r e n).cur = s.cur := by
  unfold State.count; split <;> rfl
@[simp] theorem State.count_curWord (r : CtxRef) (e n : Nat) : (s.count r e n).curWord = s.curWord := by
  unfold State.count; split <;> rfl
@[simp] theorem State.count_now (r : CtxRef) (e n : Nat) : (s.count r e n).now = s.now := by
  unfold State.count; split <;> rfl
@[simp] theorem State.count_freeCtr (r : CtxRef) (e n : Nat) : (s.count r e n).freeCtr = s.freeCtr := by
  unfold State.count; split <;> rfl
@[simp] theorem State.count_mem (r : CtxRef) (e n : Nat) : (s.count r e n).mem = s.mem := by
  unfold State.count; split <;> rfl
@[simp] theorem State.count_poison (r : CtxRef) (e n : Nat) : (s.count r e n).poison = s.poison := by
  unfold State.count; split <;> rfl
@[simp] theorem State.count_soft (r : CtxRef) (e n : Nat) : (s.count r e n).soft = s.soft := by
  unfold State.count; split <;> rfl
@[simp] theorem State.count_sectors (r : CtxRef) (e n : Nat) : (s.count r e n).sectors = s.sectors := by
  unfold State.count; split <;> rfl
@[simp] theorem State.count_tags (r : CtxRef) (e n : Nat) : (s.count r e n).tags = s.tags := by
  unfold State.count; split <;> rfl
@[simp] theorem State.count_reached (r : CtxRef) (e n : Nat) : (s.count r e n).reached = s.reached := by
  unfold State.count; split <;> rfl
@[simp] theorem State.count_quads (r : CtxRef) (e n : Nat) : (s.count r e n).quads = s.quads := by
  unfold State.count; split <;> rfl
@[simp] theorem State.count_clusters (r : CtxRef) (e n : Nat) : (s.count r e n).clusters = s.clusters := by
  unfold State.count; split <;> rfl
@[simp] theorem State.count_dies (r : CtxRef) (e n : Nat) : (s.count r e n).dies = s.dies := by
  unfold State.count; split <;> rfl
@[simp] theorem State.count_teams (r : CtxRef) (e n : Nat) : (s.count r e n).teams = s.teams := by
  unfold State.count; split <;> rfl
@[simp] theorem State.count_dev (r : CtxRef) (e n : Nat) : (s.count r e n).dev = s.dev := by
  unfold State.count; split <;> rfl

/-! ### `report` -/

@[simp] theorem State.report_agenda (f : FaultRec) : (s.report f).agenda = s.agenda := by
  unfold State.report; split <;> simp
@[simp] theorem State.report_focus (f : FaultRec) : (s.report f).focus = s.focus := by
  unfold State.report; split <;> simp
@[simp] theorem State.report_cur (f : FaultRec) : (s.report f).cur = s.cur := by
  unfold State.report; split <;> simp
@[simp] theorem State.report_curWord (f : FaultRec) : (s.report f).curWord = s.curWord := by
  unfold State.report; split <;> simp
@[simp] theorem State.report_now (f : FaultRec) : (s.report f).now = s.now := by
  unfold State.report; split <;> simp
@[simp] theorem State.report_freeCtr (f : FaultRec) : (s.report f).freeCtr = s.freeCtr := by
  unfold State.report; split <;> simp
@[simp] theorem State.report_mem (f : FaultRec) : (s.report f).mem = s.mem := by
  unfold State.report; split <;> simp
@[simp] theorem State.report_poison (f : FaultRec) : (s.report f).poison = s.poison := by
  unfold State.report; split <;> simp
@[simp] theorem State.report_soft (f : FaultRec) : (s.report f).soft = s.soft := by
  unfold State.report; split <;> simp
@[simp] theorem State.report_sectors (f : FaultRec) : (s.report f).sectors = s.sectors := by
  unfold State.report; split <;> simp
@[simp] theorem State.report_tags (f : FaultRec) : (s.report f).tags = s.tags := by
  unfold State.report; split <;> simp
@[simp] theorem State.report_reached (f : FaultRec) : (s.report f).reached = s.reached := by
  unfold State.report; split <;> simp
@[simp] theorem State.report_quads (f : FaultRec) : (s.report f).quads = s.quads := by
  unfold State.report; split <;> simp
@[simp] theorem State.report_clusters (f : FaultRec) : (s.report f).clusters = s.clusters := by
  unfold State.report; split <;> simp
@[simp] theorem State.report_teams (f : FaultRec) : (s.report f).teams = s.teams := by
  unfold State.report; split <;> simp
@[simp] theorem State.report_dev (f : FaultRec) : (s.report f).dev = s.dev := by
  unfold State.report; split <;> simp

/-! ### `takeSys` -/

@[simp] theorem State.takeSys_agenda (r : CtxRef) (f : FaultRec) (v : Word) (b : Bool) : (s.takeSys r f v b).agenda = s.agenda := by
  simp [State.takeSys]
@[simp] theorem State.takeSys_focus (r : CtxRef) (f : FaultRec) (v : Word) (b : Bool) : (s.takeSys r f v b).focus = s.focus := by
  simp [State.takeSys]
@[simp] theorem State.takeSys_cur (r : CtxRef) (f : FaultRec) (v : Word) (b : Bool) : (s.takeSys r f v b).cur = s.cur := by
  simp [State.takeSys]
@[simp] theorem State.takeSys_curWord (r : CtxRef) (f : FaultRec) (v : Word) (b : Bool) : (s.takeSys r f v b).curWord = s.curWord := by
  simp [State.takeSys]
@[simp] theorem State.takeSys_now (r : CtxRef) (f : FaultRec) (v : Word) (b : Bool) : (s.takeSys r f v b).now = s.now := by
  simp [State.takeSys]
@[simp] theorem State.takeSys_freeCtr (r : CtxRef) (f : FaultRec) (v : Word) (b : Bool) : (s.takeSys r f v b).freeCtr = s.freeCtr := by
  simp [State.takeSys]
@[simp] theorem State.takeSys_mem (r : CtxRef) (f : FaultRec) (v : Word) (b : Bool) : (s.takeSys r f v b).mem = s.mem := by
  simp [State.takeSys]
@[simp] theorem State.takeSys_poison (r : CtxRef) (f : FaultRec) (v : Word) (b : Bool) : (s.takeSys r f v b).poison = s.poison := by
  simp [State.takeSys]
@[simp] theorem State.takeSys_soft (r : CtxRef) (f : FaultRec) (v : Word) (b : Bool) : (s.takeSys r f v b).soft = s.soft := by
  simp [State.takeSys]
@[simp] theorem State.takeSys_sectors (r : CtxRef) (f : FaultRec) (v : Word) (b : Bool) : (s.takeSys r f v b).sectors = s.sectors := by
  simp [State.takeSys]
@[simp] theorem State.takeSys_tags (r : CtxRef) (f : FaultRec) (v : Word) (b : Bool) : (s.takeSys r f v b).tags = s.tags := by
  simp [State.takeSys]
@[simp] theorem State.takeSys_reached (r : CtxRef) (f : FaultRec) (v : Word) (b : Bool) : (s.takeSys r f v b).reached = s.reached := by
  simp [State.takeSys]
@[simp] theorem State.takeSys_quads (r : CtxRef) (f : FaultRec) (v : Word) (b : Bool) : (s.takeSys r f v b).quads = s.quads := by
  simp [State.takeSys]
@[simp] theorem State.takeSys_clusters (r : CtxRef) (f : FaultRec) (v : Word) (b : Bool) : (s.takeSys r f v b).clusters = s.clusters := by
  simp [State.takeSys]
@[simp] theorem State.takeSys_teams (r : CtxRef) (f : FaultRec) (v : Word) (b : Bool) : (s.takeSys r f v b).teams = s.teams := by
  simp [State.takeSys]
@[simp] theorem State.takeSys_dev (r : CtxRef) (f : FaultRec) (v : Word) (b : Bool) : (s.takeSys r f v b).dev = s.dev := by
  simp [State.takeSys]

/-! ### `countRefusal` -/

@[simp] theorem State.countRefusal_agenda (r : CtxRef) (d l : Nat) : (s.countRefusal r d l).agenda = s.agenda := by
  simp [State.countRefusal]
@[simp] theorem State.countRefusal_focus (r : CtxRef) (d l : Nat) : (s.countRefusal r d l).focus = s.focus := by
  simp [State.countRefusal]
@[simp] theorem State.countRefusal_cur (r : CtxRef) (d l : Nat) : (s.countRefusal r d l).cur = s.cur := by
  simp [State.countRefusal]
@[simp] theorem State.countRefusal_curWord (r : CtxRef) (d l : Nat) : (s.countRefusal r d l).curWord = s.curWord := by
  simp [State.countRefusal]
@[simp] theorem State.countRefusal_now (r : CtxRef) (d l : Nat) : (s.countRefusal r d l).now = s.now := by
  simp [State.countRefusal]
@[simp] theorem State.countRefusal_freeCtr (r : CtxRef) (d l : Nat) : (s.countRefusal r d l).freeCtr = s.freeCtr := by
  simp [State.countRefusal]
@[simp] theorem State.countRefusal_mem (r : CtxRef) (d l : Nat) : (s.countRefusal r d l).mem = s.mem := by
  simp [State.countRefusal]
@[simp] theorem State.countRefusal_poison (r : CtxRef) (d l : Nat) : (s.countRefusal r d l).poison = s.poison := by
  simp [State.countRefusal]
@[simp] theorem State.countRefusal_soft (r : CtxRef) (d l : Nat) : (s.countRefusal r d l).soft = s.soft := by
  simp [State.countRefusal]
@[simp] theorem State.countRefusal_sectors (r : CtxRef) (d l : Nat) : (s.countRefusal r d l).sectors = s.sectors := by
  simp [State.countRefusal]
@[simp] theorem State.countRefusal_tags (r : CtxRef) (d l : Nat) : (s.countRefusal r d l).tags = s.tags := by
  simp [State.countRefusal]
@[simp] theorem State.countRefusal_reached (r : CtxRef) (d l : Nat) : (s.countRefusal r d l).reached = s.reached := by
  simp [State.countRefusal]
@[simp] theorem State.countRefusal_quads (r : CtxRef) (d l : Nat) : (s.countRefusal r d l).quads = s.quads := by
  simp [State.countRefusal]
@[simp] theorem State.countRefusal_clusters (r : CtxRef) (d l : Nat) : (s.countRefusal r d l).clusters = s.clusters := by
  simp [State.countRefusal]
@[simp] theorem State.countRefusal_teams (r : CtxRef) (d l : Nat) : (s.countRefusal r d l).teams = s.teams := by
  simp [State.countRefusal]
@[simp] theorem State.countRefusal_dev (r : CtxRef) (d l : Nat) : (s.countRefusal r d l).dev = s.dev := by
  simp [State.countRefusal]

/-! ### `modTeam` -/

@[simp] theorem State.modTeam_agenda (t : Nat) (f : Team → Team) : (s.modTeam t f).agenda = s.agenda := by
  unfold State.modTeam; split <;> rfl
@[simp] theorem State.modTeam_focus (t : Nat) (f : Team → Team) : (s.modTeam t f).focus = s.focus := by
  unfold State.modTeam; split <;> rfl
@[simp] theorem State.modTeam_cur (t : Nat) (f : Team → Team) : (s.modTeam t f).cur = s.cur := by
  unfold State.modTeam; split <;> rfl
@[simp] theorem State.modTeam_curWord (t : Nat) (f : Team → Team) : (s.modTeam t f).curWord = s.curWord := by
  unfold State.modTeam; split <;> rfl
@[simp] theorem State.modTeam_now (t : Nat) (f : Team → Team) : (s.modTeam t f).now = s.now := by
  unfold State.modTeam; split <;> rfl
@[simp] theorem State.modTeam_freeCtr (t : Nat) (f : Team → Team) : (s.modTeam t f).freeCtr = s.freeCtr := by
  unfold State.modTeam; split <;> rfl
@[simp] theorem State.modTeam_mem (t : Nat) (f : Team → Team) : (s.modTeam t f).mem = s.mem := by
  unfold State.modTeam; split <;> rfl
@[simp] theorem State.modTeam_poison (t : Nat) (f : Team → Team) : (s.modTeam t f).poison = s.poison := by
  unfold State.modTeam; split <;> rfl
@[simp] theorem State.modTeam_soft (t : Nat) (f : Team → Team) : (s.modTeam t f).soft = s.soft := by
  unfold State.modTeam; split <;> rfl
@[simp] theorem State.modTeam_sectors (t : Nat) (f : Team → Team) : (s.modTeam t f).sectors = s.sectors := by
  unfold State.modTeam; split <;> rfl
@[simp] theorem State.modTeam_tags (t : Nat) (f : Team → Team) : (s.modTeam t f).tags = s.tags := by
  unfold State.modTeam; split <;> rfl
@[simp] theorem State.modTeam_reached (t : Nat) (f : Team → Team) : (s.modTeam t f).reached = s.reached := by
  unfold State.modTeam; split <;> rfl
@[simp] theorem State.modTeam_cores (t : Nat) (f : Team → Team) : (s.modTeam t f).cores = s.cores := by
  unfold State.modTeam; split <;> rfl
@[simp] theorem State.modTeam_quads (t : Nat) (f : Team → Team) : (s.modTeam t f).quads = s.quads := by
  unfold State.modTeam; split <;> rfl
@[simp] theorem State.modTeam_clusters (t : Nat) (f : Team → Team) : (s.modTeam t f).clusters = s.clusters := by
  unfold State.modTeam; split <;> rfl
@[simp] theorem State.modTeam_dies (t : Nat) (f : Team → Team) : (s.modTeam t f).dies = s.dies := by
  unfold State.modTeam; split <;> rfl
@[simp] theorem State.modTeam_dev (t : Nat) (f : Team → Team) : (s.modTeam t f).dev = s.dev := by
  unfold State.modTeam; split <;> rfl

/-! ### `enterTrap` -/

@[simp] theorem State.enterTrap_agenda (r : CtxRef) (c : BitVec 8) (e v x : Word) (b : Bool) : (s.enterTrap r c e v x b).agenda = s.agenda := by
  unfold State.enterTrap; dsimp only; split <;> simp
@[simp] theorem State.enterTrap_focus (r : CtxRef) (c : BitVec 8) (e v x : Word) (b : Bool) : (s.enterTrap r c e v x b).focus = s.focus := by
  unfold State.enterTrap; dsimp only; split <;> simp
@[simp] theorem State.enterTrap_cur (r : CtxRef) (c : BitVec 8) (e v x : Word) (b : Bool) : (s.enterTrap r c e v x b).cur = s.cur := by
  unfold State.enterTrap; dsimp only; split <;> simp
@[simp] theorem State.enterTrap_curWord (r : CtxRef) (c : BitVec 8) (e v x : Word) (b : Bool) : (s.enterTrap r c e v x b).curWord = s.curWord := by
  unfold State.enterTrap; dsimp only; split <;> simp
@[simp] theorem State.enterTrap_now (r : CtxRef) (c : BitVec 8) (e v x : Word) (b : Bool) : (s.enterTrap r c e v x b).now = s.now := by
  unfold State.enterTrap; dsimp only; split <;> simp
@[simp] theorem State.enterTrap_freeCtr (r : CtxRef) (c : BitVec 8) (e v x : Word) (b : Bool) : (s.enterTrap r c e v x b).freeCtr = s.freeCtr := by
  unfold State.enterTrap; dsimp only; split <;> simp
@[simp] theorem State.enterTrap_mem (r : CtxRef) (c : BitVec 8) (e v x : Word) (b : Bool) : (s.enterTrap r c e v x b).mem = s.mem := by
  unfold State.enterTrap; dsimp only; split <;> simp
@[simp] theorem State.enterTrap_poison (r : CtxRef) (c : BitVec 8) (e v x : Word) (b : Bool) : (s.enterTrap r c e v x b).poison = s.poison := by
  unfold State.enterTrap; dsimp only; split <;> simp
@[simp] theorem State.enterTrap_soft (r : CtxRef) (c : BitVec 8) (e v x : Word) (b : Bool) : (s.enterTrap r c e v x b).soft = s.soft := by
  unfold State.enterTrap; dsimp only; split <;> simp
@[simp] theorem State.enterTrap_sectors (r : CtxRef) (c : BitVec 8) (e v x : Word) (b : Bool) : (s.enterTrap r c e v x b).sectors = s.sectors := by
  unfold State.enterTrap; dsimp only; split <;> simp
@[simp] theorem State.enterTrap_tags (r : CtxRef) (c : BitVec 8) (e v x : Word) (b : Bool) : (s.enterTrap r c e v x b).tags = s.tags := by
  unfold State.enterTrap; dsimp only; split <;> simp
@[simp] theorem State.enterTrap_reached (r : CtxRef) (c : BitVec 8) (e v x : Word) (b : Bool) : (s.enterTrap r c e v x b).reached = s.reached := by
  unfold State.enterTrap; dsimp only; split <;> simp
@[simp] theorem State.enterTrap_quads (r : CtxRef) (c : BitVec 8) (e v x : Word) (b : Bool) : (s.enterTrap r c e v x b).quads = s.quads := by
  unfold State.enterTrap; dsimp only; split <;> simp
@[simp] theorem State.enterTrap_clusters (r : CtxRef) (c : BitVec 8) (e v x : Word) (b : Bool) : (s.enterTrap r c e v x b).clusters = s.clusters := by
  unfold State.enterTrap; dsimp only; split <;> simp
@[simp] theorem State.enterTrap_teams (r : CtxRef) (c : BitVec 8) (e v x : Word) (b : Bool) : (s.enterTrap r c e v x b).teams = s.teams := by
  unfold State.enterTrap; dsimp only; split <;> simp
@[simp] theorem State.enterTrap_dev (r : CtxRef) (c : BitVec 8) (e v x : Word) (b : Bool) : (s.enterTrap r c e v x b).dev = s.dev := by
  unfold State.enterTrap; dsimp only; split <;> simp

/-! ### `userTrap` -/

@[simp] theorem State.userTrap_agenda (c : BitVec 8) (v e : Word) : (s.userTrap c v e).agenda = s.agenda := by
  unfold State.userTrap; split <;> simp
@[simp] theorem State.userTrap_focus (c : BitVec 8) (v e : Word) : (s.userTrap c v e).focus = s.focus := by
  unfold State.userTrap; split <;> simp
@[simp] theorem State.userTrap_cur (c : BitVec 8) (v e : Word) : (s.userTrap c v e).cur = s.cur := by
  unfold State.userTrap; split <;> simp
@[simp] theorem State.userTrap_curWord (c : BitVec 8) (v e : Word) : (s.userTrap c v e).curWord = s.curWord := by
  unfold State.userTrap; split <;> simp
@[simp] theorem State.userTrap_now (c : BitVec 8) (v e : Word) : (s.userTrap c v e).now = s.now := by
  unfold State.userTrap; split <;> simp
@[simp] theorem State.userTrap_freeCtr (c : BitVec 8) (v e : Word) : (s.userTrap c v e).freeCtr = s.freeCtr := by
  unfold State.userTrap; split <;> simp
@[simp] theorem State.userTrap_mem (c : BitVec 8) (v e : Word) : (s.userTrap c v e).mem = s.mem := by
  unfold State.userTrap; split <;> simp
@[simp] theorem State.userTrap_poison (c : BitVec 8) (v e : Word) : (s.userTrap c v e).poison = s.poison := by
  unfold State.userTrap; split <;> simp
@[simp] theorem State.userTrap_soft (c : BitVec 8) (v e : Word) : (s.userTrap c v e).soft = s.soft := by
  unfold State.userTrap; split <;> simp
@[simp] theorem State.userTrap_sectors (c : BitVec 8) (v e : Word) : (s.userTrap c v e).sectors = s.sectors := by
  unfold State.userTrap; split <;> simp
@[simp] theorem State.userTrap_tags (c : BitVec 8) (v e : Word) : (s.userTrap c v e).tags = s.tags := by
  unfold State.userTrap; split <;> simp
@[simp] theorem State.userTrap_reached (c : BitVec 8) (v e : Word) : (s.userTrap c v e).reached = s.reached := by
  unfold State.userTrap; split <;> simp
@[simp] theorem State.userTrap_quads (c : BitVec 8) (v e : Word) : (s.userTrap c v e).quads = s.quads := by
  unfold State.userTrap; split <;> simp
@[simp] theorem State.userTrap_clusters (c : BitVec 8) (v e : Word) : (s.userTrap c v e).clusters = s.clusters := by
  unfold State.userTrap; split <;> simp
@[simp] theorem State.userTrap_teams (c : BitVec 8) (v e : Word) : (s.userTrap c v e).teams = s.teams := by
  unfold State.userTrap; split <;> simp
@[simp] theorem State.userTrap_dev (c : BitVec 8) (v e : Word) : (s.userTrap c v e).dev = s.dev := by
  unfold State.userTrap; split <;> simp

/-! ### `sysFault` -/

@[simp] theorem State.sysFault_agenda (c : BitVec 8) (v a : Word) (k : Kind) : (s.sysFault c v a k).agenda = s.agenda := by
  unfold State.sysFault; split <;> simp
@[simp] theorem State.sysFault_focus (c : BitVec 8) (v a : Word) (k : Kind) : (s.sysFault c v a k).focus = s.focus := by
  unfold State.sysFault; split <;> simp
@[simp] theorem State.sysFault_cur (c : BitVec 8) (v a : Word) (k : Kind) : (s.sysFault c v a k).cur = s.cur := by
  unfold State.sysFault; split <;> simp
@[simp] theorem State.sysFault_curWord (c : BitVec 8) (v a : Word) (k : Kind) : (s.sysFault c v a k).curWord = s.curWord := by
  unfold State.sysFault; split <;> simp
@[simp] theorem State.sysFault_now (c : BitVec 8) (v a : Word) (k : Kind) : (s.sysFault c v a k).now = s.now := by
  unfold State.sysFault; split <;> simp
@[simp] theorem State.sysFault_freeCtr (c : BitVec 8) (v a : Word) (k : Kind) : (s.sysFault c v a k).freeCtr = s.freeCtr := by
  unfold State.sysFault; split <;> simp
@[simp] theorem State.sysFault_mem (c : BitVec 8) (v a : Word) (k : Kind) : (s.sysFault c v a k).mem = s.mem := by
  unfold State.sysFault; split <;> simp
@[simp] theorem State.sysFault_poison (c : BitVec 8) (v a : Word) (k : Kind) : (s.sysFault c v a k).poison = s.poison := by
  unfold State.sysFault; split <;> simp
@[simp] theorem State.sysFault_soft (c : BitVec 8) (v a : Word) (k : Kind) : (s.sysFault c v a k).soft = s.soft := by
  unfold State.sysFault; split <;> simp
@[simp] theorem State.sysFault_sectors (c : BitVec 8) (v a : Word) (k : Kind) : (s.sysFault c v a k).sectors = s.sectors := by
  unfold State.sysFault; split <;> simp
@[simp] theorem State.sysFault_tags (c : BitVec 8) (v a : Word) (k : Kind) : (s.sysFault c v a k).tags = s.tags := by
  unfold State.sysFault; split <;> simp
@[simp] theorem State.sysFault_reached (c : BitVec 8) (v a : Word) (k : Kind) : (s.sysFault c v a k).reached = s.reached := by
  unfold State.sysFault; split <;> simp
@[simp] theorem State.sysFault_quads (c : BitVec 8) (v a : Word) (k : Kind) : (s.sysFault c v a k).quads = s.quads := by
  unfold State.sysFault; split <;> simp
@[simp] theorem State.sysFault_clusters (c : BitVec 8) (v a : Word) (k : Kind) : (s.sysFault c v a k).clusters = s.clusters := by
  unfold State.sysFault; split <;> simp
@[simp] theorem State.sysFault_teams (c : BitVec 8) (v a : Word) (k : Kind) : (s.sysFault c v a k).teams = s.teams := by
  unfold State.sysFault; split <;> simp
@[simp] theorem State.sysFault_dev (c : BitVec 8) (v a : Word) (k : Kind) : (s.sysFault c v a k).dev = s.dev := by
  unfold State.sysFault; split <;> simp

/-! ### `refuse` -/

@[simp] theorem State.refuse_agenda (d l : Nat) : (s.refuse d l).agenda = s.agenda := by
  simp [State.refuse]
@[simp] theorem State.refuse_focus (d l : Nat) : (s.refuse d l).focus = s.focus := by
  simp [State.refuse]
@[simp] theorem State.refuse_cur (d l : Nat) : (s.refuse d l).cur = s.cur := by
  simp [State.refuse]
@[simp] theorem State.refuse_curWord (d l : Nat) : (s.refuse d l).curWord = s.curWord := by
  simp [State.refuse]
@[simp] theorem State.refuse_now (d l : Nat) : (s.refuse d l).now = s.now := by
  simp [State.refuse]
@[simp] theorem State.refuse_freeCtr (d l : Nat) : (s.refuse d l).freeCtr = s.freeCtr := by
  simp [State.refuse]
@[simp] theorem State.refuse_mem (d l : Nat) : (s.refuse d l).mem = s.mem := by
  simp [State.refuse]
@[simp] theorem State.refuse_poison (d l : Nat) : (s.refuse d l).poison = s.poison := by
  simp [State.refuse]
@[simp] theorem State.refuse_soft (d l : Nat) : (s.refuse d l).soft = s.soft := by
  simp [State.refuse]
@[simp] theorem State.refuse_sectors (d l : Nat) : (s.refuse d l).sectors = s.sectors := by
  simp [State.refuse]
@[simp] theorem State.refuse_tags (d l : Nat) : (s.refuse d l).tags = s.tags := by
  simp [State.refuse]
@[simp] theorem State.refuse_reached (d l : Nat) : (s.refuse d l).reached = s.reached := by
  simp [State.refuse]
@[simp] theorem State.refuse_quads (d l : Nat) : (s.refuse d l).quads = s.quads := by
  simp [State.refuse]
@[simp] theorem State.refuse_clusters (d l : Nat) : (s.refuse d l).clusters = s.clusters := by
  simp [State.refuse]
@[simp] theorem State.refuse_teams (d l : Nat) : (s.refuse d l).teams = s.teams := by
  simp [State.refuse]
@[simp] theorem State.refuse_dev (d l : Nat) : (s.refuse d l).dev = s.dev := by
  simp [State.refuse]

/-! ### `stop` -/

@[simp] theorem State.stop_agenda (x : Stop) : (s.stop x).agenda = s.agenda := by
  cases x <;> simp only [State.stop] <;> (try split) <;> simp
@[simp] theorem State.stop_focus (x : Stop) : (s.stop x).focus = s.focus := by
  cases x <;> simp only [State.stop] <;> (try split) <;> simp
@[simp] theorem State.stop_cur (x : Stop) : (s.stop x).cur = s.cur := by
  cases x <;> simp only [State.stop] <;> (try split) <;> simp
@[simp] theorem State.stop_curWord (x : Stop) : (s.stop x).curWord = s.curWord := by
  cases x <;> simp only [State.stop] <;> (try split) <;> simp
@[simp] theorem State.stop_now (x : Stop) : (s.stop x).now = s.now := by
  cases x <;> simp only [State.stop] <;> (try split) <;> simp
@[simp] theorem State.stop_freeCtr (x : Stop) : (s.stop x).freeCtr = s.freeCtr := by
  cases x <;> simp only [State.stop] <;> (try split) <;> simp
@[simp] theorem State.stop_mem (x : Stop) : (s.stop x).mem = s.mem := by
  cases x <;> simp only [State.stop] <;> (try split) <;> simp
@[simp] theorem State.stop_poison (x : Stop) : (s.stop x).poison = s.poison := by
  cases x <;> simp only [State.stop] <;> (try split) <;> simp
@[simp] theorem State.stop_soft (x : Stop) : (s.stop x).soft = s.soft := by
  cases x <;> simp only [State.stop] <;> (try split) <;> simp
@[simp] theorem State.stop_sectors (x : Stop) : (s.stop x).sectors = s.sectors := by
  cases x <;> simp only [State.stop] <;> (try split) <;> simp
@[simp] theorem State.stop_tags (x : Stop) : (s.stop x).tags = s.tags := by
  cases x <;> simp only [State.stop] <;> (try split) <;> simp
@[simp] theorem State.stop_reached (x : Stop) : (s.stop x).reached = s.reached := by
  cases x <;> simp only [State.stop] <;> (try split) <;> simp
@[simp] theorem State.stop_quads (x : Stop) : (s.stop x).quads = s.quads := by
  cases x <;> simp only [State.stop] <;> (try split) <;> simp
@[simp] theorem State.stop_clusters (x : Stop) : (s.stop x).clusters = s.clusters := by
  cases x <;> simp only [State.stop] <;> (try split) <;> simp
@[simp] theorem State.stop_teams (x : Stop) : (s.stop x).teams = s.teams := by
  cases x <;> simp only [State.stop] <;> (try split) <;> simp
@[simp] theorem State.stop_dev (x : Stop) : (s.stop x).dev = s.dev := by
  cases x <;> simp only [State.stop] <;> (try split) <;> simp

/-! ### Pieces -/

@[simp] theorem State.core_setCore (g h : Nat) (c : Core) : (s.setCore g c).core h = if h = g then c else s.core h := by
  by_cases e : h = g
  · subst e; simp [State.core, State.setCore]
  · simp [State.core, State.setCore, e]

@[simp] theorem State.core_modCore (g h : Nat) (f : Core → Core) :
    (s.modCore g f).core h = if h = g then f (s.core g) else s.core h := by
  simp [State.modCore]

@[simp] theorem State.quad_modQuad (q r : Nat) (f : Quad → Quad) :
    (s.modQuad q f).quad r = if r = q then f (s.quad q) else s.quad r := by
  by_cases e : r = q
  · subst e; simp [State.quad, State.modQuad]
  · simp [State.quad, State.modQuad, e]

@[simp] theorem State.cluster_modCluster (c d : Nat) (f : Cluster → Cluster) :
    (s.modCluster c f).cluster d = if d = c then f (s.cluster c) else s.cluster d := by
  by_cases e : d = c
  · subst e; simp [State.cluster, State.modCluster]
  · simp [State.cluster, State.modCluster, e]

@[simp] theorem State.die_modDie (d e : Nat) (f : Die → Die) :
    (s.modDie d f).die e = if e = d then f (s.die d) else s.die e := by
  by_cases h : e = d
  · subst h; simp [State.die, State.modDie]
  · simp [State.die, State.modDie, h]

@[simp] theorem State.modDev_dev (f : Device → Device) : (s.modDev f).dev = f s.dev := rfl

@[simp] theorem State.emit_out (o : Out) : (s.emit o).dev.out = s.dev.out ++ [o] := rfl

@[simp] theorem State.bar_setBar (a b : Nat) (v : Word) : (s.setBar a v).bar b = if b = a then v else s.bar b := by
  by_cases e : b = a
  · subst e; simp [State.bar, State.setBar, State.modDev]
  · simp [State.bar, State.setBar, State.modDev, e]

/-- A context of a core whose context was changed. -/
@[simp] theorem Core.ctx_modCtx (k : Core) (c d : CtxId) (f : Context → Context) :
    (k.modCtx c f).ctx d = if d = c then f (k.ctx c) else k.ctx d := by
  by_cases e : d = c
  · subst e; simp [Core.ctx, Core.modCtx]
  · have h : c.val ≠ d.val := fun x => e (Fin.ext x.symm)
    simp [Core.ctx, Core.modCtx, e, h]

/-- A context after a context was changed. -/
theorem State.ctx_modCtx (r q : CtxRef) (f : Context → Context) :
    (s.modCtx r f).ctx q = if q = r then f (s.ctx r) else s.ctx q := by
  obtain ⟨g, c⟩ := r
  obtain ⟨h, d⟩ := q
  by_cases e : h = g
  · subst e
    by_cases e : d = c
    · subst e; simp [State.ctx, State.modCtx]
    · simp [State.ctx, State.modCtx, e]
  · simp [State.ctx, State.modCtx, e]

@[simp] theorem State.ctx_modCtx_self (r : CtxRef) (f : Context → Context) : (s.modCtx r f).ctx r = f (s.ctx r) := by
  simp [State.ctx_modCtx]

@[simp] theorem State.ctx_modCtx_ne {r q : CtxRef} (h : q ≠ r) (f : Context → Context) : (s.modCtx r f).ctx q = s.ctx q := by
  simp [State.ctx_modCtx, h]

/-- A change of a context leaves the rest of its core alone. -/
theorem State.core_modCtx (r : CtxRef) (f : Context → Context) (g : Nat) :
    (s.modCtx r f).core g = if g = r.core then (s.core g).modCtx r.ctx f else s.core g := by
  simp only [State.modCtx, State.core_modCore]
  split
  · next e => subst e; rfl
  · rfl

@[simp] theorem State.cx_modCx (f : Context → Context) : (s.modCx f).cx = f s.cx := by
  simp [State.modCx, State.cx]

@[simp] theorem State.me_modMe (f : Core → Core) : (s.modMe f).me = f s.me := by
  simp [State.modMe, State.me]

@[simp] theorem State.cx_modWs (f : Workspace → Workspace) : (s.modWs f).cx = { s.cx with ws := f s.cx.ws } := by
  simp [State.modWs, State.modWsOf, State.cx]

/-! ### Registers (01 R15, R16) -/

@[simp] theorem State.getW_zero : s.getW 0 = 0 := rfl

/-- A register after a register was written: w0 reads 0 and discards a write. -/
theorem State.getW_setW (n m : Reg) (v : Word) : (s.setW n v).getW m = if m = n ∧ n ≠ 0 then v else s.getW m := by
  by_cases z : n = 0
  · simp [State.setW, z]
  · by_cases e : m = n
    · subst e; simp [State.setW, State.getW, z]
    · have h : n.val ≠ m.val := fun x => e (Fin.ext x.symm)
      simp [State.setW, State.getW, z, e, h]

@[simp] theorem State.getV_setV (n m : VReg) (v : VWord) : (s.setV n v).getV m = if m = n then v else s.getV m := by
  by_cases e : m = n
  · subst e; simp [State.setV, State.getV]
  · have h : n.val ≠ m.val := fun x => e (Fin.ext x.symm)
    simp [State.setV, State.getV, e, h]

@[simp] theorem State.getW_setV (n : VReg) (m : Reg) (v : VWord) : (s.setV n v).getW m = s.getW m := by
  simp [State.setV, State.getW]

@[simp] theorem State.getV_setW (n : Reg) (m : VReg) (v : Word) : (s.setW n v).getV m = s.getV m := by
  unfold State.setW
  split
  · rfl
  · simp [State.getV]

@[simp] theorem State.getCb_setCb (n m : Fin 8) (v : BitVec 128) : (s.setCb n v).getCb m = if m = n then v else s.getCb m := by
  by_cases e : m = n
  · subst e; simp [State.setCb, State.getCb]
  · have h : n.val ≠ m.val := fun x => e (Fin.ext x.symm)
    simp [State.setCb, State.getCb, e, h]

end Sys2Proof.Machine
end

