-- ==== Sys2Proof/Laws/Ops.lean ====
section
/-! SUPPORT. What the shared operations can do, said once each: the outcome of an instruction, taking a fault or a trap,
moving on, waiting, and that every operation over memory keeps its canonical form. -/

namespace Sys2Proof.Machine

variable {s t : State}

/-! ### The outcome of an instruction -/

@[simp] theorem settle_ok (s t : State) : settle s (.ok t) = .next t := rfl

@[simp] theorem settle_error (s : State) (e : Stop) : settle s (.error e) = .next (s.stop e) := rfl

/-- An instruction word always answers a next state: its result, or the entry that its stop is. -/
theorem settle_cases (s : State) (r : Res) :
    (∃ t, r = .ok t ∧ settle s r = .next t) ∨ (∃ e, r = .error e ∧ settle s r = .next (s.stop e)) := by
  cases r with
  | ok t => exact .inl ⟨t, rfl, rfl⟩
  | error e => exact .inr ⟨e, rfl, rfl⟩

/-- The bind of results peels apart. -/
theorem res_bind_ok {ε α β : Type} {x : Except ε α} {f : α → Except ε β} {b : β} (h : (x >>= f) = .ok b) :
    ∃ a, x = .ok a ∧ f a = .ok b := by
  cases x with
  | ok a => exact ⟨a, rfl, h⟩
  | error e => cases h

/-- A wait goes on at once, raises its stop, traps where no wait is allowed, or parks the context (03 R67, 01 R24). -/
theorem waitOn_cases (s : State) (op : WaitOp) (val : Word) (bounded : Bool) (a : Attempt) :
    (∃ e, a = .error e ∧ s.waitOn op val bounded a = .error e) ∨
    (∃ t, a = .ok (some t) ∧ s.waitOn op val bounded a = .ok t) ∨
    (a = .ok none ∧ bounded = true ∧ s.me.waitlim = 0 ∧ s.waitOn op val bounded a = .error (.user 0x06 val s.ia)) ∨
    (a = .ok none ∧ (bounded = false ∨ s.me.waitlim ≠ 0) ∧ s.waitOn op val bounded a =
      .ok (s.modCx fun x =>
        { x with wait := some { op, word := s.curWord, since := s.now,
                                limit := if bounded then some s.me.waitlim.toNat else none } })) := by
  match a with
  | .error e => exact .inl ⟨e, rfl, rfl⟩
  | .ok (some t) => exact .inr (.inl ⟨t, rfl, rfl⟩)
  | .ok none =>
    refine .inr (.inr ?_)
    have z : s.me.waitlim.toNat = 0 ↔ s.me.waitlim = 0 :=
      ⟨fun h => BitVec.eq_of_toNat_eq (by simpa using h), fun h => by simp [h]⟩
    cases bounded with
    | false => exact .inr ⟨rfl, .inl rfl, rfl⟩
    | true =>
      by_cases e : s.me.waitlim = 0
      · exact .inl ⟨rfl, rfl, e, by simp [State.waitOn, e]⟩
      · exact .inr ⟨rfl, .inr e, by simp [State.waitOn, mt z.mp e]⟩

/-! ### Counting (20 R367) -/

/-- Counting an event changes no context. -/
@[simp] theorem ctx_count (s : State) (r q : CtxRef) (e n : Nat) : (s.count r e n).ctx q = s.ctx q := by
  unfold State.count
  split
  · simp only [State.ctx, State.core_modCore]
    split
    · next h => rw [h, Core.count]; split <;> rfl
    · rfl
  · rfl

@[simp] theorem ctx_modDie (s : State) (d : Nat) (f : Die → Die) (q : CtxRef) : (s.modDie d f).ctx q = s.ctx q := rfl

/-! ### Faults and traps -/

/-- Handing a record over changes no context. -/
@[simp] theorem ctx_report (s : State) (f : FaultRec) (q : CtxRef) : (s.report f).ctx q = s.ctx q := by
  unfold State.report; split <;> simp

/-- A system-level fault suspends its context with EPC, EVAL and ECAUSE[7:0] written and no other register (20 R347). -/
theorem takeSys_ctx (s : State) (r : CtxRef) (f : FaultRec) (eval : Word) (pass : Bool) :
    (s.takeSys r f eval pass).ctx r =
      { s.ctx r with
        ws := { (s.ctx r).ws with epc := f.epc, eval := eval, ecause := withCause (s.ctx r).ws.ecause f.cause }
        suspended := true, fp := pass, frame := none, wait := none, resume := false, refusals := 0, linkFails := false } := by
  rw [State.takeSys, ctx_report, State.ctx_modCtx_self]

/-- A fault of one context leaves every other alone. -/
theorem takeSys_ctx_ne (s : State) {r q : CtxRef} (h : q ≠ r) (f : FaultRec) (eval : Word) (pass : Bool) :
    (s.takeSys r f eval pass).ctx q = s.ctx q := by
  rw [State.takeSys, ctx_report, State.ctx_modCtx_ne _ h]

/-- A user-level trap with a usable UTVEC: EPC, EVAL, ECAUSE with UTA set, and the PC at the handler (06 R118). -/
theorem enterTrap_ctx (s : State) (r : CtxRef) (cause : BitVec 8) (epc eval val : Word) (pass : Bool)
    (h : utvecOk (s.core r.core).utvec = true) :
    (s.enterTrap r cause epc eval val pass).ctx r =
      { s.ctx r with
        ws := { (s.ctx r).ws with epc, eval, ecause := 0x8000000000000000 ||| cause.setWidth 64, pc := (s.core r.core).utvec }
        fp := pass, frame := none, wait := none, resume := false, refusals := 0 } := by
  simp [State.enterTrap, h]

/-- The context of a charged fault keeps it to its next instruction (09 R184). -/
theorem charge_ctx (s : State) (f : FaultRec) (u : Bool) :
    (s.charge f u).ctx ⟨f.core, f.ctx⟩ =
      { s.ctx ⟨f.core, f.ctx⟩ with charged := (s.ctx ⟨f.core, f.ctx⟩).charged ++ [⟨f, u⟩] } := by
  simp [State.charge]

/-! ### Moving on -/

/-- Outside a frame the context moves past a one-word instruction (01 R11). -/
theorem advance_cx (h : s.cx.frame = none) :
    s.advance.cx = { s.cx with ws := { s.cx.ws with pc := s.cx.ws.pc + 4 }, resume := false, refusals := 0, wait := none } := by
  simp [State.advance, Context.advance, h]

theorem jump_cx (s : State) (v : Word) :
    (s.jump v).cx = { s.cx with ws := { s.cx.ws with pc := v }, resume := false, refusals := 0, wait := none } := by
  simp [State.jump]

/-! ### Operations over memory keep its canonical form -/

theorem State.Inv.of_mem (h : s.Inv) (e : t.mem = s.mem) : t.Inv := by
  unfold State.Inv at *; rw [e]; exact h

theorem State.Inv.write (h : s.Inv) (p : Nat) (b : Byte) (e : t.mem = Memory.write s.mem p b) : t.Inv := by
  unfold State.Inv at *; rw [e]; exact Memory.wf_write h p b

theorem State.Inv.foldl {β : Type} {f : State → β → State} (hf : ∀ s x, State.Inv s → (f s x).Inv) (l : List β) (h : s.Inv) :
    (l.foldl f s).Inv := by
  induction l generalizing s with
  | nil => exact h
  | cons a l ih => exact ih (hf s a h)

theorem foldl_mem {β : Type} {f : State → β → State} (hf : ∀ s x, (f s x).mem = s.mem) (l : List β) (s : State) :
    (l.foldl f s).mem = s.mem := by
  induction l generalizing s with
  | nil => rfl
  | cons a l ih => exact (ih (f s a)).trans (hf s a)

@[simp] theorem countSlice_mem (s : State) (g a : Nat) (w : Bool) (x : Space) : (s.countSlice g a w x).mem = s.mem := by
  cases x <;> rfl

@[simp] theorem cacheEach_mem (s : State) (g : Nat) (es : List TlbEntry) : (s.cacheEach g es).mem = s.mem := by
  induction es generalizing s with
  | nil => rfl
  | cons e t ih => simp only [State.cacheEach]; rw [ih]; simp

@[simp] theorem cache_mem (s : State) (g : Nat) (es : List TlbEntry) : (s.cache g es).mem = s.mem := cacheEach_mem _ _ _

@[simp] theorem cleanse_mem (s : State) (w : PendWrite) : (s.cleanse w).mem = s.mem := by
  unfold State.cleanse; split <;> rfl

@[simp] theorem acquire_mem (s : State) (w : Who) (ts : List Tag) : (s.acquire w ts).mem = s.mem := by
  unfold State.acquire; split <;> simp

@[simp] theorem retag_mem (s : State) (w : Who) (x : PendWrite) (a : Bool) : (s.retag w x a).mem = s.mem := by
  have key : ∀ (c : Bool) (f : State → Nat → State) (l : List Nat), (∀ s k, (f s k).mem = s.mem) →
      (if c then s else l.foldl f s).mem = s.mem := by
    intro c f l hf
    split
    · rfl
    · exact foldl_mem hf l s
  exact key _ _ _ fun _ _ => by dsimp only; rw [acquire_mem]

@[simp] theorem countRefusal_mem (s : State) (r : CtxRef) (d l : Nat) : (s.countRefusal r d l).mem = s.mem := by
  simp [State.countRefusal]

@[simp] theorem countRefusals_mem (s : State) (r : CtxRef) (n : Nat) (x : Option (Nat × Nat)) :
    (s.countRefusals r n x).mem = s.mem := by
  cases x with
  | none => rfl
  | some x => exact foldl_mem (fun s _ => countRefusal_mem s r _ _) _ s

@[simp] theorem noteMapped_mem (s : State) (x : Space) (b : Bool) (ps : List Nat) : (s.noteMapped x b ps).mem = s.mem := by
  cases x with
  | hbm _ _ plc _ => exact foldl_mem (fun s p => by dsimp only; repeat' (first | rfl | split)) ps s
  | _ => rfl

@[simp] theorem correct_mem (s : State) (ps : List Nat) : (s.correct ps).mem = s.mem := by
  unfold State.correct
  dsimp only
  split
  · rfl
  · rw [foldl_mem fun s x => by simp]

@[simp] theorem pokeSector_mem (s : State) (plc p : Nat) (v m : Byte) : (s.pokeSector plc p v m).mem = s.mem := by
  unfold State.pokeSector; split <;> rfl

@[simp] theorem stallOn_mem (s : State) (rs : List Run) : (s.stallOn rs).mem = s.mem := by
  unfold State.stallOn; split <;> simp

@[simp] theorem countRuns_mem (s : State) (w : Who) (b : Bool) (rs : List Run) : (s.countRuns w b rs).mem = s.mem :=
  foldl_mem (fun s _ => (foldl_mem (fun s _ => by simp) _ _).trans (countRefusals_mem s _ _ _)) _ s

@[simp] theorem countAt_mem (s : State) (a : Word) : (s.countAt a).mem = s.mem := by
  unfold State.countAt; dsimp only; split <;> simp

@[simp] theorem failCopy_mem (s : State) (w : PendWrite) (c : BitVec 8) : (s.failCopy w c).mem = s.mem := by
  unfold State.failCopy; split <;> simp

@[simp] theorem loseWrite_mem (s : State) (w : PendWrite) (c : BitVec 8) : (s.loseWrite w c).mem = s.mem := by
  unfold State.loseWrite; simp

@[simp] theorem owe_mem (s : State) (g : Nat) : (s.owe g).mem = s.mem := by
  unfold State.owe; split <;> simp

theorem writeBack_inv (h : s.Inv) (q : Nat) : (s.writeBack q).Inv := by
  unfold State.writeBack
  split
  · next x _ =>
    split
    · exact Memory.wf_foldl (List.range 48) (fun i => q / 3 * 48 + i) (fun i => x.bytes.getD i 0) h
    · exact h
  · exact h

theorem evict_inv (h : s.Inv) (l : Nat) : (s.evict l).Inv := by
  refine State.Inv.foldl (fun u q hu => ?_) _ h
  exact writeBack_inv hu q

theorem makeRoom_inv (h : s.Inv) (d l n : Nat) : (s.makeRoom d l n).Inv := by
  unfold State.makeRoom
  dsimp only
  split
  · exact h
  · exact (evict_inv h _).of_mem rfl

theorem fillSector_inv (h : s.Inv) (d l q : Nat) : (s.fillSector d l q).Inv := by
  unfold State.fillSector
  split
  · exact h
  · exact (makeRoom_inv h d l _).of_mem rfl

theorem fillRun_inv (h : s.Inv) (r : Run) : (s.fillRun r).Inv := by
  unfold State.fillRun
  split
  · exact h
  · exact State.Inv.foldl (fun _ _ hs => fillSector_inv hs _ _ _) _ h

theorem endFill_inv (h : s.Inv) (l : Nat) : (s.endFill l).Inv := by
  unfold State.endFill
  split
  · exact h
  · next f _ =>
    refine State.Inv.of_mem ?_ (State.modDev_mem _ _)
    refine State.Inv.of_mem ?_ (foldl_mem (fun s x => State.modCtx_mem s _ _) _ _)
    exact State.Inv.foldl (fun _ _ hs => fillSector_inv hs _ _ _) _ h

theorem pokeTcm_inv (h : s.Inv) (w : Who) (g p : Nat) (v m : Byte) : (s.pokeTcm w g p v m).Inv := by
  unfold State.pokeTcm
  dsimp only
  split
  · split
    · exact Memory.wf_write h _ _
    · split
      · exact h.of_mem (by simp)
      · exact h
  · exact Memory.wf_write h _ _

theorem pokeHbm_inv (h : s.Inv) (d l c pol p : Nat) (v m : Byte) : (s.pokeHbm d l c pol p v m).Inv := by
  unfold State.pokeHbm
  dsimp only
  split
  · exact Memory.wf_write (writeBack_inv h _) _ _
  · split
    · exact Memory.wf_write h _ _
    · exact (fillSector_inv h _ _ _).of_mem (pokeSector_mem _ _ _ _ _)

theorem poke_inv (h : s.Inv) (w : Who) (p : Nat) (v m : Byte) (x : Space) : (s.poke w p v m x).Inv := by
  cases x with
  | tcm g => exact pokeTcm_inv h w g p v m
  | hbm d l c pol => exact pokeHbm_inv h d l c pol p v m
  | _ => exact Memory.wf_write h _ _

/-- A write that takes effect at its place keeps memory canonical. -/
theorem land_inv (h : s.Inv) (w : Who) (x : PendWrite) : (s.land w x).Inv := by
  have key : ∀ u : State, u.Inv → (((x.cells.foldl (fun s c => s.poke w c.1 c.2.1 c.2.2 x.space) u).cleanse x).correct
      (x.cells.map Prod.fst)).Inv := fun u hu =>
    (State.Inv.foldl (fun s c hs => poke_inv hs w c.1 c.2.1 c.2.2 x.space) x.cells hu).of_mem (by simp)
  unfold State.land
  dsimp only
  split <;> [refine (key _ ?_).of_mem (State.wake_mem _ _); refine key _ ?_] <;>
  · split
    · exact endFill_inv h _
    · exact h

theorem pushSome_inv (h : s.Inv) (go : PendWrite → Bool) : (s.pushSome go).Inv := by
  unfold State.pushSome
  dsimp only
  split
  · exact h
  · exact State.Inv.foldl (fun _ _ hs => land_inv hs _ _) _ (h.of_mem (State.modDev_mem _ _))

/-- A write that is performed keeps memory canonical. -/
theorem perform_inv (h : s.Inv) (w : Who) (x : PendWrite) (a : Bool := false) : (s.perform w x a).Inv :=
  (land_inv (pushSome_inv h _) w x).of_mem (retag_mem _ _ _ _)

/-- A store that arrives keeps memory canonical. -/
theorem arrive_inv (h : s.Inv) (x : PendWrite) : (s.arrive x).Inv := by
  unfold State.arrive
  dsimp only
  split
  · exact h.of_mem (loseWrite_mem _ _ _)
  · split <;> split <;> first | exact h.of_mem (by simp) | exact perform_inv (h.of_mem (by simp)) _ _

theorem performSome_inv (h : s.Inv) (g : Nat) (go : PendWrite → Bool) : (s.performSome g go).Inv := by
  unfold State.performSome
  dsimp only
  split
  · exact h
  · exact State.Inv.foldl (fun _ _ hs => arrive_inv hs _) _ (h.of_mem (State.modCore_mem _ _ _))

theorem performOver_inv (h : s.Inv) (g : Nat) (ps : List Nat) : (s.performOver g ps).Inv := performSome_inv h g _

theorem seenOver_inv (h : s.Inv) (g : Nat) (ps : List Nat) : (s.seenOver g ps).Inv :=
  State.Inv.foldl (fun _ _ hs => performSome_inv hs _ _) _ h

theorem before_inv (h : s.Inv) (w : Who) (ps : List Nat) : (s.before w ps).Inv := by
  unfold State.before
  refine seenOver_inv ?_ _ _
  split
  · exact performOver_inv h _ _
  · exact performSome_inv h _ _

theorem drain_inv (h : s.Inv) (g : Nat) (b : Bool) : (s.drain g b).Inv := by
  unfold State.drain
  dsimp only
  split
  · exact pushSome_inv (performSome_inv h g _) _
  · exact performSome_inv h g _

theorem settleWrites_inv (h : s.Inv) (g : Nat) : (s.settleWrites g).Inv := pushSome_inv (performSome_inv h g _) _

theorem releaseBy_inv (h : s.Inv) (g sc : Nat) : (s.releaseBy g sc).Inv := by
  unfold State.releaseBy
  split
  · exact h.of_mem (owe_mem _ _)
  · exact drain_inv h _ _

theorem releaseWith_inv (h : s.Inv) (sc : Nat) : (s.releaseWith sc).Inv := by
  unfold State.releaseWith
  dsimp only
  split
  · exact (releaseBy_inv h _ _).of_mem (State.modCx_mem _ _)
  · exact releaseBy_inv h _ _

/-- What a read performs before it keeps memory canonical (15 R275, R277, R278). -/
theorem beforeRead_inv (h : s.Inv) (w : Who) (rs : List Run) : (s.beforeRead w rs).Inv := by
  unfold State.beforeRead
  dsimp only
  have hu := pushSome_inv (before_inv h w (placesOf rs)) (·.touches (placesOf rs))
  refine State.Inv.of_mem ?_ (correct_mem _ _)
  refine State.Inv.foldl (fun _ _ hs => hs.of_mem (noteMapped_mem _ _ _ _)) _ ?_
  split
  · exact hu
  · exact hu.of_mem (acquire_mem _ _ _)

theorem sendCells_inv (h : s.Inv) (own : Bool) (w : PendWrite) (x : Cells) : (s.sendCells own w x).Inv := by
  unfold State.sendCells
  dsimp only
  have hu : State.Inv (if w.agent = .copy then s.before (s.whoAgent w.core) (x.cells.map Prod.fst)
      else s.seenOver w.core (x.cells.map Prod.fst)) := by
    split
    · exact before_inv h _ _
    · exact seenOver_inv h _ _
  split
  · exact State.Inv.foldl (fun _ _ hs => perform_inv hs _ _) _ hu
  · exact hu.of_mem (State.modCore_mem _ _ _)

theorem sendAll_inv (h : s.Inv) (own : Bool) (w : PendWrite) (xs : List Cells) : (s.sendAll own w xs).Inv :=
  State.Inv.foldl (fun _ _ hs => sendCells_inv hs _ _ _) _ h

/-- A store leaves memory canonical. -/
theorem storeParts_inv (h : s.Inv) {ps : List Part} {rel : Option Nat} {whole once : Bool}
    (e : s.storeParts ps rel whole once = .ok t) : t.Inv := by
  unfold State.storeParts at e
  obtain ⟨x, _, e⟩ := res_bind_ok e
  obtain ⟨_, _, e⟩ := res_bind_ok e
  obtain rfl := Except.ok.inj e
  exact State.Inv.foldl (fun _ _ hs => sendAll_inv hs _ _ _) _ (h.of_mem (cache_mem _ _ _))

theorem store_inv (h : s.Inv) {ea : Word} {bs : List Byte} {m : Byte} {rel : Option Nat}
    (e : s.store ea bs m rel = .ok t) : t.Inv := storeParts_inv h e

theorem sliceRead_mem {b c : Bool} {r : Run} (e : s.sliceRead b r = .ok (c, t)) : t.mem = s.mem := by
  unfold State.sliceRead at e
  split at e
  · cases e; rfl
  · dsimp only at e
    split at e
    · split at e <;> cases e; rfl
    · split at e
      · cases e; rfl
      · split at e <;> cases e; rfl

theorem sliceReads_mem {b : Bool} {rs : List Run} (e : s.sliceReads b rs = .ok t) : t.mem = s.mem := by
  induction rs generalizing s b with
  | nil => cases e; rfl
  | cons r l ih =>
    obtain ⟨u, hu, e⟩ := res_bind_ok e
    exact (ih e).trans (sliceRead_mem hu)

/-- A load leaves memory canonical. -/
theorem loadParts_inv (h : s.Inv) {ps : List (Word × Nat)} {a : Option Nat} {bs : List (List Byte)}
    (e : s.loadParts ps a = .ok (bs, t)) : t.Inv := by
  unfold State.loadParts at e
  obtain ⟨x, _, e⟩ := res_bind_ok e
  obtain ⟨_, _, e⟩ := res_bind_ok e
  obtain ⟨u, hu, e⟩ := res_bind_ok e
  cases e
  exact (beforeRead_inv (h.of_mem (sliceReads_mem hu)) { s.whoOwn s.cur.core with acq := a } x.1.flatten).of_mem
    (by rw [stallOn_mem, cache_mem])

theorem load_inv (h : s.Inv) {ea : Word} {n : Nat} {a : Option Nat} {bs : List Byte}
    (e : s.load ea n a = .ok (bs, t)) : t.Inv := by
  unfold State.load at e
  obtain ⟨x, hx, e⟩ := res_bind_ok e
  cases e
  exact (loadParts_inv h hx).of_mem (countAt_mem _ _)

theorem performRuns_inv (h : s.Inv) (w : Who) (rel : Option Nat) (a : Bool) (rs : List Run) (bs : List Byte)
    (ts : List Tag) : (s.performRuns w rel a rs bs ts).Inv := by
  induction rs generalizing s bs with
  | nil => exact h
  | cons r l ih => exact ih (perform_inv (h.of_mem (noteMapped_mem _ _ _ _)) _ _ _) _

theorem atomRead_inv (h : s.Inv) {ea : Word} {n : Nat} {a : Option Nat} {bs : List Byte} {rs : List Run}
    (e : s.atomRead ea n a = .ok (bs, rs, t)) : t.Inv := by
  unfold State.atomRead at e
  obtain ⟨_, _, e⟩ := res_bind_ok e
  obtain ⟨x, _, e⟩ := res_bind_ok e
  obtain ⟨_, _, e⟩ := res_bind_ok e
  obtain ⟨_, _, e⟩ := res_bind_ok e
  obtain ⟨_, _, e⟩ := res_bind_ok e
  cases e
  obtain ⟨rs, es⟩ := x
  refine State.Inv.of_mem (beforeRead_inv h { s.whoOwn s.cur.core with acq := a } rs) ?_
  cases rs <;> simp only [stallOn_mem, cache_mem, countSlice_mem]

theorem atomWrite_inv (h : s.Inv) (rs : List Run) (bs : List Byte) (rel : Option Nat) : (s.atomWrite rs bs rel).Inv :=
  performRuns_inv h _ _ _ _ _ _

theorem releaseAt_inv (h : s.Inv) (sc : Option Nat) : (s.releaseAt sc).Inv := by
  unfold State.releaseAt
  split
  · exact pushSome_inv h _
  · exact h

theorem agentRead_inv (h : s.Inv) {w : Who} {a : Word} {n : Nat} {need : Need} {bs : List Byte}
    (e : s.agentRead w a n need = .ok (bs, t)) : t.Inv := by
  unfold State.agentRead at e
  obtain ⟨x, _, e⟩ := res_bind_ok e
  obtain ⟨_, _, e⟩ := res_bind_ok e
  cases e
  exact (State.Inv.foldl (fun _ r hs => fillRun_inv hs r) x.1
    (beforeRead_inv (h.of_mem (countRuns_mem s w false x.1)) w x.1)).of_mem (cache_mem _ _ _)

theorem agentWrite_inv (h : s.Inv) {w : Who} {a : Word} {bs : List Byte} {rel : Bool} {need : Need} {sc : Option Nat}
    {ts : List Tag} {c : Bool} (e : s.agentWrite w a bs rel need sc ts c = .ok t) : t.Inv := by
  unfold State.agentWrite at e
  obtain ⟨x, _, e⟩ := res_bind_ok e
  obtain ⟨_, _, e⟩ := res_bind_ok e
  cases e
  refine performRuns_inv (before_inv (releaseAt_inv (h.of_mem ?_) _) _ _) _ _ _ _ _ _
  split <;> simp

theorem agentAtom_inv (h : s.Inv) {w : Who} {a : Word} {n : Nat} {f : List Byte → List Byte} {rel : Bool}
    {sc : Option Nat} {ts : List Tag} {bs : List Byte} (e : s.agentAtom w a n f rel sc ts = .ok (bs, t)) : t.Inv := by
  unfold State.agentAtom at e
  obtain ⟨x, _, e⟩ := res_bind_ok e
  obtain ⟨_, _, e⟩ := res_bind_ok e
  cases e
  exact performRuns_inv (beforeRead_inv (releaseAt_inv (h.of_mem (by simp)) _) w x.1) _ _ _ _ _ _

theorem agentSend_inv (h : s.Inv) {w : Who} {x : PendWrite} {a : Word} {bs : List Byte}
    (e : s.agentSend w x a bs = .ok t) : t.Inv := by
  unfold State.agentSend at e
  obtain ⟨y, _, e⟩ := res_bind_ok e
  obtain ⟨_, _, e⟩ := res_bind_ok e
  cases e
  exact sendAll_inv (h.of_mem (cache_mem _ _ _)) _ _ _

/-! ### The replay journal -/

theorem tryRecord_inv (h : s.Inv) {g ty w1 : Nat} {b : Bool} (e : s.tryRecord g ty w1 = (b, t)) : t.Inv := by
  unfold State.tryRecord at e
  dsimp only at e
  split at e
  · cases e; exact h
  · split at e
    · next u hu => cases e; exact (agentSend_inv h hu).of_mem (State.modCore_mem _ _ _)
    · cases e
      split
      · exact h.of_mem (State.charge_mem _ _ _)
      · exact h

theorem putRecord_inv (h : s.Inv) (g ty w1 : Nat) : (s.putRecord g ty w1).Inv := by
  unfold State.putRecord
  split
  · next e => exact tryRecord_inv h e
  · next e => exact (tryRecord_inv h e).of_mem (State.modCore_mem _ _ _)

theorem putGap_inv (h : s.Inv) (g : Nat) : (s.putGap g).Inv := by
  unfold State.putGap
  split
  · next e => exact (tryRecord_inv h e).of_mem (State.modCore_mem _ _ _)
  · next e => exact tryRecord_inv h e

@[simp] theorem diverge_mem (s : State) (g : Nat) : (s.diverge g).mem = s.mem := by simp [State.diverge]

theorem journal_inv (h : s.Inv) (g ty w1 : Nat) : (s.journal g ty w1).Inv := by
  unfold State.journal
  dsimp only
  split
  · exact h
  · split
    · split
      · split
        · exact h.of_mem (by simp)
        · exact h.of_mem (by simp)
      · exact h.of_mem (by simp)
    · split
      · exact h
      · refine putRecord_inv ?_ _ _ _
        split
        · exact h
        · exact putGap_inv h _

/-! ### Conversion counters -/

@[simp] theorem pendCrossing_mem (s : State) (r : CtxRef) (c : Crossing) (x : CrossAt) : (s.pendCrossing r c x).mem = s.mem := by
  cases x <;> simp only [State.pendCrossing] <;> (try split) <;> simp

theorem counterAdd_inv (h : s.Inv) (r : CtxRef) (a : Agent) (wd : BitVec 32) (i : Fin 4) (n : Nat) (src : Fin 4) (x : CrossAt) :
    (s.counterAdd r a wd i n src x).Inv := by
  unfold State.counterAdd
  dsimp only
  split
  · exact h.of_mem (by simp)
  · next bs u e =>
    have hu : u.Inv := agentAtom_inv h e
    have key : ∀ (c : Prop) [Decidable c] (y : Except Bad (List Byte × State)),
        (∀ bs v, y = .ok (bs, v) → v.Inv) → State.Inv (if c then
          (match y with
          | .ok (_, v) => v
          | .error _ => u).pendCrossing r ⟨i, src⟩ x else u) := by
      intro c _ y hy
      split
      · refine State.Inv.of_mem ?_ (pendCrossing_mem _ _ _ _)
        cases y with
        | ok v => exact hy v.1 v.2 rfl
        | error b => exact hu
      · exact hu
    exact key _ _ fun bs v e => agentAtom_inv hu e

theorem countCvt_inv (h : s.Inv) (r : CtxRef) (a : Agent) (wd : BitVec 32) (c : Counts) (src : Fin 4) (x : CrossAt) :
    (s.countCvt r a wd c src x).Inv := by
  unfold State.countCvt
  dsimp only
  repeat' (first | exact h | apply counterAdd_inv | split)

/-- Bytes of memory written as they stand keep it canonical. -/
theorem setRaw_inv (h : s.Inv) (p : Nat) (bs : List Byte) : (s.setRaw p bs).Inv := by
  unfold State.setRaw
  exact State.Inv.of_mem (s := { s with mem := _ }) (Memory.wf_foldl (bs.zipIdx p) (fun x => x.2) (fun x => x.1) h)
    (cleanse_mem _ _)

theorem flushWs_inv (h : s.Inv) (r : CtxRef) : (s.flushWs r).Inv := by
  unfold State.flushWs
  generalize (List.range 1528).map (· + 8) = l
  exact Memory.wf_foldl l (fun o => tcmPlace r.core ((s.ctx r).wpOff + o)) (fun o => (s.ctx r).ws.byte o) h

theorem devPoke_inv (h : s.Inv) (a : Nat) (b : Byte) : (s.devPoke a b).Inv := by
  unfold State.devPoke
  split
  · exact perform_inv h _ _
  · exact h

theorem devWrite_inv (h : s.Inv) (a : Nat) (bs : List Byte) : (s.devWrite a bs).Inv :=
  (State.Inv.foldl (fun _ _ hs => devPoke_inv hs _ _) _ h).of_mem (cleanse_mem _ _)

theorem clearPlaces_inv (h : s.Inv) (lo n : Nat) : (s.clearPlaces lo n).Inv := Memory.wf_filter h _

theorem wiped_inv (h : s.Inv) (keep : Nat → Bool) (d : Device) : (s.wiped keep d).Inv := Memory.wf_filter h _

/-- Cells written over memory without some of its places keep it canonical. -/
theorem loaded_wf (h : s.Inv) (cells : List (Nat × Byte)) (p : Host.Cell → Bool) :
    Memory.wf (cells.foldl (fun (m : Memory) (c : Nat × Byte) => Memory.write m c.1 c.2) (List.filter p s.mem)) = true :=
  Memory.wf_foldl cells Prod.fst Prod.snd (Memory.wf_filter h p)

theorem takeImage_inv (h : s.Inv) (cells : List (Nat × Byte)) (poison : List Nat) : (s.takeImage cells poison).Inv :=
  loaded_wf h _ _

theorem ckSend_inv (h : s.Inv) : s.ckSend.Inv := by
  unfold State.ckSend
  dsimp only
  refine setRaw_inv ?_ _ _
  exact loaded_wf h _ _

end Sys2Proof.Machine
end

