-- ==== Sys2Proof/Tests/Slice0.lean ====
section
/-! SUPPORT. Tests on fixed values: what the decoder reads from words written from the opcode table and the encoding rules
(03 R53 to R62), ill-formed terms, steps whose results stand in the spec, and states that meet what the statements assume. -/

namespace Sys2Proof.Tests

open Sys2Proof Sys2Proof.Machine Sys2Proof.Says

set_option Elab.async false
set_option linter.unreachableTactic false
set_option linter.unusedTactic false

/-- Every word decodes to the instruction beside it. -/
noncomputable def reads (l : List (Nat × Instr)) : Bool := l.all fun x => decide (decodeWord x.1 = .ok x.2)

/-- Every word is no instruction. -/
noncomputable def refuses (l : List Nat) : Bool := l.all fun x => !(decodeWord x).isOk

/-- No term of the list is well formed. -/
def illFormed (l : List Instr) : Bool := l.all fun i => !i.wf


theorem test_decode_01 : reads [
    (0x06AA9800, .add 21 10 19), (0x06AA9820, .sub 21 10 19), (0x06AA9840, .and 21 10 19),
    (0x06AA9860, .or 21 10 19), (0x06AA9880, .xor 21 10 19), (0x06AA98A0, .andn 21 10 19),
    (0x06AA98C0, .sll 21 10 19), (0x06AA98E0, .srl 21 10 19), (0x06AA9900, .sra 21 10 19),
    (0x06AA9920, .slt 21 10 19), (0x06AA9940, .sltn 21 10 19), (0x06AA9960, .mul 21 10 19),
    (0x06AA9980, .mulh 21 10 19), (0x06AA99A0, .mulhn 21 10 19), (0x06AA99C0, .div 21 10 19),
    (0x06AA99E0, .divn 21 10 19), (0x06AA9A00, .rem 21 10 19), (0x06AA9A20, .remn 21 10 19),
    (0x06AA9A40, .min 21 10 19), (0x06AA9A60, .max 21 10 19), (0x06AA9A80, .minn 21 10 19),
    (0x06AA9AA0, .maxn 21 10 19), (0x06AA02C0, .clz 21 10), (0x06AA02E0, .ctz 21 10)] = true := by decide

theorem test_decode_01b : reads [
    (0x06AA0300, .popc 21 10), (0x06AA032D, .sext 21 10 13), (0x06AA034D, .zext 21 10 13),
    (0x06AA9B6D, .addx 21 10 19 13), (0x06AA9B8D, .rotl 21 10 19 13), (0x06AA9BAD, .bext 21 10 19 13),
    (0x06AA9BC0, .cmov 21 10 19)] = true := by decide

theorem test_decode_02 : reads [
    (0x0AAA8765, .addi 21 10 0x8765#16)] = true := by decide

theorem test_decode_03 : reads [
    (0x0EAA8765, .andi 21 10 0x8765#16)] = true := by decide

theorem test_decode_04 : reads [
    (0x12AA8765, .ori 21 10 0x8765#16)] = true := by decide

theorem test_decode_05 : reads [
    (0x16AA8765, .xori 21 10 0x8765#16)] = true := by decide

theorem test_decode_06 : reads [
    (0x1AAA0025, .slli 21 10 37), (0x1AAA0065, .srli 21 10 37), (0x1AAA00A5, .srai 21 10 37)] = true := by decide

theorem test_decode_07 : reads [
    (0x1EAA8765, .slti 21 10 0x8765#16)] = true := by decide

theorem test_decode_08 : reads [
    (0x22AA8765, .sltni 21 10 0x8765#16)] = true := by decide

theorem test_decode_09 : reads [
    (0x26A28765, .setqZ 21 2 0x8765#16), (0x26B28765, .setqK 21 2 0x8765#16)] = true := by decide

theorem test_decode_0a : reads [
    (0x2AA08765, .pcadd 21 0x8765#16)] = true := by decide

theorem test_decode_0b : reads [
    (0x2EAA1ABC, .ldB 21 10 0x1ABC#13), (0x2EAA3ABC, .ldH 21 10 0x1ABC#13), (0x2EAA5ABC, .ldW 21 10 0x1ABC#13),
    (0x2EAA7ABC, .ldD 21 10 0x1ABC#13), (0x2EAA9ABC, .ldBn 21 10 0x1ABC#13), (0x2EAABABC, .ldHn 21 10 0x1ABC#13),
    (0x2EAADABC, .ldWn 21 10 0x1ABC#13)] = true := by decide

theorem test_decode_0c : reads [
    (0x32AA1ABC, .stB 21 10 0x1ABC#13), (0x32AA3ABC, .stH 21 10 0x1ABC#13), (0x32AA5ABC, .stW 21 10 0x1ABC#13),
    (0x32AA7ABC, .stD 21 10 0x1ABC#13), (0x32AA9ABC, .stNib 21 10 0x1ABC#13)] = true := by decide

theorem test_decode_0d : reads [
    (0x36AA0580, .lda 21 10 5 0)] = true := by decide

theorem test_decode_0e : reads [
    (0x380A9D40, .str 10 19 5 0)] = true := by decide

theorem test_decode_0f : reads [
    (0x3EAA9D80, .amoadd 21 10 19 5 1 0 0), (0x3EAA9A50, .amoadd 21 10 19 2 0 1 1),
    (0x3EAA9D81, .amoswap 21 10 19 5 1 0 0), (0x3EAA9A51, .amoswap 21 10 19 2 0 1 1),
    (0x3EAA9D82, .amoand 21 10 19 5 1 0 0), (0x3EAA9A52, .amoand 21 10 19 2 0 1 1),
    (0x3EAA9D83, .amoor 21 10 19 5 1 0 0), (0x3EAA9A53, .amoor 21 10 19 2 0 1 1),
    (0x3EAA9D84, .amoxor 21 10 19 5 1 0 0), (0x3EAA9A54, .amoxor 21 10 19 2 0 1 1),
    (0x3EAA9D85, .amomin 21 10 19 5 1 0 0), (0x3EAA9A55, .amomin 21 10 19 2 0 1 1),
    (0x3EAA9D86, .amomax 21 10 19 5 1 0 0), (0x3EAA9A56, .amomax 21 10 19 2 0 1 1),
    (0x3EAA9D87, .amominn 21 10 19 5 1 0 0), (0x3EAA9A57, .amominn 21 10 19 2 0 1 1),
    (0x3EAA9D88, .amomaxn 21 10 19 5 1 0 0), (0x3EAA9A58, .amomaxn 21 10 19 2 0 1 1),
    (0x3EAA9D89, .amocas 21 10 19 5 1 0 0), (0x3EAA9A59, .amocas 21 10 19 2 0 1 1),
    (0x3ECAD59A, .amocasq 22 10 26 5 1 0), (0x3ECAD25A, .amocasq 22 10 26 2 0 1),
    (0x3EAA9D8B, .amodecp 21 10 19 5 1 0 0), (0x3EAA9A5B, .amodecp 21 10 19 2 0 1 1)] = true := by decide

theorem test_decode_0fb : reads [
    (0x3EAA9D8C, .amofaddS 21 10 19 5 1 0), (0x3EAA9A4C, .amofaddS 21 10 19 2 0 1),
    (0x3EAA9D9D, .amofaddD 21 10 19 5 1 0), (0x3EAA9A5D, .amofaddD 21 10 19 2 0 1)] = true := by decide

theorem test_decode_10 : reads [
    (0x40000515, .fence 5 21)] = true := by decide

theorem test_decode_11 : reads [
    (0x4553C35A, .beq 10 19 0xC35A#16)] = true := by decide

theorem test_decode_12 : reads [
    (0x4953C35A, .bne 10 19 0xC35A#16)] = true := by decide

theorem test_decode_13 : reads [
    (0x4D53C35A, .blt 10 19 0xC35A#16)] = true := by decide

theorem test_decode_14 : reads [
    (0x5153C35A, .bge 10 19 0xC35A#16)] = true := by decide

theorem test_decode_15 : reads [
    (0x5553C35A, .bltn 10 19 0xC35A#16)] = true := by decide

theorem test_decode_16 : reads [
    (0x5953C35A, .bgen 10 19 0xC35A#16)] = true := by decide

theorem test_decode_17 : reads [
    (0x5EB2345F, .jal 21 0x12345F#21)] = true := by decide

theorem test_decode_18 : reads [
    (0x62AA8765, .jalr 21 10 0x8765#16)] = true := by decide

theorem test_decode_19 : reads [
    (0x64000000, .done), (0x64000001, .yield), (0x6400ABC2, .trap 0xABC#12), (0x64000003, .tret),
    (0x6400ABC4, .brk 0xABC#12), (0x66AA0005, .wpswap 21 10), (0x64000006, .wfe), (0x64000007, .nop),
    (0x64000088, .mqwait 8)] = true := by decide

theorem test_decode_1a : reads [
    (0x6AA00052, .sprd 21 0x52#16), (0x6AA00018, .cpyLaunch 21)] = true := by decide

theorem test_decode_1b : reads [
    (0x6C0A001E, .spwr 10 0x1E#16)] = true := by decide

theorem test_decode_1c : reads [
    (0x726DCE90, .rpt 9 45 6 3 5 1)] = true := by decide

theorem test_decode_1d : reads [
    (0x76B40000, .cbbind 21 5), (0x76B5DA01, .cbget 21 5 3 0xB4#8), (0x76B5DA02, .cbput 21 5 3 0xB4#8),
    (0x76B58003, .cbpop 21 5 3), (0x76B58004, .cbpush 21 5 3), (0x76B40005, .cbstat 21 5),
    (0x76B5DA06, .cbwfill 21 5 3 0xB4#8), (0x76B5DA07, .cbwfree 21 5 3 0xB4#8)] = true := by decide

theorem test_decode_1e : reads [
    (0x780A0001, .bsinit 10 1), (0x7AA01025, .bsget 21 37), (0x7AA02025, .bspeek 21 37), (0x78003025, .bsskip 37),
    (0x780A4025, .bsput 10 37), (0x78005000, .bsflush), (0x78006000, .bsalign), (0x7AA07000, .bspos 21)] = true := by decide

theorem test_decode_1f : reads [
    (0x7C0A0000, .laclr 10), (0x7C0A9820, .laaddD 10 19), (0x7EAA9840, .lamulD 21 10 19),
    (0x7C0A9860, .lasubD 10 19), (0x7C0A9880, .laaddS 10 19), (0x7EAA00A0, .larndD 21 10),
    (0x7EAA00C0, .larndS 21 10), (0x7EAA00E0, .lastat 21 10)] = true := by decide

theorem test_decode_20 : reads [
    (0x835AD660, .vadd 13 6 11 5 1 3), (0x835AD661, .vsub 13 6 11 5 1 3), (0x835AD662, .vmul 13 6 11 5 1 3),
    (0x835AD663, .vmulh 13 6 11 5 1 3), (0x835AD664, .vmin 13 6 11 5 1 3), (0x835AD665, .vmax 13 6 11 5 1 3),
    (0x835AD666, .vand 13 6 11 5 1 3), (0x835AD667, .vor 13 6 11 5 1 3), (0x835AD668, .vxor 13 6 11 5 1 3),
    (0x835AD669, .vsll 13 6 11 5 1 3), (0x835AD66A, .vsrl 13 6 11 5 1 3), (0x835AD66B, .vsra 13 6 11 5 1 3),
    (0x8358166C, .vabs 13 6 5 1 3), (0x835AD66D, .vsadd 13 6 11 5 1 3), (0x835AD66E, .vssub 13 6 11 5 1 3)] = true := by decide

theorem test_decode_21 : reads [
    (0x875AD7A0, .vfadd 13 6 11 5 1 13), (0x875AD7A1, .vfsub 13 6 11 5 1 13), (0x875AD7A2, .vfmul 13 6 11 5 1 13),
    (0x875AD7A3, .vfma 13 6 11 5 1 13), (0x875AD7A4, .vfms 13 6 11 5 1 13), (0x875AD7A5, .vfnma 13 6 11 5 1 13),
    (0x875AD7A6, .vfmin 13 6 11 5 1 13), (0x875AD7A7, .vfmax 13 6 11 5 1 13), (0x875817A8, .vfabs 13 6 5 1 13),
    (0x875817A9, .vfneg 13 6 5 1 13), (0x875AD7AA, .vfdiv 13 6 11 5 1 13), (0x875817AB, .vfsqrt 13 6 5 1 13),
    (0x875817AC, .vfclass 13 6 5 1 13)] = true := by decide

theorem test_decode_22 : reads [
    (0x8B5AD660, .vceq 13 6 11 5 1 3), (0x8B5AD661, .vcne 13 6 11 5 1 3), (0x8B5AD662, .vclt 13 6 11 5 1 3),
    (0x8B5AD663, .vcle 13 6 11 5 1 3), (0x8B5AD6C4, .vcltn 13 6 11 5 1 6), (0x8B5AD6C5, .vclen 13 6 11 5 1 6),
    (0x8B5AD7A6, .vfceq 13 6 11 5 1 13), (0x8B5AD7A7, .vfclt 13 6 11 5 1 13), (0x8B5AD7A8, .vfcle 13 6 11 5 1 13),
    (0x8B5AD7A9, .vfcun 13 6 11 5 1 13)] = true := by decide

theorem test_decode_23 : reads [
    (0x8F5AD5C0, .vsel 13 6 11 5 14), (0x8F5AD661, .vperm 13 6 11 5 1 3), (0x8F5AD7C2, .vslup 13 6 11 5 1 14),
    (0x8F5AD7C3, .vsldn 13 6 11 5 1 14), (0x8F5AC004, .mand 13 6 11), (0x8F5AC005, .mor 13 6 11),
    (0x8F5AC006, .mxor 13 6 11), (0x8F580007, .mnot 13 6), (0x8F5801C8, .mpop 13 6 14),
    (0x8F5801C9, .mfirst 13 6 14), (0x8F58166A, .viota 13 6 5 1 3), (0x8F5AD7CB, .vzip 13 6 11 5 1 14),
    (0x8F5AD7CC, .vunzip 13 6 11 5 1 14)] = true := by decide

theorem test_decode_24 : reads [
    (0x93581460, .vrsum 13 6 5 3), (0x93581461, .vrmax 13 6 5 3), (0x93581462, .vrmin 13 6 5 3),
    (0x935814C3, .vrmaxn 13 6 5 6), (0x935814C4, .vrminn 13 6 5 6), (0x935815A5, .vfrsum 13 6 5 13),
    (0x935815A6, .vfrmax 13 6 5 13), (0x935815A7, .vfrmin 13 6 5 13), (0x93581468, .vrand 13 6 5 3),
    (0x93581469, .vror 13 6 5 3)] = true := by decide

theorem test_decode_25 : reads [
    (0x975B16C0, .vcvt 13 6 12 5 1 6), (0x975A5761, .vdec 13 6 9 5 1 11), (0x975B5722, .venc 13 6 13 5 1 9),
    (0x975A9763, .vscl 13 6 10 5 1 11)] = true := by decide

theorem test_decode_26 : reads [
    (0x9B5535B0, .vld 13 10 19 5 1 6), (0x9B5535B1, .vlds 13 10 19 5 1 6), (0x9B5535B2, .vldb 13 10 19 5 1 6),
    (0x9814000B, .vtbl 10 1)] = true := by decide

theorem test_decode_27 : reads [
    (0x9F553530, .vst 13 10 19 5 6), (0x9F553531, .vsts 13 10 19 5 6), (0x9F553502, .vstnib 13 10 19 5)] = true := by decide

theorem test_decode_28 : reads [
    (0xA3553030, .vins 13 10 19 6), (0xA3553031, .vext 13 10 19 6), (0xA3540532, .vsplat 13 10 5 6)] = true := by decide

theorem test_decode_2a : reads [
    (0xA80A9805, .send 10 19 5), (0xA80A5825, .sendv 10 11 5), (0xAAA0004B, .mget 21 11),
    (0xA9A00061, .vmget 13 1), (0xA8000080, .mrel), (0xA80A98A2, .htset 10 19 2), (0xA80000C0, .htsync)] = true := by decide

theorem test_decode_2b : reads [
    (0xAC0A0000, .dqpush 10), (0xAEAA0020, .dqpop 21 10), (0xAC0A0045, .spawn 10 5), (0xAC0A0066, .actdecl 10 6),
    (0xAC000086, .actarm 6), (0xAC0000A6, .actoff 6), (0xAEA000C0, .dqstat 21)] = true := by decide

theorem test_decode_2c : reads [
    (0xB2AA0003, .barArr 21 10 3), (0xB00A9823, .barWait 10 19 3), (0xB2AA0043, .barArrw 21 10 3),
    (0xB2AA9865, .obarArr 21 10 19 5), (0xB00A9885, .obarWait 10 19 5)] = true := by decide

theorem test_decode_2d : reads [
    (0xB40A0000, .rcfg 10), (0xB6AA0020, .rinj 21 10), (0xB40A9840, .rmset 10 19), (0xB40A9860, .rmclr 10 19),
    (0xB40A988D, .rphase 10 19 1 5), (0xB6AA00A5, .rcnt 21 10 2 1), (0xB6A098C0, .rfetch 21 19),
    (0xB6A000E1, .rdrain 21 1)] = true := by decide

theorem test_decode_2e : reads [
    (0xBAAA0000, .cwait 21 10), (0xBAA00001, .cstat 21), (0xBAAA0002, .ccancel 21 10)] = true := by decide

theorem test_decode_2f : reads [
    (0xBF5455B0, .vgath 13 10 5 5 1 6), (0xBF545531, .vscat 13 10 5 5 6), (0xBF545522, .vscadd 13 10 5 5 4),
    (0xBF5455B3, .vgathw 13 10 5 5 1 1), (0xBF542533, .vgathw 13 10 2 5 0 1)] = true := by decide

theorem test_decode_30 : reads [
    (0xC2AA0000, .mverOpen 21 10), (0xC2AA0020, .mverTag 21 10), (0xC00A9840, .mverDone 10 19),
    (0xC2AA0064, .mverStat 21 10 4), (0xC2AA0082, .prgGo 21 10 2), (0xC2AA00A0, .prgStat 21 10),
    (0xC2AA00C0, .stash 21 10), (0xC2AA98E1, .unstash 21 10 19 1), (0xC2AA9902, .wshad 21 10 19 2)] = true := by decide

theorem test_decode_31 : reads [
    (0xC6AA0000, .ltdecl 21 10), (0xC6AA9820, .ltuse 21 10 19), (0xC40A0041, .ltdrop 10 1),
    (0xC6AA0060, .ltstat 21 10)] = true := by decide

theorem test_decode_32 : reads [
    (0xCAAA9800, .rbput 21 10 19), (0xCAAA0020, .rbret 21 10), (0xCAAA0040, .rbstat 21 10),
    (0xCAAA0060, .collGo 21 10), (0xCAAA0080, .collWait 21 10), (0xCAAA00A0, .rsplan 21 10),
    (0xCAAA00C0, .rsgo 21 10), (0xCAAA00E0, .rsstat 21 10), (0xCAAA0100, .lkput 21 10)] = true := by decide

theorem test_decode_33 : reads [
    (0xCC0A0005, .pmcfg 10 5), (0xCEAA0020, .pmrdCore 21 10), (0xCEAA0021, .pmrdSlice 21 10),
    (0xCEAA0040, .jrnlStart 21 10), (0xCEAA0041, .jrnlStop 21 10), (0xCEAA0042, .jrnlMark 21 10),
    (0xCEAA0043, .jrnlStatus 21 10), (0xCEAA0061, .fcstrd 21 10 1)] = true := by decide

theorem test_wf_agents : illFormed [
    .cvtThreshold 8192 0, .chargedFault 8192 0, .loadReturn 8192 0, .waitRelease 8192 0, .waitlimit 8192 0,
    .firingDispatch 8192 0, .firingPromote 8192 0, .messageTransmit 8192 0 false, .messageAccept 8192 0,
    .creditReturn 8192, .stealRound 8192, .stealRequest 8192, .stealAnswer 8192, .stealBackoffExpiry 8192,
    .spawnPush 8192 0, .spawnWithdraw 8192 0, .spawnAck 8192 0, .actorReady 8192 0, .barrierRelease 8192 0 0,
    .barrierStaggerExpiry 8192 0, .mcfg 2048 0, .mctx 2048 0, .mld 2048 0, .mst 2048 0, .mma 2048 0, .mmat 2048 0,
    .mmas 2048 0, .mzero 2048 0, .lanternMrel 2048 0, .mopt 2048 0, .msync 2048 0, .mmask 2048 0, .mnorm 2048 0,
    .lanternWaitTimeout 2048 0, .lanternRetire 2048 0, .ringBeat 128 0 [], .ringBeat 0 4 [], .ringDrainEnd 128 0 0,
    .ringDrainEnd 0 4 0, .accDelivery 128 0 0 0] = true := by decide

theorem test_wf_agentsb : illFormed [
    .accDelivery 0 4 0 0, .recoveryStart 128 0 0 0, .recoveryStart 0 16 0 0, .recoveryStart 0 0 0 512,
    .lateAddApply 8192 0, .phaseComplete 128 0 0, .phaseComplete 0 4 0, .copyStart 8192, .copyComplete 8192,
    .gsLane 8192 0 0, .gsLane 0 0 64, .snufferDropEnd 4 0, .snufferDropEnd 0 256, .prgStep 4, .prgDraw 4,
    .prgRepack 4, .repackSlotSwitch 4, .retirementJob 4, .linkPutTransfer 8192 0 .performed,
    .linkPutTransfer 0 12 .performed, .linkPutComplete 8192 0, .linkPutComplete 0 12, .rbTransfer 8192 0 .performed,
    .rbTransfer 0 12 .performed, .fillAdd 12 0 0, .fillAdd 0 8192 0, .fillAck 8192 0, .returnAdd 12 0 0,
    .returnAdd 0 8192 0, .linkDown 12, .linkUp 12 0 0, .collStart 4, .collStartTimeout 4, .collEnd 4 [],
    .reshardPassStart 4, .reshardRegionDone 4 .performed, .lqtailDoorbell 16 0, .forecastWrite 4,
    .clockLimitChange 4 0, .diePark 4] = true := by decide

theorem test_wf_agentsc : illFormed [
    .dieUnpark 4, .thermalLimit 4 0, .thermalRelease 4 0, .thermalTrip 4 0, .faultRecordPost 4, .fqszWrite 4 0,
    .frespRetry 4 0, .frespSkip 4 0, .frespDiscard 4 0, .frespUpcall 4 0, .frespEnd 4 0, .walkComplete 4 0 0,
    .walkComplete 0 16 0, .refusalRetry 8192 0, .replayDiverge 8192, .debugStep 8192 0, .debugResume 8192 0,
    .debugMemoryAccess 8192 0 0 Option.none, .fetchFault 8192 0, .writePerformed 8192 0, .debugHalt 8192 0,
    .linkLaneLoss 12 0, .peerTransferServe 12 ⟨0, 0, 0, 0⟩ [], .peerTransferServe 0 ⟨16, 0, 0, 0⟩ []] = true := by decide

theorem test_wf_words : illFormed [
    .lda 0 0 7 0, .str 0 0 7 0, .amoadd 0 0 0 7 1 0 0, .amoadd 0 0 0 2 0 0 0, .amoswap 0 0 0 7 1 0 0,
    .amoswap 0 0 0 2 0 0 0, .amoand 0 0 0 7 1 0 0, .amoand 0 0 0 2 0 0 0, .amoor 0 0 0 7 1 0 0, .amoor 0 0 0 2 0 0 0,
    .amoxor 0 0 0 7 1 0 0, .amoxor 0 0 0 2 0 0 0, .amomin 0 0 0 7 1 0 0, .amomin 0 0 0 2 0 0 0,
    .amomax 0 0 0 7 1 0 0, .amomax 0 0 0 2 0 0 0, .amominn 0 0 0 7 1 0 0, .amominn 0 0 0 2 0 0 0,
    .amomaxn 0 0 0 7 1 0 0, .amomaxn 0 0 0 2 0 0 0, .amocas 0 0 0 7 1 0 0, .amocas 0 0 0 2 0 0 0,
    .amocasq 0 0 0 7 1 0, .amocasq 0 0 0 2 0 0, .amocasq 1 0 0 0 0 0, .amocasq 0 0 1 0 0 0, .amodecp 0 0 0 7 1 0 0,
    .amodecp 0 0 0 2 0 0 0, .amofaddS 0 0 0 7 1 0, .amofaddS 0 0 0 2 0 0, .amofaddD 0 0 0 7 1 0,
    .amofaddD 0 0 0 2 0 0, .fence 7 1, .fence 0 0, .mqwait 9, .sprd 0 0x20#16, .sprd 0 0x3F#16, .sprd 0 0x53#16,
    .sprd 0 0x18#16, .spwr 0 0x5#16] = true := by decide

theorem test_wf_wordsb : illFormed [
    .spwr 0 0xD#16, .spwr 0 0xF#16, .spwr 0 0x18#16, .spwr 0 0x19#16, .spwr 0 0x1B#16, .spwr 0 0x1C#16,
    .spwr 0 0x20#16, .spwr 0 0x3F#16, .spwr 0 0x50#16, .vadd 0 0 0 0 1 3, .vadd 0 0 0 0 0 8, .vsub 0 0 0 0 1 3,
    .vsub 0 0 0 0 0 8, .vmul 0 0 0 0 1 3, .vmul 0 0 0 0 0 8, .vmulh 0 0 0 0 1 3, .vmulh 0 0 0 0 0 8,
    .vmin 0 0 0 0 1 3, .vmin 0 0 0 0 0 8, .vmax 0 0 0 0 1 3, .vmax 0 0 0 0 0 8, .vand 0 0 0 0 1 3, .vand 0 0 0 0 0 8,
    .vor 0 0 0 0 1 3, .vor 0 0 0 0 0 8, .vxor 0 0 0 0 1 3, .vxor 0 0 0 0 0 8, .vsll 0 0 0 0 1 3, .vsll 0 0 0 0 0 8,
    .vsrl 0 0 0 0 1 3, .vsrl 0 0 0 0 0 8, .vsra 0 0 0 0 1 3, .vsra 0 0 0 0 0 8, .vabs 0 0 0 1 3, .vabs 0 0 0 0 4,
    .vsadd 0 0 0 0 1 3, .vsadd 0 0 0 0 0 8, .vssub 0 0 0 0 1 3, .vssub 0 0 0 0 0 8, .vfadd 0 0 0 0 1 11] = true := by decide

theorem test_wf_wordsc : illFormed [
    .vfadd 0 0 0 0 0 14, .vfadd 0 0 0 0 0 9, .vfsub 0 0 0 0 1 11, .vfsub 0 0 0 0 0 14, .vfsub 0 0 0 0 0 9,
    .vfmul 0 0 0 0 1 11, .vfmul 0 0 0 0 0 14, .vfmul 0 0 0 0 0 9, .vfma 0 0 0 0 1 11, .vfma 0 0 0 0 0 14,
    .vfma 0 0 0 0 0 9, .vfms 0 0 0 0 1 11, .vfms 0 0 0 0 0 14, .vfms 0 0 0 0 0 9, .vfnma 0 0 0 0 1 11,
    .vfnma 0 0 0 0 0 14, .vfnma 0 0 0 0 0 9, .vfmin 0 0 0 0 1 11, .vfmin 0 0 0 0 0 14, .vfmin 0 0 0 0 0 9,
    .vfmax 0 0 0 0 1 11, .vfmax 0 0 0 0 0 14, .vfmax 0 0 0 0 0 9, .vfabs 0 0 0 1 11, .vfabs 0 0 0 0 14,
    .vfabs 0 0 0 0 9, .vfneg 0 0 0 1 11, .vfneg 0 0 0 0 14, .vfneg 0 0 0 0 9, .vfdiv 0 0 0 0 1 11,
    .vfdiv 0 0 0 0 0 14, .vfdiv 0 0 0 0 0 9, .vfsqrt 0 0 0 1 11, .vfsqrt 0 0 0 0 14, .vfsqrt 0 0 0 0 9,
    .vfclass 0 0 0 1 11, .vfclass 0 0 0 0 14, .vfclass 0 0 0 0 9, .vceq 0 0 0 0 1 3, .vceq 0 0 0 0 0 8] = true := by decide

theorem test_wf_wordsd : illFormed [
    .vcne 0 0 0 0 1 3, .vcne 0 0 0 0 0 8, .vclt 0 0 0 0 1 3, .vclt 0 0 0 0 0 4, .vcle 0 0 0 0 1 3, .vcle 0 0 0 0 0 4,
    .vcltn 0 0 0 0 1 5, .vcltn 0 0 0 0 0 8, .vcltn 0 0 0 0 0 3, .vclen 0 0 0 0 1 5, .vclen 0 0 0 0 0 8,
    .vclen 0 0 0 0 0 3, .vfceq 0 0 0 0 1 11, .vfceq 0 0 0 0 0 14, .vfceq 0 0 0 0 0 9, .vfclt 0 0 0 0 1 11,
    .vfclt 0 0 0 0 0 14, .vfclt 0 0 0 0 0 9, .vfcle 0 0 0 0 1 11, .vfcle 0 0 0 0 0 14, .vfcle 0 0 0 0 0 9,
    .vfcun 0 0 0 0 1 11, .vfcun 0 0 0 0 0 14, .vfcun 0 0 0 0 0 9, .vsel 0 0 0 1 15, .vsel 0 0 0 0 3,
    .vperm 0 0 0 0 1 3, .vperm 0 0 0 0 0 8, .vslup 0 0 0 0 1 3, .vslup 0 0 0 0 0 15, .vsldn 0 0 0 0 1 3,
    .vsldn 0 0 0 0 0 15, .mpop 0 0 15, .mfirst 0 0 15, .viota 0 0 0 1 3, .viota 0 0 0 0 8, .vzip 0 0 0 0 1 3,
    .vzip 0 0 0 0 0 15, .vunzip 0 0 0 0 1 3, .vunzip 0 0 0 0 0 15] = true := by decide

theorem test_wf_wordse : illFormed [
    .vrsum 0 0 0 8, .vrmax 0 0 0 4, .vrmin 0 0 0 4, .vrmaxn 0 0 0 8, .vrmaxn 0 0 0 3, .vrminn 0 0 0 8,
    .vrminn 0 0 0 3, .vfrsum 0 0 0 14, .vfrsum 0 0 0 9, .vfrmax 0 0 0 14, .vfrmax 0 0 0 9, .vfrmin 0 0 0 14,
    .vfrmin 0 0 0 9, .vrand 0 0 0 8, .vror 0 0 0 8, .vcvt 0 0 12 0 1 3, .vcvt 0 0 12 0 0 8, .vcvt 0 0 12 0 0 14,
    .vcvt 0 0 9 0 0 3, .vcvt 0 0 12 0 0 12, .vdec 0 0 9 0 1 11, .vdec 0 0 9 0 0 14, .vdec 0 0 9 0 0 9,
    .vdec 0 0 10 0 0 11, .venc 0 0 13 0 1 8, .venc 0 0 14 0 0 8, .venc 0 0 9 0 0 8, .venc 0 0 13 0 0 10,
    .vscl 0 0 10 0 1 11, .vscl 0 0 10 0 0 14, .vscl 0 0 14 0 0 11, .vscl 0 0 10 0 0 9, .vscl 0 0 7 0 0 11,
    .vld 0 0 0 0 1 3, .vlds 0 0 0 0 1 3, .vldb 0 0 0 0 1 3, .send 0 0 7, .sendv 0 0 7, .spawn 0 7, .barArr 0 0 5] = true := by decide

theorem test_wf_wordsf : illFormed [
    .barWait 0 0 5, .barArrw 0 0 5, .obarArr 0 0 0 7, .obarWait 0 0 7, .rphase 0 0 0 7, .rcnt 0 0 3 0,
    .vgath 0 0 0 0 1 3, .vgath 0 0 7 0 0 3, .vscat 0 0 7 0 3, .vscadd 0 0 7 0 3, .vscadd 0 0 0 0 6,
    .vscadd 0 0 0 0 1, .vgathw 0 0 0 0 1 3, .vgathw 0 0 7 0 0 3, .mverStat 0 0 5, .prgGo 0 0 3] = true := by decide

/-! ### What the statements of decoding, stepping and scalar words assume can be met -/

/-- A context of core 0 at the start of TCM, its registers as given. -/
def ctxAt (w : List Word) : Context :=
  { ws := { w := Vector.ofFn fun i => w.getD i.val 0, pc := 0x8000000000000000 }, wp := 0x800000000007E800, active := true }

/-- Core 0 with a context 0 of given registers. -/
def coreAt (w : List Word) : Core := (({} : Core).modCtx 0 fun x => { ctxAt w with wp := x.wp })

/-- A machine whose context 0 of core 0 holds registers and whose memory lists cells. -/
def machine (w : List Word) (mem : Memory := []) : State := { ({} : State).setCore 0 (coreAt w) with mem }

/-- The machine with core 0 in team 1, which holds cluster 0. -/
def teamed (w : List Word) (mem : Memory := []) : State :=
  { (machine w mem).modMe fun k => { k with team := 1 } with
    teams := [(1, { clus := [0], asid := 0, prio := 0, lakeOrg := 0, lakeSize := 0, entry := 0 })] }

theorem meets_DecodeEncode : ∃ (i : Instr) (w : Nat), i.wf = true ∧ encode i = some w :=
  ⟨.vabs 15 15 15 1 3, _, by decide, rfl⟩

theorem meets_WordHasOneMeaning : ∃ (i : Instr) (w : Nat), w < 2 ^ 32 ∧ decodeWord w = .ok i :=
  ⟨.add 1 2 3, 0x04221800, by decide, by decide⟩

theorem meets_DecodeRejectsMajors : ∀ w ∈ [0, 0x03FFFFFF, 0xA4000000, 0xA7FFFFFF, 0xD0000000, 0xFFFFFFFF],
    w < 2 ^ 32 ∧ (w = 0 ∨ w / 2 ^ 26 = 0 ∨ w / 2 ^ 26 = 0x29 ∨ 0x34 ≤ w / 2 ^ 26) := by decide

theorem meets_frameless : ∃ s : State, s.cx.frame = .none ∧ s.cx.ws.pc = 0x8000000000000000 := ⟨machine [], by decide⟩

/-- The hypotheses of `StepRunsDecodedWord` on a state and a context. -/
def runs (s : State) (c : CtxId) : Bool :=
  let t := s.elapse 1
  let x := t.ctx ⟨t.focus, c⟩
  decide (s.agenda = [] ∧ t.pickCtx t.focus = some c ∧ x.charged = [] ∧ x.crossings = [] ∧ x.frame = .none ∧
    t.fetchFlaw t.focus x.ws.pc = .none)

/-- A machine whose next step issues a word. -/
def issuing (w : Nat) : State := State.reset.withFetchWord 32 w

theorem meets_StepRunsDecodedWord : runs (issuing 0x04221800) 1 = true ∧ decodeWord 0x04221800 = .ok (.add 1 2 3) ∧
    runs (issuing 0) 1 = true ∧ decodeWord 0 = .error .zeroWord := by decide

theorem meets_StepFollowsAgenda : ∃ s t u v : State, s.agenda = [.elapse 3] ∧ t.agenda = [.issue 8191] ∧ 8191 < 8192 ∧
    u.agenda = [.event .gangPlace] ∧ Instr.gangPlace.wf = true ∧ Instr.gangPlace.isWord = false ∧
    v.agenda = [.event .nop] ∧ Instr.nop.isWord = true :=
  ⟨{ agenda := [.elapse 3] }, { agenda := [.issue 8191] }, { agenda := [.event .gangPlace] }, { agenda := [.event .nop] },
    rfl, rfl, by decide, rfl, rfl, rfl, rfl, rfl⟩

theorem meets_StepFollowsAgenda_outside : (∃ s : State, s.agenda = [.dropWrite 0 0] ∧ (s.core 0).writes[0]? = some { cells := [(2 ^ 64, 1, 0xFF)], space := .host }) ∧
    (∃ s : State, s.agenda = [.dropSteal 0] ∧ (s.core 0).round = some ⟨some 1, 1, Option.none⟩) ∧ placeExists 0 = true ∧
    ({} : State).hostUp = true ∧ ({} : State).dev.power ≠ .off ∧ ({} : State).dev.boot ≠ .retain :=
  ⟨⟨{ ({} : State).setCore 0 { writes := [{ cells := [(2 ^ 64, 1, 0xFF)], space := .host }] } with agenda := [.dropWrite 0 0] }, rfl, rfl⟩,
    ⟨{ ({} : State).setCore 0 { round := some ⟨some 1, 1, Option.none⟩ } with agenda := [.dropSteal 0] }, rfl, rfl⟩, by decide, by decide, by decide, by decide⟩

theorem meets_StepKeepsCanonicalMemory : ∃ s t : State, s.Inv ∧ s.mem ≠ [] ∧ step s = .next t :=
  ⟨{ agenda := [.elapse 1], mem := [(0, 1)] }, _, by unfold State.Inv; decide, by decide, rfl⟩

/-- A context inside a frame of words at a place of it. -/
def framed (words : List (BitVec 32)) (passes pass pos : Nat) : State :=
  (machine []).modCx fun x => { x with frame := some { ia := 0x8000000000000000, words, passes, sd := 0, sa := 0, sb := 0, sm := 0, pass, pos } }

theorem meets_FrameAdvances :
    (framed [1, 2] 2 0 0).cx.frame.isSome ∧ 0 + 1 < [1, 2].length ∧
    (framed [1, 2] 2 0 1).cx.frame.isSome ∧ [1, 2].length ≤ 1 + 1 ∧ 0 + 1 < 2 ∧
    (framed [1, 2] 2 1 1).cx.frame.isSome ∧ 2 ≤ 1 + 1 := by decide

theorem meets_ScalarTableResults : ∃ (s : State) (v : Word), scalarResult s (.div 1 2 3) = some (1, v) ∧ v = 0x8000000000000000 :=
  ⟨machine [0, 0, 0x8000000000000000, 0xFFFFFFFFFFFFFFFF], _, rfl, by decide⟩

theorem meets_ScalarFrame : ∃ (s t : State) (i : Instr) (rd : Reg), scalarDest i = some rd ∧ exec i s = .next t :=
  ⟨machine [], _, .add 1 2 3, 1, rfl, rfl⟩

theorem meets_BranchResults : ∃ (p q : Prop), branchTaken (machine [0, 5, 5, 6]) (.beq 1 2 0x8000) = some (p, 0x8000) ∧ p ∧
    branchTaken (machine [0, 5, 5, 6]) (.beq 1 3 0x7FFF) = some (q, 0x7FFF) ∧ ¬ q ∧ (machine [0, 5, 5, 6]).cx.frame = .none :=
  ⟨_, _, rfl, by decide, rfl, by decide, by decide⟩

/-- A doubleword stored at the start of TCM. -/
def withData (w : List Word) : State := machine w [(0x8000000100000000, 0x85), (0x8000000100000007, 0x80)]

theorem meets_LoadOfCheckedBytes : ∃ (bs : List Byte) (t : State) (x y z : Nat × Reg × Word × (List Byte → Word) × Option Nat),
    loadForm (withData [0, 0x8000000000000000]) (.ldD 2 1 0) = some x ∧ x.2.2.1.toNat % x.1 = 0 ∧
    (withData [0, 0x8000000000000000]).load x.2.2.1 x.1 x.2.2.2.2 = .ok (bs, t) ∧
    loadForm (withData [0, 0x8000000000000001]) (.ldH 2 1 0) = some y ∧ y.2.2.1.toNat % y.1 ≠ 0 ∧
    loadForm (withData [0, 8]) (.ldD 2 1 0) = some z ∧ z.2.2.1.toNat % z.1 = 0 ∧
    ∃ c v a k, (withData [0, 8]).load z.2.2.1 z.1 z.2.2.2.2 = .error (.sys c v a k) :=
  ⟨_, _, _, _, _, rfl, by decide, rfl, rfl, by decide, rfl, by decide, _, _, _, _, rfl⟩

/-- A state with a register that names own TCM and no write on its way. -/
def tcmAt (off : Nat) : State := withData [0, BitVec.ofNat 64 (0x8000000000000000 + off), 0x1F]

/-- A place of a state with no soft error, no write on its way to its location and no release standing there. -/
def plainPlace (s : State) (p : Nat) : Bool :=
  s.poison.isEmpty && s.soft.isEmpty &&
    ((s.me.writes ++ s.dev.posted ++ s.me.sees.flatMap fun x => (s.core x.1).writes).all fun w => w.cells.all fun c => c.1 / 8 != p / 8) &&
    s.tags.all fun x => x.1 != p / 8

/-- Bytes of own TCM in no active workspace, at such places. -/
def plain (s : State) (off n : Nat) : Bool :=
  decide (off + n ≤ 0x80000) && (List.range n).all fun i => (s.me.wsAt (off + i)).isNone && plainPlace s (tcmPlace s.cur.core (off + i))

theorem plain_place {s : State} {p : Nat} (h : plainPlace s p = true) : PlainPlace s p := by
  simp only [plainPlace, Bool.and_eq_true, List.isEmpty_iff, List.all_eq_true, bne_iff_ne] at h
  obtain ⟨⟨⟨h1, h2⟩, h3⟩, h4⟩ := h
  exact ⟨by simp [h1], by simp [h2], h3, h4⟩

theorem plain_tcm {s : State} {off n : Nat} (h : plain s off n = true) : PlainTcm s off n := by
  simp only [plain, Bool.and_eq_true, decide_eq_true_eq, List.all_eq_true, List.mem_range, Option.isNone_iff_eq_none] at h
  exact ⟨h.1, fun i hi => ⟨(h.2 i hi).1, plain_place (h.2 i hi).2⟩⟩

theorem meets_PlainTcm : PlainTcm (tcmAt 0) 0 8 ∧ PlainTcm (tcmAt 0x7E7F8) 0x7E7F8 8 ∧ PlainTcm (tcmAt 0x7E7FF) 0x7E7FF 1 := by
  (with_reducible and_intros) <;> first | exact plain_tcm (by decide +kernel) | (unfold State.Inv; decide +kernel) | decide +kernel

theorem meets_LoadFromOwnTcm : ∃ x, loadForm (tcmAt 0x7E7F8) (.lda 2 1 0 1) = some x ∧
    x.2.2.1 = BitVec.ofNat 64 (0x8000000000000000 + 0x7E7F8) ∧ 0x7E7F8 % x.1 = 0 ∧ x.1 = 8 :=
  ⟨_, rfl, by decide, by decide, rfl⟩

theorem meets_StoreOfCheckedBytes : ∃ (x y z : Nat × Word × Word) (t : State),
    storeForm (tcmAt 0) (.stD 2 1 0) = some x ∧ x.2.1.toNat % x.1 = 0 ∧
    (tcmAt 0).store x.2.1 (toBytes x.1 x.2.2.toNat) = .ok t ∧
    storeForm (tcmAt 1) (.stW 2 1 0) = some y ∧ y.2.1.toNat % y.1 ≠ 0 ∧
    storeForm (machine [0, 8]) (.stD 2 1 0) = some z ∧ z.2.1.toNat % z.1 = 0 ∧
    ∃ c v a k, (machine [0, 8]).store z.2.1 (toBytes z.1 z.2.2.toNat) = .error (.sys c v a k) :=
  ⟨_, _, _, _, rfl, by decide, rfl, rfl, by decide, rfl, by decide, _, _, _, _, rfl⟩

theorem meets_StoreToOwnTcm : (tcmAt 0x7E7F8).Inv ∧ ∃ x, storeForm (tcmAt 0x7E7F8) (.stD 2 1 0) = some x ∧
    x.2.1 = BitVec.ofNat 64 (0x8000000000000000 + 0x7E7F8) ∧ 0x7E7F8 % x.1 = 0 :=
  ⟨by unfold State.Inv; decide, _, rfl, by decide, by decide⟩

theorem meets_NibbleStore : effAddr ((tcmAt 0).getW 1) 0x1FFF = BitVec.ofNat 64 (0x8000000000000000 + 0) - 1 ∧
    effAddr ((tcmAt 1).getW 1) 0x1FFF = BitVec.ofNat 64 (0x8000000000000000 + 0) := by decide

/-! ### What the statements of atomics, system instructions and traps assume can be met -/

theorem meets_AtomicResults : (tcmAt 0x7E7F8).Inv ∧ (tcmAt 0x7E7F8).me.writes = [] ∧ (tcmAt 0x7E7F8).dev.posted = [] ∧
    PlainTcm (tcmAt 0x7E7F8) 0x7E7F8 8 ∧
    (∃ x, atomicForm (tcmAt 0x7E7F8) (.amoadd 3 1 2 0 0 0 1) = some x ∧
      (tcmAt 0x7E7F8).getW 1 = BitVec.ofNat 64 (0x8000000000000000 + 0x7E7F8) ∧ 0x7E7F8 % x.1 = 0 ∧ x.1 = 8) ∧
    ∃ x, atomicForm (tcmAt 2) (.amocas 3 1 2 0 0 0 0) = some x ∧ ((tcmAt 2).getW 1).toNat % x.1 ≠ 0 :=
  ⟨by unfold State.Inv; decide, by decide, rfl, plain_tcm (by decide +kernel), ⟨_, rfl, by decide, by decide, rfl⟩, _, rfl, by decide⟩

theorem meets_WideAtomicResults : (tcmAt 0).Inv ∧ (tcmAt 0).me.writes = [] ∧ PlainTcm (tcmAt 0) 0 16 ∧
    (tcmAt 0).getW 1 = BitVec.ofNat 64 (0x8000000000000000 + 0) ∧ 0 % 32 = 0 ∧ (4 : Reg).val % 2 = 0 ∧
    tcmValue (tcmAt 0) 0 8 ≠ ((tcmAt 0).getW 2).toNat % 2 ^ (8 * 8) ∧ tcmValue (machine []) 0 8 = 0 := by
  (with_reducible and_intros) <;> first | exact plain_tcm (by decide +kernel) | (unfold State.Inv; decide +kernel) | decide +kernel

/-- A write of the core on its way to a place of a space. -/
def onItsWay (x : Space) (p : Nat) : State :=
  (tcmAt 0).modCore 0 fun k => { k with writes := [{ cells := [(p, 1, 0xFF)], space := x }] }

theorem meets_ReleaseAndFence : (onItsWay .host (2 ^ 64)).Inv ∧ (onItsWay .host (2 ^ 64)).me.writes ≠ [] ∧
    (∀ w ∈ (onItsWay .host (2 ^ 64)).me.writes, w.space ≠ .tcm (onItsWay .host (2 ^ 64)).cur.core) ∧
    (onItsWay .host (2 ^ 64)).dev.posted = [] ∧ PlainTcm (onItsWay .host (2 ^ 64)) 0 8 ∧ (tcmAt 0).me.writes = [] ∧
    ((tcmAt 0).getW 1).toNat % 8 = 0 ∧ ((tcmAt 1).getW 1).toNat % 8 ≠ 0 ∧
    ((tcmAt 0).store ((tcmAt 0).getW 1) (toBytes 8 ((tcmAt 0).getW 2).toNat) 0xFF (some 2)).isOk ∧
    (((tcmAt 0).releaseWith 2).store ((tcmAt 0).getW 1) (toBytes 8 ((tcmAt 0).getW 2).toNat) 0xFF (some 2)).isOk ∧
    (4 : Fin 32).val / 4 % 4 ≠ 0 ∧ 16 ≤ (16 : Fin 32).val ∧ (tcmAt 0).sectors = [] := by
  (with_reducible and_intros) <;> first | exact plain_tcm (by decide +kernel) | (unfold State.Inv; decide +kernel) | decide +kernel

theorem meets_ReleasePerforms (w : PendWrite) (h : w ∈ (onItsWay .host (2 ^ 64)).me.writes) : SimpleWrite (onItsWay .host (2 ^ 64)) w := by
  have e : (onItsWay .host (2 ^ 64)).me.writes = [{ cells := [(2 ^ 64, 1, 0xFF)], space := .host }] := rfl
  rw [e, List.mem_singleton] at h
  subst h
  exact .inl ⟨rfl, by decide⟩

/-- The executing context with a change. -/
def withCx (f : Context → Context) : State := (machine []).modCx f

theorem meets_DoneResults : ∃ m, ((machine []).modMe fun k => { k with net := { k.net with
      openMsg := some { arrival := { hdr := 0, src := 8191, landed := [], handler := ⟨0, 0⟩, latchGen := 0, since := 0 }, window := true, replied := false } } }).me.net.openMsg = some m ∧
    m.arrival.hdr.getLsbD 50 = false ∧ (machine []).cur.ctx = 0 := ⟨_, rfl, by decide, rfl⟩

/-- A machine with unretired Lantern commands of the executing core. -/
def queued (n : Nat) : State := (machine []).modCmdQueue 0 fun q => { q with cmds := List.replicate n { bytes := 0, ctx := 0 } }

theorem meets_WfeMqwaitResults : (withCx fun x => { x with evl := true }).cx.evl = true ∧ (machine []).cx.evl = false ∧
    (machine []).me.waitlim ≠ 0 ∧ ((machine []).modMe fun k => { k with waitlim := 0 }).me.waitlim = 0 ∧
    ((queued 3).cmdQueue 0).cmds.length ≤ (3 : Fin 16).val ∧ (2 : Fin 16).val < ((queued 3).cmdQueue 0).cmds.length ∧
    (queued 3).cur.core = 0 := by decide

theorem meets_TrapEntry : (machine []).me.utvec = 0 ∧ ¬ 0x8000000000000000 ≤ (machine []).me.utvec.toNat ∧
    (0x800000000007FFFC : Word).toNat % 4 = 0 ∧
    ((machine []).modMe fun k => { k with utvec := 0x800000000007FFFC }).me.utvec = 0x800000000007FFFC := by decide

theorem meets_TrapReturn : (withCx fun x => { x with ws := { x.ws with ecause := 0x8000000000000010 } }).cx.ws.ecause.getLsbD 63 = true ∧
    (machine []).cx.ws.ecause.getLsbD 63 = false := by decide

theorem meets_BreakpointResults : ((machine []).modDev fun d => { d with debug := .invasive }).dev.debug = .invasive ∧
    (machine []).dev.debug ≠ .invasive := by decide

theorem meets_SystemFaultEntry : (∃ f, (framed [1, 2] 64 63 1).cx.frame = some f ∧ f.pass < 64 ∧ f.pos < 16) ∧
    (machine []).cx.frame = .none ∧ (0x0F : BitVec 8) ≠ 0x04 := ⟨⟨_, rfl, by decide, by decide⟩, by decide, by decide⟩

theorem meets_SpecialRegisterAccess : sprAssigned 0 ∧ sprAssigned 0x52 ∧ sprMask 6 = some 0xFFFFFFFF ∧ sprMask 0x4F = some 0x1FFF ∧
    sprAssigned 0x18 = false ∧ sprAssigned 0x53 = false ∧ sprMask 0 = Option.none ∧ sprMask 0x50 = Option.none := by decide

theorem meets_WorkspaceSwap : (tcmAt 0x1000).Inv ∧ (tcmAt 0x1000).me.wpOk 0 ((tcmAt 0x1000).getW 1) = true ∧
    (tcmAt 0x1000).getW 1 ≠ (tcmAt 0x1000).cx.wp ∧ (tcmAt 0x7E800).me.wpOk 0 ((tcmAt 0x7E800).getW 1) = true ∧
    (tcmAt 0x7E800).getW 1 = (tcmAt 0x7E800).cx.wp ∧ (tcmAt 0x7EE00).me.wpOk 0 ((tcmAt 0x7EE00).getW 1) = false := by
  unfold State.Inv; decide

/-- A machine whose memory after the first word of TCM holds a word. -/
def followedBy (w : Nat) : State := machine [] [(0x8000000100000004, BitVec.ofNat 8 w), (0x8000000100000007, BitVec.ofNat 8 (w / 2 ^ 24))]

theorem meets_RepeatResults :
    0x800000000007FFFC < (withCx fun x => { x with ws := { x.ws with pc := 0x800000000007FFFC } }).cx.ws.pc.toNat + 4 * 1 ∧
    (machine []).cx.ws.pc.toNat + 4 * 1 ≤ 0x800000000007FFFC ∧ (machine []).cx.resume = false ∧
    (machine []).capturePoison 0 0x8000000000000000 1 = .none ∧
    ({ machine [] with poison := [0x8000000100000000] } : State).capturePoison 0 0x8000000000000000 1 = some 0x8000000000000004 ∧
    (∃ i w, frameBreach 0 0 0 0 1 [0] = some (i, w)) ∧ (machine []).fetchWord 0 0x8000000000000004 = 0 ∧
    frameBreach 0 0 0 0 1 [0x80000000] = .none ∧
    (machine [] [(0x8000000100000007, 0x80)]).fetchWord 0 0x8000000000000004 = 0x80000000 :=
  ⟨by decide, by decide, by decide, by decide, by decide, ⟨_, _, rfl⟩, by decide, by decide, by decide⟩
/-! ### What the statements of streams, bit streams, the long accumulator and vectors assume can be met -/

/-- A stream image of two 64-byte slots at 0x1000 of own TCM, its counter pair at 0x800, on a side. -/
def streamImage (prod : Nat) : BitVec 128 :=
  BitVec.ofNat 128 (0x8000000000001000 + (2 ^ 63 + prod * 2 ^ 62 + 2 ^ 51 + 0x100 * 2 ^ 16) * 2 ^ 64)

/-- A context that holds a stream handle 2 of a side, the counter PCNT being `p`. -/
def streaming (prod p : Nat) : State :=
  (teamed [0, 0x8000000000000000] [(0x8000000100000800, BitVec.ofNat 8 p)]).setCb 2 (streamImage prod)

/-- The handle of such a context. -/
def handle (prod : Nat) : BitVec 128 := (streaming prod 0).getCb 2

theorem meets_StreamChecks : (streamForm (.cbget 1 2 2 1)).map (·.2.2.2) = some (3, 64) ∧ cbBound ((machine []).getCb 2) = false ∧
    (cbBound (handle 1) = true ∧ cbProd (handle 1) ≠ false) ∧
    (cbBound (BitVec.ofNat 128 (2 ^ 127 + 1)) = true ∧ cbProd (BitVec.ofNat 128 (2 ^ 127 + 1)) = false ∧ cbSound (BitVec.ofNat 128 (2 ^ 127 + 1)) = false) ∧
    (cbSound (handle 0) = true ∧ cbProd (handle 0) = false ∧ cbN (handle 0) < 3) ∧ HandleFits (handle 0) false 2 64 ∧
    (∃ bs t, (streaming 0 3).load (cbOther (handle 0)) 4 (some (cbSc (handle 0))) = .ok (bs, t) ∧
      (cbN (handle 0) : Int) < occupied (handle 0) (ofBytes bs % 2 ^ 16)) :=
  ⟨by decide, by decide, ⟨by decide, by decide⟩, ⟨by decide, by decide, by decide⟩, ⟨by decide, by decide, by decide⟩,
    by unfold HandleFits; decide, _, _, rfl, by decide⟩

theorem meets_StreamWaits : streamForm (.cbwfill 1 2 1 0) = some (false, 1, 2, 2, 0) ∧ HandleFits ((streaming 0 1).getCb 2) false 2 0 ∧
    (∃ n t, (streaming 0 1).cbCount ((streaming 0 1).getCb 2) = .ok (some n, t) ∧ n < 2) ∧ (streaming 0 1).me.waitlim ≠ 0 ∧
    ((streaming 0 1).modMe fun k => { k with waitlim := 0 }).me.waitlim = 0 :=
  ⟨rfl, by unfold HandleFits; decide, ⟨_, _, rfl, by decide⟩, by decide, by decide⟩

theorem meets_StreamEffects_consumer : HandleFits ((streaming 0 2).getCb 2) false 2 64 ∧ HandleFits ((streaming 0 2).getCb 2) false 2 0 ∧
    (∃ n t, (streaming 0 2).cbCount ((streaming 0 2).getCb 2) = .ok (some n, t) ∧ 2 ≤ n ∧
      (t.load (cbAddr ((streaming 0 2).getCb 2) 64) 8).isOk ∧
      (t.store (cbOwn ((streaming 0 2).getCb 2)) (toBytes 4 2) 0xFF (some (cbSc (handle 0)))).isOk ∧
      ((t.releaseWith (cbSc (handle 0))).store (cbOwn ((streaming 0 2).getCb 2)) (toBytes 4 2) 0xFF (some (cbSc (handle 0)))).isOk) :=
  ⟨by unfold HandleFits; decide, by unfold HandleFits; decide, _, _, rfl, by decide, by decide, by decide, by decide⟩

theorem meets_StreamEffects_producer : HandleFits ((streaming 1 0).getCb 2) true 2 64 ∧ HandleFits ((streaming 1 0).getCb 2) true 2 0 ∧
    (∃ n t, (streaming 1 0).cbCount ((streaming 1 0).getCb 2) = .ok (some n, t) ∧ 2 ≤ n ∧
      (t.store (cbAddr ((streaming 1 0).getCb 2) 64) (toBytes 8 1)).isOk ∧
      (t.store (cbOwn ((streaming 1 0).getCb 2)) (toBytes 4 2) 0xFF (some (cbSc (handle 1)))).isOk ∧
      ((t.releaseWith (cbSc (handle 1))).store (cbOwn ((streaming 1 0).getCb 2)) (toBytes 4 2) 0xFF (some (cbSc (handle 1)))).isOk) :=
  ⟨by unfold HandleFits; decide, by unfold HandleFits; decide, _, _, rfl, by decide, by decide, by decide, by decide⟩

theorem meets_StreamCompletions : (streaming 0 2).Inv ∧ OwnPair (streaming 0 2) (handle 0) 0x800 ∧
    occupied (handle 0) (tcmValue (streaming 0 2) 0x800 4 % 2 ^ 16) ≤ cbN (handle 0) ∧
    2 ≤ ready (handle 0) (tcmValue (streaming 0 2) 0x800 4 % 2 ^ 16) ∧ PlainAt (streaming 0 2) (cbAddr (handle 0) 64) 8 ∧
    OwnPair (streaming 1 0) (handle 1) 0x800 ∧ occupied (handle 1) (tcmValue (streaming 1 0) (0x800 + 4) 4 % 2 ^ 16) ≤ cbN (handle 1) ∧
    2 ≤ ready (handle 1) (tcmValue (streaming 1 0) (0x800 + 4) 4 % 2 ^ 16) ∧ (streaming 0 2).me.writes = [] ∧ (streaming 0 2).dev.posted = [] := by
  (with_reducible and_intros) <;> first
    | exact ⟨by decide, by decide, plain_tcm (by decide +kernel)⟩ | exact ⟨by decide, plain_tcm (by decide +kernel)⟩
    | (unfold State.Inv; decide +kernel) | decide +kernel

/-- A context whose register 1 names a stream image at the start of own TCM. -/
def imageAt : State :=
  machine [0, 0x8000000000000000] ((toBytes 16 (streamImage 0).toNat).zipIdx.foldl (fun m c => Memory.write m (0x8000000100000000 + c.2) c.1) [])

theorem meets_StreamBinds : (imageAt.getW 1).toNat % 8 = 0 ∧ PlainAt imageAt (imageAt.getW 1) 16 ∧
    cbSound (BitVec.ofNat 128 (valueAt imageAt (imageAt.getW 1) 16)) = true ∧
    OwnPair imageAt (BitVec.ofNat 128 (valueAt imageAt (imageAt.getW 1) 16)) 0x800 ∧
    cbSound (BitVec.ofNat 128 (valueAt (tcmAt 0) ((tcmAt 0).getW 1) 16)) = false ∧ ((tcmAt 1).getW 1).toNat % 8 ≠ 0 := by
  (with_reducible and_intros) <;> first
    | exact ⟨by decide +kernel, by decide +kernel, plain_tcm (by decide +kernel)⟩
    | exact ⟨by decide +kernel, plain_tcm (by decide +kernel)⟩ | decide +kernel

/-- A context with a bit buffer of `n` held bits before own-TCM offset 0. -/
def bitsHeld (n : BitVec 32) : State := (tcmAt 0).modWs fun w => { w with bsb := 0xFFFF, bsn := n }

theorem meets_BitReadResults : (bitsHeld 16).cx.ws.bsn.toNat ≤ 64 ∧ (bitsHeld 16).cx.ws.bsp.toNat % 8 = 0 ∧
    16 ≤ (bitsHeld 16).cx.ws.bsn.toNat ∧ PlainTcm (bitsHeld 16) (bitsHeld 16).cx.ws.bsp.toNat 8 ∧
    (bitsHeld 0).cx.ws.bsn.toNat < 64 ∧ PlainTcm (bitsHeld 0) (bitsHeld 0).cx.ws.bsp.toNat 8 := by
  (with_reducible and_intros) <;> first | exact plain_tcm (by decide +kernel) | (unfold State.Inv; decide +kernel) | decide +kernel

theorem meets_BitWriteResults : ((tcmAt 0).getW 1).toNat % 8 = 0 ∧ 0x8000000000000000 ≤ ((tcmAt 0).getW 1).toNat ∧
    ((tcmAt 0).getW 1).toNat < 0x8000000000080000 ∧ (bitsHeld 0x80000010).cx.ws.bsn.getLsbD 31 = true ∧
    (bitsHeld 0x80000010).cx.ws.bsn.toNat % 2 ^ 31 + 47 < 64 ∧ 64 ≤ (bitsHeld 0x80000010).cx.ws.bsn.toNat % 2 ^ 31 + 48 ∧
    (bitsHeld 0x80000010).Inv ∧ PlainTcm (bitsHeld 0x80000010) (bitsHeld 0x80000010).cx.ws.bsp.toNat 8 ∧
    (bitsHeld 0x80000038).cx.ws.bsn.toNat % 2 ^ 31 ≤ 56 ∧ (bitsHeld 16).cx.ws.bsn.getLsbD 31 = false := by
  (with_reducible and_intros) <;> first | exact plain_tcm (by decide +kernel) | (unfold State.Inv; decide +kernel) | decide +kernel

theorem meets_LongAccumulatorOffers : (tcmAt 8).Inv ∧ (tcmAt 8).getW 1 = BitVec.ofNat 64 (0x8000000000000000 + 8) ∧ 8 % 8 = 0 ∧
    PlainTcm (tcmAt 8) 8 144 := by (with_reducible and_intros) <;> first | exact plain_tcm (by decide +kernel) | (unfold State.Inv; decide +kernel) | decide +kernel

theorem meets_LongAccumulatorOffers_addends : (∃ m e, fp64.val 0x3FF0000000000000 = .num false m e ∧ -544 ≤ e) ∧
    (∃ m e, fp64.val 0x0000000000000000 = .num false m e ∧ e < -544 ∧ m = 0 * 2 ^ (-544 - e).toNat) ∧
    fp64.val 0xFFF0000000000000 = .inf true ∧ (fp64.val 0x7FF8000000000000).isNan = true :=
  ⟨⟨_, _, rfl, by decide⟩, ⟨_, _, rfl, by decide, by decide +kernel⟩, rfl, by decide⟩

theorem meets_LongAccumulatorRounds : PlainTcm (tcmAt 0) 0 144 ∧ tcmValue (machine []) (0 + 136) 8 % 2 = 0 ∧
    tcmValue (machine []) (0 + 136) 8 / 8 % 2 = 0 ∧ signedLow (tcmValue (machine []) 0 136) 1088 = 0 ∧
    tcmValue (machine [] [(0x8000000100000088, 1)]) (0 + 136) 8 % 2 = 1 ∧
    tcmValue (machine [] [(0x8000000100000088, 8)]) (0 + 136) 8 / 8 % 2 = 1 := by (with_reducible and_intros) <;> first | exact plain_tcm (by decide +kernel) | (unfold State.Inv; decide +kernel) | decide +kernel

theorem meets_laneForms : (laneForm (machine []) (.vadd 1 2 3 0 0 0)).isSome ∧ (floatForm (machine []) (.vfma 1 2 3 4 1 13)).isSome ∧
    (compareForm (machine []) (.vfclt 1 2 3 0 0 11)).isSome ∧ (reduceForm (.vrmin 1 2 0 3)).isSome ∧
    (convertForm (machine []) (.vscl 1 2 9 0 0 11)).isSome := by decide

theorem meets_RoundingIsExactOnRepresentable : (1 : Nat) < 2 ^ (bf16.ew + bf16.fw + 1) ∧ ∃ m e, bf16.val 1 = .num false m e :=
  ⟨by decide, _, _, rfl⟩

theorem meets_FloatReductionResults : activeList (machine []) 1 2 11 = [] ∧
    activeList ((machine []).setV 2 1) 1 2 11 = [0] ∧ 10 ≤ (13 : Fin 16).val ∧ (13 : Fin 16).val < 14 := by decide +kernel

theorem meets_ConversionResults : (convertForm (machine []) (.vcvt 1 2 12 2 0 6)).isSome ∧ (machine []).getV 2 = 0 := by decide +kernel

/-- A context whose register 1 names own TCM, with one active lane in v2. -/
def lanesAt (off : Nat) : State := (tcmAt off).setV 2 1

theorem meets_VectorLoadResults : (∃ x, vloadForm (lanesAt 64) (.vld 1 1 0 2 0 3) = some x ∧ (x.2.2.2.2.1 0).toNat % 64 = 0 ∧
      x.2.2.2.1 = 64) ∧
    (∃ x, vstoreForm (lanesAt 64) (.vst 1 1 0 2 3) = some x ∧ (x.2.2.2.1 0).toNat % 64 = 0 ∧ x.2.2.1 = 64) ∧
    (∀ k, k < 8 → ((lanesAt 64).getV 2).getLsbD k = decide (k = 0)) ∧
    ((lanesAt 64).getW 1 + (lanesAt 64).getW 0).toNat % 8 = 0 ∧ PlainAt (lanesAt 64) ((lanesAt 64).getW 1 + (lanesAt 64).getW 0) 8 ∧
    PlainAt (lanesAt 0x7E7C0) ((lanesAt 0x7E7C0).getW 1 + (lanesAt 0x7E7C0).getW 0) 64 ∧ (lanesAt 64).Inv := by
  refine ⟨⟨_, rfl, by decide, rfl⟩, ⟨_, rfl, by decide, rfl⟩, ?_⟩
  (with_reducible and_intros) <;> first
    | exact ⟨by decide +kernel, plain_tcm (by decide +kernel)⟩ | (unfold State.Inv; decide +kernel) | decide +kernel

theorem meets_CommandPlacement : (let s := machine [0, 0x800000004000FFC0]
    0x8000000040000000 ≤ (s.getW 1 + s.getW 0).toNat ∧ (s.getW 1 + s.getW 0).toNat < 0x8000000040010000 ∧
      (s.getW 1 + s.getW 0).toNat % 64 = 0 ∧ ((s.cmdQueue 0).cmds.length < 8) ∧ s.me.writes = [] ∧ s.me.waitlim ≠ 0) ∧
    8 ≤ ((queued 8).cmdQueue 0).cmds.length := by decide

theorem meets_LaneMovesAndTables :
    (∃ bs t, (machine [0, 0x8000000000000000]).load 0x8000000000000000 32 = .ok (bs, t)) ∧
    tableBad (List.replicate 8 0) ≠ Option.none ∧ tableBad ((presetTable false).map (BitVec.ofNat 32)) = Option.none :=
  ⟨⟨_, _, rfl⟩, by decide, by decide⟩

theorem meets_GatherScatterIssue : (machine []).me.writes = [] ∧
    ((List.range (512 / dtWidth 3)).filter ((machine []).active 2)) = [] ∧
    (lanesAt 64).gsCheck 0 8 [(0, (lanesAt 64).getW 1)] = .ok () ∧
    (∃ c v a k, (lanesAt 64).gsCheck 0 8 [(0, 1)] = .error (.sys c v a k)) := ⟨by decide, by decide +kernel, by decide, _, _, _, _, rfl⟩

/-! ### What the statements of messages, tasks, actors and barriers assume can be met -/

/-- A request header to core 1 with 2 payload words, and a reply's. -/
def requestHeader : Word := BitVec.ofNat 64 (2 * 2 ^ 36 + 2 ^ 51)

/-- A state with a network change at the executing core. -/
def withNet (s : State) (f : Net → Net) : State := s.modMe fun k => { k with net := f k.net }

theorem meets_SendResults_header : (teamed [0, requestHeader]).checkHeader requestHeader = .ok () ∧
    (teamed [0, requestHeader]).me.writes = [] ∧ requestHeader.getLsbD 50 = false ∧ requestHeader.toNat / 2 ^ 36 % 16 = 2 ∧
    (teamed []).me.net.sendReq.length < 4 ∧ 0 < (teamed []).me.net.credits ∧ (teamed []).cur.ctx = 0 ∧
    (withNet (teamed []) fun n => { n with credits := 0 }).me.net.credits = 0 ∧
    8 < (BitVec.ofNat 64 (9 * 2 ^ 36)).toNat / 2 ^ 36 % 16 ∧ 5 < (BitVec.ofNat 64 (6 * 2 ^ 40)).toNat / 2 ^ 40 % 16 ∧
    (BitVec.ofNat 64 (2 ^ 33)).getLsbD 33 = true ∧ (BitVec.ofNat 64 (2 ^ 33)).getLsbD 32 = false ∧ 30 + 2 ≤ 32 := by decide

/-- An open message firing of a request from core 1. -/
def openRequest : OpenMsg := { arrival := { hdr := requestHeader, src := 1, landed := [1, 2, 3, 4, 5, 6, 7, 8], handler := {}, latchGen := 0, since := 0 } }

/-- The machine in a message firing. -/
def handling : State := (withNet (teamed []) fun n => { n with openMsg := some openRequest })

theorem meets_SendResults_reply : ∃ h : Word, h.getLsbD 50 = true ∧ handling.checkHeader h = .ok () ∧ handling.me.net.sendRep.length < 4 :=
  ⟨BitVec.ofNat 64 (2 ^ 50), by decide, by decide, by decide⟩

theorem meets_HandlerWords : handling.cur.ctx = 0 ∧ handling.me.net.openMsg = some openRequest ∧ openRequest.window = true ∧
    ({ handling with cur := ⟨0, 1⟩ } : State).cur.ctx ≠ 0 ∧ 63 < (64 : Word).toNat ∧ (63 : Word).toNat ≤ 63 ∧ entryOk 0 = true ∧
    handling.me.net.outstanding handling.me.net.htSets = 0 := by decide

/-- A task record for core 1 at 0x10 of own TCM, named by register 1. -/
def taskAt : State := teamed [0, 0x8000000000000010] [(0x8000000100000011, 1), (0x8000000100000018, 7)]

/-- The deque of the executing core holds records. -/
def withDeque (n : Nat) : State := (teamed [0, 0x8000000000000010]).modMe fun k => { k with deque := List.replicate n { word0 := 0, arg1 := 0, since := 0 } }

theorem meets_TaskWords : (∃ w0 w1 t, taskAt.readTask 1 = .ok (w0, w1, t) ∧ taskAt.sameTeam taskAt.cur.core (taskCore w0) = true) ∧
    taskAt.me.deque.length < 64 ∧ (∀ r ∈ taskAt.me.deque, r.slot = Option.none) ∧ taskAt.me.waitlim ≠ 0 ∧ taskAt.me.writes = [] ∧
    ((tcmAt 8).getW 1).toNat % 16 ≠ 0 :=
  ⟨⟨_, _, _, rfl, by decide⟩, by decide, by decide, by decide, by decide, by decide⟩

theorem meets_TaskWords_pop : ((withDeque 2).getW 1).toNat % 16 = 0 ∧ (withDeque 2).me.deque ≠ [] ∧ (withDeque 2).me.deque.length ≤ 65 ∧
    (∀ x ∈ (withDeque 2).me.deque, x.slot = Option.none) ∧ ((withDeque 2).store ((withDeque 2).getW 1) (bytesOf [0, 0])).isOk ∧
    (withDeque 0).me.deque = [] ∧ (withDeque 0).me.tspill < 2 ^ 19 := by decide

/-- An actor slot with an available declaration of one filled slot of handle 2. -/
def actorAt : State :=
  (streaming 0 1).modMe fun k => { k with actors := k.actors.set 7 { decl := BitVec.ofNat 64 (2 ^ 6 + 2 * 2 ^ 8 + 1 * 2 ^ 11) } }

theorem meets_TaskWords_actors : actorDeclOk (BitVec.ofNat 64 (2 ^ 6 + 2 * 2 ^ 8 + 8 * 2 ^ 11)) = true ∧
    actorAt.me.actors[(7 : Fin 8)].armed = false ∧ actorAt.me.actors[(7 : Fin 8)].firing = false ∧
    actorAval actorAt.me.actors[(7 : Fin 8)].decl = true ∧ actorAt.actorUnbound actorAt.me.actors[(7 : Fin 8)].decl = Option.none ∧
    actorAt.actorPairs (actorTerms actorAt.me.actors[(7 : Fin 8)].decl) = .ok () ∧
    (actorTerms actorAt.me.actors[(7 : Fin 8)].decl).length = 1 := by decide

theorem meets_BarrierWords : (teamed [0, 15]).getW 1 = 15 ∧ ((teamed [0, 15]).teamOf 0).isSome ∧
    0 ∉ ((teamed [0, 15]).barrier 0 (barKey 4 0 15)).arrived ∧ ((teamed [0, 15]).me.barKnown (barKey 4 0 15)).1 = 0 ∧
    ((teamed [0, 15]).barrier 0 (barKey 4 0 15)).gen = 0 ∧ ((teamed [0, 15]).me.barKnown (barKey 4 0 15)).1 ≠ (65535 : Word).toNat ∧
    15 < (16 : Word).toNat ∧ (teamed [0, 15]).me.waitlim ≠ 0 := by decide

/-- A barrier object of own TCM at 0x10 with EXPECT 2 and ARR 1 in phase 3, named by register 1. -/
def objectAt : State := machine [0, 0x8000000000000010, 1, 15] [(0x8000000100000010, 2), (0x8000000100000012, 1), (0x8000000100000014, 3)]

theorem meets_BarrierWords_object : objectAt.Inv ∧ PlainTcm objectAt 16 16 ∧ tcmValue objectAt 16 16 / 2 ^ 37 % 2 ^ 27 = 0 ∧
    tcmValue objectAt 16 16 / 2 ^ 16 % 2 ^ 16 + (objectAt.getW 2).toNat ≤ tcmValue objectAt 16 16 % 2 ^ 16 ∧
    (objectAt.getW 3).toNat < 16 ∧ (objectAt.getW 3).toNat ≠ tcmValue objectAt 16 16 / 2 ^ 32 % 16 := by
  (with_reducible and_intros) <;> first | exact plain_tcm (by decide +kernel) | (unfold State.Inv; decide +kernel) | decide +kernel

/-! ### What the statements of rings, copies, regions, versions, links and counters assume can be met -/

/-- Memory with doublewords at places. -/
def words64 (l : List (Nat × Nat)) : Memory :=
  l.foldl (fun m x => (toBytes 8 x.2).zipIdx.foldl (fun m b => Memory.write m (x.1 + b.2) b.1) m) []

/-- The place of an own-TCM offset of core 0. -/
def tcm0 (off : Nat) : Nat := 0x8000000100000000 + off

theorem meets_RingWords_config : (0xFF01 : Word).toNat % 4 < 3 ∧ 32 ≤ (0xFF01 : Word).toNat / 256 ∧ (0x2000 : Word).toNat / 256 = 32 ∧
    (0xFF01 : Word).toNat < 2 ^ 16 ∧ (0xFF01 : Word).toNat / 4 % 64 = 0 ∧ ((teamed []).cluster 0).quiet = true ∧
    ((teamed []).cluster 0).staging = [] ∧ (0xFF01 : Word).toNat % 4 ≠ ((teamed []).cluster 0).cut := by decide

/-- An entry image at 0x20, one with a reserved bit at 0x40, a template image at 0x80 and an all-zero one at 0xC0. -/
def images : State := teamed [0, 0x8000000000000020] (words64 [(tcm0 0x20, 5 * 2 ^ 48), (tcm0 0x58, 1), (tcm0 0x80, 4)])

theorem meets_RingWords_entries : locator 0x3FF (teamed []).myLen = .ok ⟨511, 1, 0, false⟩ ∧ locator 0x400F (teamed []).myLen = .ok ⟨15, 0, 0, true⟩ ∧
    (∃ bs u, images.load 0x8000000000000020 32 = .ok (bs, u) ∧ entImageOk (BitVec.ofNat 256 (ofBytes bs)) = true) ∧
    (0x8000000000000020 : Word).toNat % 32 = 0 ∧ SMap.sorted ((teamed []).cluster 0).entries = true ∧ 511 + 1 ≤ 512 ∧
    SMap.sorted ((teamed []).cluster 0).templates = true :=
  ⟨by decide, by decide, ⟨_, _, rfl, by decide⟩, by decide, by decide, by decide, by decide⟩

theorem meets_RingWords_images : PlainTcm images 0x20 32 ∧ entImageOk (BitVec.ofNat 256 (tcmValue images 0x20 32)) = true ∧
    PlainTcm images 0x40 32 ∧ entImageOk (BitVec.ofNat 256 (tcmValue images 0x40 32)) = false ∧
    PlainTcm images 0x80 64 ∧ tmplImageOk (BitVec.ofNat 512 (tcmValue images 0x80 64)) = true ∧
    PlainTcm images 0xC0 64 ∧ tmplImageOk (BitVec.ofNat 512 (tcmValue images 0xC0 64)) = false ∧ 0xC0 % 64 = 0 ∧
    images.getW 1 = BitVec.ofNat 64 (0x8000000000000000 + 0x20) := by
  (with_reducible and_intros) <;> first | exact plain_tcm (by decide +kernel) | decide +kernel

/-- A cluster whose phase recovers, with a missed entry 0. -/
def recovering : State := (teamed []).modCluster 0 fun c =>
  { c with phases := SMap.put c.phases 0 { (c.phase 0 0) with st := .recover, recov := true }
           entries := [(0, BitVec.ofNat 256 (2 ^ 138 + 2 ^ 139 + 0xFFFF * 2 ^ 144))] }

theorem meets_RingWords_fetch : (((teamed []).cluster 0).phase 0 0).st ≠ .recover ∧
    ((recovering.cluster 0).phase 0 0).st = .recover ∧ ((recovering.cluster 0).phase 0 0).recov = true ∧
    ((recovering.cluster 0).phase 0 0).faulted = false ∧ entMissed ((recovering.cluster 0).entry 0 0 0 1) = false ∧
    entMissed ((recovering.cluster 0).entry 0 0 0 0) = true := by decide

theorem meets_RingWords_phase : (0x10000 : Word).toNat / 2 ^ 16 % 256 ≠ 0 ∧ (0x10000 : Word).toNat / 2 ^ 25 % 128 = 0 ∧
    (0x8000000000000008 : Word).toNat % 8 = 0 ∧ (teamed []).recordOk 0x8000000000000008 16 = .ok () ∧
    (((teamed []).cluster 0).phase 0 1).st = .idle ∧ (teamed []).me.writes = [] ∧ (teamed []).tags = [] ∧ (teamed []).soft = [] ∧
    (((teamed []).cluster 0).phase 0 1).expect < 2 ^ 32 ∧ (((teamed []).cluster 0).missedEntries 0 1).length < 2 ^ 32 := by decide

/-- An injection descriptor at 0x20 of own TCM: a tile of `len` units from 0x40 for phase 0. -/
def injecting (len : Nat := 1) (f : Cluster → Cluster := id) : State := (teamed [0, 0x8000000000000020]
  (words64 [(tcm0 0x20, 0), (tcm0 0x28, len * 2 ^ 16 + 2 * 2 ^ 24), (tcm0 0x30, 0x8000000000000040)])).modCluster 0 f

theorem meets_RingWords_inject : ∃ bs u h0 h1 src dst, injecting.load 0x8000000000000020 32 = .ok (bs, u) ∧
    wordsOf bs = [h0, h1, src, dst] ∧ injecting.inOwnTcm 0 0x8000000000000020 32 = true ∧ injectOk h0 h1 src dst = true ∧
    u.inHome 0 src (tileLen h1 * 64) = true ∧ tileAcc h1 = false ∧ u.cluster 0 = injecting.cluster 0 ∧
    ((injecting.cluster 0).phase 0 (tileTrk h0)).st = .idle ∧ SMap.find (injecting.cluster 0).staging (stageKey 0 h0) = Option.none ∧
    tileLen h1 ≤ (injecting.cluster 0).beat ∧ (u.resolve (u.whoAgent 0) .read src.toNat (tileLen h1 * 64)).isOk ∧
    (match u.resolve (u.whoAgent 0) .read src.toNat (tileLen h1 * 64) with
      | .ok (rs, _) => ((u.performOver 0 (placesOf rs)).agentRead (u.whoAgent 0) src (tileLen h1 * 64)).isOk
      | .error _ => false) = true :=
  ⟨_, _, _, _, _, _, rfl, rfl, by decide, by decide, by decide, by decide, by decide, by decide, by decide, by decide, by decide, by decide⟩

theorem meets_RingWords_inject_not :
    (let c := (injecting 1 fun c => { c with phases := SMap.put c.phases 0 { (c.phase 0 0) with st := .draining } }).cluster 0
    (c.phase 0 0).st ≠ .idle ∧ (c.phase 0 0).num.toNat = tilePhase 0) ∧
    (let c := (injecting 1 fun c => { c with staging := [(0, ⟨0, 0, 0, 0, [], 0⟩)] }).cluster 0
    (SMap.find c.staging (stageKey 0 0)).isSome) ∧
    (let c := (injecting 33 fun c => { c with beat := 32 }).cluster 0
    SMap.find c.staging (stageKey 0 0) = Option.none ∧ c.beat < tileLen (BitVec.ofNat 64 (33 * 2 ^ 16 + 2 * 2 ^ 24))) := by decide

/-- A copy's shadow set with `rows` rows of `rb` bytes and its parameter block at 0x20 of own TCM. -/
def launching (rows rb : Nat) (f : CopyEngine → CopyEngine := id) : State := (teamed []).modMe fun k =>
  { k with copy := f { k.copy with
      shadow := #v[0x8000000000001000, 0x8000000000002000, BitVec.ofNat 64 (rows + rb * 2 ^ 32), 0, 0, 0, 0, 0x8000000000000020] } }

/-- A queued copy of an id. -/
def copyJob (xid : BitVec 16) : CopyJob := { shadow := [], block := [], xid, ctx := 0 }

theorem meets_CopyWords : (∃ bs u, (launching 1 1).load 0x8000000000000020 32 = .ok (bs, u) ∧
      u.launchReason (launching 1 1).me.copy.shadow.toList (wordsOf bs) = Option.none ∧ blkRec (wordsOf bs) = 0 ∧ blkCnt (wordsOf bs) = 0 ∧
      u.me.copy = (launching 1 1).me.copy ∧ u.me.writes = [] ∧ u.cur = (launching 1 1).cur ∧ u.me.waitlim ≠ 0) ∧
    (launching 1 1).inOwnTcm 0 0x8000000000000020 32 = true ∧
    (launching 1 1).me.copy.queue.length < 3 ∧
    (∃ bs u, (launching 0 1).load 0x8000000000000020 32 = .ok (bs, u) ∧
      u.launchReason (launching 0 1).me.copy.shadow.toList (wordsOf bs) = some 1) ∧
    65535 < (65536 : Word).toNat ∧ (65535 : Word).toNat ≤ 65535 ∧ (launching 1 1).me.copy.inFlight 0xFFFF = false :=
  ⟨⟨_, _, rfl, by decide, by decide, by decide, by decide, by decide, by decide, by decide⟩, by decide, by decide,
    ⟨_, _, rfl, by decide⟩, by decide, by decide, by decide⟩

theorem meets_CopyWords_full :
    (let e := (launching 1 1 fun e => { e with queue := [copyJob 1, copyJob 2], running := some { job := copyJob 7 } }).me.copy
    (if e.running.isSome then 2 else 3) ≤ e.queue.length ∧ e.inFlight 7 = true ∧ e.queue.find? (·.xid == 2) = some (copyJob 2) ∧
      (∀ j ∈ e.queue, j.xid ≠ 7) ∧ e.running = some { job := copyJob 7 } ∧ (copyJob 7).xid = 7) ∧
    (let e := (launching 1 1 fun e => { e with queue := [copyJob 1, copyJob 2, copyJob 3] }).me.copy
    (if e.running.isSome then 2 else 3) ≤ e.queue.length ∧ (∀ j ∈ e.queue, j.xid ≠ 7) ∧ ∀ c, e.running = some c → c.job.xid ≠ 7) := by
  decide

/-- A region descriptor at 0x20 of own TCM, and region 3 of die 0 live for team 1 with two uses. -/
def regionAt : State :=
  ((teamed [0, 0x8000000000000020, 3, 1, 2] (words64 [(tcm0 0x28, 192), (tcm0 0x30, 65535)])).modMe fun k => { k with team := 1 }).declare 0 3 0 0 192 2

theorem meets_LifetimeWords : (∃ bs u b n w r, regionAt.load 0x8000000000000020 32 = .ok (bs, u) ∧ wordsOf bs = [b, n, w, r] ∧
      b.toNat % 192 = 0 ∧ n.toNat % 192 = 0 ∧ 192 ≤ n.toNat ∧ b.toNat + n.toNat ≤ 2 ^ 48 ∧ 1 ≤ w.toNat ∧ w.toNat ≤ 65535 ∧ r = 0) ∧
    regionAt.inOwnTcm 0 0x8000000000000020 32 = true ∧ (regionAt.die 0).freeRegion = some 0 ∧ 1024 ≤ (1024 : Word).toNat ∧
    (regionAt.getW 2).toNat < 1024 ∧ (∃ r, regionAt.liveRegion 0 3 = some r ∧ (regionAt.getW 3).toNat < r.uses ∧
      r.uses ≤ (regionAt.getW 4).toNat ∧ r.uses < 2 ^ 32) ∧ SMap.sorted (regionAt.die 0).regions = true ∧ regionAt.me.writes = [] ∧
    regionAt.liveRegion 0 4 = Option.none ∧ SMap.find (regionAt.die 0).regions 4 = Option.none :=
  ⟨⟨_, _, _, _, _, _, rfl, rfl, by decide, by decide, by decide, by decide, by decide, by decide, by decide⟩, by decide, by decide,
    by decide, by decide, ⟨_, rfl, by decide, by decide, by decide⟩, by decide, by decide, by decide, by decide⟩

/-- A die whose 256 regions are live for another team, the first in its drop. -/
def regionsTaken : State := regionAt.modDie 0 fun d =>
  { d with regions := (List.range 256).map fun i => (i, { base := 0, size := 192, uses := 1, tid := 2, core := 0, dropping := i == 0 }) }

set_option maxRecDepth 20000 in
theorem meets_LifetimeWords_none : (regionsTaken.die 0).freeRegion = Option.none ∧
    (∃ r, SMap.find (regionsTaken.die 0).regions 255 = some r ∧ r.dropping = false ∧ r.tid ≠ regionsTaken.tidOf 0) ∧
    ∃ r, SMap.find (regionsTaken.die 0).regions 0 = some r ∧ r.dropping = true :=
  ⟨by decide +kernel, ⟨_, rfl, by decide +kernel, by decide +kernel⟩, ⟨_, rfl, by decide +kernel⟩⟩
/-- A layer record in the Pond of cluster 0 with version words, and its stash of one 192-byte buffer. -/
def layer (hdr : Nat) (vts : List Nat) (more : List (Nat × Nat) := []) : State := teamed [0, 0x8000000200000000, 0, 3]
  (words64 ([(0x8000000200000070, hdr)] ++ vts.zipIdx.map (fun x => (0x8000000200000078 + 8 * x.2, x.1)) ++
    [(0x80000002000000A0, 192 + 2 ^ 36)] ++ more))

/-- The version block of a layer record. -/
def blockOf (s : State) : Option VBlock := (s.readBlock 0x8000000200000000).toOption.map (·.1)

theorem meets_VersionWords_open : ((layer (2 ^ 16 + 2 ^ 32) [2 ^ 32]).layerAddr 1 .amo).toOption = some 0x8000000200000000 ∧
    (∃ b, blockOf (layer (2 ^ 16 + 2 ^ 32) [2 ^ 32]) = some b ∧ b.ok = true ∧ b.retp = false ∧ b.newest ≠ 0xFFFE ∧ b.nlive < 4 ∧
      b.shad = b.newest + 1 ∧ vtRefs (b.vt b.newest) ≠ 0xFFFF) ∧
    (∃ b, blockOf (layer (2 ^ 32) [2 ^ 32]) = some b ∧ b.ok = true ∧ b.retp = false ∧ b.nlive < 4 ∧ b.shad ≠ b.newest + 1) ∧
    (∃ b, blockOf (layer (3 + 4 * 2 ^ 32) [2 * 2 ^ 32, 1 + 2 * 2 ^ 32, 2 + 2 * 2 ^ 32, 3 + 2 ^ 32]) = some b ∧ b.ok = true ∧
      b.retp = false ∧ b.nlive = 4) ∧
    (∃ b, blockOf (layer (2 ^ 32) [2 ^ 32 + 0xFFFF * 2 ^ 16]) = some b ∧ b.ok = true ∧ vtRefs (b.vt b.newest) = 0xFFFF) := by
  refine ⟨by decide, ⟨_, rfl, ?_⟩, ⟨_, rfl, ?_⟩, ⟨_, rfl, ?_⟩, ⟨_, rfl, ?_⟩⟩ <;> decide

theorem meets_VersionWords_done : (∃ b, blockOf (layer (2 ^ 32) [2 ^ 32 + 2 ^ 16]) = some b ∧ vtVer (b.vt 0) = 0 ∧
      vtState (b.vt 0) = 1 ∧ vtRefs (b.vt 0) ≠ 0 ∧ vtVer (b.vt 3) ≠ 3) ∧ ((layer 0 []).getW 2).toNat = 0 ∧ ((layer 0 []).getW 3).toNat = 3 :=
  ⟨⟨_, rfl, by decide, by decide, by decide, by decide⟩, by decide, by decide⟩

theorem meets_VersionWords_jobs : (layer 0 []).recordOk (0x8000000200000000 + 0xE0) 16 = .ok () ∧
    (layer 0 []).prgRoom ((layer 0 []).layerDie 0 0x8000000200000000).1 = true ∧
    ((layer 0 []).atomRead (0x8000000200000000 + 0xE0) 8).isOk ∧
    ((layer 0 []).load (0x8000000200000000 + 0x70) 8).isOk ∧ ((layer 0 []).load (0x8000000200000000 + 0xE0) 8).isOk := by decide

theorem meets_VersionWords_stash :
    (∃ x clu rs t, (layer 0 []).readStash 0x8000000200000000 = .ok (x, some clu, rs, t) ∧ x.find (layer 0 []).cx.mbatch = Option.none ∧
      (x.order.find? fun b => !x.taken b) = some 0 ∧ ((layer 0 []).die (clu / 32)).freeRegion = some 0) ∧
    (∃ x clu rs t, (layer 0 [] [(0x80000002000000A8, 1)]).readStash 0x8000000200000000 = .ok (x, some clu, rs, t) ∧
      x.find (layer 0 []).cx.mbatch = some 0) :=
  ⟨⟨_, _, _, _, rfl, by decide, by decide, by decide⟩, ⟨_, _, _, _, rfl, by decide⟩⟩

/-- Every place of a record is plain. -/
def plainRecord (s : State) (off : Nat) : Bool :=
  (List.range 256).all fun i => plainPlace s (pondPlace (cluOfCore s.cur.core) (off + i))

theorem pond_record {s : State} {l : Word} {off : Nat} (h : l = BitVec.ofNat 64 (0x8000000010000000 + off) ∧ off % 256 = 0 ∧
    off + 256 ≤ 0x400000 ∧ Team.hasClu (s.teamOf s.cur.core) (cluOfCore s.cur.core) = true ∧ s.cx.linkFails = false ∧ s.me.writes = [])
    (p : plainRecord s off = true) : PondRecord s l off :=
  ⟨h.1, h.2.1, h.2.2.1, h.2.2.2.1, h.2.2.2.2.1, h.2.2.2.2.2, fun i hi => plain_place (List.all_eq_true.1 p i (List.mem_range.2 hi))⟩

/-- A layer record in the own Pond with words from some of its places, registers 2 to 5 as given. -/
def pondLayer (ws : List (Nat × Nat)) (regs : List Word := []) : State := teamed ([0, 0x8000000010000000] ++ regs)
  (words64 (ws.map fun x => (0x8000000200000000 + x.1, x.2)))

/-- Its version header and version words, where version 1 is the newest. -/
def pondBlock (hdr : Nat) (vts : List Nat) (regs : List Word := []) : State :=
  pondLayer ([(0x70, hdr)] ++ vts.zipIdx.map fun x => (0x78 + 8 * x.2, x.1)) regs

/-- Version 1 the newest, version 0 closing with holders, the fresh slots of version 2 prepared. -/
def twoVersions (holds : Nat) : State := pondBlock (1 + 2 * 2 ^ 16 + 2 * 2 ^ 32) [2 * 2 ^ 32 + holds * 2 ^ 16, 1 + 2 ^ 32 + holds * 2 ^ 16] [0, 1, 2]

theorem meets_PondRecord : PondRecord (pondLayer []) ((pondLayer []).getW 1) 0 ∧
    PondRecord ((pondLayer []).setW 1 0x80000000103FFF00) 0x80000000103FFF00 0x3FFF00 := by
  refine ⟨pond_record ?_ ?_, pond_record ?_ ?_⟩ <;> decide +kernel

theorem meets_MverOpenBlock : (twoVersions 1).Inv ∧ PondRecord (twoVersions 1) ((twoVersions 1).getW 1) 0 ∧
    (let h := recWord (twoVersions 1) 0 0x70
    let vt := fun n => recWord (twoVersions 1) 0 (0x78 + 8 * n)
    let v := newestOf h
    BlockGood h vt ∧ retpOf h = 0 ∧ v ≠ 0xFFFE ∧ nliveOf h < 4 ∧ shadvOf h = v + 1 ∧
      (∀ n, n < 4 → stateOf (vt n) = 2 → verOf (vt n) % 4 = n) ∧ refsOf (vt (v % 4)) ≠ 0xFFFF) := by
  refine ⟨?_, pond_record ?_ ?_, ?_⟩ <;> first | (unfold State.Inv; decide +kernel) | (unfold BlockGood; decide +kernel) | decide +kernel

theorem meets_MverTagBlock : (twoVersions 0xFFFF).Inv ∧ refsOf (recWord (twoVersions 0xFFFF) 0 (0x78 + 8)) = 0xFFFF ∧
    newestOf (recWord (twoVersions 0xFFFF) 0 0x70) = 1 ∧ PondRecord (twoVersions 0xFFFF) ((twoVersions 0xFFFF).getW 1) 0 ∧
    ¬ BlockGood (recWord (pondLayer []) 0 0x70) fun n => recWord (pondLayer []) 0 (0x78 + 8 * n) := by
  refine ⟨?_, ?_, ?_, pond_record ?_ ?_, ?_⟩ <;> first | (unfold State.Inv; decide +kernel) | (unfold BlockGood; decide +kernel) | decide +kernel

theorem meets_MverDoneBlock : (twoVersions 1).Inv ∧ ((twoVersions 1).getW 2).toNat = 0 ∧ ((twoVersions 1).getW 3).toNat = 1 ∧
    (let x := fun n => recWord (twoVersions 1) 0 (0x78 + 8 * n)
    verOf (x 0) = 0 ∧ stateOf (x 0) = 2 ∧ refsOf (x 0) = 1 ∧ verOf (x 1) = 1 ∧ stateOf (x 1) = 1 ∧ refsOf (x 1) ≠ 0 ∧
      ((twoVersions 1).getW 4).toNat ≤ 65535 ∧ verOf (x 2) ≠ 2) ∧ (65535 : Word).toNat ≤ 65535 := by
  refine ⟨?_, ?_⟩ <;> first | (unfold State.Inv; decide +kernel) | decide +kernel

/-- Eight jobs wait behind a running REPACK. -/
def prgFull : State := (pondLayer []).modDie 0 fun d =>
  { d with prgQueue := List.replicate 8 ⟨0, 0, 0, 0, 0⟩, repack := some { job := ⟨0, 0, 0, 0, 0⟩, record := [] } }

theorem meets_RecordWordsAndJobs : (pondLayer []).Inv ∧ ((pondLayer []).layerDie 0 0x8000000010000000).1 = 0 ∧ (pondLayer []).prgRoom 0 = true ∧
    prgFull.prgRoom 0 = false ∧ prgFull.me.waitlim ≠ 0 ∧ PondRecord prgFull (prgFull.getW 1) 0 := by
  refine ⟨?_, ?_, ?_, ?_, ?_, pond_record ?_ ?_⟩ <;> first | (unfold State.Inv; decide +kernel) | decide +kernel

/-- A cluster of ring length 8 whose first entry is valid from version 0 to 5, its slot of version 3 valid, under a record whose
fresh slots of version 3 are prepared. -/
def pondShadow : State := (pondLayer [(0x70, 3 * 2 ^ 16)] [3 * 2 ^ 16, 3 * 2 ^ 16 + 8 * 2 ^ 10, 3 * 2 ^ 16 + 7 * 2 ^ 10, 2 ^ 32]).modCluster 0 fun c =>
  { c with cut := 1, entries := [(0, BitVec.ofNat 256 (5 * 2 ^ 48 + 2 ^ 127 + 2 ^ 139))] }

theorem meets_WshadOnRecord : PondRecord pondShadow (pondShadow.getW 1) 0 ∧ pondShadow.cluOf 0 (recWord pondShadow 0 0 % 128) = some 0 ∧
    (pondShadow.getW 2).toNat < 2 ^ 32 ∧ (pondShadow.getW 2).toNat / 2 ^ 14 % 4 = 0 ∧ (pondShadow.getW 2).toNat / 2 ^ 10 % 16 < 4 * 2 ^ (pondShadow.cluster 0).cut ∧
    (let e := (pondShadow.cluster 0).entry 0 0 0 0
    entValid e = true ∧ entBorn e ≤ 3 ∧ 3 < entDied e ∧ entSv e 3 = true ∧ shadvOf (recWord pondShadow 0 0x70) = 3) ∧
    4 * 2 ^ (pondShadow.cluster 0).cut ≤ (pondShadow.getW 3).toNat / 2 ^ 10 % 16 ∧ (pondShadow.getW 3).toNat < 2 ^ 32 ∧
    entValid ((pondShadow.cluster 0).entry 0 7 0 0) = false ∧ 2 ^ 32 ≤ (pondShadow.getW 5).toNat ∧
    pondShadow.cluOf 0 (recWord (pondLayer [(0, 1)]) 0 0 % 128) = Option.none := by
  refine ⟨pond_record ?_ ?_, ?_⟩ <;> decide +kernel

/-- A record in the own Pond with a stash of one 192-byte buffer, taken by micro-batch `m` where given. -/
def pondStash (held : Option Nat) (regs : List Word := []) : State :=
  pondLayer ([(0xA0, 192 + 2 ^ 36)] ++ held.elim [] fun m => [(0xA8, 1), (0xB0, m)]) regs

theorem meets_StashOnRecord : (pondStash Option.none).Inv ∧ PondRecord (pondStash Option.none) ((pondStash Option.none).getW 1) 0 ∧
    (stashAt (pondStash Option.none) 0).ok = true ∧ (pondStash Option.none).cluOf 0 (recWord (pondStash Option.none) 0 0 % 128) = some 0 ∧
    (let x := stashAt (pondStash Option.none) 0
    x.find (pondStash Option.none).cx.mbatch = Option.none ∧ (x.order.find? fun b => !x.taken b) = some 0 ∧
      ((pondStash Option.none).die (0 / 32)).freeRegion = some 0) ∧
    (let x := stashAt (pondStash (some 0)) 0
    x.ok = true ∧ x.find (pondStash (some 0)).cx.mbatch = some 0) ∧
    (let x := stashAt (pondStash (some 7)) 0
    x.ok = true ∧ x.find (pondStash (some 7)).cx.mbatch = Option.none ∧ (x.order.find? fun b => !x.taken b) = Option.none) ∧
    (pondStash (some 7)).me.stashctl.getLsbD 0 = false ∧ (pondStash (some 7)).me.waitlim ≠ 0 ∧
    ((pondStash (some 7)).modMe fun k => { k with stashctl := 1 }).me.stashctl.getLsbD 0 = true := by
  refine ⟨?_, pond_record ?_ ?_, ?_⟩ <;> first | (unfold State.Inv; decide +kernel) | decide +kernel

theorem meets_UnstashOnRecord : PondRecord (pondStash (some 7) [7, 8]) ((pondStash (some 7) [7, 8]).getW 1) 0 ∧
    ((pondStash (some 7) [7, 8]).getW 2).toNat ≤ 255 ∧
    (let x := stashAt (pondStash (some 7) [7, 8]) 0
    x.find 7 = some 0 ∧ x.find 8 = Option.none ∧ (x.regions.getD 0 0).toNat = 0) ∧
    (pondStash (some 7) [7, 8]).liveRegion 0 0 = Option.none ∧
    (∃ r, ((pondStash (some 7) [7, 8]).declare 0 0 0 0 192 2).liveRegion 0 0 = some r ∧ 1 < r.uses) ∧
    (∃ r, ((pondStash (some 7) [7, 8]).declare 0 0 0 0 192 1).liveRegion 0 0 = some r ∧ r.uses ≤ 1) := by
  refine ⟨pond_record ?_ ?_, ?_, ?_, ?_, ⟨_, rfl, ?_⟩, ⟨_, rfl, ?_⟩⟩ <;> decide +kernel

/-- A cluster whose first entry is valid from version 0 to 5, its slot of version 3 valid. -/
def shadowed : State := (layer (3 * 2 ^ 16) []).modCluster 0 fun c =>
  { c with entries := [(0, BitVec.ofNat 256 (5 * 2 ^ 48 + 2 ^ 127 + 2 ^ 139))] }

theorem meets_VersionWords_shadow : (shadowed.loadParts [(0x8000000200000000, 24), (0x8000000200000070, 40)]).isOk ∧
    (shadowed.cluOf 0 0) = some 0 ∧ entValid ((shadowed.cluster 0).entry 0 0 0 0) = true ∧ entValid ((shadowed.cluster 0).entry 0 1 0 0) = false ∧
    entBorn ((shadowed.cluster 0).entry 0 0 0 0) ≤ 3 ∧ 3 < entDied ((shadowed.cluster 0).entry 0 0 0 0) ∧
    entSv ((shadowed.cluster 0).entry 0 0 0 0) 3 = true ∧ ((blockOf shadowed).map VBlock.shad) = some 3 ∧
    (BitVec.ofNat 64 (3 * 2 ^ 16) : Word).toNat / 2 ^ 14 % 4 = 0 ∧ (shadowed.cluOf 0 1) = Option.none := by decide

/-- Link 0 is up and symmetrically paired with team 1; a descriptor of four doublewords stands at 0x20 of own TCM. -/
def linked (d : List Nat) : State :=
  (((teamed [0, 0x8000000000000020, 64] (words64 (d.zipIdx.map fun x => (tcm0 (0x20 + 8 * x.2), x.1)))).setBar (linkReg 0) 0x100).setBar
    (linkReg 0 + 8) (BitVec.ofNat 64 (2 ^ 63 + 1))).modDev fun v => { v with peerPairs := [(0, BitVec.ofNat 64 (2 ^ 63 + 2 ^ 16))] }

/-- The descriptor that register 1 names, and whether reading it changed the state. -/
def descOf (s : State) : Option (List Word × Bool) := (s.tcmDesc 1).toOption.map fun x => (x.1, decide (x.2 = s))

theorem meets_ExchangeWords_put :
    ((descOf (linked [0, 0, 8, 0])).any fun d => d.2 && putOk d.1 && d.1.getD 3 0 == 0 &&
      (linked [0, 0, 8, 0]).linkUsable 0 (descLink 0x10 d.1) && ((linked [0, 0, 8, 0]).me.opsOn 0).isEmpty) = true ∧
    ((descOf (linked [0, 0, 8 + 2 ^ 48, 0])).any fun d => d.2 && putOk d.1 &&
      !(linked [0, 0, 8 + 2 ^ 48, 0]).linkUsable 0 (descLink 0x10 d.1)) = true ∧
    ((descOf (linked [0, 0, 0, 0])).any fun d => d.2 && !putOk d.1 && !rbOk d.1) = true ∧ (linked []).me.writes = [] := by
  decide +kernel

theorem meets_ExchangeWords_buffer :
    ((descOf (linked [0, 0, 64, 0])).any fun d => d.2 && rbOk d.1 && !rbReceiver d.1 &&
      (linked [0, 0, 64, 0]).linkUsable 0 (descLink 8 d.1) && decide (countDiff (rbLow d.1) (rbHigh d.1) < rbK d.1)) = true ∧
    ((linked [0, 0, 64, 0]).getW 2).toNat % 64 = 0 ∧
    (((linked [0, 0, 64, 0]).releaseWith 5).store (0x8000000000000020 + 0x18) (toBytes 4 1)).isOk ∧
    ((descOf (linked [0, 2 ^ 43, 64, 1])).any fun d => d.2 && rbOk d.1 && rbReceiver d.1 && rbLow d.1 != rbHigh d.1) = true ∧
    (((linked [0, 2 ^ 43, 64, 1]).releaseWith 5).store (0x8000000000000020 + 0x1C) (toBytes 4 1)).isOk := by decide +kernel

/-- A collective descriptor of one rank at 0x40 of own TCM, its rank list at 0x100 and its tree at 0x110. -/
def collecting : State := teamed [0, 0x8000000000000040] (words64 [(tcm0 0x50, 1 + 2 * 2 ^ 40), (tcm0 0x58, 0x8000000000000100),
  (tcm0 0x60, 1), (tcm0 0x68, 0x8000000000000110), (tcm0 0x110, 0xFF)])

/-- What reading the descriptor of a collective finds. -/
def collRead (s : State) : Option (CollJob × State) := match s.load 0x8000000000000040 64 with
  | .ok (bs, t) => (t.readColl 0x8000000000000040 (wordsOf bs)).toOption.bind fun x => x.1.map (·, x.2)
  | .error _ => Option.none

theorem meets_ExchangeWords_collective : ((collRead collecting).any fun x => collRec x.1.desc == 0 && x.2.me.writes.isEmpty &&
      decide (x.2.cur = collecting.cur) && (x.2.die 0).collQueue.isEmpty && (SMap.find x.2.me.colls 0x8000000000000040).isNone &&
      x.2.me.waitlim != 0) = true := by decide +kernel

/-- The collective of the descriptor stands five times in the queue of its die, and once, ended or not, at its core. -/
def collQueued (ended : Option Word) : State := match collRead collecting with
  | some x => (collecting.modDie 0 fun d => { d with collQueue := List.replicate 5 x.1 }).modMe fun k => { k with colls := [(0x8000000000000040, { ended })] }
  | Option.none => collecting

theorem meets_ExchangeWords_collective_wait : ((collRead (collQueued (some 5))).any fun x => decide (5 ≤ (x.2.die 0).collQueue.length) &&
      (SMap.find x.2.me.colls 0x8000000000000040 == some { ended := some 5 })) = true ∧
    ((collRead (collQueued Option.none)).any fun x => (SMap.find x.2.me.colls 0x8000000000000040 == some { ended := Option.none })) = true := by
  decide +kernel

/-- A progress record at 0x40 of own TCM in a state, its layout records at 0x80 and 0x100: one axis of one rank, one dim of one
element of type 2. -/
def progressing (st : Nat) : State := teamed [0, 0x8000000000000040] (words64 [(tcm0 0x40, 0x8000000000000080), (tcm0 0x48, 0x8000000000000100),
  (tcm0 0x50, st * 256), (tcm0 0x80, 2 + 16 + 2 ^ 22 + 2 ^ 32), (tcm0 0x88, 1), (tcm0 0xC0, 0x8000000000000200), (tcm0 0xC8, 1),
  (tcm0 0x100, 2 + 16 + 2 ^ 22 + 2 ^ 32), (tcm0 0x108, 1), (tcm0 0x140, 0x8000000000000200), (tcm0 0x148, 1)])

/-- STATE of the progress record that register 1 names, and the layouts that it names, both well formed. -/
def progressOf (s : State) : Option (Nat × Bool) := (s.progress 0x8000000000000040).toOption.map fun x =>
  (prState x.1, match ctxReader.layouts x.2.2 x.1 with
    | .ok (some _, _) => true
    | _ => false)

theorem meets_ExchangeWords_reshard : progressOf (progressing 0) = some (0, true) ∧ progressOf (progressing 1) = some (1, true) ∧
    progressOf (progressing 2) = some (2, true) ∧ progressOf (progressing 3) = some (3, true) ∧ progressOf (progressing 4) = some (4, true) ∧
    ((progressing 4).die 0).reshardQueue.length < 5 ∧ (progressing 4).me.waitlim ≠ 0 ∧ (progressing 4).me.writes = [] ∧
    progressOf { progressing 0 with mem := words64 [(tcm0 0x40, 0x8000000000000080), (tcm0 0x48, 0x8000000000000100)] } = some (0, false) ∧
    5 ≤ (((progressing 4).modDie 0 fun d => { d with reshardQueue := List.replicate 5 { ra := 0, core := 0, ctx := 0 } }).die 0).reshardQueue.length := by
  decide +kernel

theorem meets_PerfWords : (0x1F0D : Word).toNat < 2 ^ 13 ∧ (0x1F0D : Word).toNat % 256 ≤ 13 ∧ 2 ^ 13 ≤ (0x2000 : Word).toNat ∧
    13 < (0x0E : Word).toNat % 256 ∧ 8 ≤ (8 : Word).toNat ∧ (0x27F : Word).toNat < 2 ^ 14 ∧ (0x27F : Word).toNat / 2 ^ 7 % 8 ≤ 4 ∧
    (0x27F : Word).toNat / 2 ^ 10 = (teamed []).asidOf 0 ∧ (0x3C00 : Word).toNat / 2 ^ 10 ≠ (teamed []).asidOf 0 ∧
    (teamed []).dev.debug = .none ∧ (3 : Word).toNat < 4 ∧ 4 ≤ (4 : Word).toNat := by decide

/-- A journal descriptor at 0x20 of own TCM. -/
def journalling : State := teamed [0, 0x8000000000000020] (words64 [(tcm0 0x20, 0x8000000000001000), (tcm0 0x28, 64)])

theorem meets_PerfWords_journal : (∃ bs u b w, journalling.load 0x8000000000000020 16 = .ok (bs, u) ∧ wordsOf bs = [b, w] ∧ jrnlOk b w = true) ∧
    journalling.me.journal.on = false ∧
    (journalling.modMe fun k => { k with journal := { k.journal with on := true } }).me.journal.on = true ∧
    journalling.me.journal.replay = false := ⟨⟨_, _, _, _, rfl, rfl, by decide⟩, by decide, by decide, by decide⟩

/-! ### What the statements of the steps that are no word assume can be met -/

/-- A queued message of core 0 to a core, with header bits. -/
def messageTo (d bits : Nat) : Msg := { hdr := BitVec.ofNat 64 (d * 2 ^ 51 + bits), payload := [], sc := 0, src := 0, ctx := 0 }

theorem meets_MessageSteps : (∀ e ∈ [messageTo 1 0].take 0, hdrDest e.hdr ≠ 1) ∧ (teamed []).slotFree 8191 false = true ∧
    hdrDep (messageTo 1 (2 ^ 33)).hdr = false ∧ hdrNofire (messageTo 1 (2 ^ 33)).hdr = true ∧ (withNet (teamed []) fun n => { n with sendReq := [messageTo 1 0] }).slotFree 1 false = true ∧
    ((teamed []).modCore 1 fun k => { k with net := { k.net with slotsReq := List.replicate 16 openRequest.arrival } }).slotFree 1 false = false ∧
    (teamed []).slotFree 1 true = true ∧ (teamed []).me.net.sendReq = [] ∧ (teamed []).me.net.sendRep = [] ∧
    ((teamed []).modCore 1 fun k => { k with net := { k.net with slotsRep := List.replicate 16 openRequest.arrival } }).slotFree 1 true = false ∧ hdrDep (messageTo 1 0).hdr = false ∧ hdrNofire (messageTo 1 0).hdr = false ∧
    hdrNofire (messageTo 1 (2 ^ 32 + 2 ^ 33)).hdr = true ∧ hdrVn (messageTo 1 0).hdr = false ∧ hdrVn (messageTo 1 (2 ^ 50)).hdr = true ∧
    (withNet (teamed []) fun n => { n with creditReturns := 1 }).me.net.creditReturns ≠ 0 := by decide

/-- A free context 1 of core 0 with a pending firing of kind 4 and handler 5, whose entry is given. -/
def dispatching (e : Word) : State := ((teamed []).modMe fun k =>
  { k with
    firings := [{ kind := 4, hidx := 5, aux := 0, fa := [1], src := 0, xid := 0, since := 0, promoted := false }]
    net := { k.net with handlers := [(5, ⟨e, 0⟩)] } }).modMe fun k => k.modCtx 1 fun x => { x with wp := x.wp }

theorem meets_DispatchSteps : ((dispatching 0x8000000000000100).teamOf 0).isSome ∧ (dispatching 0).me.mayTake 1 = true ∧
    ((dispatching 0).pickFiring 0 1).isSome ∧ (dispatching 0).me.journal.on = false ∧
    ((dispatching 0).modMe fun k => k.modCtx 1 fun x => { x with firing := true }).me.mayTake 1 = false ∧
    ({ dispatching 0 with now := 4096 } : State).me.firings.length = 1 ∧ 0 + 4096 ≤ 4096 ∧
    utvecOk ((dispatching 0).modMe fun k => { k with utvec := 0x8000000000000200 }).me.utvec = true := by decide

/-- Two requests wait in arrival slots of core 0, with a handler for both networks. -/
def arrived : State := withNet (teamed []) fun n =>
  { n with slotsReq := [{ openRequest.arrival with handler := ⟨0x8000000000000100, 3⟩ }] }

theorem meets_DispatchSteps_message : arrived.me.mayTake 0 = true ∧ (∃ a l, arrived.me.net.slotsRep = [] ∧ arrived.me.net.slotsReq = a :: l ∧
    a.handler.entry ≠ 0 ∧ a.handler.cls.getLsbD (if hdrVn a.hdr then 1 else 0) = true) := ⟨by decide, _, _, rfl, rfl, by decide, by decide⟩

/-- An armed actor slot whose term holds or not. -/
def armed (p : Nat) : State :=
  (streaming 0 p).modMe fun k => { k with actors := k.actors.set 7 { decl := BitVec.ofNat 64 (2 ^ 6 + 2 * 2 ^ 8 + 1 * 2 ^ 11), armed := true, cbs := [(2, streamImage 0)] } }

theorem meets_DispatchSteps_actor : (armed 1).me.actors[(7 : Fin 8)].armed = true ∧ (armed 1).me.actors[(7 : Fin 8)].firing = false ∧
    (∃ u, (armed 1).actorReady 0 (armed 1).me.actors[(7 : Fin 8)] = .ok (true, u)) ∧ ∃ u, (armed 0).actorReady 0 (armed 0).me.actors[(7 : Fin 8)] = .ok (false, u) :=
  ⟨by decide, by decide, ⟨_, rfl⟩, _, rfl⟩

/-- The executing context's spawn of a record for core 1. -/
def spawned (p : SpawnAt) : State := (teamed []).modCx fun x =>
  { x with spawn := some { word0 := 0x100, arg1 := 0, stage := p }, wait := some { op := .spawn, word := 0, since := 0, limit := some 5 } }

/-- The same with no room in the deque of core 1. -/
def crowded : State := (spawned .flying).modCore 1 fun k => { k with deque := List.replicate 64 { word0 := 0, arg1 := 0, since := 0 } }

theorem meets_TaskSteps : (spawned .flying).cx.spawn = some { word0 := 0x100, arg1 := 0, stage := .flying } ∧ taskCore 0x100 = 1 ∧
    ((spawned .flying).core 1).deque.length < ((spawned .flying).core 1).dequeCap ∧
    (crowded.core 1).dequeCap ≤ (crowded.core 1).deque.length ∧ (spawned .pushed).cx.frame = .none ∧
    ((spawned .pushed).cx.wait.map (·.op)) = some .spawn ∧ (spawned .heldFull).cx.spawn = some { word0 := 0x100, arg1 := 0, stage := .heldFull } ∧ (spawned .heldFull).cx.spawnLate = false ∧
    (spawned .withdrawing).cx.spawn = some { word0 := 0x100, arg1 := 0, stage := .withdrawing } ∧ (spawned .withdrawn).cx.spawn = some { word0 := 0x100, arg1 := 0, stage := .withdrawn } ∧
    utvecOk ((spawned .withdrawn).modMe fun k => { k with utvec := 0x8000000000000200 }).me.utvec = true := by decide

theorem meets_TaskSteps_push : ({ pushes := [⟨0x100, 0, 0, 0, 1, 0, []⟩] } : Device).pushes[0]? = some ⟨0x100, 0, 0, 0, 1, 0, []⟩ ∧
    ((teamed []).core 1).deque.length < ((teamed []).core 1).dequeCap := by decide

theorem meets_TaskSteps_steal : ((teamed []).teamOf 0).isSome ∧ (teamed []).me.isFree 1 = true ∧ (teamed []).me.firings = [] ∧
    (teamed []).me.deque = [] ∧ (teamed []).me.round = Option.none ∧ (teamed []).me.backoff = Option.none ∧ (teamed []).noActorReady 0 = true ∧
    (withDeque 1).me.deque ≠ [] ∧ (1 : CtxId) ≠ 0 ∧ (∀ p ∈ ((teamed []).modMe fun k => { k with firings := [{ kind := 7, hidx := 0, since := 0 }] }).me.firings, p.kind = 7) ∧ (teamed []).me.journal.replaying = false := by decide

theorem meets_TaskSteps_round : (∃ (k : Core) (y : TaskRec), k.round = some { victim := some 1, tried := 1 } ∧ k.journal.replaying = false ∧ k.deque = [] ++ [y]) ∧
    (∃ k : Core, k.round = some { victim := some 1, tried := 2, answer := some Option.none } ∧ k.journal.on = false) ∧
    (∃ k : Core, k.round = some { victim := some 1, tried := 1, answer := some (some { word0 := 0, arg1 := 0, since := 0 }) } ∧ k.journal.on = false) ∧
    (∃ k : Core, k.backoff = some 5) ∧ (((teamed []).modCore 1 fun k => { k with team := 1 }).teamOf 1).isSome :=
  ⟨⟨{ round := some { victim := some 1, tried := 1 }, deque := [{ word0 := 0, arg1 := 0, since := 0 }] }, _, rfl, rfl, rfl⟩,
    ⟨{ round := some { victim := some 1, tried := 2, answer := some Option.none } }, rfl, rfl⟩,
    ⟨{ round := some { victim := some 1, tried := 1, answer := some (some { word0 := 0, arg1 := 0, since := 0 }) } }, rfl, rfl⟩,
    ⟨{ backoff := some 5 }, rfl⟩, by decide⟩

/-- Team 1 with a barrier instance of the pod of generation 1, and link 0 up and paired where asked. -/
def podded (arrivals : List Nat) (seen : SMap (Nat × Nat)) : State :=
  { (linked []).modMe (fun k => { k with barSeen := seen }) with
    teams := [(1, { clus := [0], asid := 0, prio := 0, lakeOrg := 0, lakeSize := 0, entry := 0, bars := [(barKey 4 0 0, { gen := 1, arrived := arrivals })] })] }

theorem meets_BarrierSteps : ((podded [] []).teamOf 0).isSome ∧ ((podded [] []).me.barKnown (barKey 4 0 0)).1 ≠ ((podded [] []).barrier 0 (barKey 4 0 0)).gen ∧
    ((podded [] [(barKey 4 0 0, (1, 0))]).me.barKnown (barKey 4 0 0)).1 = ((podded [] [(barKey 4 0 0, (1, 0))]).barrier 0 (barKey 4 0 0)).gen ∧
    (podded [] []).podLinks 1 ≠ [] ∧ (∀ l ∈ (podded [] []).podLinks 1, (podded [] []).linkUp l = true) ∧
    (∀ m ∈ ({ clus := [0], asid := 0, prio := 0, lakeOrg := 0, lakeSize := 0, entry := 0 } : Team).barMembers 4 0, m ∈ List.range 64) ∧
    ((teamed []).modCx fun x => { x with stagger := some 0 }).cx.stagger = some (teamed []).now := by decide

/-- A Lantern command of doublewords. -/
def command (ds : List Nat) : VWord := BitVec.ofNat 512 (ds.zipIdx.foldl (fun n d => n + d.1 * 2 ^ (64 * d.2)) 0)

/-- A command of core 0 heads its queue; core 0 owns tiles 0 to 3 of one FP32 element, an FP32 tile 4 and a mask tile 5 of one row of
eight. -/
def commanding (ds : List Nat) (filled : Byte := 1) : State :=
  ((teamed [] [(0x8000000100000800, filled)]).modCmdQueue 0 fun q => { q with cmds := [{ bytes := command ds, ctx := 0, cb := streamImage 0 }] }).modQuad 0 fun q =>
    { q with tiles := #v[⟨true, 0, 0, 1, 1, [0]⟩, ⟨true, 0, 0, 1, 1, [0]⟩, ⟨true, 0, 0, 1, 1, [0]⟩, ⟨true, 0, 0, 1, 1, [0]⟩,
        ⟨true, 0, 0, 1, 8, List.replicate 8 0⟩, ⟨true, 0, 5, 1, 8, List.replicate 8 0⟩, {}, {}] }

/-- The command heads its queue, it is its source's turn, and it is sound. -/
def heads (ds : List Nat) : Bool :=
  ((commanding ds).headCmd 0 0).isSome && (commanding ds).srcTurn 0 0 && cmdSound (command ds)

/-- The tile that a field of a command names, if core 0 owns it. -/
def named (ds : List Nat) (f : Nat) : Option Tile := ((commanding ds).quad 0).owned 0 (cmdTile (command ds) f)

/-- The agent of core 0. -/
def agent0 : Who := (teamed []).whoAgent 0

theorem meets_LanternCommands_config : heads [1 + 0x4000] = true ∧ cmdCode (command [1 + 0x4000]) = 1 ∧ shapeOk 0 1 = true ∧
    heads [8 + 0x100] = true ∧ heads [9 + 0x100] = true ∧ heads [2] = true ∧ cmdCode (command []) = 0 ∧ 13 < cmdCode (command [14]) ∧
    ((commanding []).headCmd 0 0).isSome ∧ (commanding []).srcTurn 0 0 = true := by decide +kernel

theorem meets_LanternCommands_products : (∀ k ∈ [4, 5], heads [k + 0x1000 + 0x20000] = true) ∧
    heads [6 + 0x1000 + 0x20000, 0x8000000000000000, 0x8000000000000040] = true ∧
    (∀ f ∈ [1, 2, 3], (named [4 + 0x1000 + 0x20000] f).isSome) ∧ (∃ t : Tile, named [4 + 0x1000 + 0x20000] 1 = some t ∧ t.fmt = 0) ∧
    ((commanding []).agentRead agent0 0x8000000000000000 1).isOk :=
  ⟨by decide +kernel, by decide +kernel, by decide +kernel, ⟨⟨true, 0, 0, 1, 1, [0]⟩, by decide +kernel, rfl⟩, by decide +kernel⟩

theorem meets_LanternCommands_mask : heads [12 + 0x400 + 0x5000] = true ∧ heads [12 + 0x400 + 0x5000 + 0x10000] = true ∧
    (named [12 + 0x400 + 0x5000] 1).map (fun t => (t.fmt, t.rows, t.cols)) = some (0, 1, 8) ∧
    (named [12 + 0x400 + 0x5000] 2).map (fun t => (t.fmt, t.rows, t.cols)) = some (5, 1, 8) := by decide +kernel

theorem meets_LanternCommands_memory : heads [3, 0x8000000000000040] = true ∧ (named [3] 1).isSome ∧ rowAlign 0x8000000000000040 0 1 0 = .ok () ∧
    ((commanding []).agentReads agent0 [(0x8000000000000040, 4)]).isOk ∧ heads [7, 0x8000000000000040] = true ∧
    ((commanding []).agentWrites agent0 [(0x8000000000000040, [1, 2, 3, 4])]).isOk ∧ heads [13, 0x8000000000000040] = true ∧
    ((commanding []).agentWrite agent0 0x8000000000000040 [1, 2, 3, 4]).isOk ∧ heads [11, 0x8000000000000040, 5] = true ∧
    ((commanding []).agentWrite agent0 0x8000000000000040 [1, 2, 3, 4] true).isOk := by decide +kernel

theorem meets_LanternCommands_step : heads [10 + 0x1000 + 0x20000 + 0x300000, 0, 0, 0x3F800000 * 2 ^ 32] = true ∧
    (∀ f ∈ [1, 2, 3, 4], (named [10 + 0x1000 + 0x20000 + 0x300000, 0, 0, 0x3F800000 * 2 ^ 32] f).isSome) ∧
    optHandleOk (command [10 + 0x1000 + 0x20000 + 0x300000, 0, 0, 0x3F800000 * 2 ^ 32]) (streamImage 0) = true ∧
    ((commanding []).agentRead agent0 (cbPair (streamImage 0)) 4).isOk ∧ ((commanding []).agentRead agent0 (cbAddr (streamImage 0) 0) 4).isOk ∧
    optClip (cmdOpt (command [10])) 0 = some 0x3F800000 := by decide +kernel

/-- A served command before another one. -/
def servedCmd : State := (teamed []).modCmdQueue 0 fun q => { q with cmds := [{ bytes := 0, ctx := 0, served := true }, { bytes := 1, ctx := 0 }] }

/-- A meeting at the head of quad 0, served; its entry has NOTE where asked. -/
def met (e : BitVec 256) : State := (teamed []).modQuad 0 fun q =>
  { q with meetings := [{ clu := 0, ring := 0, station := 0, trk := 0, phase := 0, entryIx := 0, entry := e, tmpl := 0, east := ⟨0, 0, 0, 0, [], 0⟩, west := ⟨0, 0, 0, 0, [], 0⟩, layer := Option.none, cb := 0, core := 0, ctx := 0, rank := 0, recovery := false, served := true }] }

theorem meets_LanternRetirement_waits : (commanding [10 + 0x1000 + 0x20000 + 0x300000, 0, 0, 0x3F800000 * 2 ^ 32] 0).cmdWaits 0 0
      { bytes := command [10 + 0x1000 + 0x20000 + 0x300000, 0, 0, 0x3F800000 * 2 ^ 32], ctx := 0, cb := streamImage 0 } = true ∧
    ((commanding [10 + 0x1000 + 0x20000 + 0x300000, 0, 0, 0x3F800000 * 2 ^ 32] 0).headCmd 0 0).isSome := by decide +kernel

theorem meets_LanternRetirement : (servedCmd.cmdQueue 0).cmds.length = 2 ∧ ((servedCmd.cmdQueue 0).cmds.head?.map (·.served)) = some true ∧
    ((queued 1).cmdQueue 0).cmds.head?.map (·.served) = some false ∧ (met 0).me.mayPost 4 = true ∧ entNote 0 = false ∧ entNote (BitVec.ofNat 256 (2 ^ 136)) = true ∧
    ((met 0).quad 0).meetings.length = 1 := by decide


/-! ### What the statements of the rings, the copy engine and the prune/regrow engine assume can be met -/

/-- A phase of ring 0, track 0, of team 1's cluster. -/
def phaseOf (p : Phase) : State := (commanding []).modCluster 0 fun c => { c with phases := [(0, p)] }

theorem meets_RingSteps_beats : 0 < ((phaseOf { st := .running, nb := 1 }).cluster 0).ringCount ∧
    (((phaseOf { st := .running, nb := 1 }).cluster 0).phase 0 0).st = .running ∧ (((phaseOf { st := .running, nb := 1 }).cluster 0).phase 0 1).st = .idle ∧
    (∀ st k e w, ((phaseOf { st := .running, nb := 1 }).cluster 0).matching 0 st k e w = Option.none) :=
  ⟨by decide, by decide, by decide, fun st k e w => by unfold Cluster.matching; dsimp only; split <;> rfl⟩

/-- A tile of one row and 64 bytes from 0x40 of core 0's TCM. -/
def tileOf : RingTile := ⟨0, 0x10000, 0x8000000000000040, 0x8000000000000080, List.replicate 64 0, 0⟩

/-- The phase with a valid template of an MNORM and an entry. -/
def meetAt (p : Phase) (e : BitVec 256) : State :=
  (phaseOf p).modCluster 0 fun c => { c with templates := [(c.tmplKey 0 0 0, command [13, 0x8000000000000040])], entries := [(c.entKey 0 0 0 0, e)] }

theorem meets_RingSteps_accept : ((meetAt { st := .running, expect := 1 } 1).cluster 0).template 0 0 (entTmpl 1) = some (command [13, 0x8000000000000040]) ∧
    ((meetAt { st := .running, expect := 1 } 1).meetFlaw
      ((meetAt { st := .running, expect := 1 } 1).meeting 0 0 0 0 0 0 (entMeet 1) (command [13, 0x8000000000000040]) tileOf tileOf false)).1 = Option.none ∧
    ((meetAt { st := .running, expect := 1 } 1).meetFlaw
      ((meetAt { st := .running, expect := 1 } 1).meeting 0 0 0 0 0 0 (entMeet 1) (command [14]) tileOf tileOf false)).1 ≠ Option.none ∧
    ((phaseOf { st := .running }).cluster 0).template 0 0 (entTmpl 1) = Option.none ∧ 0 < 0 + 1 ∧
    (meetAt { st := .running, expect := 1 } 1).me.journal.on = false := by decide +kernel

/-- A pair of entry 0 that was missed at station 0. -/
def missedPair : Missed := { station := 0, entryIx := 0, east := tileOf, west := tileOf }

/-- A phase that recovers one missed pair. -/
def missing : State := meetAt { st := .recover, missed := [missedPair] } (BitVec.ofNat 256 (1 + 2 ^ 138))

theorem meets_RingSteps_drain : (((meetAt { st := .draining } (BitVec.ofNat 256 (1 + 2 ^ 138))).cluster 0).missedEntries 0 0) ≠ [] ∧
    (meetAt { st := .draining } (BitVec.ofNat 256 (1 + 2 ^ 138))).drained 0 0 0 = true ∧ (phaseOf { st := .draining, expect := 1 }).settled 0 0 0 = true ∧
    (phaseOf { st := .draining, expect := 0 }).settled 0 0 0 = true ∧ (phaseOf {}).settled 0 0 0 = false := by decide +kernel

/-- The module holds a record of the ring's track 0. -/
def ringHeld (s : State) : State := s.modDie 0 fun d =>
  { d with outstanding := [{ cause := 0x04, agent := .ring, ctx := 0, core := 0, epc := 0, value := 0, held := .completion 0 [] Option.none false (.ring 0) }] }

theorem meets_RingSteps_closing : (((phaseOf { st := .draining, closing := some 1 }).cluster 0).phase 0 0).closing = some 1 ∧
    (ringHeld (phaseOf { st := .draining, closing := some 1 })).engineHeld 0 (.ring 0) = true ∧
    (phaseOf { st := .draining, closing := some 1 }).engineHeld 0 (.ring 0) = false := by decide +kernel

theorem meets_RingSteps_recovery : missing.nextRecovery 0 0 0 0 = some missedPair ∧ missing.zeroFirst 0 0 0 = true ∧ (missing.quad 0).meetings.length < 8 ∧
    ∃ e u w v, (missing.beginRecovery 0 0 0 missedPair).original 0 0 0 tileOf = .ok (e, u) ∧ u.original 0 0 0 tileOf = .ok (w, v) ∧
      (v.meetFlaw (v.meeting 0 0 0 0 0 0 (entMeet ((missing.cluster 0).entry 0 0 0 0)) (command [13, 0x8000000000000040]) e w true)).1 = Option.none :=
  ⟨by decide +kernel, by decide +kernel, by decide +kernel, _, _, _, _, rfl, rfl, by decide +kernel⟩

/-- A draining phase whose west tile is an accumulator tile. -/
def delivering (ds : List Nat) : State := phaseOf { st := .draining, expect := 1, west := [{ tileOf with hdr1 := 0x2000010000 }], delivered := ds }

theorem meets_RingSteps_delivery : tileAcc (0x2000010000 : Word) = true ∧ (0 : Nat) ∉ (((delivering []).cluster 0).phase 0 0).delivered ∧
    (∀ m ∈ (delivering []).meetingsOf 0 0 0, m.west.station ≠ 0 ∨ m.recovery = true) ∧
    ((delivering []).agentWrite ((delivering []).whoAgent (tileHome (0x2000010000 : Word))) 0x8000000000000080 (List.replicate 64 0)).isOk :=
  ⟨by decide, by decide, by decide +kernel, by decide +kernel⟩

/-- A late product of one element for a delivered tile. -/
def lateAt : State := (delivering [0]).modCluster 0 fun c => { c with lateAdds := [⟨0, 0, 0, 0, 0, 0, 0x8000000000000080, 0, ⟨true, 0, 0, 1, 1, [0]⟩⟩] }

theorem meets_RingSteps_late : (∀ b ∈ (lateAt.cluster 0).lateAdds.take 0, b.dst ≠ 0x8000000000000080) ∧ ((lateAt.cluster 0).phase 0 0).c + 1 ≤ ((lateAt.cluster 0).phase 0 0).expect ∧
    (0 : Nat) ∈ ((lateAt.cluster 0).phase 0 0).delivered ∧ cluOfCore 0 = 0 ∧
    ∃ bs u w, lateAt.agentRead agent0 0x8000000000000080 4 = .ok (bs, u) ∧ u.agentWrite agent0 0x8000000000000080 (List.replicate 4 0) = .ok w :=
  ⟨by decide, by decide, by decide, by decide, _, _, _, rfl, rfl⟩

/-- A copy of one row of one byte within own TCM, its record and counter and MISC given. -/
def rowCopy (dst : Nat) (block : List Word := []) : CopyJob := { shadow := [0x8000000000001000, BitVec.ofNat 64 dst, 0x100000001, 0, 0, 0, 0, 0], block, xid := 7, ctx := 0 }

/-- The copy engine of core 0 as given. -/
def copying (e : CopyEngine) : State := (teamed []).modMe fun k => { k with copy := e }

theorem meets_CopySteps : (∃ k m, (copying { running := some { job := rowCopy 0x8000000000002000 } }).moveRows agent0 ((rowCopy 0x8000000000002000).write 0) (rowCopy 0x8000000000002000).shadow (cpyRows (rowCopy 0x8000000000002000).shadow) 0 = (k, m) ∧ m.bad = Option.none) ∧
    (∃ k m b kind, (copying { running := some { job := rowCopy 0x8FFF000000000000 } }).moveRows agent0 ((rowCopy 0x8FFF000000000000).write 0) (rowCopy 0x8FFF000000000000).shadow (cpyRows (rowCopy 0x8FFF000000000000).shadow) 0 = (k, m) ∧
      m.bad = some (b, kind) ∧ b.cause ≠ 0x04) ∧ (copying { queue := [rowCopy 0x8FFF000000000000] }).engineHeld 0 .copy = false ∧
    (copying {}).mayFinish 0 { job := rowCopy 0x8FFF000000000000, status := some 1 } 1 = true ∧ (copying {}).mayFinish 0 { job := rowCopy 0x8FFF000000000000 } 3 = true :=
  ⟨⟨_, _, rfl, by decide +kernel⟩, ⟨_, _, _, _, rfl, rfl, by decide⟩, by decide, by decide, by decide⟩

/-- The module holds a record of the copy engine of core 0. -/
def copyHeld : State := (copying { queue := [rowCopy 0] }).modDie 0 fun d =>
  { d with outstanding := [{ cause := 0x04, agent := .copy, ctx := 0, core := 0, epc := 0, value := 0, held := .completion 0 [] Option.none false .copy }] }

theorem meets_CopySteps_held : copyHeld.engineHeld 0 .copy = true ∧
    (∃ c : CopyRun, (copying { running := some { job := rowCopy 0, status := some 1 } }).me.copy.running = some c ∧ c.status = some 1 ∧
      (copying { running := some { job := rowCopy 0, status := some 1 } }).me.copy.ending = [] ∧ blkRec c.job.block = 0 ∧ blkCnt c.job.block = 0) ∧
    (∃ c : CopyRun, (copying { running := some { job := rowCopy 0 [0x8000000000000000, 0x8000000000000000], status := some 2, stage := 2 } }).me.copy.running = some c ∧ c.stage = 2 ∧
      blkRec c.job.block ≠ 0) ∧
    (∃ c : CopyRun, (copying { running := some { job := rowCopy 0 } }).me.copy.running = some c ∧ c.status = Option.none) ∧
    ∃ c l, (copying { ending := [{ job := rowCopy 0 }] }).me.copy.ending = c :: l :=
  ⟨by decide, ⟨_, rfl, rfl, rfl, rfl, rfl⟩, ⟨_, rfl, rfl, by decide⟩, ⟨_, rfl, rfl⟩, ⟨_, _, rfl⟩⟩

/-- A layer record at 0 of HBM under a leaf that maps its page, and a job of die 0's engine. -/
def pruning (op : Nat) (l : Word) (mem : Memory) : State :=
  (teamed [] mem).modDie 0 fun d => { d with prgQueue := [⟨l, op, 0, 0, 0⟩] }

theorem meets_EngineSteps_regions : SMap.find [(3, (⟨0, 192, 1, true, 1, 0, Option.none⟩ : Region))] 3 = some ⟨0, 192, 1, true, 1, 0, Option.none⟩ ∧
    SMap.find [(3, (⟨0, 192, 1, false, 1, 0, Option.none⟩ : Region))] 3 = some ⟨0, 192, 1, false, 1, 0, Option.none⟩ := by decide

theorem meets_EngineSteps_flaws : (pruning 0 8 []).prgIdle 0 = true ∧
    (∃ w, (pruning 0 8 []).openJob 0 0 8 = .error (4, w)) ∧ (∃ w, (pruning 0 0x8000000000000000 []).openJob 0 0 0x8000000000000000 = .error (1, w)) :=
  ⟨by decide, ⟨_, rfl⟩, ⟨_, rfl⟩⟩

/-- A layer record at 0 of core 0's TCM: a grid of one block on ring 0, its version block given by its two words. -/
def layerRec (head v0 : Nat) (more : List (Nat × Nat) := []) : Memory :=
  words64 ([(tcm0 0, 0x01010000), (tcm0 8, 0x8000000200000000), (tcm0 0x10, 1), (tcm0 0x18, 0x8000), (tcm0 0x40, 1), (tcm0 0x70, head), (tcm0 0x78, v0),
    (tcm0 0x98, 0), (tcm0 0xA0, 192 + 2 ^ 36)] ++ more)

/-- The record opens at the head of a job of the engine. -/
def opened (op head : Nat) : Except (Nat × State) (Lay × State) :=
  (pruning op 0x8000000000000000 (layerRec head (2 ^ 32))).openJob 0 0 0x8000000000000000

/-- A job of the engine over the record ends well, or in a failure of its memory. -/
def ends {α : Type} (r : Except (Nat × State) (Lay × State)) (job : Lay → State → Except State α) (p : α → Bool) : Option Bool :=
  match r with
  | .ok (y, w) => some ((job y w).toOption.any p)
  | .error _ => Option.none

theorem meets_EngineSteps_jobs : ends (opened 0 (0xFFFF * 2 ^ 16 + 2 ^ 32)) Lay.step (·.1.result == 0) = some true ∧
    ends (opened 1 (0xFFFF * 2 ^ 16 + 2 ^ 32)) Lay.draw (fun _ => true) = some true := by decide +kernel

theorem meets_EngineSteps_repack : (match opened 2 (1 * 2 ^ 16 + 2 ^ 32) with
    | .ok (y, w) => decide (lr y.r 0x70 31 16 = y.newest + 1 ∧ (∀ st ∈ y.stations, w.nextMove y st = Option.none) ∧ w.pinned y 0 = [])
    | .error _ => false) = true ∧
    (match opened 2 (0xFFFF * 2 ^ 16 + 2 ^ 32) with | .ok (y, _) => decide (lr y.r 0x70 31 16 ≠ y.newest + 1) | .error _ => false) = true ∧
    (match opened 0 (1 * 2 ^ 16 + 2 ^ 32) with | .ok (y, _) => decide (lr y.r 0x70 31 16 ≠ 0xFFFF) | .error _ => false) = true := by decide +kernel

theorem meets_EngineSteps_switch : ∃ y, (teamed []).layOf 0 0x8000000000000000 (List.replicate 32 0) = some y ∧
    ((teamed []).modDie 0 fun d => { d with repack := some ⟨⟨0x8000000000000000, 2, 0, 0, 0⟩, List.replicate 32 0, some ⟨0, 1, 0⟩⟩ }).prgIdle 0 = false ∧
    (teamed []).prgHeld 0 = false ∧ ((teamed []).shadvNow 0 0 0x8000000000000000).toOption.isSome := ⟨_, rfl, by decide, by decide, by decide⟩

theorem meets_EngineSteps_retire : ((teamed []).modDie 0 fun d => { d with retire := [{ l := 8, version := 0, core := 0 }] }).prgHeld 0 = false ∧
    (∃ n w, ((teamed []).modDie 0 fun d => { d with retire := [{ l := 8, version := 0, core := 0 }] }).openJob 0 0 8 = .error (n, w)) ∧
    (match opened 0 (1 * 2 ^ 16 + 2 ^ 32) with
    | .ok (y, w) => y.stations.all fun st => (w.pinned y st).isEmpty
    | .error _ => false) = true := ⟨by decide, ⟨_, _, rfl⟩, by decide +kernel⟩

/-- What a record that opens gives, with its machine. -/
def openedTo (op head : Nat) (p : Lay → State → Bool) : Bool :=
  match opened op head with
  | .ok (y, w) => p y w
  | .error _ => false

theorem meets_JobEntries : openedTo 0 (1 * 2 ^ 16 + 2 ^ 32) (fun y w => (y.step w).toOption.any (·.1.result == 2)) = true ∧
    openedTo 0 (0xFFFF * 2 ^ 16 + 2 ^ 32) (fun y w =>
      decide (y.passes ≠ [] ∧ SMap.sorted (w.cluster y.clu).entries = true ∧
        (y.ids 0 0 0).1 < 2 ^ 16 ∧ (y.ids 0 0 0).2 < 2 ^ 16 ∧
        ((List.range y.nent).find? fun n => (y.blockKeys n).all fun k => !entValid (y.get (w.cluster y.clu) (y.station 0) k)) = some 0 ∧
        w.freeSlot y (w.cluster y.clu) (y.station 0) = some 0)) = true ∧
    (teamed []).me.journal.replaying = false := by decide +kernel

/-- A record with one sample to draw, its pool at a place, and its cluster's engine. -/
def sampled (pool : Nat) (j : Journal := {}) : Option (Lay × State) :=
  (((pruning 1 0x8000000000000000 (layerRec (0xFFFF * 2 ^ 16 + 2 ^ 32) (2 ^ 32) [(tcm0 8, pool), (tcm0 0x38, 1 + 2 ^ 16 + 2 ^ 32)])).modMe fun k =>
    { k with journal := j }).openJob 0 0 0x8000000000000000).toOption

theorem meets_EngineSteps_draws :
    ((sampled 0x8000000200000000).any fun x => (x.1.draw x.2).toOption.any fun r => r.1.got == 1 && r.2.1.isSome) = true ∧
    ((sampled 0x8000000200000000 { on := true, replay := true, base := 0x8000000000001000, size := 64 }).any fun x =>
      (x.1.draw x.2).toOption.any fun r => r.2.1.isNone) = true ∧
    ((sampled 0x8000000200400000).any fun x => !(x.1.draw x.2).isOk) = true ∧
    ((sampled 0x8000000200000000).any fun x => (x.2.drawOne x.1 0 { seed := 1, p := { c := x.2.cluster x.1.clu } }).2.2 == true) = true ∧
    ((sampled 0x8000000200000000).any fun x => (x.2.drawOne x.1 0 { seed := 1, p := { c := x.2.cluster x.1.clu }, drawn := [0] }).2.2 == false) = true := by
  decide +kernel

theorem meets_EngineSteps_fails : (match (pruning 0 0x8000000000000000 (layerRec (0xFFFF * 2 ^ 16 + 2 ^ 32) (2 ^ 32)
      [(tcm0 8, 0x8000000200400000)])).modCluster 0 (fun c => { c with entries := [(0, BitVec.ofNat 256 (0xFFFF * 2 ^ 48 + 2 ^ 139))] }) |>.openJob 0 0 0x8000000000000000 with
    | .ok (y, w) => !(y.step w).isOk
    | .error _ => false) = true := by decide +kernel

/-! ### What the statements of the steps of links, collectives and reshards assume can be met -/

/-- Link 0 of core 0 with an operation at its head. -/
def linkOp (o : LinkOp) : State := (linked []).modMe fun k => { k with linkOps := [(0, [o])] }

/-- A descriptor of a transfer of eight bytes from 0x40 of own TCM. -/
def putDesc : List Word := [0x8000000000000040, 0x100, 8, 0]

theorem meets_LinkTransfers_put : (linkOp (.put putDesc 0 0 0 Option.none 0)).linkHead 0 0 = some (.put putDesc 0 0 0 Option.none 0, []) ∧
    ((linkOp (.put putDesc 0 0 0 Option.none 0)).resolve agent0 .read 0x8000000000000040 8).isOk ∧ (0 : Nat) ≤ df putDesc 0x10 31 0 ∧
    (∃ bs u, (linkOp (.put putDesc 0 0 0 Option.none 0)).agentRead agent0 0x8000000000000040 8 = .ok (bs, u) ∧ bs ≠ []) ∧
    (linked []).linkHead 0 0 = Option.none ∧ (linked []).linkPaired 0 ((linked []).tidOf 64) = false ∧ (linkOp (.put putDesc 0 0 8 (some 1) 0)).linkHeld 0 0 = false :=
  ⟨by decide +kernel, by decide +kernel, by decide, ⟨_, _, rfl, by decide +kernel⟩, by decide +kernel, by decide +kernel, by decide⟩

/-- A descriptor of a remote buffer of 64-byte slots on link 0. -/
def rbDesc : List Word := [0x100, 0, 64, 0]

theorem meets_LinkTransfers_buffer : (linkOp (.slot rbDesc 0 0x8000000000000040 0 0 0)).linkHead 0 0 = some (.slot rbDesc 0 0x8000000000000040 0 0 0, []) ∧
    (∃ bs u, (linkOp (.slot rbDesc 0 0x8000000000000040 0 0 0)).agentRead agent0 0x8000000000000040 64 = .ok (bs, u) ∧ bs ≠ []) ∧ df rbDesc 0x10 24 0 = 64 ∧
    (linkOp (.ret rbDesc 0 0)).linkHead 0 0 = some (.ret rbDesc 0 0, []) ∧ (linked []).linkUp 0 = true ∧ (teamed []).linkUp 0 = false ∧
    (linked []).linkPaired 0 ((linked []).tidOf 0) = true ∧ (linked []).linkPaired 0 ((linked []).tidOf 64) = false ∧
    (linked []).linkSymmetric 0 = true ∧ ((linked []).modDev fun v => { v with peerPairs := [] }).linkSymmetric 0 = false ∧
    (∃ bs u, (linked []).agentAtom agent0 (BitVec.ofNat 64 (tcmPlace 0 (1 * 32 + 0x18))) 4 (fun b => toBytes 4 ((ofBytes b + 1) % 2 ^ 32)) (sc := some 5) = .ok (bs, u)) ∧
    (∃ bs u, (linked []).agentAtom agent0 (BitVec.ofNat 64 (tcmPlace 0 (1 * 32 + 0x1C))) 4 (fun b => toBytes 4 ((ofBytes b + 1) % 2 ^ 32)) (sc := some 5) = .ok (bs, u)) ∧
    SMap.find [(32, 0 + 1)] (1 * 32) = some (0 + 1) :=
  ⟨by decide +kernel, ⟨_, _, rfl, by decide +kernel⟩, by decide, by decide +kernel, by decide +kernel, by decide +kernel, by decide +kernel, by decide +kernel, by decide +kernel, by decide +kernel,
    ⟨_, _, rfl⟩, ⟨_, _, rfl⟩, by decide⟩

/-- The linked team with a region of die 0's Lake. -/
def laked : State := { linked [] with teams := [(1, { clus := [0], asid := 0, prio := 0, lakeOrg := 0, lakeSize := 1024, entry := 0 })] }

theorem meets_LinkChanges : (linked []).linkUp 0 = true ∧ SMap.find (linked []).teams 2 = Option.none ∧ (linked []).linkPaired 0 0 = false ∧
    peerAddr (BitVec.ofNat 64 (lakePlace 0 0)) = true ∧ peerAddr 0x8000000000000000 = false ∧
    (∃ who u, laked.whoPeer 0 ⟨15, 0, 1, BitVec.ofNat 64 (lakePlace 0 0)⟩ = some who ∧ laked.agentWrite who (BitVec.ofNat 64 (lakePlace 0 0)) (List.replicate 8 0) = .ok u) ∧
    ((linked []).setBar (linkReg 0) 0x103).linkLanes 0 = 3 ∧ 1 &&& 3 = 1 ∧ (linked []).linkUp 11 = false :=
  ⟨by decide +kernel, by decide +kernel, by decide +kernel, by decide +kernel, by decide +kernel, ⟨_, _, rfl, rfl⟩, by decide +kernel, by decide,
    by decide +kernel⟩

/-- A collective of one rank and one FP32 element within own TCM, with a start word or none. -/
def collOf (start thr : Nat) : CollJob :=
  { desc := [0x8000000000000080, 0x80000000000000C0, BitVec.ofNat 64 (1 + 12 * 2 ^ 40), 0, BitVec.ofNat 64 (1 + thr * 2 ^ 32), 0, BitVec.ofNat 64 start, 0]
    ranks := [(0, 0)], tree := [0xFF], ra := 0x8000000000000040, rank := 0, core := 0, ctx := 0 }

/-- Die 0's collective engine with a job. -/
def collHead (j : CollJob) : State := (teamed []).modDie 0 fun d => { d with collQueue := [j] }

theorem meets_CollectiveSteps : (collHead (collOf 0 0)).collHeld 0 = false ∧ (∃ v, (collHead (collOf 0x8000000000000100 1)).collMayStart 0 (collOf 0x8000000000000100 1) = .ok (false, v)) ∧
    (∃ v bs u, (collHead (collOf 0x8000000000000100 0)).collMayStart 0 (collOf 0x8000000000000100 0) = .ok (true, v) ∧
      v.agentRead (v.whoDie 0 0) 0x8000000000000080 4 = .ok (bs, u)) ∧ dtWidth (collEt (collOf 0 0).desc) / 8 * collSrcLen (collOf 0 0).desc = 4 ∧
    (∃ u, (collHead (collOf 0 0)).agentWrite ((collHead (collOf 0 0)).whoDie 0 0) 0x80000000000000C0 (([1] : List Nat).flatMap (toBytes 4)) = .ok u) ∧
    0 + (teamed []).me.waitlim.toNat ≤ ({ teamed [] with now := 2 ^ 64 } : State).now ∧ (teamed []).now < 1 + (teamed []).me.waitlim.toNat :=
  ⟨by decide, ⟨_, rfl⟩, ⟨_, _, _, rfl, rfl⟩, by decide, ⟨_, rfl⟩, by decide +kernel, by decide +kernel⟩

/-- The module holds a record of a die engine. -/
def heldBy (e : Engine) (s : State) : State := s.modDie 0 fun d =>
  { d with outstanding := [{ cause := 0x04, agent := .dieEngine, ctx := 0, core := 0, epc := 0, value := 0, held := .completion 0 [] Option.none false e }] }

theorem meets_CollectiveSteps_end :
    (heldBy (.coll 0) (collHead { collOf 0 0 with closing := some 5 })).engineHeld 0 (.coll 0) = true ∧
    (heldBy (.coll 0) (collHead { collOf 0 0 with closing := some 5 })).collHeld 0 = true ∧
    (collHead { collOf 0 0 with closing := some 5 }).collHeld 0 = false ∧ (collHead { collOf 0 0 with ended := some (2, 0x12, []) }).collHeld 0 = false ∧
    (∃ u, (collHead { collOf 0 0 with ended := some (1, 0, [7]) }).agentWrite ((teamed []).whoDie 0 0) 0x80000000000000C0 (([7] : List Nat).flatMap (toBytes 4)) = .ok u) ∧
    (heldBy (.link 0) (linkOp .closing)).linkHeld 0 0 = true ∧ (linkOp .closing).linkHeld 0 0 = false ∧ (linkOp .closing).me.opsOn 0 = [.closing] :=
  ⟨by decide, by decide, by decide, by decide, ⟨_, rfl⟩, by decide +kernel, by decide +kernel, by decide +kernel⟩

/-- A started pass of core 0. -/
def reshardJob : ReshardJob := { ra := 0x8000000000000040, core := 0, ctx := 0, started := true }

/-- A pass over one element that stands at 0x300 of core 0's TCM on rank 0, at a CURSOR and a COUNT. -/
def resharding (cursor count : Nat) : State := (teamed [] (words64 [(tcm0 0x40, 0x8000000000000080), (tcm0 0x48, 0x8000000000000100),
  (tcm0 0x50, 3 * 256), (tcm0 0x58, cursor), (tcm0 0x60, count), (tcm0 0x80, 2 + 16 + 2 ^ 22 + 2 ^ 32), (tcm0 0x88, 1), (tcm0 0xB8, 0), (tcm0 0xC0, 0x8000000000000200), (tcm0 0xC8, 1),
  (tcm0 0x100, 2 + 16 + 2 ^ 22 + 2 ^ 32), (tcm0 0x108, 1), (tcm0 0x140, 0x8000000000000200), (tcm0 0x148, 1), (tcm0 0x208, 0x8000000000000300)])).modDie 0 fun d =>
    { d with reshardQueue := [reshardJob] }

theorem meets_ReshardSteps_close : ((teamed []).modDie 0 fun d => { d with reshardQueue := [{ reshardJob with closing := true }] }).reshardHeld 0 = false ∧
    ({ reshardJob with closing := true } : ReshardJob).started = true := by decide

theorem meets_ReshardSteps : (resharding 0 1).reshardHeld 0 = false ∧
    (match (resharding 0 1).jobRecord reshardJob with | .ok (p, _) => decide (p.getD 3 0 < p.getD 4 0) | .error _ => false) = true ∧
    (match (resharding 1 1).jobRecord reshardJob with | .ok (p, _) => decide (p.getD 4 0 ≤ p.getD 3 0) | .error _ => false) = true := by decide +kernel

theorem meets_ReshardSteps_region : (match (resharding 0 1).jobRecord reshardJob with
    | .ok (p, z) => (match Reader.layouts (engineReader 0 0) z p with
      | .ok (some (x, y), _, _, u) => (match (reshardPlan x y 0)[0]? with
        | some e => (match u.readRuns (u.whoDie 0 0) (joinRuns (loBytes x.r) ((boxElems e.box).map (x.addr e.src))) with
          | .ok (bs, v) => (y.ranks.getD e.dst (0, 0, 0)).1 == 0 &&
              (v.writeRuns (u.whoDie 0 0) (joinRuns (loBytes x.r) ((boxElems e.box).map (y.addr e.dst))) bs).2.isNone && (reshardPlan x y 0)[1]?.isNone
          | .error _ => false)
        | _ => false)
      | _ => false)
    | .error _ => false) = true := by decide +kernel

theorem meets_LinkTransfers_fails : (linkOp (.put putDesc 0 0 0 Option.none 0)).linkPaired 0 ((linkOp (.put putDesc 0 0 0 Option.none 0)).tidOf 0) = true ∧
    ((linkOp (.put putDesc 0 0 0 Option.none 0)).setBar (linkReg 0 + 8) 0).linkPaired 0 1 = false ∧ min (0 + 8 * 0) 8 - 0 = 0 ∧
    min (0 + 8 * 3) 64 - 0 = 24 ∧ (0 : Nat) + 24 < 64 ∧
    ((linkOp (.slot rbDesc 0 0x8000000000000040 0 0 0)).resolve agent0 .read 0x8000000000000040 64).isOk ∧
    (match (resharding 0 1).jobRecord reshardJob with | .ok (p, _) => decide (reshardJob.flying p = [0]) | .error _ => false) = true ∧
    ({ collOf 0 0 with mark := some false } : CollJob).mark = some false ∧
    (collHead { collOf 0 0 with ended := some (2, 0x05, []) }).collHeld 0 = false := by decide +kernel

/-! ### What the statements of waits, memory and charged faults assume can be met -/

/-- A wait since 0 with a limit. -/
def waitOf (op : WaitOp) (n : Nat) (mark : Option Bool := Option.none) : Wait := { op, word := 0, since := 0, limit := some n, mark }

/-- Context 0 of core 0 waits in an operation since 0 with a limit, its trap handler at 0x200 of own TCM. -/
def waiting (op : WaitOp) (n : Nat) (evl : Bool := false) (mark : Option Bool := Option.none) : State :=
  (((teamed []).modMe fun k => { k with utvec := 0x8000000000000200 }).modCx fun x => { x with wait := some (waitOf op n mark), evl })

theorem meets_WaitSteps : (waiting .wfe 0).cx.wait = some (waitOf .wfe 0) ∧ (waiting .wfe 0).cx.halted = false ∧ (waiting .wfe 0).cx.refused = false ∧
    ((waiting .wfe 0).resumeAt ⟨0, 0⟩ 0).attempt .wfe = .ok Option.none ∧ (∃ t, ((waiting .wfe 0 true).resumeAt ⟨0, 0⟩ 0).attempt .wfe = .ok (some t)) ∧
    (waiting .wfe 0 true).cx.evl = true ∧ (waiting .wfe 0).cx.frame = .none ∧ 0 + 0 ≤ (waiting .wfe 0).now ∧ (waiting .wfe 1).now < 0 + 1 ∧
    utvecOk (waiting .wfe 0).me.utvec = true ∧ (waiting .wfe 0 false (some false)).cx.wait = some (waitOf .wfe 0 (some false)) :=
  ⟨by decide, by decide, by decide, rfl, ⟨_, rfl⟩, by decide, by decide, by decide, by decide, by decide, by decide⟩

theorem meets_WaitSteps_stop : ∃ e, ((waiting (.stream 0 1 0 1 0) 0).resumeAt ⟨0, 0⟩ 0).attempt (.stream 0 1 0 1 0) = .error e := ⟨_, rfl⟩

theorem meets_WaitSteps_stash : ((layer 0 [] [(0x80000002000000A8, 1), (0x80000002000000B0, 5)]).resumeAt ⟨0, 0⟩ 0).attempt (.stash 1 0x8000000200000000) = .ok Option.none ∧
    (waiting (.stash 1 0x8000000200000000) 0 false (some false)).cx.wait = some (waitOf (.stash 1 0x8000000200000000) 0 (some false)) := ⟨rfl, by decide⟩

theorem meets_WaitSteps_spawn : ((waiting .spawn 0).modCx fun x => { x with spawn := some ⟨0, 0, .flying, []⟩ }).cx.spawn = some ⟨0, 0, .flying, []⟩ ∧
    ((waiting .spawn 0).modCx fun x => { x with spawn := some ⟨0, 0, .heldFull, []⟩ }).cx.spawn = some ⟨0, 0, .heldFull, []⟩ ∧
    (waiting .spawn 0).cx.wait = some (waitOf .spawn 0) ∧ 0 + 0 ≤ (waiting .spawn 0).now := by decide

theorem meets_LoadSteps : (withCx fun x => { x with stalled := true }).cx.stalled = true ∧
    (∀ f ∈ (withCx fun x => { x with stalled := true }).dev.fills, ((0 : Nat), (0 : CtxId)) ∉ f.2.members) ∧
    SMap.find [(7, (⟨0, 0, 0, [28], [(0, 0)]⟩ : Fill))] 7 = some ⟨0, 0, 0, [28], [(0, 0)]⟩ ∧ lineOfSector 21 = 3 ∧
    (withCx fun x => { x with refused := true }).cx.refused = true ∧ (withCx fun x => { x with refused := true, refusals := 3 }).bufferFree 0 0 = true ∧
    ((teamed []).linesAt 0 0).length < 8192 := by decide

/-- A slice all of whose fill buffers are busy. -/
def busySlice : State := (teamed []).modDev fun v => { v with fills := (List.range 64).map fun l => (l, ⟨0, 0, 0, [], []⟩) }

theorem meets_LoadSteps_busy : busySlice.bufferFree 0 0 = false := by decide +kernel

/-- The write that `onItsWay` sends. -/
def sent (x : Space) (p : Nat) : PendWrite := { cells := [(p, 1, 0xFF)], space := x }

theorem meets_WriteSteps : (onItsWay (.tcm 0) (tcm0 0)).Inv ∧ (onItsWay (.tcm 0) (tcm0 0)).me.writes[0]? = some (sent (.tcm 0) (tcm0 0)) ∧
    (onItsWay (.tcm 0) (tcm0 0)).me.wsAt (tcm0 0 % 0x80000) = Option.none ∧ (∀ v ∈ (onItsWay (.tcm 0) (tcm0 0)).me.writes.take 0, (sent (.tcm 0) (tcm0 0)).follows v = false) ∧
    (sent (.tcm 0) (tcm0 0)).follows (sent (.tcm 0) (tcm0 1)) = true ∧ (onItsWay (.tcm 0) (tcm0 0)).writeRefused (.tcm 0) [tcm0 0] = Option.none ∧
    (onItsWay (.tcm 0) (tcm0 0x7FFFF)).me.wsAt (tcm0 0x7FFFF % 0x80000) = some (3, 0x5FF) :=
  ⟨by unfold State.Inv; decide, by decide, by decide, by decide, by decide, by decide, by decide⟩

theorem meets_WriteSteps_refused : busySlice.writeRefused (.hbm 0 0 0 0) [0] = some (0, 0) ∧
    ((teamed []).modDev fun v => { v with fills := [(lineKey 0 0, ⟨0, 0, 0, [], []⟩)] }).writeRefused (.hbm 0 0 0 0) [0] = some (0, 0) ∧
    ((teamed []).modDev fun v => { v with fills := [(lineKey 0 0, ⟨0, 0, 0, [], []⟩)] }).bufferFree 0 0 = true := by decide +kernel

theorem meets_WriteSteps_posted : (teamed []).me.writes[(0 : Nat)]? = Option.none ∧
    (((teamed []).modDev fun v => { v with posted := [sent .host (2 ^ 64)] }).dev.posted.filter fun v => v.core == 0)[0 - ((teamed []).me.writes).length]? =
      some (sent .host (2 ^ 64)) ∧ ((teamed []).dev.posted.filter fun v => v.core == 0)[(0 : Nat)]? = Option.none := by decide

theorem meets_SectorSteps : ({ sectors := [(4, ⟨List.replicate 48 1, true, 0, 0⟩)] } : State).Inv ∧
    SMap.find [(4, (⟨List.replicate 48 1, true, 0, 0⟩ : Sector))] 4 = some ⟨List.replicate 48 1, true, 0, 0⟩ ∧
    SMap.find [(4, (⟨[], false, 0, 0⟩ : Sector))] 4 = some ⟨[], false, 0, 0⟩ ∧ placeExists (tcm0 0) = true ∧ placeExists (2 ^ 65) = false :=
  ⟨by unfold State.Inv; decide, by decide, by decide, by decide +kernel, by decide +kernel⟩

/-- A ready context of core 0 with charged faults and crossings, its pc and trap handler as given. -/
def before (charged : List Charged) (crossings : List Crossing) (pc : Word := 0x8000000000000000) : State :=
  ((teamed []).modMe fun k => { k with utvec := 0x8000000000000200 }).modCx fun x => { x with firing := true, charged, crossings, ws := { x.ws with pc } }

/-- A record of context 0 of core 0. -/
def recOf (cause : BitVec 8) : FaultRec := { cause, agent := .copy, ctx := 0, core := 0, epc := 0, value := 0 }

theorem meets_BeforeInstruction : (before [⟨recOf 5, false⟩] []).cx.ready = true ∧ (before [⟨recOf 5, true⟩] []).cx.ready = true ∧
    utvecOk (before [] []).me.utvec = true ∧ (before [] [⟨0, 1⟩]).cx.crossings = ⟨0, 1⟩ :: [] ∧ (before [] [⟨0, 1⟩]).cx.ws.ecause.getLsbD 63 = false ∧
    (before [] []).cx.frame = .none ∧ (before [] []).cx.charged = [] ∧ (before [] [] 2).cx.ready = true ∧ (2 : Word).toNat % 4 ≠ 0 ∧ (8 : Word).toNat % 4 = 0 ∧
    granule (tcmPlace 0 0) ∈ ({ before [] [] with poison := [granule (tcmPlace 0 0)] } : State).poison ∧ (teamed []).cx.ready = false := by decide

/-- A gather of one lane or two of own TCM, with poisoned lanes. -/
def gathering (left : List (Nat × Word)) (bad : List (Nat × Word)) : Gather := ⟨0, 0, 1, 2, 0, 0, left, [], 0, 0, bad⟩

theorem meets_GatherSteps : (∃ v u, (teamed []).gsPerform agent0 (gathering [(0, 0x8000000000000040)] []) (0, 0x8000000000000040) = .ok (v, u)) ∧
    (gathering [(0, 0x8000000000000040)] []).left.find? (fun z => z.1 == 0) = some (0, 0x8000000000000040) ∧
    (gathering [(0, 0x8000000000000040), (1, 0x8000000000000044)] []).left.find? (fun z => z.1 == 1) = some (1, 0x8000000000000044) ∧
    (teamed []).gsFirst 0 (gathering [(0, 0x8000000000000040), (1, 0x8000000000000044)] []) (1, 0x8000000000000044) = false ∧
    (teamed []).gsFirst 0 (gathering [(0, 0x8000000000000040)] [(1, 0)]) (0, 0x8000000000000040) = true :=
  ⟨⟨_, _, rfl⟩, by decide, by decide, by decide, by decide⟩

/-! ### What the statements of records, responses, pre-emption and host accesses assume can be met -/

/-- The module on, its firmware verified. -/
def hosted (s : State) : State := s.modDev fun x => { x with power := .on, boot := .ready }

/-- Die 0 with an unposted record, a queue of 16 slots of its own, and its indices apart by a count. -/
def posting (ahead : Nat) : State := (((((hosted (teamed [])).modDie 0 fun d => { d with faults := [recOf 5] }).setBar (fqReg 0) 0x8000000000000000).setBar
  (fqReg 0 + 8) 4).setBar (fqReg 0 + 0x10) (BitVec.ofNat 64 ahead))

theorem meets_RecordSteps : (posting 16).fqRoom 0 = false ∧ (posting 15).fqRoom 0 = true ∧ ((posting 15).die 0).faults = [recOf 5] ∧ (posting 15).hostUp = true ∧
    (posting 15).Inv ∧ 2 ^ 63 ≤ ((posting 15).bar (fqReg 0)).toNat + 64 * (((posting 15).bar (fqReg 0 + 0x10)).toNat % 2 ^ 32 % 2 ^ (((posting 15).bar (fqReg 0 + 8)).toNat % 32)) ∧
    ((posting 15).bar (fqReg 0)).toNat + 64 * (((posting 15).bar (fqReg 0 + 0x10)).toNat % 2 ^ 32 % 2 ^ (((posting 15).bar (fqReg 0 + 8)).toNat % 32)) + 64 ≤ 2 ^ 64 ∧
    (0x8000000000000000 : Word).getLsbD 63 = true ∧ (posting 15).dev.invalidating = Option.none := by unfold State.Inv; decide +kernel

theorem meets_RecordSteps_walk : ∃ (w : Walk) (f : FaultRec), ({ walks := [w] } : Die).walks = w :: [] ∧ w.posted = Option.none ∧ w.joined = recOf 4 :: [] ∧
    f.coalesced = true ∧ w.asid = f.asid ∧ w.page = pageOf f.addr ∧ (recOf 4).coalesced = false :=
  ⟨⟨0, 0, [recOf 4], Option.none⟩, { recOf 4 with coalesced := true }, rfl, rfl, rfl, rfl, rfl, by decide, rfl⟩

/-- Context 0 of core 0 is suspended by a record of team 1 that is outstanding under number 1. -/
def faulted : State := ((hosted (teamed [])).modDie 0 fun d => { d with outstanding := [{ recOf 5 with agent := .context, tid := 1, seq := 1 }] }).modMe fun k =>
  { k with utvec := 0x8000000000000200 }

theorem meets_ResponseSteps : faulted.hostUp = true ∧ (∀ f ∈ (faulted.die 0).outstanding, f.seq ≠ 2) ∧
    (∃ f m, (faulted.die 0).outstanding = [f] ∧ f.seq = 1 ∧ dieOfCore f.core = 0 ∧ SMap.find faulted.teams f.tid = some m ∧ f.coalesced = false ∧
      f.suspends = true ∧ f.agent = .context ∧ f.held = .nothing ∧ f.frm = false ∧ f.isEntry = false) ∧ SMap.sorted faulted.teams = true ∧
    (∀ k ∈ faulted.dies, k.1 ≠ 0 → k.2.records = [] ∧ k.2.answered = []) ∧ SMap.sorted faulted.dies = true ∧ (faulted.die 0).faults = [] ∧ (faulted.die 0).walks = [] ∧ (faulted.die 0).answered = [] ∧ utvecOk faulted.me.utvec = true :=
  ⟨by decide, by decide, ⟨_, _, rfl, by decide, by decide, rfl, by decide, by decide, by decide, by decide, by decide, by decide⟩, by decide, by decide, by decide, by decide, by decide,
    by decide, by decide⟩

/-- A pre-emption queue in HBM whose one request has bytes at its places, the save area at 49,152. -/
def requesting (l : Memory) (saved : List Saved) : State :=
  let t := (hosted { machine [] l with teams := if saved = [] then [(1, { clus := [0], asid := 0, prio := 0, lakeOrg := 0, lakeSize := 0, entry := 0 })] else [] }).modDev
    fun x => { x with saved }
  ((t.setBar 0x050008 4).setBar 0x050010 1).modDev fun x => { x with tails := [(0x050000, 1)] }

theorem meets_PreemptionSteps : (∃ w, (requesting [(0, 1), (9, 0xC0)] []).headRequest = some w ∧ reqSound w = true ∧ reqRestore w = false ∧
      (SMap.find (requesting [(0, 1), (9, 0xC0)] []).teams ((w.getD 0 0).toNat % 65536)).isSome) ∧
    (∃ w, (requesting [(0, 1), (9, 0x40)] []).headRequest = some w ∧ reqSound w = false) ∧
    (∃ w, (requesting [(0, 1), (2, 1), (9, 0xC0)] []).headRequest = some w ∧ reqSound w = true ∧ reqRestore w = true ∧
      (requesting [(0, 1), (2, 1), (9, 0xC0)] []).savedAt (w.getD 1 0).toNat = Option.none) ∧ (teamed []).headRequest = Option.none ∧
    ({ teamed [] with now := 9 }.modDev fun x => { x with preempts := [⟨1, 49152, 5, 0⟩] } : State).dueSave.isSome ∧ (teamed []).dueSave = Option.none :=
  ⟨⟨_, rfl, by decide, by decide, by decide⟩, ⟨_, rfl, by decide⟩, ⟨_, rfl, by decide, by decide, by decide⟩, by decide, by decide, by decide⟩

/-- Team 1 as saved at 49,152. -/
def savedTeam : Saved := { save := 49152, size := 64, ctr := 0, tid := 1, team := { clus := [0], asid := 0, prio := 0, lakeOrg := 0, lakeSize := 0, entry := 0 }, cores := [], quads := [], clusters := [], mem := [], records := [], colls := [], reshards := [], pushes := [], poison := [] }

/-- A restore request of the saved team, whose header holds this device's format. -/
def restoring : State := requesting [(0, 1), (2, 1), (9, 0xC0), (206158442496, 1), (206158442498, Config.saveFormat)] [savedTeam]

theorem meets_PreemptionSteps_restore : (∃ w, restoring.headRequest = some w ∧ reqSound w = true ∧ reqRestore w = true ∧ (w.getD 1 0).toNat = 49152) ∧
    restoring.savedAt 49152 = some savedTeam ∧ SMap.find restoring.teams 1 = Option.none ∧ (∀ c ∈ savedTeam.team.clus, restoring.clusterFree c = true) ∧
    restoring.lakeFree savedTeam.team.clus savedTeam.team.lakeOrg savedTeam.team.lakeSize = true ∧ restoring.dev.placing = Option.none ∧
    restoring.dev.ckptRunning = Option.none ∧ restoring.hostUp = true ∧ restoring.dev.restores = [] ∧ restoring.headLaunch = Option.none := by
  have h : restoring.devWord 49152 = 1 + 65536 * Config.saveFormat.toNat := by
    have h : restoring.devWord 49152 = ofBytes [1, 0, Config.saveFormat, 0, 0, 0, 0, 0] := rfl
    rw [h]; simp [ofBytes]; omega
  refine ⟨⟨_, rfl, by decide, by decide, by decide⟩, ?_, rfl, by decide, by decide, rfl, rfl, rfl, rfl, by decide⟩
  have f : restoring.dev.saved.find? (·.save == 49152) = some savedTeam := rfl
  have e := Config.saveFormat.isLt
  simp [State.savedAt, h, f, Option.filter, bits, savedTeam, Saved.body]; omega

theorem meets_PreemptionSteps_replay : ({ on := true, replay := true } : Journal).replaying = true ∧ (teamed []).replayReady 0 = false ∧
    0 + (0 : Word).toNat ≤ (teamed []).now ∧ (teamed []).now < 0 + (5 : Word).toNat := by decide

theorem meets_HostMemorySteps : (hosted (teamed [])).hostUp = true ∧ ((hosted (teamed [])).bar 0x070000).toNat + (0 + 8) ≤ 4 * dieSize ∧
    0 + 8 ≤ 2 ^ (hosted (teamed [])).dev.bar2Log ∧ 2 ^ (hosted (teamed [])).dev.bar2Log < 2 ^ 30 - 7 + 8 ∧
    (hosted (teamed [])).devPoisoned ((hosted (teamed [])).bar 0x070000).toNat 8 false = false ∧ (hosted (teamed [])).devPoisoned ((hosted (teamed [])).bar 0x070000).toNat 8 true = false ∧
    (hosted (teamed [])).journalBarred 0 8 = false ∧ ((hosted (teamed [])).bar 0x070000).toNat % 8 = 0 ∧ (1 : Nat) % 8 ≠ 0 ∧ [(1 : Byte)].length ≠ 4 ∧ [(1 : Byte)].length ≠ 8 ∧
    4 * dieSize < 4 * dieSize - 7 + 8 ∧ (List.replicate 4 (0 : Byte)).length = 4 ∧ (List.replicate 8 (0 : Byte)).length = 8 := by decide +kernel

theorem meets_HostMemorySteps_not : ((teamed []).modDev fun x => { x with boot := .recovery }).hostUp = false ∧
    ({ hosted (teamed []) with poison := [0] } : State).devPoisoned 0 8 false = true := by decide +kernel

theorem meets_HostSteps : barMask 8 = some 0xFFFF ∧ (∀ d, d < 4 → 8 ≠ fqReg d + 0x30) ∧ (hosted (teamed [])).hostUp = true ∧
    ((hosted (teamed [])).bar (fqReg 3 + 0x28)).toNat / 2 ^ 16 % 8 = (0 : Fin 5).val ∧ 5 ≤ (BitVec.ofNat 64 (7 * 2 ^ 16) : Word).toNat / 2 ^ 16 % 8 ∧
    ((teamed []).modDev fun x => { x with boot := .recovery }).dev.boot = .recovery := by decide +kernel

/-- The debugger may act on core 0, whose context 0 is halted where asked. -/
def debugging (halted : Bool) : State := ((hosted (teamed [])).modDev fun x => { x with debug := .invasive }).modCx fun x => { x with halted, firing := true }

theorem meets_HostSteps_debug : (debugging false).dev.debug = .invasive ∧ (debugging false).dev.power = .on ∧ (debugging true).cx.halted = true ∧
    (debugging true).cx.firing = true ∧ (debugging true).debugRuns 0 .read 8 8 = Option.none ∧
    (∃ q, (debugging true).debugRuns 0 .read 0x8000000000000040 8 = some [q]) ∧ (∃ q, (debugging true).debugRuns 0 .write 0x8000000000000040 (List.replicate 8 (0 : Byte)).length = some [q]) ∧
    (teamed []).dev.debug ≠ .invasive :=
  ⟨by decide, by decide, by decide, by decide, by decide, ⟨_, rfl⟩, ⟨_, rfl⟩, by decide⟩

/-! ### What the statements of launches, power, security and checkpoints assume can be met -/

/-- A small linked image for a team of one cluster at address 0 of address space 0, whose root table stands at 4,096; the launch
queue of that space, at 8,192, holds one launch of it. -/
def imaged : Memory := ([(4096, 0x01), (4097, 0x10), (0, 0x41), (1, 0x50), (2, 0x4F), (3, 0x1A), (4, 1), (6, 128), (8, 1), (0x0C, 1), (0x60, 128)] : Memory).foldl
  (fun m x => Memory.write m (paPlace x.1) x.2) []

/-- The module with a launch in the queue of address space 0. -/
def launchable (mem : Memory) (asv : Bool) : State :=
  (((hosted { now := 0, mem }).setBar 0x010000 8192).setBar 0x010008 4).setBar 0x010010 1 |>.setBar 0x020000 (if asv then 0x8000000000001000 else 0) |>.modDev fun x => { x with tails := [(0x010000, 1)] }

/-- A placement of that launch on a cluster, overtaken or not. -/
def placing (clus : List Nat) (o : Option Nat) : Placing := ⟨0, 0, 0, clus, 0, o⟩

/-- The module with a placement under way. -/
def placed (s : State) (clus : List Nat) (o : Option Nat) : State := (hosted s).modDev fun x => { x with placing := some (placing clus o) }

theorem meets_LaunchSteps_serve : (launchable imaged true).headLaunch = some (0, 0) ∧ (launchable imaged true).dev.placing = Option.none ∧
    (launchable imaged true).mayPlace = true ∧ (launchable imaged true).hostUp = true ∧ (launchable imaged true).dev.restores = [] ∧ ((List.range 128).filter [0].contains) = [0] ∧
    (launchable imaged true).launchFlaw (wordsOf ((launchable imaged true).devRead ((launchable imaged true).lqEntry 0 0) 64)) [0] = Option.none ∧
    (launchable imaged true).imgTeam ⟨0, 0⟩ = 1 ∧ (∀ c ∈ [0], c ∉ (launchable imaged true).dev.failedClusters) ∧
    (launchable imaged false).headLaunch = some (0, 0) ∧ (launchable imaged false).mayPlace = true ∧
    (launchable imaged false).launchFlaw (wordsOf ((launchable imaged false).devRead ((launchable imaged false).lqEntry 0 0) 64)) [0] = some 8 := by decide +kernel

theorem meets_LaunchSteps_doorbell : (launchable imaged true).queueSize (lqReg 0) = some 4 ∧ 2 ^ 4 < (launchable imaged true).queueAhead (lqReg 0) 17 ∧
    (launchable imaged true).queueAhead (lqReg 0) 16 ≤ 2 ^ 4 ∧ ((hosted {}).modDev fun x => { x with boot := .booting }).dev.boot = .booting ∧ (15 : Nat) < 16 := by decide +kernel

theorem meets_LaunchSteps_place : (placed (launchable imaged true) [0] (some 0)).mayPlace = true ∧ (∀ e, (placing [0] (some 0)).overtaken = some e → (placed (launchable imaged true) [0] (some 0)).now ≤ e + 2048) ∧
    (placed (launchable imaged true) [0] (some 0)).allReserved (placing [0] (some 0)) = true ∧ (∀ c ∈ [0], ((placed (launchable imaged true) [0] (some 0)).die (dieOfClu c)).power ≠ .parked) ∧
    (placed (teamed []) [0] Option.none).allReserved (placing [0] Option.none) = false ∧ 0 + 2048 ≤ ({ teamed [] with now := 2048 } : State).now := by
  refine ⟨by decide +kernel, ?_, by decide +kernel, by decide +kernel, by decide +kernel, by decide⟩
  intro e h; simp [placing] at h; subst h; decide

theorem meets_LaunchSteps_end : (∃ m, SMap.find (teamed []).teams 1 = some m ∧ (∀ g ∈ m.cores, (teamed []).coreQuiet g = true) ∧ (∀ c ∈ m.clus, ((teamed []).cluster c).stuck = []) ∧
      (teamed []).restQuiet 1 m = true ∧ 0 ∈ m.cores) ∧ (teamed []).saveDue 1 = false ∧ SMap.sorted (teamed []).teams = true ∧
    ((teamed []).modCx fun x => { x with firing := true }).coreQuiet 0 = false :=
  ⟨⟨_, rfl, by decide +kernel, by decide +kernel, by decide +kernel, by decide +kernel⟩, by decide, by decide, by decide⟩

/-- Die 0 as given, at a time. -/
def dieAt (now : Nat) (d : Die) : State := { (hosted {}).modDie 0 fun _ => d with now }

theorem meets_DieSteps : ((dieAt 940 {}).die 0).forecastAt + 940 ≤ (dieAt 940 {}).now ∧ (dieAt 939 {}).now < ((dieAt 939 {}).die 0).forecastAt + 940 ∧
    (dieAt 3760 { forecastFirst := some 0 }).forecastOld 0 = true ∧ (dieAt 3759 { forecastFirst := some 0 }).forecastOld 0 = false ∧ ({} : Die).power ≠ .parked ∧
    ((dieAt 0 { power := .parked }).die 0).power = .parked ∧ 240 ≤ 600 ∧ 600 ≤ 940 ∧ 600 % 20 = 0 ∧ ((dieAt 0 { thermal := true }).die 0).thermal = true ∧
    400 ≤ (dieAt 0 {}).dev.powerCap ∧ (dieAt 940000 {}).dieEmpty 0 = true ∧ ((dieAt 940000 {}).die 0).idleSince + 940000 ≤ (dieAt 940000 {}).now ∧ (teamed []).dieEmpty 0 = false ∧
    (placed (dieAt 0 { power := .parked }) [0] Option.none).dev.placing = some (placing [0] Option.none) ∧ (∃ c ∈ (placing [0] Option.none).chosen, dieOfClu c = 0) ∧
    (hosted {}).dev.power = .on := by decide +kernel

theorem meets_DieSteps_limits : ({ hosted {} with now := 940000 } : State).dev.windowAt + 940000 ≤ 940000 ∧ (hosted {}).dev.windowAt + 940000 > (hosted {}).now ∧
    (hosted {}).dev.powerCap < 1601 ∧ 95 ≤ ((hosted {}).modDev fun x => { x with celsius := [95, 0, 0, 0] }).dev.celsius.getD 0 0 ∧ (hosted {}).tempsOk [89, 0, 0, 0] = true ∧
    (hosted {}).tempsOk [95, 0, 0, 0] = false ∧ (dieAt 0 { thermal := true }).tempsOk [109, 0, 0, 0] = true ∧ (hosted {}).tempsOk [] = false ∧
    (1600 : Nat) ≤ 1600 ∧ ((hosted {}).modDev fun x => { x with powerCap := 400 }).dev.powerCap < 401 := by decide +kernel

theorem meets_ModulePower : (hosted {}).dev.power = .on ∧ (hosted {}).dev.power ≠ .off ∧ ((hosted {}).modDev fun x => { x with power := .off }).dev.power = .off ∧ ([30, 30, 30, 30] : List Nat).length = 4 ∧
    (hosted {}).mayRetain = true ∧ (teamed []).mayRetain = false ∧ ((hosted {}).modDev fun x => { x with power := .retain, boot := .retain }).dev.boot = .retain := by decide

theorem meets_SecuritySteps : (hosted {}).mayReset .powerOn = false ∧ ((hosted {}).modDev fun x => { x with power := .off }).mayReset .powerOn = true ∧ (hosted {}).mayReset .perst = true ∧
    ((hosted {}).modDev fun x => { x with power := .retain, boot := .booting }).mayReset .leaveRetain = true := by decide

/-- The tokens and firmware that the statement of a reset tells apart: whatever the verification answers, one of the two cases is met. -/
theorem meets_SecuritySteps_cases (token : List Byte) (e : BringUp) : (unlockLevel token = Option.none ∨ ∃ l, unlockLevel token = some l) ∧
    (firmwareOf e = Option.none ∨ (firmwareOf e).isSome) ∧ (tokenValid token 1 1 = true ∨ tokenValid token 1 1 = false) ∧
    (Config.spdmExchange (identityKey .prod) token = Option.none ∨ ∃ a k, Config.spdmExchange (identityKey .prod) token = some (a, k)) :=
  ⟨by cases unlockLevel token <;> simp, by cases firmwareOf e <;> simp, by cases tokenValid token 1 1 <;> simp,
    by rcases Config.spdmExchange (identityKey .prod) token with _ | ⟨a, k⟩ <;> simp⟩

/-- The module with all twelve links up to one peer and a TARGET and RESTORE of CKCTRL. -/
def checkpointing (ctl : Word) : State := (List.range 12).foldl (fun s l => s.setBar (linkReg l) 0x10F) ((hosted {}).setBar 0x080008 ctl)

theorem meets_CheckpointSteps : (hosted (teamed [])).hostUp = true ∧ (hosted (teamed [])).dev.ckptRunning = Option.none ∧ (hosted (teamed [])).teams ≠ [] ∧ (checkpointing 0).teams = [] ∧
    (checkpointing 0).dev.placing = Option.none ∧ 2 ≤ ((checkpointing 4).bar 0x080008).toNat / 2 % 4 ∧ ((checkpointing 2).bar 0x080008).toNat / 2 % 4 = 1 ∧ (checkpointing 2).mirrorLinks = true ∧
    (hosted {}).mirrorLinks = false ∧ ((checkpointing 8).bar 0x080008).toNat / 8 % 2 = 1 ∧ ((checkpointing 16).bar 0x080008).toNat / 16 % 2 = 1 ∧
    ((hosted {}).modDev fun x => { x with ckptRunning := some 0 }).dev.ckptRunning.isSome := by decide +kernel

/-! ### What the clauses about frames, releases, dropped requests and corners assume can be met -/

theorem meets_StepRunsDecodedWord_plain : isPlainWord 0x04221800 = true ∧ (issuing 0x04221800).soft = [] := by decide

theorem meets_StepFollowsAgenda_links : (∃ s u : State, s.agenda = [.dropIn (.bar0RegisterWrite 8 1) 0] ∧
      (Instr.bar0RegisterWrite 8 1).wf = true ∧ (Instr.bar0RegisterWrite 8 1).isWord = false ∧
      exec (.bar0RegisterWrite 8 1) (({ s with agenda := [] } : State).modDev fun v => { v with linkDrop := some 0 }).note = .next u) ∧
    (∃ s : State, s.agenda = [.peerPairing 11 0]) ∧ 11 < 12 ∧
    (({} : State).setCore 0 { round := some ⟨some 1, 1, Option.none⟩ }).me.journal.on = false :=
  ⟨⟨{ agenda := [.dropIn (.bar0RegisterWrite 8 1) 0] }, _, rfl, by decide, by decide, rfl⟩, ⟨{ agenda := [.peerPairing 11 0] }, rfl⟩, by decide, by decide⟩

/-- A machine that issues a word of a repeat frame next. -/
def framing : State := (framed [0x80000000] 2 1 0).modCx fun x => { x with firing := true }

theorem meets_FrameWordIssues : framing.agenda = [] ∧ (framing.elapse 1).pickCtx (framing.elapse 1).focus = some 0 ∧
    (let x := (framing.elapse 1).ctx ⟨(framing.elapse 1).focus, 0⟩
    x.charged = [] ∧ x.crossings = [] ∧ x.frame.isSome ∧ (x.frame.map fun f => (f.words[f.pos]?.isSome, f.pass)) = some (true, 1)) ∧
    (decodeWord 0x80000000).isOk := by decide

/-- An object of own TCM at 0 whose COUNT is 1, its RECORD given; register 2 holds 1. -/
def counted (w0 : Nat) : State := teamed [0, 0x8000000000000000, 1] (words64 [(tcm0 0, 1), (tcm0 0x10, w0), (tcm0 0x18, 7)])

theorem meets_WideAtomicResults_push : (counted 0x100).Inv ∧ tcmValue (counted 0x100) 0 8 = 1 ∧
    tcmValue (counted 0x100) 0 8 = ((counted 0x100).getW 2).toNat % 2 ^ (8 * 8) ∧ PlainTcm (counted 0x100) (0 + 16) 16 ∧
    tcmValue (counted 0x100) (0 + 16) 8 / 2 ^ 8 % 2 ^ 13 = 1 ∧ Team.hasClu ((counted 0x100).teamOf 0) (1 / 64) = true ∧
    (∀ w ∈ [0x40, 0x200000, 64 * 256], ¬ (tcmValue (counted w) (0 + 16) 8 / 2 ^ 21 % 2 ^ 11 = 0 ∧ tcmValue (counted w) (0 + 16) 8 / 2 ^ 6 % 4 = 0 ∧
      Team.hasClu ((counted w).teamOf 0) (tcmValue (counted w) (0 + 16) 8 / 2 ^ 8 % 2 ^ 13 / 64) = true)) := by
  (with_reducible and_intros) <;> first | exact plain_tcm (by decide +kernel) | (unfold State.Inv; decide +kernel) | decide +kernel

theorem meets_ReleasePerforms_below : (∃ w ∈ ((onItsWay .host (2 ^ 64)).releaseBy 0 3).me.writes, w.owed = true) ∧
    (∀ w ∈ ((tcmAt 0).releaseBy 0 3).me.writes, w.owed = false) ∧ ownWrites (onItsWay .host (2 ^ 64)).me ≠ [] ∧
    HostPosted (onItsWay .host (2 ^ 64)) ∧ (4 : Nat) ≤ 4 := by
  (with_reducible and_intros) <;> first | (unfold HostPosted; decide) | decide

/-- The first word of a resumption, FP set, with FRM, PASS and POS of EVAL. -/
def resuming (pass pos : Nat) : State := (machine [] [(0x8000000100000007, 0x80)]).modCx fun x =>
  { x with resume := true, fp := true, ws := { x.ws with eval := BitVec.ofNat 64 (2 ^ 63 + pass * 2 ^ 57 + pos * 2 ^ 53) } }

theorem meets_RepeatResults_resumes : (resuming 1 0).cx.resume = true ∧ (resuming 1 0).cx.fp = true ∧ (resuming 1 0).cx.ws.eval.getLsbD 63 = true ∧
    (resuming 1 0).cx.ws.eval.toNat / 2 ^ 57 % 64 ≤ (1 : Fin 64).val ∧ (resuming 1 0).cx.ws.eval.toNat / 2 ^ 53 % 16 < 1 ∧
    (1 : Fin 64).val < (resuming 2 0).cx.ws.eval.toNat / 2 ^ 57 % 64 ∧ 1 ≤ (resuming 1 1).cx.ws.eval.toNat / 2 ^ 53 % 16 ∧
    (resuming 1 0).cx.ws.pc.toNat + 4 * 1 ≤ 0x800000000007FFFC ∧ (resuming 1 0).capturePoison 0 0x8000000000000000 1 = .none ∧
    frameBreach 0 0 0 0 2 [(resuming 1 0).fetchWord 0 0x8000000000000004 true] = .none := by decide

theorem meets_BitWriteResults_full : (bitsHeld 0x80000039).cx.ws.bsn.getLsbD 31 = true ∧ (bitsHeld 0x80000039).cx.ws.bsn.toNat % 2 ^ 31 = 57 ∧
    (bitsHeld 0x80000040).cx.ws.bsn.toNat % 2 ^ 31 = 64 ∧ (bitsHeld 0x80000039).Inv ∧
    PlainTcm (bitsHeld 0x80000039) (bitsHeld 0x80000039).cx.ws.bsp.toNat 8 := by
  (with_reducible and_intros) <;> first | exact plain_tcm (by decide +kernel) | (unfold State.Inv; decide +kernel) | decide +kernel

theorem meets_BitStreamChecks : 64 < (bitsHeld 65).cx.ws.bsn.toNat % 2 ^ 7 ∧ (bitsHeld 0x80).cx.ws.bsn.toNat / 2 ^ 7 % 2 ^ 24 ≠ 0 ∧
    ((tcmAt 0).modWs fun w => { w with bsp := 4 }).cx.ws.bsp.toNat % 8 ≠ 0 ∧ (bitsHeld 0x80000041).cx.ws.bsn.getLsbD 31 = true ∧
    64 < (bitsHeld 0x80000041).cx.ws.bsn.toNat % 2 ^ 7 ∧ ((tcmAt 4).getW 1).toNat % 8 ≠ 0 ∧
    ((machine [0, 0x8000000000080000]).getW 1).toNat % 8 = 0 ∧ 0x8000000000080000 ≤ ((machine [0, 0x8000000000080000]).getW 1).toNat ∧
    ((machine []).getW 1).toNat < 0x8000000000000000 := by decide

theorem meets_CountersApart : CountersApart (tcmAt 8) := by unfold CountersApart; decide

theorem meets_LongAccumulatorOffers_lost : (∃ m e, fp64.val 0x0000000000000001 = .num false m e ∧ e < -544 ∧ m % 2 ^ (-544 - e).toNat ≠ 0) ∧
    (2 ^ 1087 : Int) ≤ signedLow (2 ^ 1087 - 1) 1088 + (1 : Nat) ∧ signedLow (2 ^ 1087) 1088 - (1 : Nat) < -(2 ^ 1087 : Int) :=
  ⟨⟨_, _, rfl, by decide, by decide +kernel⟩, by decide +kernel, by decide +kernel⟩

theorem meets_LongAccumulatorRounds_flushed : (let r := fp32.round 0 (decide (signedLow 1 1088 < 0)) (signedLow 1 1088).natAbs (-544)
    signedLow 1 1088 ≠ 0 ∧ r.bits % 2 ^ (fp32.ew + fp32.fw) = 0 ∧ r.flags.nx = true) ∧ CountersApart (machine []) := by
  refine ⟨by decide +kernel, ?_⟩; unfold CountersApart; decide

theorem meets_TaskWords_malformed : (∃ w0 w1 t, taskAt.readTask 1 = .ok (w0, w1, t) ∧ taskOk w0 = true) ∧
    (∃ w0 w1 t, (teamed [0, 0x8000000000000010] [(0x8000000100000010, 0x40)]).readTask 1 = .ok (w0, w1, t) ∧ taskOk w0 = false) ∧
    ∃ w0 w1 t, (teamed [0, 0x8000000000000010] [(0x8000000100000012, 1)]).readTask 1 = .ok (w0, w1, t) ∧ taskOk w0 = true ∧
      (teamed []).sameTeam 0 (taskCore w0) = false :=
  ⟨⟨_, _, _, rfl, by decide⟩, ⟨_, _, _, rfl, by decide⟩, _, _, _, rfl, by decide, by decide⟩

/-- Context 0 of core 0 is held until what it has released is performed. -/
def owing : State := (((onItsWay .host (2 ^ 64)).releaseBy 0 0).modCx fun x => { x with stalled := true, owing := true })

theorem meets_LoadSteps_owing : owing.cx.stalled = true ∧ owing.cx.owing = true ∧ (∃ w ∈ (owing.core 0).writes, w.owed = true) ∧
    ({ owing.cx with owing := false } : Context).owing = false := by decide

theorem meets_WaitSteps_marks : (∃ n, (waitOf .wfe 0).limit = some n ∧ (waitOf .wfe 0).since + n ≤ (waiting .wfe 0).now) ∧
    (waitOf .wfe 0).mark = Option.none ∧ (∀ d : CtxId, d ≠ 0 → ((waiting .wfe 0).ctx ⟨0, d⟩).gather = .none) ∧
    (waiting .wfe 0).waitVal .wfe = (0 : Word) ∧ (crowded.core (taskCore 0x100)).dequeCap ≤ (crowded.core (taskCore 0x100)).deque.length ∧
    ((spawned .flying).core (taskCore 0x100)).deque.length < ((spawned .flying).core (taskCore 0x100)).dequeCap :=
  ⟨⟨0, by decide, by decide⟩, by decide, by decide, rfl, by decide, by decide⟩

theorem meets_WriteSteps_reaches : HostPosted ((teamed []).modDev fun v => { v with posted := [sent .host (2 ^ 64)] }) := by
  unfold HostPosted; decide

/-- Die 0 is parked. -/
def parked : State := (debugging true).modDie 0 fun d => { d with power := .parked }

theorem meets_HostSteps_parked : ((debugging true).die (dieOfCore 0)).power ≠ .parked ∧ (parked.die (dieOfCore 0)).power = .parked ∧
    parked.dev.debug = .invasive := by decide

theorem meets_ModulePower_retain : ((hosted {}).modDev fun x => { x with power := .retain }).tempsOk [200, 0, 0, 0] = true ∧
    ((hosted {}).modDev fun x => { x with power := .retain }).dev.power ≠ .off ∧ (95 : Nat) ≤ 109 ∧ (109 : Nat) < 110 ∧ (110 : Nat) ≤ 110 := by decide

theorem meets_CheckpointSteps_busy : ((hosted (teamed [])).setBar 0x080008 2).teams ≠ [] ∧ (((hosted (teamed [])).setBar 0x080008 2).bar 0x080008).toNat / 2 % 4 = 1 ∧
    (((hosted (teamed [])).setBar 0x080008 8).bar 0x080008).toNat / 2 % 4 = 0 ∧ (((hosted (teamed [])).setBar 0x080008 8).bar 0x080008).toNat / 8 % 2 = 1 ∧
    (checkpointing 16).Inv ∧ (ckIndex (tcm0 0)).isSome ∧ (ckIndex (hostPlace 0)).isNone ∧ (checkpointing 16).teams = [] ∧ (checkpointing 16).mirrorLinks = true := by
  (with_reducible and_intros) <;> first | (unfold State.Inv; decide +kernel) | decide +kernel

theorem meets_PreemptionSteps_failed : restoring.dev.failedClusters = [] ∧ savedTeam.team.clus ≠ [] ∧
    (∃ c ∈ savedTeam.team.clus, c ∈ (restoring.modDev fun v => { v with failedClusters := savedTeam.team.clus }).dev.failedClusters) := by
  refine ⟨rfl, by decide, ?_⟩; decide

/-! ### Words that are no instruction, and steps whose results stand in the spec -/

/-- The zero word, majors without an instruction, a reserved bit that is set (03 R54, R61, R63). -/
theorem test_refused_words : refuses [0, 0x03FFFFFF, 0xA4000000, 0xD0000000, 0xFFFFFFFF, 0xB4010200, 0xB4012000] = true := by decide

/-- Words that the spec prints (06, 08, 11, 12, 16, 17, 18, 20, 21). -/
theorem test_printed_words : reads [(0x2CA26000, .ldD 5 2 0), (0x74A98101, .cbget 5 2 3 2), (0x78401003, .bsget 2 3), (0x78010000, .bsinit 1 0),
    (0xAC060044, .spawn 6 4), (0xB0620041, .barArrw 3 2 1), (0xB0642862, .obarArr 3 4 5 2), (0xB0041882, .obarWait 4 3 2),
    (0xB405308A, .rphase 5 6 1 2), (0xB9490000, .cwait 10 9), (0xBD044030, .vgath 4 2 4 0 0 6), (0xC4822820, .ltuse 4 2 5),
    (0xC10148E1, .unstash 8 1 9 1), (0xCCA60021, .pmrdSlice 5 6), (0xC8A900E0, .rsstat 5 9), (0xA8044004, .send 4 8 4)] = true := by decide

/-- What holds of the next state of an instruction. -/
noncomputable def after (i : Instr) (s : State) (p : State → Bool) : Bool :=
  match exec i s with
  | .next t => p t
  | _ => false

/-- The example of 08 R157: `bsget w2, 3` after `bsinit w1, 0`. -/
theorem test_bsget_refills : after (.bsget 2 3) ((machine [0, 0x8000000000004000] (words64 [(tcm0 0x4000, 0x017E3CB5)])).modWs fun w => { w with bsp := 0x4000 })
    (fun t => t.getW 2 == 5 && t.cx.ws.bsb == 0x2FC796 && t.cx.ws.bsn.toNat % 128 == 61 && t.cx.ws.bsp == 0x4008) = true := by decide +kernel

/-- The example of 02 R49 at its fourth step: −1.0 is offered; then the round-out of 08 R161 of what is left. -/
theorem test_lasub_keeps_low_term : after (.lasubD 1 6) (machine [0, 0x8000000000004000, 0, 0, 0, 0, 0x3FF0000000000000]
    (words64 [(tcm0 0x4000, 0x0000100000000000), (tcm0 0x4040, 0x0000000100000000)]))
    (fun t => tcmValue t 0x4000 8 == 0x0000100000000000 && tcmValue t 0x4040 8 == 0) = true := by decide +kernel

theorem test_larnd_of_low_term : after (.larndD 7 1) (machine [0, 0x8000000000004000] (words64 [(tcm0 0x4000, 0x0000100000000000)]))
    (fun t => t.getW 7 == 0x20B0000000000000) = true := by decide +kernel

/-- The examples of 02 R45: the pairwise tree keeps two terms of 2^−24 in lanes 2 and 3, and drops them in lanes 1 and 2. -/
theorem test_vfrsum_tree : after (.vfrsum 1 2 0 12) ((machine []).modWs fun w => { w with v := w.v.set 2 (BitVec.ofNat 512 (0x3F800000 + 0x33800000 * 2 ^ 64 + 0x33800000 * 2 ^ 96)) })
    (fun t => lane t.cx.ws.v[(1 : VReg)] 32 0 == 0x3F800001 && t.cx.ws.cflags == 0) = true := by decide +kernel

theorem test_vfrsum_drops : after (.vfrsum 1 2 0 12) ((machine []).modWs fun w => { w with v := w.v.set 2 (BitVec.ofNat 512 (0x3F800000 + 0x33800000 * 2 ^ 32 + 0x33800000 * 2 ^ 64)) })
    (fun t => lane t.cx.ws.v[(1 : VReg)] 32 0 == 0x3F800000) = true := by decide +kernel

/-- 16 R294: an arrival beyond what the phase expects sets OVR and traps with the low word's EVAL. -/
theorem test_obar_overflow : after (.obarArr 3 4 5 2) ((machine [0, 0, 0, 0, 0x8000000000001000, 3] (words64 [(tcm0 0x1000, 0x00000004005E0060)])).modMe fun k => { k with utvec := 0x8000000000000200 })
    (fun t => t.cx.ws.ecause == 0x800000000000000C && tcmValue t 0x1000 8 == 0x00000014005E0060) = true := by decide +kernel

/-- The record of the example of 20 R353. -/
theorem test_record_words : (({ tid := 0x12, cause := 4, agent := .context, ctx := 1, core := 64, coalesced := true, asid := 3, seq := 7, epc := 0x8000000000000124, value := 0x10000000C000, addr := 0x10000000C000, kind := .read, word := 0x2CA26000, nwait := 2 } : FaultRec).words.take 5) =
    [0x0012040408130007, 0x8000000000000124, 0x10000000C000, 0x10000000C000, 0x000100002CA26000] := by decide

/-- 06 R101: the quotient of the most negative number and −1, and of a division by 0. -/
theorem test_div_corners : after (.div 1 2 3) (machine [0, 0, 0x8000000000000000, 0xFFFFFFFFFFFFFFFF]) (fun t => t.getW 1 == 0x8000000000000000) = true ∧
    after (.div 1 2 0) (machine [0, 0, 7]) (fun t => t.getW 1 == 0xFFFFFFFFFFFFFFFF) = true := by decide +kernel

/-- A step fetches and runs the word at the pc (01 R12), and the zero word is ILLEGAL (03 R63). -/
theorem test_step_runs : (match step (issuing 0x04221800) with | .next t => (t.ctx ⟨t.focus, 1⟩).ws.pc == 0x8000000000000004 | _ => false) = true ∧
    (match step (issuing 0) with | .next t => (t.ctx ⟨t.focus, 1⟩).suspended && (t.ctx ⟨t.focus, 1⟩).ws.ecause == 1 | _ => false) = true := by decide +kernel

end Sys2Proof.Tests
end

section
/-! PROOFS. Rounding gives a representable number back (02 R34, R35). -/

namespace Sys2Proof.NumberFormats

open Sys2Proof.Machine
open Sys2Proof.Says hiding none

/-! ### Rounding a representable number (02 R34, R35) -/

/-- A magnitude that is already a multiple of the quantum loses nothing. -/
theorem quantum_self (mode : Nat) (neg : Bool) (m : Nat) (e : Int) : quantum mode neg m e e = (m, false) := by
  simp [quantum]

/-- Where the quantum is the number's own exponent and the pattern stays below infinity, rounding only places the magnitude. -/
theorem roundNum_of_quantum {f : Fmt} {mode : Nat} {neg : Bool} {m : Nat} {e : Int} {k : Nat}
    (hq : (if e + (Nat.log2 m : Int) < f.emin then f.emin else e + (Nat.log2 m : Int)) - f.fw = e)
    (he : e = f.emin - f.fw + k) (hb : k * 2 ^ f.fw + m < f.inf) :
    f.roundNum mode neg m e = ⟨f.signed neg (k * 2 ^ f.fw + m), {}, false⟩ := by
  have hk : (e - (f.emin - f.fw)).toNat = k := by omega
  simp [Fmt.roundNum, hq, quantum_self, hk, Nat.not_le.mpr hb]

/-- A subnormal magnitude is rounded to itself. -/
theorem roundNum_subnormal (f : Fmt) (mode : Nat) (neg : Bool) {m : Nat} (h0 : m ≠ 0) (hm : m < 2 ^ f.fw) (hi : 2 ^ f.fw ≤ f.inf) :
    f.roundNum mode neg m (f.emin - f.fw) = ⟨f.signed neg m, {}, false⟩ := by
  have hl : Nat.log2 m < f.fw := (Nat.log2_lt h0).mpr hm
  simpa using roundNum_of_quantum (f := f) (mode := mode) (neg := neg) (m := m) (k := 0)
    (by rw [if_pos (by omega)]) (by simp) (by simpa using by omega)

/-- A normal magnitude is rounded to itself. -/
theorem roundNum_normal (f : Fmt) (mode : Nat) (neg : Bool) {fr c : Nat} (hf : fr < 2 ^ f.fw) (h0 : c ≠ 0) (hc : c < 2 ^ f.ew - 1) :
    f.roundNum mode neg (2 ^ f.fw + fr) ((c : Int) - f.bias - f.fw) = ⟨f.signed neg (c * 2 ^ f.fw + fr), {}, false⟩ := by
  have hl : Nat.log2 (2 ^ f.fw + fr) = f.fw := by
    rw [Nat.log2_eq_iff (by positivity)]
    omega
  obtain ⟨k, rfl⟩ := Nat.exists_eq_add_one_of_ne_zero h0
  have hi : (k + 1 + 1) * 2 ^ f.fw ≤ f.inf := Nat.mul_le_mul_right _ hc
  have hb : k * 2 ^ f.fw + (2 ^ f.fw + fr) = (k + 1) * 2 ^ f.fw + fr := by rw [Nat.succ_mul, Nat.add_assoc]
  rw [← hb]
  refine roundNum_of_quantum ?_ ?_ ?_
  · rw [hl, if_neg (by simp only [Fmt.emin]; omega)]
    omega
  · simp only [Fmt.emin]
    omega
  · rw [hb]
    rw [Nat.succ_mul] at hi
    omega

/-- A pattern is its sign, exponent field and fraction. -/
theorem signed_fields (f : Fmt) {x : Nat} (hx : x < 2 ^ (f.ew + f.fw + 1)) :
    f.signed (x.testBit f.sign) (x / 2 ^ f.fw % 2 ^ f.ew * 2 ^ f.fw + x % 2 ^ f.fw) = x := by
  have hm : x / 2 ^ f.fw % 2 ^ f.ew * 2 ^ f.fw + x % 2 ^ f.fw = x % 2 ^ f.sign := by
    rw [Fmt.sign, Nat.add_comm f.ew, Nat.pow_add, Nat.mod_mul]
    ring
  have hd : x / 2 ^ f.sign < 2 := Nat.div_lt_of_lt_mul (by rwa [Nat.pow_succ] at hx)
  have hs := Nat.div_add_mod x (2 ^ f.sign)
  rw [hm, Fmt.signed, Nat.testBit_eq_decide_div_mod_eq, Nat.mod_eq_of_lt hd]
  interval_cases h : x / 2 ^ f.sign <;> simp_all

/-- The pattern of a number is neither an infinity nor a NaN, and its magnitude and exponent are those of its fields. -/
theorem val_num {f : Fmt} {x : Nat} {neg : Bool} {m : Nat} {e : Int} (h : f.val x = .num neg m e) :
    neg = x.testBit f.sign ∧ x / 2 ^ f.fw % 2 ^ f.ew ≠ 2 ^ f.ew - 1 ∧
      ((x / 2 ^ f.fw % 2 ^ f.ew = 0 ∧ m = x % 2 ^ f.fw ∧ e = f.emin - f.fw) ∨
        (x / 2 ^ f.fw % 2 ^ f.ew ≠ 0 ∧ m = 2 ^ f.fw + x % 2 ^ f.fw ∧
          e = (x / 2 ^ f.fw % 2 ^ f.ew : Nat) - f.bias - f.fw)) := by
  unfold Fmt.val at h
  dsimp only at h
  split at h
  · split at h <;> cases h
  · next hi =>
    split at h
    · next h0 => cases h; exact ⟨rfl, hi, .inl ⟨h0, rfl, rfl⟩⟩
    · next h0 => cases h; exact ⟨rfl, hi, .inr ⟨h0, rfl, rfl⟩⟩

/-- Rounding gives a representable number back, in every format with an exponent field. -/
theorem round_val (f : Fmt) (he : f.ew ≠ 0) (mode : Nat) {x : Nat} (hx : x < 2 ^ (f.ew + f.fw + 1)) {neg : Bool} {m : Nat} {e : Int}
    (h : f.val x = .num neg m e) : f.round mode neg m e = ⟨x, {}, false⟩ := by
  have hs := signed_fields f hx
  have hlt : x / 2 ^ f.fw % 2 ^ f.ew < 2 ^ f.ew := Nat.mod_lt _ (by positivity)
  have hfr : x % 2 ^ f.fw < 2 ^ f.fw := Nat.mod_lt _ (by positivity)
  obtain ⟨rfl, hi, ⟨h0, rfl, rfl⟩ | ⟨h0, rfl, rfl⟩⟩ := val_num h
  · rw [h0, Nat.zero_mul, Nat.zero_add] at hs
    have hinf : 2 ^ f.fw ≤ f.inf :=
      Nat.le_mul_of_pos_left _ (Nat.sub_pos_of_lt (Nat.one_lt_two_pow he))
    unfold Fmt.round
    split
    · next hz => rw [← hz, hs]
    · next hz => rw [roundNum_subnormal f mode _ hz hfr hinf, hs]
  · rw [Fmt.round, if_neg (by positivity), roundNum_normal f mode _ hfr h0 (by omega), hs]

/-- Settles O33: the quantum of a representable number is its own exponent, so that nothing is lost. -/
theorem roundingIsExactOnRepresentable : Obligations.RoundingIsExactOnRepresentable := by
  intro f mode x neg m e hf hx h
  have he : f.ew ≠ 0 := by rcases hf with rfl | rfl | rfl | rfl | rfl <;> decide
  exact round_val f he mode hx h

end Sys2Proof.NumberFormats
end

section
/-! PROOFS. The register and immediate instructions (02 R31, 06 R100 to R106). -/

namespace Sys2Proof.NumberFormats

open Sys2Proof.Machine
open Sys2Proof.Says hiding none

/-! ### Values of words (02 R31, 03 R66, 06 R101 to R106) -/

section
variable (a b : Word)

theorem word_add : a + b = .ofNat 64 (a.toNat + b.toNat) := by simp [BitVec.ofNat_add]

theorem word_sub : a - b = .ofInt 64 (a.toNat - b.toNat) := by
  rw [Int.sub_eq_add_neg, BitVec.ofInt_add, BitVec.ofInt_neg]
  simp [BitVec.sub_eq_add_neg]

theorem word_and : a &&& b = .ofNat 64 (a.toNat &&& b.toNat) := by rw [← BitVec.toNat_and, BitVec.ofNat_toNat, BitVec.setWidth_eq]

theorem word_or : a ||| b = .ofNat 64 (a.toNat ||| b.toNat) := by rw [← BitVec.toNat_or, BitVec.ofNat_toNat, BitVec.setWidth_eq]

theorem word_xor : a ^^^ b = .ofNat 64 (a.toNat ^^^ b.toNat) := by rw [← BitVec.toNat_xor, BitVec.ofNat_toNat, BitVec.setWidth_eq]

theorem word_andn : a &&& ~~~b = .ofNat 64 (a.toNat &&& (2 ^ 64 - 1 - b.toNat)) := by rw [word_and, BitVec.toNat_not]

theorem word_shiftLeft (n : Nat) : a <<< n = .ofNat 64 (a.toNat * 2 ^ n) :=
  BitVec.eq_of_toNat_eq (by simp [Nat.shiftLeft_eq])

theorem word_shiftRight (n : Nat) : a >>> n = .ofNat 64 (a.toNat / 2 ^ n) := by
  rw [← Nat.shiftRight_eq_div_pow, ← BitVec.toNat_ushiftRight, BitVec.ofNat_toNat, BitVec.setWidth_eq]

theorem word_sshiftRight (n : Nat) : a.sshiftRight n = .ofInt 64 (a.toInt / 2 ^ n) := by
  rw [BitVec.sshiftRight, Int.shiftRight_eq_div_pow]
  norm_cast

theorem flag_slt : flag (a.slt b) = if a.toInt < b.toInt then 1 else 0 := by simp [flag, BitVec.slt]

theorem flag_ult : flag (a.ult b) = if a.toNat < b.toNat then 1 else 0 := by simp [flag, BitVec.ult]

theorem word_mul : wordOfInt (a.toInt * b.toInt) = .ofNat 64 (a.toNat * b.toNat) := by
  simp [wordOfInt, BitVec.ofInt_mul, BitVec.ofNat_mul]

/-- The signed quotient of 02 R31, whose one overflow wraps. -/
theorem word_quot : wordOfInt (intQuot a.toInt b.toInt) =
    if b = 0 then 0xFFFFFFFFFFFFFFFF
    else if a = 0x8000000000000000 ∧ b = 0xFFFFFFFFFFFFFFFF then 0x8000000000000000
    else .ofInt 64 (a.toInt.tdiv b.toInt) := by
  have hb : b.toInt = 0 ↔ b = 0 := BitVec.toInt_inj (y := 0)
  simp only [intQuot, wordOfInt, hb]
  split_ifs with h ho
  · rfl
  · rw [ho.1, ho.2]; rfl
  · rfl

/-- The signed remainder of 02 R31. -/
theorem word_rem : wordOfInt (intRem a.toInt b.toInt) =
    if b = 0 then a
    else if a = 0x8000000000000000 ∧ b = 0xFFFFFFFFFFFFFFFF then 0
    else .ofInt 64 (a.toInt.tmod b.toInt) := by
  have hb : b.toInt = 0 ↔ b = 0 := BitVec.toInt_inj (y := 0)
  simp only [intRem, wordOfInt, hb]
  split_ifs with h ho
  · simp
  · rw [ho.1, ho.2]; rfl
  · rfl

theorem word_natQuot : BitVec.ofNat 64 (natQuot 64 a.toNat b.toNat) =
    if b = 0 then 0xFFFFFFFFFFFFFFFF else .ofNat 64 (a.toNat / b.toNat) := by
  have hb : b.toNat = 0 ↔ b = 0 := BitVec.toNat_inj (y := 0)
  simp only [natQuot, hb]
  split <;> rfl

theorem word_natRem : BitVec.ofNat 64 (natRem a.toNat b.toNat) = if b = 0 then a else .ofNat 64 (a.toNat % b.toNat) := by
  have hb : b.toNat = 0 ↔ b = 0 := BitVec.toNat_inj (y := 0)
  simp only [natRem, hb]
  split <;> simp

theorem word_min : (if a.slt b then a else b) = .ofInt 64 (min a.toInt b.toInt) := by
  rcases lt_or_ge a.toInt b.toInt with h | h
  · simp [BitVec.slt, h, min_eq_left h.le]
  · simp [BitVec.slt, not_lt.mpr h, min_eq_right h]

theorem word_max : (if a.slt b then b else a) = .ofInt 64 (max a.toInt b.toInt) := by
  rcases lt_or_ge a.toInt b.toInt with h | h
  · simp [BitVec.slt, h, max_eq_right h.le]
  · simp [BitVec.slt, not_lt.mpr h, max_eq_left h]

theorem word_minn : (if a.ult b then a else b) = .ofNat 64 (min a.toNat b.toNat) := by
  rcases lt_or_ge a.toNat b.toNat with h | h
  · simp [BitVec.ult, h, min_eq_left h.le]
  · simp [BitVec.ult, not_lt.mpr h, min_eq_right h]

theorem word_maxn : (if a.ult b then b else a) = .ofNat 64 (max a.toNat b.toNat) := by
  rcases lt_or_ge a.toNat b.toNat with h | h
  · simp [BitVec.ult, h, max_eq_right h.le]
  · simp [BitVec.ult, not_lt.mpr h, max_eq_left h]

theorem word_addx (n : Nat) : a + (b <<< n) = .ofNat 64 (a.toNat + b.toNat * 2 ^ n) := by
  rw [word_shiftLeft, BitVec.ofNat_add, BitVec.ofNat_toNat, BitVec.setWidth_eq]

theorem word_rotateLeft {k : Nat} (hk : k < 64) : a.rotateLeft k = .ofNat 64 (a.toNat * 2 ^ k + a.toNat / 2 ^ (64 - k)) := by
  have hp : 2 ^ (64 - k) * 2 ^ k = 2 ^ 64 := by rw [← Nat.pow_add, Nat.sub_add_cancel hk.le]
  have hlo : a.toNat / 2 ^ (64 - k) < 2 ^ k := Nat.div_lt_of_lt_mul (by rw [hp]; exact a.isLt)
  have hhi : a.toNat * 2 ^ k % 2 ^ 64 = (a.toNat % 2 ^ (64 - k)) <<< k := by
    rw [← hp, Nat.mul_mod_mul_right, Nat.shiftLeft_eq]
  have hlt : (a.toNat % 2 ^ (64 - k)) <<< k + a.toNat / 2 ^ (64 - k) < 2 ^ 64 := by
    have h := Nat.mul_le_mul_right (2 ^ k) (Nat.mod_lt a.toNat (Nat.two_pow_pos (64 - k)))
    rw [hp, Nat.succ_mul] at h
    rw [Nat.shiftLeft_eq]
    omega
  apply BitVec.eq_of_toNat_eq
  rw [BitVec.toNat_rotateLeft, Nat.mod_eq_of_lt hk, Nat.shiftLeft_eq, hhi, Nat.shiftRight_eq_div_pow,
    ← Nat.shiftLeft_add_eq_or_of_lt hlo, BitVec.toNat_ofNat, Nat.add_mod, hhi,
    Nat.mod_eq_of_lt (lt_of_lt_of_le hlo (Nat.pow_le_pow_right (by decide) hk.le)), Nat.mod_eq_of_lt hlt]

theorem word_sext {n : Nat} (hn : n ≠ 0) : sextW a n = .ofInt 64 (signedLow a.toNat n) := by
  obtain ⟨k, rfl⟩ := Nat.exists_eq_add_one_of_ne_zero hn
  rw [sextW, sextNat, BitVec.signExtend, BitVec.toInt_eq_toNat_cond, BitVec.toNat_ofNat, signedLow, Nat.add_sub_cancel]
  congr 1
  have h : 2 * (a.toNat % 2 ^ (k + 1)) < 2 ^ (k + 1) ↔ ¬ 2 ^ k ≤ a.toNat % 2 ^ (k + 1) := by rw [Nat.pow_succ]; omega
  simp only [h, ite_not]

theorem word_bext (k n : Nat) : zextW (a >>> k) n = .ofNat 64 (a.toNat / 2 ^ k % 2 ^ n) := by
  rw [zextW, BitVec.toNat_ushiftRight, Nat.shiftRight_eq_div_pow]

/-! #### Immediates -/

variable (i : BitVec 16)

theorem toNat_zext_imm : (i.setWidth 64).toNat = i.toNat := BitVec.toNat_setWidth_of_le (by decide)

theorem toInt_sext_imm : (i.signExtend 64).toInt = i.toInt := BitVec.toInt_signExtend_of_le (by decide)

theorem word_addi : a + i.signExtend 64 = .ofInt 64 (a.toInt + i.toInt) := by simp [BitVec.ofInt_add, BitVec.signExtend]

theorem word_pcadd : a + i.signExtend 64 * 4096 = .ofInt 64 (a.toInt + i.toInt * 4096) := by
  simp [BitVec.ofInt_add, BitVec.ofInt_mul, BitVec.signExtend]

theorem word_andi : a &&& i.setWidth 64 = .ofNat 64 (a.toNat &&& i.toNat) := by rw [word_and, toNat_zext_imm]

theorem word_ori : a ||| i.setWidth 64 = .ofNat 64 (a.toNat ||| i.toNat) := by rw [word_or, toNat_zext_imm]

theorem word_xori : a ^^^ i.setWidth 64 = .ofNat 64 (a.toNat ^^^ i.toNat) := by rw [word_xor, toNat_zext_imm]

theorem flag_slti : flag (a.slt (i.signExtend 64)) = if a.toInt < i.toInt then 1 else 0 := by rw [flag_slt, toInt_sext_imm]

theorem flag_sltni : flag (a.ult (i.setWidth 64)) = if a.toNat < i.toNat then 1 else 0 := by rw [flag_ult, toNat_zext_imm]

theorem word_zext_shiftLeft (n : Nat) : i.setWidth 64 <<< n = .ofNat 64 (i.toNat * 2 ^ n) := by
  rw [word_shiftLeft, toNat_zext_imm]

/-- Replacing 16 bits of a number. -/
theorem replaced_bits (x y n : Nat) : x - x / 2 ^ n % 2 ^ 16 * 2 ^ n + y * 2 ^ n =
    2 ^ n * (2 ^ 16 * (x / 2 ^ n / 2 ^ 16) + y) + x % 2 ^ n := by
  have h1 := Nat.div_add_mod x (2 ^ n)
  have h2 := Nat.div_add_mod (x / 2 ^ n) (2 ^ 16)
  generalize x / 2 ^ n = u at *
  generalize x % 2 ^ n = v at *
  generalize u / 2 ^ 16 = p at *
  generalize u % 2 ^ 16 = r at *
  subst h2 h1
  have : 2 ^ n * (2 ^ 16 * p + r) + v = r * 2 ^ n + (2 ^ n * (2 ^ 16 * p) + v) := by ring
  rw [this, Nat.add_sub_cancel_left]
  ring

theorem word_setQuarter (n : Nat) : (a &&& ~~~((0xFFFF : Word) <<< n)) ||| (i.setWidth 64 <<< n) =
    .ofNat 64 (a.toNat - a.toNat / 2 ^ n % 2 ^ 16 * 2 ^ n + i.toNat * 2 ^ n) := by
  have ones : ∀ k, (0xFFFF : Word).getLsbD k = decide (k < 16) := fun k => by
    rw [show (0xFFFF : Word) = BitVec.ofNat 64 (2 ^ 16 - 1) from rfl, BitVec.getLsbD_ofNat, Nat.testBit_two_pow_sub_one]
    simp only [Bool.and_eq_right_iff_imp, decide_eq_true_eq]
    omega
  rw [replaced_bits]
  ext k hk
  have hk' : (if k < n then (a.toNat % 2 ^ n).testBit k
      else if k - n < 16 then i.toNat.testBit (k - n) else (a.toNat / 2 ^ n / 2 ^ 16).testBit (k - n - 16)) =
      (BitVec.ofNat 64 (2 ^ n * (2 ^ 16 * (a.toNat / 2 ^ n / 2 ^ 16) + i.toNat) + a.toNat % 2 ^ n))[k] := by
    rw [BitVec.getElem_eq_testBit_toNat, BitVec.toNat_ofNat, Nat.testBit_mod_two_pow _ 64, decide_eq_true hk, Bool.true_and,
      Nat.testBit_two_pow_mul_add _ (Nat.mod_lt _ (Nat.two_pow_pos n)), Nat.testBit_two_pow_mul_add _ i.isLt]
  rw [← hk', ← BitVec.getLsbD_eq_getElem hk]
  simp only [BitVec.getLsbD_or, BitVec.getLsbD_and, BitVec.getLsbD_not, BitVec.getLsbD_shiftLeft, BitVec.getLsbD_setWidth, ones,
    Nat.testBit_mod_two_pow, Nat.testBit_div_two_pow, BitVec.testBit_toNat]
  by_cases h : k < n
  · simp [h, hk]
  · by_cases h' : k - n < 16
    · simp [h, h', hk]; omega
    · have : k - n - 16 + 16 + n = k := by omega
      simp [h, h', hk, this, BitVec.getLsbD_of_ge i (k - n) (by omega)]

end

/-! #### Counting bits -/

theorem clzNat_eq (n : Nat) {x : Nat} (hx : x < 2 ^ n) : clzNat n x = if x = 0 then n else n - 1 - x.log2 := by
  induction n with
  | zero => simp_all [clzNat]
  | succ n ih =>
    rcases Nat.lt_or_ge x (2 ^ n) with h | h
    · rw [clzNat, Nat.testBit_lt_two_pow h, if_neg (by simp), ih h]
      split
      · rfl
      · next h0 => have := (Nat.log2_lt h0).mpr h; omega
    · have h0 : x ≠ 0 := by have := Nat.two_pow_pos n; omega
      have hl : x.log2 = n := (Nat.log2_eq_iff h0).mpr ⟨h, hx⟩
      rw [clzNat, if_pos (Nat.testBit_of_two_pow_le_and_two_pow_add_one_gt h hx), if_neg h0]
      omega

theorem ctzNat_eq (n i x : Nat) : ctzNat n i x = ((List.range n).find? fun j => x.testBit (i + j)).getD n := by
  induction n generalizing i with
  | zero => rfl
  | succ n ih =>
    have shift : (fun j => x.testBit (i + j)) ∘ Nat.succ = fun j => x.testBit (i + 1 + j) := by
      funext j
      simp [Nat.add_comm j, Nat.add_assoc]
    rw [ctzNat, List.range_succ_eq_map, List.find?_cons, List.find?_map, shift, ih]
    cases x.testBit i
    · cases (List.range n).find? fun j => x.testBit (i + 1 + j) <;> simp
    · simp

theorem popNat_eq (n x : Nat) : popNat n x = (List.range n).countP x.testBit := by
  induction n with
  | zero => rfl
  | succ n ih =>
    rw [popNat, List.range_succ, List.countP_append, ← ih]
    simp [List.countP_cons, Nat.add_comm]

theorem word_clz (a : Word) : BitVec.ofNat 64 (clzNat 64 a.toNat) = if a = 0 then 64 else .ofNat 64 (63 - a.toNat.log2) := by
  have ha : a.toNat = 0 ↔ a = 0 := BitVec.toNat_inj (y := 0)
  simp only [clzNat_eq 64 a.isLt, ha]
  split <;> rfl

theorem word_ctz (a : Word) :
    BitVec.ofNat 64 (ctzNat 64 0 a.toNat) = .ofNat 64 (((List.range 64).find? fun i => a.getLsbD i).getD 64) := by
  simp only [ctzNat_eq, Nat.zero_add, BitVec.testBit_toNat]

theorem word_popc (a : Word) : BitVec.ofNat 64 (popNat 64 a.toNat) = .ofNat 64 ((List.range 64).countP fun i => a.getLsbD i) := by
  rw [popNat_eq]
  rfl

/-! ### Moving on -/

/-- Moving on changes the PC, the frame and how the context goes on, and nothing else. -/
theorem context_advance (x : Context) : ∃ pc frame resume refusals wait,
    x.advance = { x with ws := { x.ws with pc := pc }, frame := frame, resume := resume, refusals := refusals, wait := wait } := by
  unfold Context.advance
  split
  · exact ⟨_, _, _, _, _, rfl⟩
  · split <;> exact ⟨_, _, _, _, _, rfl⟩

@[simp] theorem getW_advance (s : State) (n : Reg) : s.advance.getW n = s.getW n := by
  obtain ⟨pc, fr, re, rf, wt, h⟩ := context_advance s.cx
  simp only [State.getW, State.advance, State.cx_modCx, h]

theorem getW_retire (s : State) (rd n : Reg) (v : Word) :
    (s.retire rd v).getW n = if n = rd ∧ rd ≠ 0 then v else s.getW n := by
  rw [State.retire, getW_advance, State.getW_setW]

/-- Outside a frame an instruction that writes a register goes on at the next word. -/
theorem pc_retire {s : State} (h : s.cx.frame = .none) (rd : Reg) (v : Word) : (s.retire rd v).cx.ws.pc = s.cx.ws.pc + 4 := by
  have hs : (s.setW rd v).cx.frame = .none ∧ (s.setW rd v).cx.ws.pc = s.cx.ws.pc := by
    unfold State.setW
    split
    · exact ⟨h, rfl⟩
    · simp [h]
  rw [State.retire, advance_cx hs.1, hs.2]

/-! ### Register and immediate instructions (06 R100 to R106) -/

/-- An instruction that retires a value retires any word equal to it. -/
theorem retires {s : State} {o : Outcome} {rd : Reg} {v w : Word} (h : o = .next (s.retire rd v)) (e : v = w) :
    o = .next (s.retire rd w) := e ▸ h

theorem scalarTableResults : Says.ScalarTableResults := by
  intro s i rd v h
  cases i with
  | add => cases h; exact retires rfl (word_add _ _)
  | sub => cases h; exact retires rfl (word_sub _ _)
  | and => cases h; exact retires rfl (word_and _ _)
  | or => cases h; exact retires rfl (word_or _ _)
  | xor => cases h; exact retires rfl (word_xor _ _)
  | andn => cases h; exact retires rfl (word_andn _ _)
  | sll => cases h; exact retires rfl (word_shiftLeft _ _)
  | srl => cases h; exact retires rfl (word_shiftRight _ _)
  | sra => cases h; exact retires rfl (word_sshiftRight _ _)
  | slt => cases h; exact retires rfl (flag_slt _ _)
  | sltn => cases h; exact retires rfl (flag_ult _ _)
  | mul => cases h; exact retires rfl (word_mul _ _)
  | mulh => cases h; rfl
  | mulhn => cases h; rfl
  | div => cases h; exact retires rfl (word_quot _ _)
  | divn => cases h; exact retires rfl (word_natQuot _ _)
  | rem => cases h; exact retires rfl (word_rem _ _)
  | remn => cases h; exact retires rfl (word_natRem _ _)
  | min => cases h; exact retires rfl (word_min _ _)
  | max => cases h; exact retires rfl (word_max _ _)
  | minn => cases h; exact retires rfl (word_minn _ _)
  | maxn => cases h; exact retires rfl (word_maxn _ _)
  | clz => cases h; exact retires rfl (word_clz _)
  | ctz => cases h; exact retires rfl (word_ctz _)
  | popc => cases h; exact retires rfl (word_popc _)
  | sext => cases h; exact retires rfl (word_sext _ (Nat.succ_ne_zero _))
  | zext => cases h; rfl
  | addx => cases h; exact retires rfl (word_addx _ _ _)
  | rotl => cases h; exact retires rfl (word_rotateLeft _ (Nat.mod_lt _ (by decide)))
  | bext => cases h; exact retires rfl (word_bext _ _ _)
  | addi => cases h; exact retires rfl (word_addi _ _)
  | andi => cases h; exact retires rfl (word_andi _ _)
  | ori => cases h; exact retires rfl (word_ori _ _)
  | xori => cases h; exact retires rfl (word_xori _ _)
  | slti => cases h; exact retires rfl (flag_slti _ _)
  | sltni => cases h; exact retires rfl (flag_sltni _ _)
  | slli => cases h; exact retires rfl (word_shiftLeft _ _)
  | srli => cases h; exact retires rfl (word_shiftRight _ _)
  | srai => cases h; exact retires rfl (word_sshiftRight _ _)
  | setqZ => cases h; exact retires rfl (word_zext_shiftLeft _ _)
  | setqK => cases h; exact retires rfl (word_setQuarter _ _ _)
  | pcadd => cases h; exact retires rfl (word_pcadd _ _)
  | _ => cases h

theorem cmovResult : Says.CmovResult := by
  intro s rd ra rb
  have he : exec (.cmov rd ra rb) s = if s.getW rb = 0 then .next s.advance else .next (s.retire rd (s.getW ra)) := rfl
  by_cases h : s.getW rb = 0
  · exact ⟨s.advance, by rw [he, if_pos h], fun n => by simp [h], fun hf => by rw [advance_cx hf]⟩
  · refine ⟨s.retire rd (s.getW ra), by rw [he, if_neg h], fun n => ?_, fun hf => pc_retire hf rd _⟩
    simp only [getW_retire, ne_eq, h, not_false_eq_true, and_true]

/-- Settles O12: each table value is the word that the instruction computes, and `cmov` retires or only moves on. -/
theorem scalarResults : Obligations.ScalarResults := ⟨scalarTableResults, cmovResult⟩

end Sys2Proof.NumberFormats
end

section
/-! PROOFS. The frame of the vector instructions, lanes, and the mask operations (07 R133, R140). -/

namespace Sys2Proof.NumberFormats

open Sys2Proof.Machine
open Sys2Proof.Says hiding none

/-! ### The frame of the vector instructions (07 R140, 20 R367) -/

section
variable {s t u : State} {w : Reg → Prop} {v : VReg → Prop} {f : Word}

theorem sameMemory_trans (h : SameMemory s t) (k : SameMemory t u) : SameMemory s u := by
  obtain ⟨h1, h2, h3, h4, h5, h6⟩ := h
  obtain ⟨k1, k2, k3, k4, k5, k6⟩ := k
  exact ⟨k1.trans h1, k2.trans h2, k3.trans h3, k4.trans h4, k5.trans h5, k6.trans h6⟩

theorem sameUnits_trans (h : SameUnits s t) (k : SameUnits t u) : SameUnits s u := by
  obtain ⟨h1, h2, h3, h4, h5⟩ := h
  obtain ⟨k1, k2, k3, k4, k5⟩ := k
  exact ⟨k1.trans h1, k2.trans h2, k3.trans h3, k4.trans h4, k5.trans h5⟩

theorem sameCoreButCounters_trans {r : CtxRef} (h : SameCoreButCounters s t r) (k : SameCoreButCounters t u r) :
    SameCoreButCounters s u r := by
  obtain ⟨h1, h2⟩ := h
  obtain ⟨k1, k2⟩ := k
  refine ⟨?_, fun c hc => (k2 c hc).trans (h2 c hc)⟩
  rw [← k1] at h1
  exact h1

theorem sameContext_trans {r : CtxRef} (h : SameContext s t r) (k : SameContext t u r) : SameContext s u r := by
  unfold SameContext at *
  dsimp only at *
  rw [← k] at h
  exact h

theorem sameWs_trans {r : CtxRef} (h : SameWs s t r w v f) (k : SameWs t u r w v f) : SameWs s u r w v f := by
  obtain ⟨h1, h2, h3, h4⟩ := h
  obtain ⟨k1, k2, k3, k4⟩ := k
  refine ⟨?_, fun n hn => (k2 n hn).trans (h2 n hn), fun n hn => (k3 n hn).trans (h3 n hn), k4.trans h4⟩
  rw [← k1] at h1
  exact h1

theorem onlyVec_refl (s : State) : OnlyVec s s w v f :=
  ⟨⟨rfl, rfl, rfl, rfl, rfl, rfl⟩, ⟨rfl, rfl, rfl, rfl, rfl⟩, fun _ _ => rfl, ⟨rfl, fun _ _ => rfl⟩, rfl,
    ⟨rfl, fun _ _ => rfl, fun _ _ => rfl, rfl⟩, rfl, rfl⟩

/-- Two vector steps with one frame make one. -/
theorem onlyVec_trans (h : OnlyVec s t w v f) (k : OnlyVec t u w v f) : OnlyVec s u w v f := by
  obtain ⟨h1, h2, h3, h4, h5, h6, h7, h8⟩ := h
  obtain ⟨k1, k2, k3, k4, k5, k6, k7, k8⟩ := k
  rw [h7] at k3 k4 k5 k6
  exact ⟨sameMemory_trans h1 k1, sameUnits_trans h2 k2, fun g hg => (k3 g hg).trans (h3 g hg),
    sameCoreButCounters_trans h4 k4, sameContext_trans h5 k5, sameWs_trans h6 k6, k7.trans h7, k8.trans h8⟩

/-- A change of the executing context stays in the frame where the change itself does. -/
theorem onlyVec_modCx {g : Context → Context}
    (hx : ({ g s.cx with ws := s.cx.ws, frame := s.cx.frame, resume := s.cx.resume, refusals := s.cx.refusals, wait := s.cx.wait } :
      Context) = s.cx)
    (hw : ({ (g s.cx).ws with w := s.cx.ws.w, v := s.cx.ws.v, pc := s.cx.ws.pc, cflags := s.cx.ws.cflags } : Workspace) = s.cx.ws)
    (hr : ∀ n : Reg, ¬ w n → (g s.cx).ws.w[n] = s.cx.ws.w[n]) (hv : ∀ n : VReg, ¬ v n → (g s.cx).ws.v[n] = s.cx.ws.v[n])
    (hf : (g s.cx).ws.cflags &&& ~~~f = s.cx.ws.cflags &&& ~~~f) : OnlyVec s (s.modCx g) w v f := by
  have hc : (s.modCx g).ctx s.cur = g s.cx := State.cx_modCx s g
  refine ⟨⟨rfl, rfl, rfl, rfl, rfl, rfl⟩, ⟨rfl, rfl, rfl, rfl, rfl⟩, fun h hh => ?_, ⟨?_, fun c hc => ?_⟩, ?_, ?_, rfl, rfl⟩
  · rw [State.modCx, State.core_modCtx, if_neg hh]
  · rw [State.modCx, State.core_modCtx, if_pos rfl]
    rfl
  · exact State.ctx_modCtx_ne s (fun e => hc (congrArg CtxRef.ctx e)) g
  · rw [SameContext, hc]
    exact hx
  · rw [SameWs, hc]
    exact ⟨hw, hr, hv, hf⟩

theorem onlyVec_setV (s : State) {n : VReg} (hn : v n) (x : VWord) : OnlyVec s (s.setV n x) w v f :=
  onlyVec_modCx rfl rfl (fun _ _ => rfl)
    (fun _ hm => Vector.getElem_set_ne n.isLt _ fun e => hm (Fin.ext e ▸ hn)) rfl

theorem onlyVec_setW (s : State) {n : Reg} (hn : w n) (x : Word) : OnlyVec s (s.setW n x) w v f := by
  unfold State.setW
  split
  · exact onlyVec_refl s
  · exact onlyVec_modCx rfl rfl (fun _ hm => Vector.getElem_set_ne n.isLt _ fun e => hm (Fin.ext e ▸ hn)) (fun _ _ => rfl) rfl

/-- Flags within the mask of the frame may be raised. -/
theorem onlyVec_raise (s : State) {fl : Flags} (h : fl.word &&& ~~~f = 0) : OnlyVec s (s.raise fl) w v f := by
  refine onlyVec_modCx rfl rfl (fun _ _ => rfl) (fun _ _ => rfl) ?_
  have hd : (s.cx.ws.cflags ||| fl.word) &&& ~~~f = (s.cx.ws.cflags &&& ~~~f) ||| (fl.word &&& ~~~f) := by
    ext
    simp [Bool.and_or_distrib_right]
  exact hd.trans (by rw [h]; exact BitVec.or_zero)

theorem onlyVec_advance (s : State) : OnlyVec s s.advance w v f := by
  obtain ⟨pc, fr, re, rf, wt, h⟩ := context_advance s.cx
  refine onlyVec_modCx ?_ ?_ (fun n _ => ?_) (fun n _ => ?_) ?_ <;> rw [h]

/-- A change of the executing core's counters or of its vector unit's occupancy alone. -/
theorem onlyVec_modMe {g : Core → Core} (hg : ∀ k : Core, ∃ p n, g k = { k with pmc := p, vecUntil := n }) :
    OnlyVec s (s.modMe g) w v f := by
  obtain ⟨p, n, h⟩ := hg (s.core s.cur.core)
  have hc : (s.modMe g).core s.cur.core = { s.core s.cur.core with pmc := p, vecUntil := n } := by
    rw [State.modMe, State.core_modCore, if_pos rfl, h]
  have hx : ∀ c, (s.modMe g).ctx ⟨s.cur.core, c⟩ = s.ctx ⟨s.cur.core, c⟩ := fun c => by
    rw [State.ctx, hc]
    rfl
  have hcur : (s.modMe g).ctx s.cur = s.ctx s.cur := hx s.cur.ctx
  refine ⟨⟨rfl, rfl, rfl, rfl, rfl, rfl⟩, ⟨rfl, rfl, rfl, rfl, rfl⟩, fun h hh => ?_, ⟨?_, fun c _ => hx c⟩, ?_, ?_, rfl, rfl⟩
  · rw [State.modMe, State.core_modCore, if_neg hh]
  · rw [hc]
  · rw [SameContext, hcur]
  · rw [SameWs, hcur]
    exact ⟨rfl, fun _ _ => rfl, fun _ _ => rfl, rfl⟩

/-- Events are counted in performance counters only. -/
theorem onlyVec_count (s : State) (e n : Nat) : OnlyVec s (s.count s.cur e n) w v f := by
  unfold State.count
  split
  · refine onlyVec_modMe fun k => ?_
    unfold Core.count
    split <;> exact ⟨_, _, rfl⟩
  · exact onlyVec_refl s

theorem onlyVec_vecBusy (s : State) (b : Nat) : OnlyVec s (s.vecBusy b) w v f := by
  unfold State.vecBusy
  split
  · exact onlyVec_count s 3 1
  · exact onlyVec_trans (onlyVec_count s 3 _) (onlyVec_modMe fun k => ⟨_, _, rfl⟩)

theorem onlyVec_vretire (s : State) {n : VReg} (hn : v n) (x : VWord) (b : Nat) : OnlyVec s (s.vretire n x b) w v f :=
  onlyVec_trans (onlyVec_trans (onlyVec_setV s hn x) (onlyVec_vecBusy _ b)) (onlyVec_advance _)

end

/-! ### What a retired vector shows -/

theorem ws_advance (s : State) : ∃ pc, s.advance.cx.ws = { s.cx.ws with pc := pc } := by
  obtain ⟨pc, fr, re, rf, wt, h⟩ := context_advance s.cx
  exact ⟨pc, by rw [State.advance, State.cx_modCx, h]⟩

@[simp] theorem cx_count (s : State) (r : CtxRef) (e n : Nat) : (s.count r e n).cx = s.cx := by
  rw [State.cx, State.count_cur, ctx_count, State.cx]

@[simp] theorem cx_vecBusy (s : State) (b : Nat) : (s.vecBusy b).cx = s.cx := by
  unfold State.vecBusy
  split
  · exact cx_count s s.cur 3 1
  · rw [State.cx, State.modMe_cur, State.count_cur, State.ctx, State.modMe, State.core_modCore, State.count_cur, if_pos rfl]
    exact ctx_count s s.cur s.cur 3 _

@[simp] theorem getV_advance (s : State) (n : VReg) : s.advance.getV n = s.getV n := by
  obtain ⟨pc, h⟩ := ws_advance s
  rw [State.getV, h, State.getV]

@[simp] theorem cflags_advance (s : State) : s.advance.cx.ws.cflags = s.cx.ws.cflags := by
  obtain ⟨pc, h⟩ := ws_advance s
  rw [h]

@[simp] theorem getV_vretire (s : State) (vd n : VReg) (x : VWord) (b : Nat) :
    (s.vretire vd x b).getV n = if n = vd then x else s.getV n := by
  rw [State.vretire, getV_advance, State.getV, cx_vecBusy, ← State.getV, State.getV_setV]

@[simp] theorem cflags_vretire (s : State) (vd : VReg) (x : VWord) (b : Nat) :
    (s.vretire vd x b).cx.ws.cflags = s.cx.ws.cflags := by
  rw [State.vretire, cflags_advance, cx_vecBusy, State.setV, State.cx_modWs]

@[simp] theorem cflags_raise (s : State) (f : Flags) : (s.raise f).cx.ws.cflags = s.cx.ws.cflags ||| f.word := by
  have h : (s.raise f).cx = { s.cx with ws := { s.cx.ws with cflags := s.cx.ws.cflags ||| f.word } } :=
    State.cx_modWs s fun w => { w with cflags := w.cflags ||| f.word }
  rw [h]

/-! ### Lanes (03 R57 to R59) -/

theorem dtWidth_mem (dt : Nat) : dtWidth dt ∈ [4, 8, 16, 32, 64] := by
  unfold dtWidth
  rcases Nat.lt_or_ge dt 15 with h | h
  · interval_cases dt <;> decide
  · rw [List.getD_eq_default _ _ (by simpa using h)]
    decide

theorem dtWidth_pos (dt : Nat) : 0 < dtWidth dt := by
  have h := dtWidth_mem dt
  simp only [List.mem_cons, List.not_mem_nil, or_false] at h
  omega

theorem dtWidth_le (dt : Nat) : dtWidth dt ≤ 64 := by
  have h := dtWidth_mem dt
  simp only [List.mem_cons, List.not_mem_nil, or_false] at h
  omega

/-- A pattern of a type has at most 64 bits. -/
theorem le_of_lt_two_pow_dtWidth {a dt : Nat} (h : a < 2 ^ dtWidth dt) : a ≤ 2 ^ 64 :=
  h.le.trans (Nat.pow_le_pow_right (by decide) (dtWidth_le dt))

theorem dtLanes_le (dt : Nat) : dtLanes dt ≤ 128 := by
  have h := dtWidth_mem dt
  unfold dtLanes
  simp only [List.mem_cons, List.not_mem_nil, or_false] at h
  rcases h with h | h | h | h | h <;> rw [h] <;> decide

/-- Lane k of L lies within the register. -/
theorem lane_fits {w k : Nat} (h : k < 512 / w) : w * k + w ≤ 512 := by
  calc w * k + w = w * (k + 1) := by ring
    _ ≤ w * (512 / w) := Nat.mul_le_mul_left w h
    _ ≤ 512 := Nat.mul_div_le 512 w

theorem lane_lt (v : VWord) (w k : Nat) : lane v w k < 2 ^ w := Nat.mod_lt _ (Nat.two_pow_pos w)

theorem lane_joinLanes (w : Nat) (xs : List Nat) (k : Nat) : joinLanes w xs / 2 ^ (w * k) % 2 ^ w = xs.getD k 0 % 2 ^ w := by
  induction xs generalizing k with
  | nil => simp [joinLanes]
  | cons x xs ih =>
    cases k with
    | zero => simp [joinLanes]
    | succ k =>
      have hs : joinLanes w (x :: xs) / 2 ^ w = joinLanes w xs := by
        rw [joinLanes, Nat.add_mul_div_left _ _ (Nat.two_pow_pos w), Nat.div_eq_of_lt (Nat.mod_lt _ (Nat.two_pow_pos w)), Nat.zero_add]
      rw [Nat.mul_succ, Nat.add_comm, Nat.pow_add, ← Nat.div_div_eq_div_mul, hs, ih, List.getD_cons_succ]

/-- Bits that lie within the width of a vector are not cut. -/
theorem toNat_ofNat_slice {n a w : Nat} (h : a + w ≤ n) (x : Nat) :
    (BitVec.ofNat n x).toNat / 2 ^ a % 2 ^ w = x / 2 ^ a % 2 ^ w := by
  obtain ⟨c, rfl⟩ := Nat.exists_eq_add_of_le h
  rw [BitVec.toNat_ofNat, Nat.add_assoc, Nat.pow_add, Nat.mod_mul_right_div_self, Nat.mod_mod_of_dvd]
  exact Nat.pow_dvd_pow 2 (Nat.le_add_right w c)

/-- A lane of a register made of lanes. -/
theorem lane_ofLanes {w k : Nat} (h : k < 512 / w) (xs : List Nat) : lane (ofLanes w xs) w k = xs.getD k 0 % 2 ^ w := by
  rw [lane, ofLanes, toNat_ofNat_slice (lane_fits h), lane_joinLanes]

/-- A lane of a register whose lanes are given by a function. -/
theorem lane_ofLanes_range {w k : Nat} (h : k < 512 / w) (f : Nat → Nat) :
    lane (ofLanes w ((List.range (512 / w)).map f)) w k = f k % 2 ^ w := by
  rw [lane_ofLanes h, List.getD_eq_getElem _ _ (by simpa using h)]
  simp

/-- An instruction that retires a vector completes, writes one register and leaves the rest. -/
theorem completes_vretire {s : State} {i : Instr} {vd : VReg} {x : VWord} (h : exec i s = .next (s.vretire vd x)) :
    ∃ t, exec i s = .next t ∧ OnlyVec s t Says.none (· = vd) 0 ∧ t.getV vd = x :=
  ⟨_, h, onlyVec_vretire (v := (· = vd)) s rfl x 1, by simp⟩

/-! ### Mask operations and selections (07 R133) -/

theorem toNat_ofNat_small {x : Nat} (h : x ≤ 2 ^ 64) : (BitVec.ofNat 512 x).toNat = x :=
  Nat.mod_eq_of_lt (h.trans_lt (Nat.pow_lt_pow_right (a := 2) (m := 64) (n := 512) (by decide) (by decide)))

theorem maskCount_eq (v : VWord) (n : Nat) : maskCount v n = (List.range n).countP fun k => v.getLsbD k := popNat_eq n v.toNat

theorem maskCount_le (v : VWord) (n : Nat) : maskCount v n ≤ n := by
  rw [maskCount_eq]
  exact List.countP_le_length.trans_eq List.length_range

/-- The lowest one bit of a mask as the tables give it. -/
theorem firstLane_eq (v : VWord) (l : Nat) : (if ctzNat l 0 v.toNat < l then ctzNat l 0 v.toNat else 2 ^ 64 - 1) =
    ((List.range l).find? fun k => v.getLsbD k).getD (2 ^ 64 - 1) := by
  have hc : ctzNat l 0 v.toNat = ((List.range l).find? fun k => v.getLsbD k).getD l := by
    simp only [ctzNat_eq, Nat.zero_add, BitVec.testBit_toNat]
  rw [hc]
  cases h : (List.range l).find? fun k => v.getLsbD k with
  | none => simp
  | some k => simp [List.mem_range.mp (List.mem_of_find?_eq_some h)]

theorem firstLane_le (v : VWord) (l : Nat) (hl : l ≤ 128) :
    ((List.range l).find? fun k => v.getLsbD k).getD (2 ^ 64 - 1) ≤ 2 ^ 64 := by
  rw [← firstLane_eq]
  split <;> omega

theorem maskResults : Says.MaskResults := by
  intro s vd va vb vm dt
  have hl := dtLanes_le dt
  refine ⟨completes_vretire rfl, completes_vretire rfl, completes_vretire rfl, completes_vretire rfl, ?_, ?_, ?_⟩
  · obtain ⟨t, ht, ho, hv⟩ := completes_vretire (s := s) (i := .mpop vd va dt) rfl
    refine ⟨t, ht, ho, (congrArg BitVec.toNat hv).trans ?_⟩
    rw [toNat_ofNat_small ((maskCount_le _ _).trans (hl.trans (by decide))), maskCount_eq]
  · obtain ⟨t, ht, ho, hv⟩ := completes_vretire (s := s) (i := .mfirst vd va dt) rfl
    refine ⟨t, ht, ho, (congrArg BitVec.toNat hv).trans ?_⟩
    rw [firstLane_eq, toNat_ofNat_small (firstLane_le _ _ hl)]
  · obtain ⟨t, ht, ho, hv⟩ := completes_vretire (s := s) (i := .vsel vd va vb vm dt) rfl
    refine ⟨t, ht, ho, fun k hk => ?_⟩
    rw [hv, dtLanes, lane_ofLanes_range hk, Nat.mod_eq_of_lt (lane_lt _ _ _)]
    split <;> rfl

end Sys2Proof.NumberFormats
end

section
/-! PROOFS. What a load leaves of the cores' tables, lane moves and table loads (07 R138, R139). -/

namespace Sys2Proof.NumberFormats

open Sys2Proof.Machine
open Sys2Proof.Says hiding none

/-! ### What a memory access leaves of the cores' tables (02 R37) -/

/-- The executing context and the q8 and q4 tables of every core: what no access to memory changes. -/
def coreTables (s : State) : CtxRef × (Nat → List (BitVec 32) × List (BitVec 32)) :=
  (s.cur, fun g => ((s.core g).q8, (s.core g).q4))

/-- A state with the same cores and executing context shows the same tables. -/
theorem coreTables_congr {s t : State} (hr : t.cur = s.cur) (hc : t.cores = s.cores) : coreTables t = coreTables s := by
  simp only [coreTables, State.core, hr, hc]

theorem coreTables_modCore (s : State) (g : Nat) {f : Core → Core} (hf : ∀ k, (f k).q8 = k.q8 ∧ (f k).q4 = k.q4) :
    coreTables (s.modCore g f) = coreTables s := by
  refine Prod.ext rfl (funext fun h => ?_)
  simp only [coreTables, State.core_modCore]
  split
  · next e => subst e; exact Prod.ext (hf _).1 (hf _).2
  · rfl

@[simp] theorem coreTables_modCtx (s : State) (r : CtxRef) (f : Context → Context) : coreTables (s.modCtx r f) = coreTables s :=
  coreTables_modCore s r.core fun _ => ⟨rfl, rfl⟩

@[simp] theorem coreTables_modDev (s : State) (f : Device → Device) : coreTables (s.modDev f) = coreTables s := rfl
@[simp] theorem coreTables_modDie (s : State) (d : Nat) (f : Die → Die) : coreTables (s.modDie d f) = coreTables s := rfl
@[simp] theorem coreTables_modCluster (s : State) (d : Nat) (f : Cluster → Cluster) :
    coreTables (s.modCluster d f) = coreTables s := rfl

theorem coreTables_foldl {β : Type} {f : State → β → State} (hf : ∀ s x, coreTables (f s x) = coreTables s) (l : List β) (s : State) :
    coreTables (l.foldl f s) = coreTables s := by
  induction l generalizing s with
  | nil => rfl
  | cons a l ih => exact (ih (f s a)).trans (hf s a)

@[simp] theorem coreTables_count (s : State) (r : CtxRef) (e n : Nat) : coreTables (s.count r e n) = coreTables s := by
  unfold State.count
  split
  · refine coreTables_modCore s _ fun k => ?_
    unfold Core.count
    split <;> exact ⟨rfl, rfl⟩
  · rfl

@[simp] theorem coreTables_countSlice (s : State) (g a : Nat) (w : Bool) (x : Space) :
    coreTables (s.countSlice g a w x) = coreTables s := by
  cases x <;> rfl

@[simp] theorem coreTables_cache (s : State) (g : Nat) (es : List TlbEntry) : coreTables (s.cache g es) = coreTables s := by
  have h : ∀ (l : List TlbEntry) (t : State), coreTables (t.cacheEach g l) = coreTables t := by
    intro l
    induction l with
    | nil => exact fun _ => rfl
    | cons e l ih => intro t; rw [State.cacheEach, ih, coreTables_count, coreTables_modCluster]
  exact h _ _

/-! #### Lines and sectors -/

@[simp] theorem coreTables_writeBack (s : State) (q : Nat) : coreTables (s.writeBack q) = coreTables s := by
  unfold State.writeBack
  split
  · split <;> rfl
  · rfl

@[simp] theorem coreTables_evict (s : State) (l : Nat) : coreTables (s.evict l) = coreTables s := by
  refine coreTables_foldl (fun u q => ?_) _ s
  exact (coreTables_congr rfl rfl).trans (coreTables_writeBack u q)

@[simp] theorem coreTables_makeRoom (s : State) (d l n : Nat) : coreTables (s.makeRoom d l n) = coreTables s := by
  unfold State.makeRoom
  dsimp only
  split
  · rfl
  · exact (coreTables_congr rfl rfl).trans (coreTables_evict s _)

@[simp] theorem coreTables_fillSector (s : State) (d l q : Nat) : coreTables (s.fillSector d l q) = coreTables s := by
  unfold State.fillSector
  split
  · rfl
  · exact (coreTables_congr rfl rfl).trans (coreTables_makeRoom s d l _)

@[simp] theorem coreTables_endFill (s : State) (l : Nat) : coreTables (s.endFill l) = coreTables s := by
  unfold State.endFill
  split
  · rfl
  · rw [coreTables_modDev, coreTables_foldl fun s x => coreTables_modCtx s _ _,
      coreTables_foldl fun s q => coreTables_fillSector s _ _ q]

@[simp] theorem coreTables_pokeSector (s : State) (plc p : Nat) (v m : Byte) :
    coreTables (s.pokeSector plc p v m) = coreTables s := by
  unfold State.pokeSector
  split <;> rfl

/-! #### Writes -/

@[simp] theorem coreTables_poke (s : State) (w : Who) (p : Nat) (v m : Byte) (x : Space) :
    coreTables (s.poke w p v m x) = coreTables s := by
  cases x with
  | tcm g =>
    simp only [State.poke, State.pokeTcm, State.modWsOf]
    split
    · split
      · rfl
      · split
        · exact coreTables_modCtx s _ _
        · rfl
    · rfl
  | hbm d l c pol =>
    simp only [State.poke, State.pokeHbm]
    split
    · exact (coreTables_congr rfl rfl).trans (coreTables_writeBack s _)
    · split
      · rfl
      · rw [coreTables_pokeSector, coreTables_fillSector]
  | _ => rfl

@[simp] theorem coreTables_cleanse (s : State) (w : PendWrite) : coreTables (s.cleanse w) = coreTables s := by
  unfold State.cleanse
  split <;> rfl

@[simp] theorem coreTables_correct (s : State) (ps : List Nat) : coreTables (s.correct ps) = coreTables s := by
  unfold State.correct
  split
  · rfl
  · exact coreTables_foldl (fun s x => coreTables_count s _ _ _) _ _

@[simp] theorem coreTables_wake (s : State) (g : Nat) : coreTables (s.wake g) = coreTables s :=
  coreTables_modCore s g fun _ => ⟨rfl, rfl⟩

@[simp] theorem coreTables_land (s : State) (who : Who) (w : PendWrite) : coreTables (s.land who w) = coreTables s := by
  have key : ∀ u : State, coreTables (((w.cells.foldl (fun s c => s.poke who c.1 c.2.1 c.2.2 w.space) u).cleanse w).correct
      (w.cells.map Prod.fst)) = coreTables u := fun u => by
    rw [coreTables_correct, coreTables_cleanse, coreTables_foldl fun s c => coreTables_poke s who _ _ _ _]
  unfold State.land
  dsimp only
  split
  · rw [coreTables_wake, key]
    split
    · exact coreTables_endFill s _
    · rfl
  · rw [key]
    split
    · exact coreTables_endFill s _
    · rfl

@[simp] theorem coreTables_acquire (s : State) (who : Who) (ts : List Tag) : coreTables (s.acquire who ts) = coreTables s := by
  unfold State.acquire
  split
  · rfl
  · exact coreTables_modCore s _ fun _ => ⟨rfl, rfl⟩

@[simp] theorem coreTables_retag (s : State) (who : Who) (w : PendWrite) (a : Bool) :
    coreTables (s.retag who w a) = coreTables s := by
  unfold State.retag
  dsimp only
  split
  · rfl
  · exact coreTables_foldl (fun s k => by rw [coreTables_acquire]; rfl) _ s

@[simp] theorem coreTables_pushSome (s : State) (go : PendWrite → Bool) : coreTables (s.pushSome go) = coreTables s := by
  unfold State.pushSome
  dsimp only
  split
  · rfl
  · rw [coreTables_foldl fun s w => coreTables_land s _ w, coreTables_modDev]

@[simp] theorem coreTables_perform (s : State) (who : Who) (w : PendWrite) (a : Bool) :
    coreTables (s.perform who w a) = coreTables s := by
  rw [State.perform, coreTables_retag, coreTables_land, coreTables_pushSome]

@[simp] theorem coreTables_loseWrite (s : State) (w : PendWrite) (c : BitVec 8) :
    coreTables (s.loseWrite w c) = coreTables s := by
  have h : coreTables (s.failCopy w c) = coreTables s := by
    unfold State.failCopy
    split
    · exact coreTables_modCore s _ fun _ => ⟨rfl, rfl⟩
    · rfl
  rw [State.loseWrite, State.charge, coreTables_modCtx, h]

@[simp] theorem coreTables_countRefusals (s : State) (r : CtxRef) (n : Nat) (x : Option (Nat × Nat)) :
    coreTables (s.countRefusals r n x) = coreTables s := by
  cases x with
  | none => rfl
  | some x =>
    refine coreTables_foldl (fun s _ => ?_) _ s
    rw [State.countRefusal, coreTables_modDie, coreTables_count]

@[simp] theorem coreTables_noteMapped (s : State) (x : Space) (b : Bool) (ps : List Nat) :
    coreTables (s.noteMapped x b ps) = coreTables s := by
  cases x with
  | hbm => exact coreTables_foldl (fun s p => by dsimp only; generalize (if b = true then _ else _) = m; split <;> rfl) ps s
  | _ => rfl

@[simp] theorem coreTables_arrive (s : State) (w : PendWrite) : coreTables (s.arrive w) = coreTables s := by
  unfold State.arrive
  dsimp only
  split
  · exact coreTables_loseWrite s w _
  · split <;> split <;> simp

@[simp] theorem coreTables_performSome (s : State) (g : Nat) (go : PendWrite → Bool) :
    coreTables (s.performSome g go) = coreTables s := by
  unfold State.performSome
  dsimp only
  split
  · rfl
  · rw [coreTables_foldl coreTables_arrive]
    exact coreTables_modCore s g fun _ => ⟨rfl, rfl⟩

@[simp] theorem coreTables_before (s : State) (who : Who) (ps : List Nat) : coreTables (s.before who ps) = coreTables s := by
  unfold State.before State.seenOver State.performOver
  rw [coreTables_foldl fun s t => coreTables_performSome s _ _]
  split <;> exact coreTables_performSome s _ _

/-! #### Loads -/

@[simp] theorem coreTables_beforeRead (s : State) (who : Who) (rs : List Run) :
    coreTables (s.beforeRead who rs) = coreTables s := by
  unfold State.beforeRead
  dsimp only
  rw [coreTables_correct, coreTables_foldl fun s r => coreTables_noteMapped s _ _ _]
  split <;> simp

theorem coreTables_sliceReads {s t : State} {b : Bool} {rs : List Run} (h : s.sliceReads b rs = .ok t) :
    coreTables t = coreTables s := by
  have one : ∀ {s : State} {b c : Bool} {r : Run} {t : State}, s.sliceRead b r = .ok (c, t) → coreTables t = coreTables s := by
    intro s b c r t h
    unfold State.sliceRead at h
    split at h
    · cases h; rfl
    · dsimp only at h
      split at h
      · split at h <;> cases h; rfl
      · split at h
        · cases h; rfl
        · split at h <;> cases h; rfl
  induction rs generalizing s b with
  | nil => cases h; rfl
  | cons r l ih =>
    obtain ⟨u, hu, h⟩ := res_bind_ok h
    exact (ih h).trans (one hu)

/-- A load changes no table, whatever it meets at its place. -/
theorem coreTables_load {s t : State} {ea : Word} {n : Nat} {a : Option Nat} {bs : List Byte} (h : s.load ea n a = .ok (bs, t)) :
    coreTables t = coreTables s := by
  obtain ⟨x, hx, h⟩ := res_bind_ok h
  cases h
  obtain ⟨_, _, hx⟩ := res_bind_ok hx
  obtain ⟨_, _, hx⟩ := res_bind_ok hx
  obtain ⟨u, hu, hx⟩ := res_bind_ok hx
  cases hx
  have hc : ∀ v : State, coreTables (v.countAt ea) = coreTables v := fun v => by
    unfold State.countAt
    dsimp only
    split <;> simp
  have hs : ∀ (v : State) rs, coreTables (v.stallOn rs) = coreTables v := fun v rs => by
    unfold State.stallOn
    split
    · rfl
    · exact coreTables_modCtx v _ _
  rw [hc, hs, coreTables_cache, coreTables_beforeRead, coreTables_sliceReads hu]

/-! ### Lane moves and table loads (07 R138, R139) -/

theorem coreTables_advance (s : State) : coreTables s.advance = coreTables s := coreTables_modCtx s _ _

theorem coreTables_modMe (s : State) {f : Core → Core} (hf : ∀ k, (f k).q8 = k.q8 ∧ (f k).q4 = k.q4) :
    coreTables (s.modMe f) = coreTables s := coreTables_modCore s _ hf

theorem coreTables_vecBusy (s : State) (b : Nat) : coreTables (s.vecBusy b) = coreTables s := by
  unfold State.vecBusy
  split
  · exact coreTables_count s _ _ _
  · dsimp only
    rw [coreTables_modMe, coreTables_count]
    exact fun _ => ⟨rfl, rfl⟩

/-- The executing core's tables in states that agree on tables. -/
theorem me_tables {s t : State} (h : coreTables t = coreTables s) : t.me.q8 = s.me.q8 ∧ t.me.q4 = s.me.q4 := by
  obtain ⟨hr, hc⟩ := Prod.ext_iff.mp h
  have hr : t.cur = s.cur := hr
  have hg := congrFun hc s.cur.core
  unfold State.me
  rw [hr]
  exact Prod.ext_iff.mp hg

/-- The sign of a pattern of k + 1 bits. -/
theorem signedLow_of_lt {k x : Nat} (hx : x < 2 ^ (k + 1)) :
    signedLow x (k + 1) = if 2 ^ k ≤ x then (x : Int) - (2 ^ (k + 1) : Nat) else x := by
  rw [signedLow, Nat.mod_eq_of_lt hx, Nat.add_sub_cancel]

theorem laneInt_true {w x : Nat} (hw : 0 < w) (hx : x < 2 ^ w) : laneInt true w x = signedLow x w := by
  obtain ⟨k, rfl⟩ := Nat.exists_eq_add_one_of_ne_zero hw.ne'
  rw [laneInt, signedLow_of_lt hx, Nat.add_sub_cancel, Bool.true_and]
  rcases Nat.lt_or_ge x (2 ^ k) with h | h
  · rw [Nat.testBit_lt_two_pow h, if_neg (by simp), if_neg (Nat.not_le.mpr h)]
  · rw [Nat.testBit_of_two_pow_le_and_two_pow_add_one_gt h hx, if_pos rfl, if_pos h]
    norm_cast

/-- A lane's pattern read as an integer of its type. -/
theorem laneInt_eq_laneVal (dt : Nat) {x : Nat} (hx : x < 2 ^ dtWidth dt) :
    laneInt (dtSigned dt) (dtWidth dt) x = laneVal dt x := by
  unfold laneVal dtSigned
  by_cases hd : dt < 4
  · rw [if_pos hd, decide_eq_true hd, laneInt_true (dtWidth_pos dt) hx]
  · simp [hd, laneInt]

theorem vins_result (s : State) (vd : VReg) (ra rb : Reg) (dt : Fin 8) :
    ∃ t, exec (.vins vd ra rb dt) s = .next t ∧ OnlyVec s t Says.none (· = vd) 0 ∧ ∀ k, k < 512 / dtWidth dt →
      lane (t.getV vd) (dtWidth dt) k = if k = (s.getW rb).toNat % (512 / dtWidth dt) then (s.getW ra).toNat % 2 ^ dtWidth dt
        else lane (s.getV vd) (dtWidth dt) k := by
  obtain ⟨t, ht, ho, hv⟩ := completes_vretire (s := s) (i := .vins vd ra rb dt) rfl
  refine ⟨t, ht, ho, fun k hk => ?_⟩
  rw [hv, mergeLanes, lane_ofLanes_range hk, State.laneIx, dtLanes]
  by_cases h : k = (s.getW rb).toNat % (512 / dtWidth dt)
  · simp [h]
  · simp [h, Nat.mod_eq_of_lt (lane_lt _ _ _)]

theorem vext_result (s : State) (vd : VReg) (ra rb : Reg) (dt : Fin 8) :
    ∃ t, exec (.vext vd ra rb dt) s = .next t ∧ OnlyVec s t (· = ra) Says.none 0 ∧ (ra ≠ 0 → t.getW ra =
      BitVec.ofInt 64 (laneVal dt (lane (s.getV vd) (dtWidth dt) ((s.getW rb).toNat % (512 / dtWidth dt))))) := by
  refine ⟨_, rfl, onlyVec_trans (onlyVec_trans (onlyVec_vecBusy s 1) (onlyVec_setW (w := (· = ra)) _ rfl _)) (onlyVec_advance _),
    fun h => ?_⟩
  rw [getW_retire, if_pos ⟨rfl, h⟩, wordOfInt, laneInt_eq_laneVal _ (lane_lt _ _ _)]
  rfl

/-- The image that a table load reads: one entry for each 4 bytes. -/
def tableImage (q : Fin 2) (bs : List Byte) : List (BitVec 32) :=
  (List.range (if q = 1 then 128 else 8)).map fun k => BitVec.ofNat 32 (ofBytes ((bs.drop (4 * k)).take 4))

/-- A table load whose bytes are read acts on their image. -/
theorem exec_vtbl {s t : State} {ra : Reg} {q : Fin 2} {bs : List Byte} (ha : (s.getW ra).toNat % 4 = 0)
    (hl : s.load (s.getW ra) (if q = 1 then 512 else 32) = .ok (bs, t)) :
    exec (.vtbl ra q) s = settle s (match tableBad (tableImage q bs) with
      | some i => t.found (.sys 0x01 (BitVec.ofNat 64 i) 0 .none)
      | .none => .ok ((t.modMe fun k =>
          if q == 1 then { k with q8 := tableImage q bs } else { k with q4 := tableImage q bs }).vecBusy 0).advance) := by
  have hs : tableSize (q == 1) = if q = 1 then 128 else 8 := by
    by_cases h : q = 1 <;> simp [tableSize, h]
  have hl' : s.load (s.getW ra) (4 * tableSize (q == 1)) = .ok (bs, t) := by
    rw [hs, ← hl]
    split <;> rfl
  have he : exec (.vtbl ra q) s = execVtbl ra q s := rfl
  have ha' : aligned (s.getW ra) 4 = true := by simp [aligned, ha]
  rw [he, execVtbl, ha', tableImage, ← hs]
  simp only [Bool.not_true, Bool.false_eq_true, if_false, hl']
  rfl

theorem vtbl_result {s t : State} {ra : Reg} {q : Fin 2} {bs : List Byte} (ha : (s.getW ra).toNat % 4 = 0)
    (hl : s.load (s.getW ra) (if q = 1 then 512 else 32) = .ok (bs, t)) :
    (tableBad (tableImage q bs) = .none → ∃ u, exec (.vtbl ra q) s = .next u ∧
      u.me.q8 = (if q = 1 then tableImage q bs else s.me.q8) ∧ u.me.q4 = (if q = 1 then s.me.q4 else tableImage q bs)) ∧
    ∀ k, tableBad (tableImage q bs) = some k →
      exec (.vtbl ra q) s = .next ((settled t).sysFault 0x01 (BitVec.ofNat 64 k) 0 .none) := by
  rw [exec_vtbl ha hl]
  obtain ⟨h8, h4⟩ := me_tables (coreTables_load hl)
  refine ⟨fun h => ⟨_, by rw [h]; rfl, ?_⟩, fun k h => by rw [h]; rfl⟩
  obtain ⟨u8, u4⟩ := me_tables ((coreTables_advance _).trans (coreTables_vecBusy (t.modMe fun k =>
    if q == 1 then { k with q8 := tableImage q bs } else { k with q4 := tableImage q bs }) 0))
  rw [u8, u4, State.me_modMe, ← h8, ← h4]
  by_cases hq : q = 1 <;> simp [hq]

/-- Settles O40: a vector that is retired carries its table value, and a load changes no table of its own. -/
theorem maskAndMoveResults : Obligations.MaskAndMoveResults :=
  ⟨maskResults, fun s vd ra rb dt _ => ⟨vins_result s vd ra rb dt, vext_result s vd ra rb dt,
    fun _ _ ha hl => vtbl_result ha hl⟩⟩

end Sys2Proof.NumberFormats
end

section
/-! PROOFS. Reductions by the pairwise tree (02 R45, 07 R134). -/

namespace Sys2Proof.NumberFormats

open Sys2Proof.Machine
open Sys2Proof.Says hiding none

/-! ### The pairwise tree as nodes over leaves (02 R45) -/

section
variable {α β : Type} (f : α → α → α) (leaf : Nat → Option α)

/-- The nodes over the first level are the nodes one level up. -/
theorem treeNode_level_one (h k : Nat) : treeNode f (treeNode f leaf 1) h k = treeNode f leaf (h + 1) k := by
  induction h generalizing k with
  | zero => rfl
  | succ h ih => rw [treeNode, ih, ih]; rfl

/-- One level of the model's tree is the first level of nodes. -/
theorem pairUp_eq_treeNode : ∀ (xs : List (Option α)) (k : Nat),
    ((pairUp f xs)[k]?).join = treeNode f (fun j => (xs[j]?).join) 1 k
  | [], k => by simp [pairUp, treeNode]
  | [x], 0 => by cases x <;> simp [pairUp, treeNode]
  | [x], k + 1 => by simp [pairUp, treeNode, Nat.mul_succ]
  | a :: b :: t, 0 => by cases a <;> cases b <;> simp [pairUp, treeNode]
  | a :: b :: t, k + 1 => by
    have h : pairUp f (a :: b :: t) = treeNode f (fun j => ((a :: b :: t)[j]?).join) 1 0 :: pairUp f t := by
      cases a <;> cases b <;> simp [pairUp, treeNode]
    rw [h, List.getElem?_cons_succ, pairUp_eq_treeNode t k]
    simp only [treeNode, Nat.mul_succ, List.getElem?_cons_succ]

theorem length_pairUp : ∀ xs : List (Option α), (pairUp f xs).length = (xs.length + 1) / 2
  | [] => by simp [pairUp]
  | [_] => by simp [pairUp]
  | a :: b :: t => by
    have h : (pairUp f (a :: b :: t)).length = (pairUp f t).length + 1 := by cases a <;> cases b <;> simp [pairUp]
    rw [h, length_pairUp t, List.length_cons, List.length_cons]
    omega

theorem reduceTree_succ (n : Nat) (xs : List (Option α)) : reduceTree f (n + 1) xs = reduceTree f n (pairUp f xs) := by
  match xs with
  | [] => cases n <;> rfl
  | [x] => cases n <;> rfl
  | a :: b :: t => rfl

/-- The model's tree over at most 2^n lanes is the node at height n. -/
theorem reduceTree_eq_treeNode (n : Nat) {xs : List (Option α)} (h : xs.length ≤ 2 ^ n) :
    reduceTree f n xs = treeNode f (fun j => (xs[j]?).join) n 0 := by
  induction n generalizing xs with
  | zero =>
    match xs, h with
    | [], _ => rfl
    | [x], _ => rfl
  | succ n ih =>
    rw [reduceTree_succ, ih (by rw [length_pairUp]; omega), ← treeNode_level_one]
    congr 1
    exact funext (pairUp_eq_treeNode f xs)

variable {f leaf}

/-- What holds of the leaves and passes through every combination holds of every node. -/
theorem treeNode_all {p : α → Prop} (hf : ∀ a b, p a → p b → p (f a b)) (hl : ∀ k a, leaf k = some a → p a) (h k : Nat) :
    ∀ a ∈ treeNode f leaf h k, p a := by
  induction h generalizing k with
  | zero => exact hl k
  | succ h ih =>
    intro a ha
    unfold treeNode at ha
    split at ha
    · next x y hx hy => cases ha; exact hf x y (ih _ x hx) (ih _ y hy)
    · next x hx _ => cases ha; exact ih _ _ hx
    · exact ih _ a ha

/-- A map that respects the combination maps the nodes. -/
theorem map_treeNode {g : β → β → β} {m : α → β} (hm : ∀ a b, m (f a b) = g (m a) (m b)) (h k : Nat) :
    (treeNode f leaf h k).map m = treeNode g (fun j => (leaf j).map m) h k := by
  induction h generalizing k with
  | zero => rfl
  | succ h ih =>
    rw [treeNode, treeNode, ← ih, ← ih]
    cases treeNode f leaf h (2 * k) <;> cases treeNode f leaf h (2 * k + 1) <;> simp [hm]

/-- The fold of a list without a start value. -/
def foldSome (f : α → α → α) : List α → Option α
  | [] => .none
  | a :: l => some (l.foldl f a)

/-- An associative combination of two folds is the fold of both lists. -/
theorem foldSome_append (ha : ∀ a b c, f (f a b) c = f a (f b c)) (l m : List α) :
    foldSome f (l ++ m) = match foldSome f l, foldSome f m with
      | some a, some b => some (f a b)
      | some a, .none => some a
      | .none, y => y := by
  have : Std.Associative f := ⟨ha⟩
  match l, m with
  | [], m => rfl
  | a :: l, [] => simp [foldSome]
  | a :: l, b :: m => simp [foldSome, List.foldl_assoc]

/-- Where the combination is associative, a node is the fold of its leaves: the shape of the tree does not show. -/
theorem treeNode_eq_foldSome (ha : ∀ a b c, f (f a b) c = f a (f b c)) (h k : Nat) :
    treeNode f leaf h k = foldSome f ((List.range' (k * 2 ^ h) (2 ^ h)).filterMap leaf) := by
  induction h generalizing k with
  | zero => cases hk : leaf k <;> simp [treeNode, foldSome, hk]
  | succ h ih =>
    have hr : List.range' (k * 2 ^ (h + 1)) (2 ^ (h + 1)) =
        List.range' (2 * k * 2 ^ h) (2 ^ h) ++ List.range' ((2 * k + 1) * 2 ^ h) (2 ^ h) := by
      rw [show (2 * k + 1) * 2 ^ h = 2 * k * 2 ^ h + 1 * 2 ^ h by ring, List.range'_append]
      congr 1 <;> ring
    rw [hr, List.filterMap_append, foldSome_append ha, ← ih, ← ih]
    rfl

end

/-! ### The leaves of a reduction -/

/-- The pattern of an active lane below L. -/
def laneLeaf (s : State) (va vm : VReg) (dt k : Nat) : Option Nat :=
  if k < dtLanes dt ∧ s.active vm k then some (lane (s.getV va) (dtWidth dt) k) else .none

theorem laneLeaf_lt {s : State} {va vm : VReg} {dt k a : Nat} (h : laneLeaf s va vm dt k = some a) : a < 2 ^ dtWidth dt := by
  unfold laneLeaf at h
  split at h
  · cases h; exact lane_lt _ _ _
  · cases h

theorem laneList_getElem (s : State) (va vm : VReg) (dt k : Nat) : ((s.laneList va vm dt)[k]?).join = laneLeaf s va vm dt k := by
  unfold State.laneList laneLeaf
  by_cases h : k < dtLanes dt <;> simp [h]

theorem length_laneList (s : State) (va vm : VReg) (dt : Nat) : (s.laneList va vm dt).length ≤ 2 ^ 7 := by
  simpa [State.laneList] using dtLanes_le dt

/-- The integer tree of the model over the active lanes. -/
theorem reduceTree_laneList (f : Nat → Nat → Nat) (s : State) (va vm : VReg) (dt : Nat) :
    reduceTree f 7 (s.laneList va vm dt) = treeNode f (laneLeaf s va vm dt) 7 0 := by
  rw [reduceTree_eq_treeNode f 7 (length_laneList s va vm dt)]
  congr 1
  exact funext (laneList_getElem s va vm dt)

/-- The leaves in order are the patterns of the active lanes. -/
theorem filterMap_laneLeaf (s : State) (va vm : VReg) (dt : Nat) :
    (List.range' (0 * 2 ^ 7) (2 ^ 7)).filterMap (laneLeaf s va vm dt) = activeList s va vm dt := by
  obtain ⟨m, hm⟩ := Nat.exists_eq_add_of_le (dtLanes_le dt)
  have hr : List.range' (0 * 2 ^ 7) (2 ^ 7) = List.range (dtLanes dt) ++ (List.range m).map (dtLanes dt + ·) := by
    rw [← List.range_add, ← hm, List.range_eq_range']
    rfl
  have hhi : ((List.range m).map (dtLanes dt + ·)).filterMap (laneLeaf s va vm dt) = [] := by
    simp [List.filterMap_eq_nil_iff, laneLeaf]
  have hlo : ∀ k ∈ List.range (dtLanes dt), laneLeaf s va vm dt k =
      if s.active vm k then some (lane (s.getV va) (dtWidth dt) k) else .none := fun k hk => by
    simp [laneLeaf, List.mem_range.mp hk]
  rw [hr, List.filterMap_append, hhi, List.append_nil, List.filterMap_congr hlo, activeList]
  induction List.range (dtLanes dt) with
  | nil => rfl
  | cons k l ih => by_cases h : s.active vm k <;> simp_all

theorem mem_activeList_lt {s : State} {va vm : VReg} {dt a : Nat} (h : a ∈ activeList s va vm dt) : a < 2 ^ dtWidth dt := by
  obtain ⟨k, _, rfl⟩ := List.mem_map.mp h
  exact lane_lt _ _ _

/-! ### Integer reductions (07 R134) -/

/-- An operation on patterns of w bits that a tree may combine in any shape, with its value where no lane is active. -/
structure Combines (w id : Nat) (f : Nat → Nat → Nat) : Prop where
  assoc : ∀ a b c, f (f a b) c = f a (f b c)
  lt : ∀ a b, a < 2 ^ w → b < 2 ^ w → f a b < 2 ^ w
  id_lt : id < 2 ^ w
  id_left : ∀ a, a < 2 ^ w → f id a = a

theorem foldl_lt {w id : Nat} {f : Nat → Nat → Nat} (h : Combines w id f) {l : List Nat} (hl : ∀ a ∈ l, a < 2 ^ w) {c : Nat}
    (hc : c < 2 ^ w) : l.foldl f c < 2 ^ w := by
  induction l generalizing c with
  | nil => exact hc
  | cons a l ih => exact ih (fun b hb => hl b (by simp [hb])) (h.lt c a hc (hl a (by simp)))

/-- The fold from the value without a lane is the fold without a start value. -/
theorem foldSome_getD {w id : Nat} {f : Nat → Nat → Nat} (h : Combines w id f) {l : List Nat} (hl : ∀ a ∈ l, a < 2 ^ w) :
    (foldSome f l).getD id % 2 ^ w = l.foldl f id := by
  have hlt := foldl_lt h hl h.id_lt
  cases l with
  | nil => exact Nat.mod_eq_of_lt hlt
  | cons a l =>
    rw [List.foldl_cons, h.id_left a (hl a (by simp))] at hlt ⊢
    exact Nat.mod_eq_of_lt hlt

/-- A reduction by the tree is the fold over the active lanes. -/
theorem vred_eq_foldl {s : State} {i : Instr} {vd va vm : VReg} {dt id : Nat} {f : Nat → Nat → Nat} (h : Combines (dtWidth dt) id f)
    (he : exec i s =
      .next (s.vretire vd (BitVec.ofNat 512 ((reduceTree f 7 (s.laneList va vm dt)).getD id % 2 ^ dtWidth dt)))) :
    ∃ t, exec i s = .next t ∧ OnlyVec s t Says.none (· = vd) 0 ∧ (t.getV vd).toNat = (activeList s va vm dt).foldl f id := by
  obtain ⟨t, ht, ho, hv⟩ := completes_vretire he
  refine ⟨t, ht, ho, ?_⟩
  rw [hv, reduceTree_laneList, treeNode_eq_foldSome h.assoc, filterMap_laneLeaf, foldSome_getD h fun a ha => mem_activeList_lt ha]
  exact toNat_ofNat_small (le_of_lt_two_pow_dtWidth (foldl_lt h (fun a ha => mem_activeList_lt ha) h.id_lt))

/-- Choosing the later of two where a relation says so is associative for a weak order. -/
theorem choose_assoc {α : Type} (r : α → α → Prop) [DecidableRel r] (ht : ∀ a b c, r a b → r b c → r a c)
    (hn : ∀ a b c, ¬ r a b → ¬ r b c → ¬ r a c) (a b c : α) :
    (if r (if r a b then b else a) c then c else if r a b then b else a) =
      if r a (if r b c then c else b) then (if r b c then c else b) else a := by
  by_cases hab : r a b <;> by_cases hbc : r b c
  · simp [hab, hbc, ht a b c hab hbc]
  · simp [hab, hbc]
  · simp [hab, hbc]
  · simp [hab, hbc, hn a b c hab hbc]

theorem combines_choose {w id : Nat} (r : Nat → Nat → Prop) [DecidableRel r] (ht : ∀ a b c, r a b → r b c → r a c)
    (hn : ∀ a b c, ¬ r a b → ¬ r b c → ¬ r a c) (hid : id < 2 ^ w) (hl : ∀ a, a < 2 ^ w → a ≠ id → r id a) :
    Combines w id fun a b => if r a b then b else a where
  assoc := choose_assoc r ht hn
  lt a b ha hb := by
    split
    · exact hb
    · exact ha
  id_lt := hid
  id_left a ha := by
    by_cases h : a = id
    · rw [h]
      split <;> rfl
    · rw [if_pos (hl a ha h)]

/-- The signed larger of two patterns; the most negative one is its value without a lane. -/
theorem combines_signedMax {w : Nat} (hw : 0 < w) :
    Combines w (2 ^ (w - 1)) fun a b => if laneInt true w a < laneInt true w b then b else a := by
  obtain ⟨k, rfl⟩ := Nat.exists_eq_add_one_of_ne_zero hw.ne'
  have hk : 2 ^ (k + 1) = 2 * 2 ^ k := Nat.pow_succ'
  have hid : 2 ^ k < 2 ^ (k + 1) := Nat.pow_lt_pow_succ (by decide)
  refine combines_choose (fun a b => laneInt true (k + 1) a < laneInt true (k + 1) b) (fun a b c => lt_trans)
    (fun a b c => by simpa using fun h h' => le_trans h' h) hid fun a ha hne => ?_
  rw [Nat.add_sub_cancel] at hne ⊢
  rw [laneInt_true hw ha, laneInt_true hw hid, signedLow_of_lt ha, signedLow_of_lt hid, if_pos le_rfl]
  rw [hk] at ha ⊢
  generalize 2 ^ k = n at *
  split <;> omega

/-- The signed smaller of two patterns; the most positive one is its value without a lane. -/
theorem combines_signedMin {w : Nat} (hw : 0 < w) :
    Combines w (2 ^ (w - 1) - 1) fun a b => if laneInt true w b < laneInt true w a then b else a := by
  obtain ⟨k, rfl⟩ := Nat.exists_eq_add_one_of_ne_zero hw.ne'
  have hp := Nat.two_pow_pos k
  have hk : 2 ^ (k + 1) = 2 * 2 ^ k := Nat.pow_succ'
  have hid : 2 ^ k - 1 < 2 ^ (k + 1) := by omega
  refine combines_choose (fun a b => laneInt true (k + 1) b < laneInt true (k + 1) a) (fun a b c h h' => h'.trans h)
    (fun a b c => by simpa using fun h h' => le_trans h h') hid fun a ha hne => ?_
  rw [Nat.add_sub_cancel] at hne ⊢
  rw [laneInt_true hw ha, laneInt_true hw hid, signedLow_of_lt ha, signedLow_of_lt hid]
  rw [hk] at ha ⊢
  generalize 2 ^ k = n at *
  split <;> split <;> omega

theorem combines_add (w : Nat) : Combines w 0 fun a b => (a + b) % 2 ^ w where
  assoc a b c := by simp [Nat.add_assoc]
  lt _ _ _ _ := Nat.mod_lt _ (Nat.two_pow_pos w)
  id_lt := Nat.two_pow_pos w
  id_left a h := by simp [Nat.mod_eq_of_lt h]

theorem combines_max (w : Nat) : Combines w 0 max where
  assoc := Nat.max_assoc
  lt _ _ ha hb := Nat.max_lt.mpr ⟨ha, hb⟩
  id_lt := Nat.two_pow_pos w
  id_left := fun a _ => Nat.zero_max a

theorem combines_min (w : Nat) : Combines w (2 ^ w - 1) min where
  assoc := Nat.min_assoc
  lt a b ha _ := (Nat.min_le_left a b).trans_lt ha
  id_lt := Nat.sub_one_lt (Nat.two_pow_pos w).ne'
  id_left _ h := Nat.min_eq_right (Nat.le_sub_one_of_lt h)

theorem combines_and (w : Nat) : Combines w (2 ^ w - 1) (· &&& ·) where
  assoc := Nat.and_assoc
  lt a b _ hb := Nat.and_lt_two_pow a hb
  id_lt := Nat.sub_one_lt (Nat.two_pow_pos w).ne'
  id_left a h := by rw [Nat.and_comm, Nat.and_two_pow_sub_one_of_lt_two_pow h]

theorem combines_or (w : Nat) : Combines w 0 (· ||| ·) where
  assoc := Nat.or_assoc
  lt _ _ := Nat.or_lt_two_pow
  id_lt := Nat.two_pow_pos w
  id_left a _ := Nat.zero_or a

/-- Operations that agree on patterns fold them alike. -/
theorem foldl_agree {w id : Nat} {f g : Nat → Nat → Nat} (h : Combines w id f)
    (hg : ∀ a b, a < 2 ^ w → b < 2 ^ w → f a b = g a b) {l : List Nat} (hl : ∀ a ∈ l, a < 2 ^ w) {c : Nat} (hc : c < 2 ^ w) :
    l.foldl f c = l.foldl g c := by
  induction l generalizing c with
  | nil => rfl
  | cons a l ih =>
    have ha := hl a (by simp)
    rw [List.foldl_cons, List.foldl_cons, ih (fun b hb => hl b (by simp [hb])) (h.lt c a hc ha), hg c a hc ha]

/-- A reduction to a signed extreme, in the model's reading of a pattern and in the spec's. -/
theorem vred_eq_foldl_of_agree {s : State} {i : Instr} {vd va vm : VReg} {dt id : Nat} {f g : Nat → Nat → Nat}
    (h : Combines (dtWidth dt) id f) (hg : ∀ a b, a < 2 ^ dtWidth dt → b < 2 ^ dtWidth dt → f a b = g a b)
    (he : exec i s =
      .next (s.vretire vd (BitVec.ofNat 512 ((reduceTree f 7 (s.laneList va vm dt)).getD id % 2 ^ dtWidth dt)))) :
    ∃ t, exec i s = .next t ∧ OnlyVec s t Says.none (· = vd) 0 ∧ (t.getV vd).toNat = (activeList s va vm dt).foldl g id := by
  obtain ⟨t, ht, ho, hv⟩ := vred_eq_foldl h he
  exact ⟨t, ht, ho, hv.trans (foldl_agree h hg (fun a ha => mem_activeList_lt ha) h.id_lt)⟩

theorem integerReductionResults : Says.IntegerReductionResults := by
  intro s i vd va vm dt id f h
  cases i with
  | vrsum => cases h; exact vred_eq_foldl (combines_add _) rfl
  | vrmax =>
    cases h
    refine vred_eq_foldl_of_agree (combines_signedMax (dtWidth_pos _)) (fun a b ha hb => ?_) rfl
    rw [laneInt_true (dtWidth_pos _) ha, laneInt_true (dtWidth_pos _) hb]
  | vrmin =>
    cases h
    refine vred_eq_foldl_of_agree (combines_signedMin (dtWidth_pos _)) (fun a b ha hb => ?_) rfl
    rw [laneInt_true (dtWidth_pos _) ha, laneInt_true (dtWidth_pos _) hb]
  | vrmaxn => cases h; exact vred_eq_foldl (combines_max _) rfl
  | vrminn => cases h; exact vred_eq_foldl (combines_min _) rfl
  | vrand => cases h; exact vred_eq_foldl (combines_and _) rfl
  | vror => cases h; exact vred_eq_foldl (combines_or _) rfl
  | _ => cases h

end Sys2Proof.NumberFormats
end

section
/-! PROOFS. Float reductions (02 R45, 07 R131, R134). -/

namespace Sys2Proof.NumberFormats

open Sys2Proof.Machine
open Sys2Proof.Says hiding none

/-! ### The order of the numbers of a format (07 R131) -/

/-- A number m × 2^e with its sign, as a rational. -/
def numRat (neg : Bool) (m : Nat) (e : Int) : ℚ := (if neg then -(m : ℚ) else m) * 2 ^ e

/-- Where a value that is no NaN stands in the order: infinities outside, −0 below +0. -/
def orderKey : Val → ℤ ×ₗ ℚ ×ₗ ℤ
  | .nan _ => toLex (0, toLex (0, 0))
  | .inf neg => toLex (if neg then -1 else 1, toLex (0, 0))
  | .num neg m e => toLex (0, toLex (numRat neg m e, if neg then 0 else 1))

/-- A number scaled to a lower exponent keeps its value. -/
theorem scaled_cast (neg : Bool) (m : Nat) {e q : Int} (h : q ≤ e) : (scaled neg m e q : ℚ) * 2 ^ q = numRat neg m e := by
  have hp : ((2 : ℚ) ^ (e - q).toNat) * 2 ^ q = 2 ^ e := by
    rw [← zpow_natCast, Int.toNat_of_nonneg (by omega), ← zpow_add₀ (by norm_num), Int.sub_add_cancel]
  unfold scaled numRat
  cases neg <;> push_cast <;> simp [mul_assoc, hp]

theorem scaled_lt_iff (x y : Bool) (m n : Nat) (e g : Int) :
    scaled x m e (min e g) < scaled y n g (min e g) ↔ numRat x m e < numRat y n g := by
  rw [← scaled_cast x m (min_le_left e g), ← scaled_cast y n (min_le_right e g), mul_lt_mul_iff_left₀ (by positivity), Int.cast_lt]

theorem scaled_eq_iff (x y : Bool) (m n : Nat) (e g : Int) :
    scaled x m e (min e g) = scaled y n g (min e g) ↔ numRat x m e = numRat y n g := by
  rw [← scaled_cast x m (min_le_left e g), ← scaled_cast y n (min_le_right e g), mul_left_inj' (by positivity), Int.cast_inj]

/-- The order that the extremes of 07 R131 use is the order of the keys. -/
theorem below_iff {x y : Val} (hx : x.isNan = false) (hy : y.isNan = false) :
    (x.lt y || (x.eq y && x.neg && !y.neg)) = true ↔ orderKey x < orderKey y := by
  match x, y with
  | .inf a, .inf b => cases a <;> cases b <;> simp [Val.lt, Val.eq, Val.neg, orderKey, Prod.Lex.toLex_lt_toLex]
  | .inf a, .num b n g => cases a <;> simp [Val.lt, Val.eq, Val.neg, orderKey, Prod.Lex.toLex_lt_toLex]
  | .num a m e, .inf b => cases b <;> simp [Val.lt, Val.eq, Val.neg, orderKey, Prod.Lex.toLex_lt_toLex]
  | .num a m e, .num b n g =>
    simp only [Val.lt, Val.eq, Val.neg, orderKey, Prod.Lex.toLex_lt_toLex, scaled_lt_iff, scaled_eq_iff]
    cases a <;> cases b <;> simp

/-! ### The extreme of two patterns -/

/-- The pattern that `vfmax` and `vfmin` choose. -/
def extreme (f : Fmt) (larger : Bool) (a b : Nat) : Nat := (f.minMax larger a b).1

/-- The second of two patterns is chosen: it is above the first for the larger, and not above it for the smaller. -/
def Chosen (f : Fmt) (larger : Bool) (a b : Nat) : Prop := orderKey (f.val a) < orderKey (f.val b) ↔ larger = true

section
variable {f : Fmt} {larger : Bool} {a b c : Nat}

theorem chosen_trans (h : Chosen f larger a b) (k : Chosen f larger b c) : Chosen f larger a c := by
  unfold Chosen at *
  cases larger
  · simp only [Bool.false_eq_true, iff_false, not_lt] at *
    exact k.trans h
  · simp only [iff_true] at *
    exact h.trans k

theorem not_chosen_trans (h : ¬ Chosen f larger a b) (k : ¬ Chosen f larger b c) : ¬ Chosen f larger a c := by
  unfold Chosen at *
  cases larger
  · simp only [Bool.false_eq_true, iff_false, not_not] at *
    exact h.trans k
  · simp only [iff_true, not_lt] at *
    exact k.trans h

theorem extreme_of_nan (h : (f.val a).isNan = true ∨ (f.val b).isNan = true) : extreme f larger a b = f.nan := by
  have h' : ((f.val a).isNan || (f.val b).isNan) = true := by simpa using h
  simp [extreme, Fmt.minMax, h']

open Classical in
theorem extreme_of_num (ha : (f.val a).isNan = false) (hb : (f.val b).isNan = false) :
    extreme f larger a b = if Chosen f larger a b then b else a := by
  have hc : ((((f.val a).lt (f.val b) || ((f.val a).eq (f.val b) && (f.val a).neg && !(f.val b).neg)) == larger) = true) ↔
      Chosen f larger a b := by
    rw [beq_iff_eq, Bool.eq_iff_iff, below_iff ha hb, Chosen]
  simp only [extreme, Fmt.minMax, ha, hb, Bool.or_self, Bool.false_eq_true, if_false]
  split_ifs <;> tauto

theorem extreme_cases : extreme f larger a b = f.nan ∨ extreme f larger a b = a ∨ extreme f larger a b = b := by
  unfold extreme Fmt.minMax
  dsimp only
  split_ifs
  · exact .inl rfl
  · exact .inr (.inr rfl)
  · exact .inr (.inl rfl)

variable (hn : (f.val f.nan).isNan = true)
include hn

/-- A NaN shows in every later choice. -/
theorem isNan_extreme : (f.val (extreme f larger a b)).isNan = ((f.val a).isNan || (f.val b).isNan) := by
  by_cases ha : (f.val a).isNan = true
  · rw [extreme_of_nan (.inl ha), hn, ha, Bool.true_or]
  · by_cases hb : (f.val b).isNan = true
    · rw [extreme_of_nan (.inr hb), hn, hb, Bool.or_true]
    · rw [Bool.not_eq_true] at ha hb
      rw [extreme_of_num ha hb]
      split_ifs <;> simp [ha, hb]

theorem extreme_assoc (a b c : Nat) :
    extreme f larger (extreme f larger a b) c = extreme f larger a (extreme f larger b c) := by
  by_cases h : ((f.val a).isNan || (f.val b).isNan || (f.val c).isNan) = true
  · have hl : (f.val (extreme f larger a b)).isNan = true ∨ (f.val c).isNan = true := by
      rwa [isNan_extreme hn, ← Bool.or_eq_true]
    have hr : (f.val a).isNan = true ∨ (f.val (extreme f larger b c)).isNan = true := by
      rwa [isNan_extreme hn, ← Bool.or_eq_true, ← Bool.or_assoc]
    rw [extreme_of_nan hl, extreme_of_nan hr]
  · simp only [Bool.not_eq_true, Bool.or_eq_false_iff] at h
    obtain ⟨⟨ha, hb⟩, hc⟩ := h
    have hab : (f.val (extreme f larger a b)).isNan = false := by rw [isNan_extreme hn, ha, hb]; rfl
    have hbc : (f.val (extreme f larger b c)).isNan = false := by rw [isNan_extreme hn, hb, hc]; rfl
    rw [extreme_of_num hab hc, extreme_of_num ha hbc, extreme_of_num ha hb, extreme_of_num hb hc]
    exact @choose_assoc Nat (Chosen f larger) (Classical.decRel _) (fun _ _ _ => chosen_trans) (fun _ _ _ => not_chosen_trans) a b c

theorem isNan_foldl_extreme (l : List Nat) (c : Nat) :
    (f.val (l.foldl (extreme f larger) c)).isNan = ((f.val c).isNan || l.any fun a => (f.val a).isNan) := by
  induction l generalizing c with
  | nil => simp
  | cons a l ih => rw [List.foldl_cons, ih, isNan_extreme hn, List.any_cons, Bool.or_assoc]

/-- The tree's extreme with every NaN made the default one is the fold from the value without a lane. -/
theorem foldSome_extreme {id : Nat} {l : List Nat} (hid : (f.val id).isNan = false)
    (hl : ∀ a ∈ l, (f.val a).isNan = false → extreme f larger id a = a) :
    (if (f.val ((foldSome (extreme f larger) l).getD id)).isNan then f.nan else (foldSome (extreme f larger) l).getD id) =
      if l.any fun a => (f.val a).isNan then f.nan else l.foldl (extreme f larger) id := by
  cases l with
  | nil => simp [foldSome, hid]
  | cons a l =>
    have hx : (foldSome (extreme f larger) (a :: l)).getD id = l.foldl (extreme f larger) a := rfl
    rw [hx, isNan_foldl_extreme hn, ← List.any_cons (f := fun a => (f.val a).isNan)]
    split_ifs with h
    · rfl
    · rw [List.foldl_cons, hl a (by simp) (by simp_all)]

end

/-! #### The value without a lane -/

/-- The outer infinity on the side of the choice gives way to every number. -/
theorem extreme_inf {f : Fmt} {larger : Bool} {id a : Nat} (hid : f.val id = .inf larger) (ha : (f.val a).isNan = false)
    (hu : f.val a = .inf larger → a = id) : extreme f larger id a = a := by
  have hin : (f.val id).isNan = false := by rw [hid]; rfl
  rw [extreme_of_num hin ha]
  split_ifs with h
  · rfl
  · refine (hu ?_).symm
    unfold Chosen at h
    rw [hid] at h
    match hv : f.val a, larger, h with
    | .nan _, _, _ => rw [hv] at ha; cases ha
    | .inf true, true, _ => rfl
    | .inf false, false, _ => rfl
    | .inf false, true, h => simp [orderKey, Prod.Lex.toLex_lt_toLex] at h
    | .inf true, false, h => simp [orderKey, Prod.Lex.toLex_lt_toLex] at h
    | .num n m e, true, h => simp [orderKey, Prod.Lex.toLex_lt_toLex] at h
    | .num n m e, false, h => simp [orderKey, Prod.Lex.toLex_lt_toLex] at h

/-- An infinity has one pattern for each sign. -/
theorem val_inf {f : Fmt} {x : Nat} (hx : x < 2 ^ (f.ew + f.fw + 1)) {neg : Bool} (h : f.val x = .inf neg) :
    x = f.signed neg f.inf := by
  have hs := signed_fields f hx
  unfold Fmt.val at h
  dsimp only at h
  split at h
  · next he =>
    split at h
    · next hf => cases h; rw [he, hf, Nat.add_zero] at hs; exact hs.symm
    · cases h
  · split at h <;> cases h

theorem dtFmt_cases (dt : Nat) : dtFmt dt = bf16 ∨ dtFmt dt = fp16 ∨ dtFmt dt = fp32 ∨ dtFmt dt = fp64 := by
  unfold dtFmt
  split_ifs <;> simp

/-- What the four formats of the float types share: a NaN and two infinities where their patterns say, in 64 bits. -/
theorem dtFmt_sound (dt : Nat) : ((dtFmt dt).val (dtFmt dt).nan).isNan = true ∧ (dtFmt dt).val (dtFmt dt).inf = .inf false ∧
    (dtFmt dt).val ((dtFmt dt).signed true (dtFmt dt).inf) = .inf true ∧ 2 ^ (dtFmt dt).sign + (dtFmt dt).nan ≤ 2 ^ 64 ∧
    (dtFmt dt).inf ≤ (dtFmt dt).nan := by
  rcases dtFmt_cases dt with h | h | h | h <;> rw [h] <;> decide

theorem dtFmt_nan_le (dt : Nat) : (dtFmt dt).nan ≤ 2 ^ 64 := by
  obtain ⟨-, -, -, hle, -⟩ := dtFmt_sound dt
  exact (Nat.le_add_left _ _).trans hle

theorem dtWidth_float {dt : Nat} (h : 10 ≤ dt) (h' : dt < 14) : dtWidth dt = (dtFmt dt).ew + (dtFmt dt).fw + 1 := by
  interval_cases dt <;> rfl

/-! ### Float reductions (07 R134) -/

/-- A combining step on patterns that carry the flags of the steps below. -/
def flagStep (step : Nat → Nat → Nat × Flags) (a b : Nat × Flags) : Nat × Flags :=
  ((step a.1 b.1).1, (a.2.or b.2).or (step a.1 b.1).2)

/-- The root of the pairwise tree over the active lanes, with the flags of its steps. -/
def treeRoot (s : State) (va vm : VReg) (dt : Nat) (step : Nat → Nat → Nat × Flags) : Option (Nat × Flags) :=
  treeNode (flagStep step) (fun k => (laneLeaf s va vm dt k).map fun a => (a, ({} : Flags))) 7 0

section
variable {s : State} {va vm : VReg} {dt : Nat} {step : Nat → Nat → Nat × Flags}

/-- The root as the statement writes it. -/
theorem treeRoot_eq :
    treeRoot s va vm dt step = treeNode (fun (a b : Nat × Flags) => ((step a.1 b.1).1, (a.2.or b.2).or (step a.1 b.1).2))
    (fun k => if k < dtLanes dt ∧ (vm = 0 ∨ (s.getV vm).getLsbD k) then some (lane (s.getV va) (dtWidth dt) k, {}) else .none) 7 0 := by
  unfold treeRoot
  congr 1
  funext k
  simp only [laneLeaf, State.active, Bool.or_eq_true, beq_iff_eq]
  split_ifs <;> rfl

/-- The pattern at the root alone is the tree of the patterns. -/
theorem treeRoot_map_fst : (treeRoot s va vm dt step).map Prod.fst =
    treeNode (fun a b => (step a b).1) (laneLeaf s va vm dt) 7 0 := by
  refine (map_treeNode (f := flagStep step) (g := fun a b => (step a b).1) (m := Prod.fst) (fun _ _ => rfl) 7 0).trans ?_
  congr 1
  funext k
  cases laneLeaf s va vm dt k <;> rfl

/-- What holds of a lane without flags and passes through every step holds of the root. -/
theorem treeRoot_all {p : Nat × Flags → Prop} (hl : ∀ a, a < 2 ^ dtWidth dt → p (a, {}))
    (hs : ∀ a b, p a → p b → p (flagStep step a b)) : ∀ x ∈ treeRoot s va vm dt step, p x := by
  refine treeNode_all hs (fun k x hx => ?_) 7 0
  obtain ⟨a, ha, rfl⟩ := Option.map_eq_some_iff.mp hx
  exact hl a (laneLeaf_lt ha)

end

/-- A float reduction retires the pattern at the root of its tree and raises the flags there. -/
theorem vfred_eq (s : State) (vd va vm : VReg) (dt : Fin 16) (id : Fmt → Nat) (norm : Bool) (f : Fmt → Nat → Nat → Nat × Flags) :
    s.vfred vd va vm dt id norm f =
      let x := (treeRoot s va vm dt (f (dtFmt dt))).getD (id (dtFmt dt), {})
      .next ((s.raise x.2).vretire vd
        (BitVec.ofNat 512 (if norm && ((dtFmt dt).val x.1).isNan then (dtFmt dt).nan else x.1))) := by
  have hx : reduceTree (flagStep (f (dtFmt dt))) 7 ((s.laneList va vm dt).map fun x => x.map fun a => (a, ({} : Flags))) =
      treeRoot s va vm dt (f (dtFmt dt)) := by
    rw [reduceTree_eq_treeNode _ 7 (by simpa using length_laneList s va vm dt), treeRoot]
    congr 1
    funext k
    rw [← laneList_getElem, List.getElem?_map]
    cases (s.laneList va vm dt)[k]? <;> rfl
  rw [← hx]
  rfl

theorem word_noFlags : ({} : Flags).word = 0 := by decide

/-- The outcome of a float reduction whose flags lie in a mask: the pattern at the root of its tree, below 2^64, in the register,
and the flags there raised. -/
theorem completes_vfred {s : State} {i : Instr} {vd va vm : VReg} {dt : Fin 16} {id : Fmt → Nat} {norm : Bool}
    {f : Fmt → Nat → Nat → Nat × Flags} {mask : Word} (he : exec i s = s.vfred vd va vm dt id norm f)
    (hid : id (dtFmt dt) ≤ 2 ^ 64) (hb : ∀ x ∈ treeRoot s va vm dt (f (dtFmt dt)), x.1 ≤ 2 ^ 64 ∧ x.2.word &&& ~~~mask = 0) :
    let y := (treeRoot s va vm dt (f (dtFmt dt))).map Prod.fst |>.getD (id (dtFmt dt))
    ∃ t, exec i s = .next t ∧ OnlyVec s t Says.none (· = vd) mask ∧
      (t.getV vd).toNat = (if norm && ((dtFmt dt).val y).isNan then (dtFmt dt).nan else y) ∧
      t.cx.ws.cflags = s.cx.ws.cflags ||| ((treeRoot s va vm dt (f (dtFmt dt))).elim 0 fun x => x.2.word) := by
  rw [he, vfred_eq]
  generalize treeRoot s va vm dt (f (dtFmt dt)) = r at *
  have hx : (r.getD (id (dtFmt dt), {})).1 ≤ 2 ^ 64 ∧ (r.getD (id (dtFmt dt), {})).2.word &&& ~~~mask = 0 := by
    cases r with
    | none => exact ⟨hid, by rw [Option.getD_none, word_noFlags]; exact BitVec.zero_and⟩
    | some x => exact hb x rfl
  have hy : (r.map Prod.fst).getD (id (dtFmt dt)) = (r.getD (id (dtFmt dt), {})).1 := by cases r <;> rfl
  have hw : (r.elim 0 fun x => x.2.word) = (r.getD (id (dtFmt dt), {})).2.word := by
    cases r with
    | none => exact word_noFlags.symm
    | some x => rfl
  dsimp only
  rw [hy, hw]
  generalize r.getD (id (dtFmt dt), {}) = x at *
  refine ⟨_, rfl, onlyVec_trans (onlyVec_raise s hx.2) (onlyVec_vretire (v := (· = vd)) _ rfl _ 1), ?_, ?_⟩
  · rw [getV_vretire, if_pos rfl]
    refine toNat_ofNat_small ?_
    split_ifs
    · exact dtFmt_nan_le dt
    · exact hx.1
  · rw [cflags_vretire, cflags_raise]

/-! #### The extremes -/

/-- Only NV is raised by a choice. -/
theorem minMax_flags (f : Fmt) (larger : Bool) (a b : Nat) : ∃ nv, (f.minMax larger a b).2 = { nv := nv } := by
  unfold Fmt.minMax
  dsimp only
  split_ifs
  · exact ⟨_, rfl⟩
  · exact ⟨false, rfl⟩
  · exact ⟨false, rfl⟩

theorem treeRoot_extreme {s : State} {va vm : VReg} {dt : Nat} {larger : Bool} :
    ∀ x ∈ treeRoot s va vm dt ((dtFmt dt).minMax larger), x.1 ≤ 2 ^ 64 ∧ x.2.word &&& ~~~(0x10 : Word) = 0 := by
  have key : ∀ x ∈ treeRoot s va vm dt ((dtFmt dt).minMax larger), x.1 ≤ 2 ^ 64 ∧ ∃ nv, x.2 = { nv := nv } := by
    refine treeRoot_all (fun a ha => ⟨le_of_lt_two_pow_dtWidth ha, false, rfl⟩) fun a b ha hb => ?_
    obtain ⟨ha, na, hna⟩ := ha
    obtain ⟨hb, nb, hnb⟩ := hb
    obtain ⟨nc, hnc⟩ := minMax_flags (dtFmt dt) larger a.1 b.1
    refine ⟨?_, na || nb || nc, by simp [flagStep, hna, hnb, hnc, Flags.or]⟩
    have h := extreme_cases (f := dtFmt dt) (larger := larger) (a := a.1) (b := b.1)
    rcases h with h | h | h
    · exact h.le.trans (dtFmt_nan_le dt)
    · exact h.le.trans ha
    · exact h.le.trans hb
  intro x hx
  obtain ⟨h, nv, hnv⟩ := key x hx
  refine ⟨h, ?_⟩
  rw [hnv]
  cases nv <;> decide

/-- A reduction to an extreme is the fold over the active lanes, and the default NaN where one of them is a NaN. -/
theorem vfred_extreme {s : State} {i : Instr} {vd va vm : VReg} {dt : Fin 16} {larger : Bool} {id : Fmt → Nat}
    (he : exec i s = s.vfred vd va vm dt id true fun f a b => f.minMax larger a b)
    (hid : (dtFmt dt).val (id (dtFmt dt)) = .inf larger) (hle : id (dtFmt dt) ≤ 2 ^ 64)
    (hu : ∀ a, a < 2 ^ dtWidth dt → (dtFmt dt).val a = .inf larger → a = id (dtFmt dt)) :
    ∃ t, exec i s = .next t ∧ OnlyVec s t Says.none (· = vd) 0x10 ∧
      (t.getV vd).toNat = (if (activeList s va vm dt).any fun a => ((dtFmt dt).val a).isNan then (dtFmt dt).nan
        else (activeList s va vm dt).foldl (extreme (dtFmt dt) larger) (id (dtFmt dt))) ∧
      t.cx.ws.cflags = s.cx.ws.cflags ||| ((treeRoot s va vm dt ((dtFmt dt).minMax larger)).elim 0 fun x => x.2.word) := by
  obtain ⟨hn, -, -, -, -⟩ := dtFmt_sound dt
  obtain ⟨t, ht, ho, hv, hf⟩ := completes_vfred he hle treeRoot_extreme
  refine ⟨t, ht, ho, ?_, hf⟩
  have hroot : (treeRoot s va vm dt ((dtFmt dt).minMax larger)).map Prod.fst =
      foldSome (extreme (dtFmt dt) larger) (activeList s va vm dt) := by
    rw [treeRoot_map_fst, ← filterMap_laneLeaf]
    exact treeNode_eq_foldSome (extreme_assoc hn) 7 0
  rw [hv, Bool.true_and, hroot]
  exact foldSome_extreme hn (by rw [hid]; rfl) fun a ha hna => extreme_inf hid hna (hu a (mem_activeList_lt ha))

/-! #### The sum -/

theorem signed_le (f : Fmt) (neg : Bool) {m n : Nat} (h : m ≤ n) : f.signed neg m ≤ 2 ^ f.sign + n := by
  have := Nat.two_pow_pos f.sign
  unfold Fmt.signed
  split <;> omega

/-- A rounded pattern has a sign and a magnitude no greater than infinity's. -/
theorem roundNum_bits (f : Fmt) (mode : Nat) (neg : Bool) (m : Nat) (e : Int) :
    ∃ k, k ≤ f.inf ∧ (f.roundNum mode neg m e).bits = f.signed neg k := by
  have hm : ∀ toInf : Bool, (if toInf then f.inf else f.max) ≤ f.inf := fun toInf => by
    cases toInf
    · exact Nat.sub_le _ _
    · exact le_rfl
  unfold Fmt.roundNum
  dsimp only
  generalize (if e + (m.log2 : Int) < f.emin then f.emin else e + (m.log2 : Int)) - (f.fw : Int) = q
  split
  · exact ⟨_, hm _, rfl⟩
  · next h => exact ⟨_, (Nat.lt_of_not_le h).le, rfl⟩

/-- A delivered pattern has a sign and a magnitude no greater than the default NaN's. -/
theorem deliver_le (f : Fmt) (mode : Nat) (v : Val) (hi : f.inf ≤ f.nan) : (f.deliver mode v).bits ≤ 2 ^ f.sign + f.nan := by
  match v with
  | .nan _ => exact Nat.le_add_left _ _
  | .inf neg => exact signed_le f neg hi
  | .num neg m e =>
    unfold Fmt.deliver Fmt.round
    dsimp only
    split
    · exact signed_le f neg (Nat.zero_le _)
    · obtain ⟨k, hk, hb⟩ := roundNum_bits f mode neg m e
      exact hb.le.trans (signed_le f neg (hk.trans hi))

theorem flags_word_mask (fl : Flags) : fl.word &&& ~~~(0x1F0 : Word) = 0 := by
  obtain ⟨nv, dz, of, uf, nx⟩ := fl
  revert nv dz of uf nx
  decide

theorem treeRoot_finish {s : State} {va vm : VReg} {dt mode : Nat} (x : Nat → Nat → Exact) :
    ∀ y ∈ treeRoot s va vm dt (fun a b => (dtFmt dt).finish mode (x a b)), y.1 ≤ 2 ^ 64 ∧ y.2.word &&& ~~~(0x1F0 : Word) = 0 := by
  obtain ⟨-, -, -, hn, hi⟩ := dtFmt_sound dt
  have key : ∀ y ∈ treeRoot s va vm dt (fun a b => (dtFmt dt).finish mode (x a b)), y.1 ≤ 2 ^ 64 :=
    treeRoot_all (fun a ha => le_of_lt_two_pow_dtWidth ha) fun a b _ _ =>
      (deliver_le (dtFmt dt) mode (x a.1 b.1).val hi).trans hn
  exact fun y hy => ⟨key y hy, flags_word_mask y.2⟩

theorem getD_map_fst (r : Option (Nat × Flags)) : (r.map Prod.fst).getD 0 = r.elim 0 fun x => x.1 := by cases r <;> rfl

theorem floatReductionResults : Says.FloatReductionResults := by
  intro s vd va vm dt
  dsimp only
  simp only [← treeRoot_eq]
  intro h10 h14
  obtain ⟨-, hinf, hninf, hle, hi⟩ := dtFmt_sound dt
  have hw := dtWidth_float h10 h14
  refine ⟨?_, ?_, ?_⟩
  · refine vfred_extreme (id := fun f => f.signed true f.inf) rfl hninf ((signed_le _ true hi).trans hle) fun a ha hv => ?_
    exact val_inf (by rwa [hw] at ha) hv
  · refine vfred_extreme (id := Fmt.inf) rfl hinf (hi.trans (dtFmt_nan_le dt)) fun a ha hv => ?_
    rw [val_inf (by rwa [hw] at ha) hv, Fmt.signed]
    simp
  · obtain ⟨t, ht, ho, hv, hf⟩ := completes_vfred (s := s) (i := .vfrsum vd va vm dt) (id := fun _ => 0) (norm := false)
      (f := fun f a b => f.finish s.cx.ws.rm ((f.val a).add s.cx.ws.rm (f.val b))) rfl (Nat.zero_le _)
      (treeRoot_finish fun a b => ((dtFmt dt).val a).add s.cx.ws.rm ((dtFmt dt).val b))
    rw [Bool.false_and, if_neg Bool.false_ne_true, getD_map_fst] at hv
    rw [treeRoot_eq] at hv hf
    exact ⟨t, ht, ho, hv, hf⟩

/-- Settles O35: an associative combination makes the tree a fold, and the float sum keeps the tree. -/
theorem reductionResults : Obligations.ReductionResults := ⟨integerReductionResults, floatReductionResults⟩

end Sys2Proof.NumberFormats
end

section
/-! PROOFS. The long accumulator (02 R46 to R52). -/

namespace Sys2Proof.NumberFormats

open Sys2Proof.Machine
open Sys2Proof.Says hiding none

/-! ### A posted store through a placement that no page names

An offer that discards bits adds one to a conversion counter (02 R51). The add lands the posted stores to the counter's word first
(15 R275), and `SimpleWrite` is no hypothesis of the statement: here such a store names a placement beyond those of 14 R263, at
which the key of its sector is that of the accumulator's first bytes. The write-back of that sector then overwrites them. -/

/-- The key of the sector that would hold the first bytes of core 0's TCM. -/
def straySector : Nat := sectorKey 0 (tcmPlace 0 0)

/-- A posted store to the flush counter's word, streamed, through the placement that gives its sector the stray key. -/
def strayStore : PendWrite := { cells := [(0x48, 0, 0)], space := .hbm 0 0 (straySector - sectorKey 0 0x48) 1 }

/-- Core 0 with the accumulator's address in w1 and the least FP64 number in w2, its counters at 0x40 of an identity-mapped page,
and the stray store posted above a dirty sector at the stray key. -/
def strayState : State :=
  { ({} : State).setCore 0 { ctxs := #v[{ Context.reset 0 with ws := { w := (Vector.replicate 32 0).set 1 0x8000000000000000 |>.set 2 1 } },
        Context.reset 1, Context.reset 2, Context.reset 3] } with
    sectors := [(straySector, ⟨[1], true, 0, 0⟩)]
    clusters := [(0, { tlb := [⟨0, 0, 0, 0x1067⟩] })]
    dev := { bar0 := [(0x020000, 0x8000000000000000)], posted := [strayStore] } }

theorem strayState_inv : strayState.Inv := by
  unfold State.Inv
  decide

theorem strayState_plain : PlainTcm strayState 0 144 := by
  unfold PlainTcm PlainPlace
  decide +kernel

theorem strayState_countersApart : CountersApart strayState := by
  unfold CountersApart
  decide

/-- The least FP64 number lies below the accumulator's last bit: the whole addend is discarded. -/
theorem strayState_addend : fp64.val (strayState.getW 2).toNat = .num false 1 (-1074) := by decide +kernel

/-- After the offer the accumulator holds what the stray sector wrote back, 1, and not the sum, 0. -/
theorem strayState_offer : ∃ t, exec (.laaddD 1 2) strayState = .next t ∧ tcmValue t 0 136 = 1 := by
  have h : (match exec (.laaddD 1 2) strayState with
      | .next t => tcmValue t 0 136 == 1
      | _ => false) = true := by decide +kernel
  cases he : exec (.laaddD 1 2) strayState with
  | next t => exact ⟨t, rfl, by simpa [he] using h⟩
  | fault r => simp [he] at h
  | refused r => simp [he] at h

/-- Refutes O31 at `strayState`: the add to the flush counter lands a posted store whose space names a placement that no page has,
and the write-back of its sector overwrites the accumulator's first bytes. -/
theorem not_longAccumulator : ¬ Obligations.LongAccumulator := by
  intro ⟨offers, _⟩
  obtain ⟨-, adds⟩ := offers strayState 0 1 2 0 strayState_inv (by decide) rfl strayState_plain
  obtain ⟨finite, -⟩ := adds (.laaddD 1 2) (.num false 1 (-1074)) (.inl ⟨rfl, strayState_addend.symm⟩)
  obtain ⟨t, ht, -, hsum, -⟩ := finite false 1 (-1074) rfl fun _ => strayState_countersApart
  obtain ⟨u, hu, hone⟩ := strayState_offer
  cases hu.symm.trans ht
  have hzero : ((1 : Nat) : Int) = 0 := hone ▸ hsum.trans (by decide +kernel)
  exact absurd hzero (by decide)

end Sys2Proof.NumberFormats
end

section
/-! PROOFS. The fields of an instruction word: runs of its bits, and the fields of each word format (03 R55). -/

namespace Sys2Proof.Formats

-- Each lemma is elaborated by itself, so that the many long ones of a section do not stand in memory together.
set_option Elab.async false

/-! ### Runs of bits -/

/-- A run of bits is its upper part, from bit `a` on, beside its lower part, up to bit `b`. -/
theorem bits_cut (w hi a b lo : Nat) (h : a = b + 1 ∧ lo ≤ b ∧ b ≤ hi := by decide) :
    bits w hi lo = bits w hi a * 2 ^ (a - lo) + bits w b lo := by
  obtain ⟨rfl, hlo, hhi⟩ := h
  have hpow : 2 ^ (hi + 1 - lo) = 2 ^ (b + 1 - lo) * 2 ^ (hi + 1 - (b + 1)) := by
    rw [← Nat.pow_add]; congr 1; omega
  have hdiv : w / 2 ^ (b + 1) = w / 2 ^ lo / 2 ^ (b + 1 - lo) := by
    rw [Nat.div_div_eq_div_mul, ← Nat.pow_add]; congr 2; omega
  simp only [bits]
  rw [hpow, Nat.mod_mul, hdiv, Nat.mul_comm, Nat.add_comm]

/-- A word is its 32 bits. -/
theorem bits_word {w : Nat} (hw : w < 2 ^ 32) : bits w 31 0 = w := by simpa [bits] using hw

/-- A run of bits inside another. -/
theorem bits_within (w H L hi lo : Nat) (h : L ≤ lo ∧ lo ≤ hi ∧ hi ≤ H := by decide) :
    bits w hi lo = bits w H L / 2 ^ (lo - L) % 2 ^ (hi + 1 - lo) := by
  obtain ⟨hL, hlo, hH⟩ := h
  have hsplit : 2 ^ (H + 1 - L) = 2 ^ (lo - L) * 2 ^ (H + 1 - lo) := by rw [← Nat.pow_add]; congr 1; omega
  have hdiv : w / 2 ^ lo = w / 2 ^ L / 2 ^ (lo - L) := by
    rw [Nat.div_div_eq_div_mul, ← Nat.pow_add]; congr 2; omega
  simp only [bits]
  rw [hsplit, Nat.mod_mul_right_div_self, ← hdiv, Nat.mod_mod_of_dvd]
  exact Nat.pow_dvd_pow 2 (by omega)

/-- The value of each field of a word, as a run of bits. -/
theorem field_val (w lo : Nat) :
    (fin1 w lo).val = bits w lo lo ∧ (fin2 w lo).val = bits w (lo + 1) lo ∧ (fin3 w lo).val = bits w (lo + 2) lo ∧
      (fin4 w lo).val = bits w (lo + 3) lo ∧ (fin5 w lo).val = bits w (lo + 4) lo ∧
      (fin6 w lo).val = bits w (lo + 5) lo ∧ (bv8 w lo).toNat = bits w (lo + 7) lo ∧
      (bv12 w lo).toNat = bits w (lo + 11) lo ∧ (bv13 w lo).toNat = bits w (lo + 12) lo ∧
      (bv16 w lo).toNat = bits w (lo + 15) lo ∧ (bv21 w lo).toNat = bits w (lo + 20) lo := by
  simp [fin1, fin2, fin3, fin4, fin5, fin6, bv8, bv12, bv13, bv16, bv21, bits, Nat.add_assoc]

/-- Which field a word holds, by a run of bits. -/
theorem field_eq (w lo : Nat) :
    (∀ x, fin1 w lo = x ↔ bits w lo lo = x.val) ∧ (∀ x, fin2 w lo = x ↔ bits w (lo + 1) lo = x.val) ∧
      (∀ x, fin3 w lo = x ↔ bits w (lo + 2) lo = x.val) ∧ (∀ x, fin4 w lo = x ↔ bits w (lo + 3) lo = x.val) ∧
      (∀ x, fin5 w lo = x ↔ bits w (lo + 4) lo = x.val) ∧ (∀ x, fin6 w lo = x ↔ bits w (lo + 5) lo = x.val) ∧
      (∀ x, bv8 w lo = x ↔ bits w (lo + 7) lo = x.toNat) ∧ (∀ x, bv12 w lo = x ↔ bits w (lo + 11) lo = x.toNat) ∧
      (∀ x, bv13 w lo = x ↔ bits w (lo + 12) lo = x.toNat) ∧ (∀ x, bv16 w lo = x ↔ bits w (lo + 15) lo = x.toNat) ∧
      ∀ x, bv21 w lo = x ↔ bits w (lo + 20) lo = x.toNat := by
  simp only [Fin.ext_iff, ← BitVec.toNat_inj, field_val, implies_true, and_self]

/-! ### The formats -/

/-- A word is its fields in format F-R, which F-G shares. -/
theorem eq_wordR {w : Nat} (hw : w < 2 ^ 32) :
    w = wordR (bits w 31 26) (bits w 25 21) (bits w 20 16) (bits w 15 11) (bits w 10 5) (bits w 4 0) := by
  have h := bits_word hw
  rw [bits_cut w 31 26 25 0, bits_cut w 25 21 20 0, bits_cut w 20 16 15 0, bits_cut w 15 11 10 0, bits_cut w 10 5 4 0] at h
  simp only [wordR]
  omega

/-- A word is its fields in format F-I, which F-B shares. -/
theorem eq_wordI {w : Nat} (hw : w < 2 ^ 32) :
    w = wordI (bits w 31 26) (bits w 25 21) (bits w 20 16) (bits w 15 0) := by
  have h := bits_word hw
  rw [bits_cut w 31 26 25 0, bits_cut w 25 21 20 0, bits_cut w 20 16 15 0] at h
  simp only [wordI]
  omega

/-- A word is its fields in format F-M. -/
theorem eq_wordM {w : Nat} (hw : w < 2 ^ 32) :
    w = wordM (bits w 31 26) (bits w 25 21) (bits w 20 16) (bits w 15 13) (bits w 12 0) := by
  have h := bits_word hw
  rw [bits_cut w 31 26 25 0, bits_cut w 25 21 20 0, bits_cut w 20 16 15 0, bits_cut w 15 13 12 0] at h
  simp only [wordM]
  omega

/-- A word is its fields in format F-A. -/
theorem eq_wordA {w : Nat} (hw : w < 2 ^ 32) :
    w = wordA (bits w 31 26) (bits w 25 21) (bits w 20 16) (bits w 15 11) (bits w 10 8) (bits w 7 7) (bits w 6 6)
      (bits w 5 0) := by
  have h := bits_word hw
  rw [bits_cut w 31 26 25 0, bits_cut w 25 21 20 0, bits_cut w 20 16 15 0, bits_cut w 15 11 10 0, bits_cut w 10 8 7 0, bits_cut w 7 7 6 0, bits_cut w 6 6 5 0] at h
  simp only [wordA]
  omega

/-- A word is its fields in format F-J. -/
theorem eq_wordJ {w : Nat} (hw : w < 2 ^ 32) : w = wordJ (bits w 31 26) (bits w 25 21) (bits w 20 0) := by
  have h := bits_word hw
  rw [bits_cut w 31 26 25 0, bits_cut w 25 21 20 0] at h
  simp only [wordJ]
  omega

/-- A word is its fields in format F-V. -/
theorem eq_wordV {w : Nat} (hw : w < 2 ^ 32) :
    w = wordV (bits w 31 26) (bits w 25 22) (bits w 21 18) (bits w 17 14) (bits w 13 10) (bits w 9 9) (bits w 8 5)
      (bits w 4 0) := by
  have h := bits_word hw
  rw [bits_cut w 31 26 25 0, bits_cut w 25 22 21 0, bits_cut w 21 18 17 0, bits_cut w 17 14 13 0, bits_cut w 13 10 9 0, bits_cut w 9 9 8 0, bits_cut w 8 5 4 0] at h
  simp only [wordV]
  omega

/-- A word is its fields in format F-W. -/
theorem eq_wordW {w : Nat} (hw : w < 2 ^ 32) :
    w = wordW (bits w 31 26) (bits w 25 22) (bits w 21 17) (bits w 16 12) (bits w 11 8) (bits w 7 7) (bits w 6 3)
      (bits w 2 0) := by
  have h := bits_word hw
  rw [bits_cut w 31 26 25 0, bits_cut w 25 22 21 0, bits_cut w 21 17 16 0, bits_cut w 16 12 11 0, bits_cut w 11 8 7 0, bits_cut w 7 7 6 0, bits_cut w 6 3 2 0] at h
  simp only [wordW]
  omega

/-- A word is its fields in format F-C. -/
theorem eq_wordC {w : Nat} (hw : w < 2 ^ 32) :
    w = wordC (bits w 31 26) (bits w 25 21) (bits w 20 18) (bits w 17 15) (bits w 14 7) (bits w 6 0) := by
  have h := bits_word hw
  rw [bits_cut w 31 26 25 0, bits_cut w 25 21 20 0, bits_cut w 20 18 17 0, bits_cut w 17 15 14 0, bits_cut w 14 7 6 0] at h
  simp only [wordC]
  omega

/-- A word is its fields in format F-P beside its four unused bits. -/
theorem eq_wordP {w : Nat} (hw : w < 2 ^ 32) :
    w = wordP (bits w 31 26) (bits w 25 22) (bits w 21 16) (bits w 15 13) (bits w 12 10) (bits w 9 7) (bits w 6 4) +
      bits w 3 0 := by
  have h := bits_word hw
  rw [bits_cut w 31 26 25 0, bits_cut w 25 22 21 0, bits_cut w 21 16 15 0, bits_cut w 15 13 12 0, bits_cut w 12 10 9 0, bits_cut w 9 7 6 0, bits_cut w 6 4 3 0] at h
  simp only [wordP]
  omega

/-- The fields of a word of format F-R, which F-G shares. -/
theorem wordR_fields {op rd ra rb fn sh w : Nat} (h : wordR op rd ra rb fn sh = w)
    (hb : op < 64 ∧ rd < 32 ∧ ra < 32 ∧ rb < 32 ∧ fn < 64 ∧ sh < 32) :
    w < 2 ^ 32 ∧ bits w 31 26 = op ∧ bits w 25 21 = rd ∧ bits w 20 16 = ra ∧ bits w 15 11 = rb ∧ bits w 10 5 = fn ∧
      bits w 4 0 = sh := by
  simp only [wordR] at h
  simp only [bits]
  and_intros <;> omega

/-- The fields of a word of format F-I, which F-B shares. -/
theorem wordI_fields {op rd ra imm w : Nat} (h : wordI op rd ra imm = w)
    (hb : op < 64 ∧ rd < 32 ∧ ra < 32 ∧ imm < 65536) :
    w < 2 ^ 32 ∧ bits w 31 26 = op ∧ bits w 25 21 = rd ∧ bits w 20 16 = ra ∧ bits w 15 0 = imm := by
  simp only [wordI] at h
  simp only [bits]
  and_intros <;> omega

/-- The fields of a word of format F-M. -/
theorem wordM_fields {op rd ra sz off w : Nat} (h : wordM op rd ra sz off = w)
    (hb : op < 64 ∧ rd < 32 ∧ ra < 32 ∧ sz < 8 ∧ off < 8192) :
    w < 2 ^ 32 ∧ bits w 31 26 = op ∧ bits w 25 21 = rd ∧ bits w 20 16 = ra ∧ bits w 15 13 = sz ∧ bits w 12 0 = off := by
  simp only [wordM] at h
  simp only [bits]
  and_intros <;> omega

/-- The fields of a word of format F-A. -/
theorem wordA_fields {op rd ra rb sc aq rl fn w : Nat} (h : wordA op rd ra rb sc aq rl fn = w)
    (hb : op < 64 ∧ rd < 32 ∧ ra < 32 ∧ rb < 32 ∧ sc < 8 ∧ aq < 2 ∧ rl < 2 ∧ fn < 64) :
    w < 2 ^ 32 ∧ bits w 31 26 = op ∧ bits w 25 21 = rd ∧ bits w 20 16 = ra ∧ bits w 15 11 = rb ∧ bits w 10 8 = sc ∧
      bits w 7 7 = aq ∧ bits w 6 6 = rl ∧ bits w 5 0 = fn := by
  simp only [wordA] at h
  simp only [bits]
  and_intros <;> omega

/-- The fields of a word of format F-J. -/
theorem wordJ_fields {op rd off w : Nat} (h : wordJ op rd off = w) (hb : op < 64 ∧ rd < 32 ∧ off < 2097152) :
    w < 2 ^ 32 ∧ bits w 31 26 = op ∧ bits w 25 21 = rd ∧ bits w 20 0 = off := by
  simp only [wordJ] at h
  simp only [bits]
  and_intros <;> omega

/-- The fields of a word of format F-V. -/
theorem wordV_fields {op vd va vb vm mp dt fn w : Nat} (h : wordV op vd va vb vm mp dt fn = w)
    (hb : op < 64 ∧ vd < 16 ∧ va < 16 ∧ vb < 16 ∧ vm < 16 ∧ mp < 2 ∧ dt < 16 ∧ fn < 32) :
    w < 2 ^ 32 ∧ bits w 31 26 = op ∧ bits w 25 22 = vd ∧ bits w 21 18 = va ∧ bits w 17 14 = vb ∧ bits w 13 10 = vm ∧
      bits w 9 9 = mp ∧ bits w 8 5 = dt ∧ bits w 4 0 = fn := by
  simp only [wordV] at h
  simp only [bits]
  and_intros <;> omega

/-- The fields of a word of format F-W. -/
theorem wordW_fields {op vd ra rb vm mp dt fn w : Nat} (h : wordW op vd ra rb vm mp dt fn = w)
    (hb : op < 64 ∧ vd < 16 ∧ ra < 32 ∧ rb < 32 ∧ vm < 16 ∧ mp < 2 ∧ dt < 16 ∧ fn < 8) :
    w < 2 ^ 32 ∧ bits w 31 26 = op ∧ bits w 25 22 = vd ∧ bits w 21 17 = ra ∧ bits w 16 12 = rb ∧ bits w 11 8 = vm ∧
      bits w 7 7 = mp ∧ bits w 6 3 = dt ∧ bits w 2 0 = fn := by
  simp only [wordW] at h
  simp only [bits]
  and_intros <;> omega

/-- The fields of a word of format F-C. -/
theorem wordC_fields {op x cb need off fn w : Nat} (h : wordC op x cb need off fn = w)
    (hb : op < 64 ∧ x < 32 ∧ cb < 8 ∧ need < 8 ∧ off < 256 ∧ fn < 128) :
    w < 2 ^ 32 ∧ bits w 31 26 = op ∧ bits w 25 21 = x ∧ bits w 20 18 = cb ∧ bits w 17 15 = need ∧ bits w 14 7 = off ∧
      bits w 6 0 = fn := by
  simp only [wordC] at h
  simp only [bits]
  and_intros <;> omega

/-- The fields of a word of format F-P. -/
theorem wordP_fields {op cnt rep sd sa sb sm w : Nat} (h : wordP op cnt rep sd sa sb sm = w)
    (hb : op < 64 ∧ cnt < 16 ∧ rep < 64 ∧ sd < 8 ∧ sa < 8 ∧ sb < 8 ∧ sm < 8) :
    w < 2 ^ 32 ∧ bits w 31 26 = op ∧ bits w 25 22 = cnt ∧ bits w 21 16 = rep ∧ bits w 15 13 = sd ∧ bits w 12 10 = sa ∧
      bits w 9 7 = sb ∧ bits w 6 4 = sm ∧ bits w 3 0 = 0 := by
  simp only [wordP] at h
  simp only [bits]
  and_intros <;> omega

end Sys2Proof.Formats
end

section
/-! PROOFS. Every well-formed instruction decodes from its word (03 R53 to R62): a lemma for each major's decoder. -/

namespace Sys2Proof.Formats

-- As above: one lemma at a time.
set_option Elab.async false

/-! ### From instructions to words and back -/

/-- Where a decoder's answer that asks for unused fields is an instruction. -/
theorem given_eq_ok {b : Bool} {i j : Instr} : given b i = .ok j ↔ b = true ∧ i = j := by
  cases b <;> simp [given]

/-- The parts of the low field of an F-A word. -/
theorem offset_within (w : Nat) : bits w 5 5 = bits w 5 0 / 2 ^ 5 % 2 ^ 1 ∧ bits w 5 4 = bits w 5 0 / 2 ^ 4 % 2 ^ 2 ∧ bits w
    4 4 = bits w 5 0 / 2 ^ 4 % 2 ^ 1 ∧ bits w 3 0 = bits w 5 0 / 2 ^ 0 % 2 ^ 4 ∧ bits w 5 1 = bits w 5 0 / 2 ^ 1 % 2 ^ 5 ∧
    bits w 0 0 = bits w 5 0 / 2 ^ 0 % 2 ^ 1 ∧ bits w 4 0 = bits w 5 0 / 2 ^ 0 % 2 ^ 5 :=
  ⟨bits_within w 5 0 5 5, bits_within w 5 0 5 4, bits_within w 5 0 4 4, bits_within w 5 0 3 0, bits_within w 5 0 5 1,
    bits_within w 5 0 0 0, bits_within w 5 0 4 0⟩

/-- The parts of the immediate of an F-I word. -/
theorem imm_within (w : Nat) : bits w 15 4 = bits w 15 0 / 2 ^ 4 % 2 ^ 12 ∧ bits w 3 0 = bits w 15 0 / 2 ^ 0 % 2 ^ 4 ∧ bits
    w 7 4 = bits w 15 0 / 2 ^ 4 % 2 ^ 4 ∧ bits w 15 8 = bits w 15 0 / 2 ^ 8 % 2 ^ 8 ∧ bits w 5 0 = bits w 15 0 / 2 ^ 0 % 2 ^
    6 ∧ bits w 11 6 = bits w 15 0 / 2 ^ 6 % 2 ^ 6 ∧ bits w 11 1 = bits w 15 0 / 2 ^ 1 % 2 ^ 11 ∧ bits w 11 0 = bits w 15 0 /
    2 ^ 0 % 2 ^ 12 ∧ bits w 0 0 = bits w 15 0 / 2 ^ 0 % 2 ^ 1 :=
  ⟨bits_within w 15 0 15 4, bits_within w 15 0 3 0, bits_within w 15 0 7 4, bits_within w 15 0 15 8, bits_within w 15 0 5 0,
    bits_within w 15 0 11 6, bits_within w 15 0 11 1, bits_within w 15 0 11 0, bits_within w 15 0 0 0⟩

/-- The parts of the type field of an F-W word. -/
theorem dt_within (w : Nat) : bits w 6 6 = bits w 6 3 / 2 ^ 3 % 2 ^ 1 ∧ bits w 5 3 = bits w 6 3 / 2 ^ 0 % 2 ^ 3 ∧ bits w 6 4
    = bits w 6 3 / 2 ^ 1 % 2 ^ 3 ∧ bits w 3 3 = bits w 6 3 / 2 ^ 0 % 2 ^ 1 ∧ bits w 5 5 = bits w 6 3 / 2 ^ 2 % 2 ^ 1 ∧ bits
    w 4 3 = bits w 6 3 / 2 ^ 0 % 2 ^ 2 :=
  ⟨bits_within w 6 3 6 6, bits_within w 6 3 5 3, bits_within w 6 3 6 4, bits_within w 6 3 3 3, bits_within w 6 3 5 5,
    bits_within w 6 3 4 3⟩

/-- The parts of the low field of an F-R or F-G word. -/
theorem sh_within (w : Nat) : bits w 4 4 = bits w 4 0 / 2 ^ 4 % 2 ^ 1 ∧ bits w 4 3 = bits w 4 0 / 2 ^ 3 % 2 ^ 2 ∧ bits w 4 2
    = bits w 4 0 / 2 ^ 2 % 2 ^ 3 ∧ bits w 4 1 = bits w 4 0 / 2 ^ 1 % 2 ^ 4 ∧ bits w 3 0 = bits w 4 0 / 2 ^ 0 % 2 ^ 4 ∧ bits
    w 3 3 = bits w 4 0 / 2 ^ 3 % 2 ^ 1 ∧ bits w 2 0 = bits w 4 0 / 2 ^ 0 % 2 ^ 3 ∧ bits w 2 1 = bits w 4 0 / 2 ^ 1 % 2 ^ 2 ∧
    bits w 1 0 = bits w 4 0 / 2 ^ 0 % 2 ^ 2 ∧ bits w 0 0 = bits w 4 0 / 2 ^ 0 % 2 ^ 1 :=
  ⟨bits_within w 4 0 4 4, bits_within w 4 0 4 3, bits_within w 4 0 4 2, bits_within w 4 0 4 1, bits_within w 4 0 3 0,
    bits_within w 4 0 3 3, bits_within w 4 0 2 0, bits_within w 4 0 2 1, bits_within w 4 0 1 0, bits_within w 4 0 0 0⟩

/-- The word of `i` decodes to `i` before the limits of its minor. -/
def Decodes (i : Instr) : Prop := ∀ w, encode i = some w → w < 2 ^ 32 ∧ decodeFields w = .ok i

/-- An instruction of format F-R or F-G decodes where its major's decoder answers it to every word of its fields. -/
theorem decodes_wordR {i : Instr} {D : Nat → Decoded} {op rd ra rb fn sh : Nat}
    (hD : ∀ w, bits w 31 26 = op → decodeFields w = D w) (he : encode i = some (wordR op rd ra rb fn sh))
    (hb : op < 64 ∧ rd < 32 ∧ ra < 32 ∧ rb < 32 ∧ fn < 64 ∧ sh < 32)
    (hd : ∀ w, bits w 25 21 = rd → bits w 20 16 = ra → bits w 15 11 = rb → bits w 10 5 = fn → bits w 4 0 = sh → D w = .ok i)
      :
    Decodes i := by
  intro w h
  obtain ⟨hw, hop, hrd, hra, hrb, hfn, hsh⟩ := wordR_fields (Option.some.inj (he.symm.trans h)) hb
  exact ⟨hw, (hD w hop).trans (hd w hrd hra hrb hfn hsh)⟩

/-- An instruction of format F-I or F-B decodes where its major's decoder answers it to every word of its fields. -/
theorem decodes_wordI {i : Instr} {D : Nat → Decoded} {op rd ra imm : Nat}
    (hD : ∀ w, bits w 31 26 = op → decodeFields w = D w) (he : encode i = some (wordI op rd ra imm))
    (hb : op < 64 ∧ rd < 32 ∧ ra < 32 ∧ imm < 65536)
    (hd : ∀ w, bits w 25 21 = rd → bits w 20 16 = ra → bits w 15 0 = imm → D w = .ok i) :
    Decodes i := by
  intro w h
  obtain ⟨hw, hop, hrd, hra, himm⟩ := wordI_fields (Option.some.inj (he.symm.trans h)) hb
  exact ⟨hw, (hD w hop).trans (hd w hrd hra himm)⟩

/-- An instruction of format F-M decodes where its major's decoder answers it to every word of its fields. -/
theorem decodes_wordM {i : Instr} {D : Nat → Decoded} {op rd ra sz off : Nat}
    (hD : ∀ w, bits w 31 26 = op → decodeFields w = D w) (he : encode i = some (wordM op rd ra sz off))
    (hb : op < 64 ∧ rd < 32 ∧ ra < 32 ∧ sz < 8 ∧ off < 8192)
    (hd : ∀ w, bits w 25 21 = rd → bits w 20 16 = ra → bits w 15 13 = sz → bits w 12 0 = off → D w = .ok i) :
    Decodes i := by
  intro w h
  obtain ⟨hw, hop, hrd, hra, hsz, hoff⟩ := wordM_fields (Option.some.inj (he.symm.trans h)) hb
  exact ⟨hw, (hD w hop).trans (hd w hrd hra hsz hoff)⟩

/-- An instruction of format F-A decodes where its major's decoder answers it to every word of its fields. -/
theorem decodes_wordA {i : Instr} {D : Nat → Decoded} {op rd ra rb sc aq rl fn : Nat}
    (hD : ∀ w, bits w 31 26 = op → decodeFields w = D w) (he : encode i = some (wordA op rd ra rb sc aq rl fn))
    (hb : op < 64 ∧ rd < 32 ∧ ra < 32 ∧ rb < 32 ∧ sc < 8 ∧ aq < 2 ∧ rl < 2 ∧ fn < 64)
    (hd : ∀ w, bits w 25 21 = rd → bits w 20 16 = ra → bits w 15 11 = rb → bits w 10 8 = sc → bits w 7 7 = aq → bits w 6 6 =
      rl → bits w 5 0 = fn → D w = .ok i) :
    Decodes i := by
  intro w h
  obtain ⟨hw, hop, hrd, hra, hrb, hsc, haq, hrl, hfn⟩ := wordA_fields (Option.some.inj (he.symm.trans h)) hb
  exact ⟨hw, (hD w hop).trans (hd w hrd hra hrb hsc haq hrl hfn)⟩

/-- An instruction of format F-J decodes where its major's decoder answers it to every word of its fields. -/
theorem decodes_wordJ {i : Instr} {D : Nat → Decoded} {op rd off : Nat}
    (hD : ∀ w, bits w 31 26 = op → decodeFields w = D w) (he : encode i = some (wordJ op rd off))
    (hb : op < 64 ∧ rd < 32 ∧ off < 2097152)
    (hd : ∀ w, bits w 25 21 = rd → bits w 20 0 = off → D w = .ok i) :
    Decodes i := by
  intro w h
  obtain ⟨hw, hop, hrd, hoff⟩ := wordJ_fields (Option.some.inj (he.symm.trans h)) hb
  exact ⟨hw, (hD w hop).trans (hd w hrd hoff)⟩

/-- An instruction of format F-V decodes where its major's decoder answers it to every word of its fields. -/
theorem decodes_wordV {i : Instr} {D : Nat → Decoded} {op vd va vb vm mp dt fn : Nat}
    (hD : ∀ w, bits w 31 26 = op → decodeFields w = D w) (he : encode i = some (wordV op vd va vb vm mp dt fn))
    (hb : op < 64 ∧ vd < 16 ∧ va < 16 ∧ vb < 16 ∧ vm < 16 ∧ mp < 2 ∧ dt < 16 ∧ fn < 32)
    (hd : ∀ w, bits w 25 22 = vd → bits w 21 18 = va → bits w 17 14 = vb → bits w 13 10 = vm → bits w 9 9 = mp → bits w 8 5
      = dt → bits w 4 0 = fn → D w = .ok i) :
    Decodes i := by
  intro w h
  obtain ⟨hw, hop, hvd, hva, hvb, hvm, hmp, hdt, hfn⟩ := wordV_fields (Option.some.inj (he.symm.trans h)) hb
  exact ⟨hw, (hD w hop).trans (hd w hvd hva hvb hvm hmp hdt hfn)⟩

/-- An instruction of format F-W decodes where its major's decoder answers it to every word of its fields. -/
theorem decodes_wordW {i : Instr} {D : Nat → Decoded} {op vd ra rb vm mp dt fn : Nat}
    (hD : ∀ w, bits w 31 26 = op → decodeFields w = D w) (he : encode i = some (wordW op vd ra rb vm mp dt fn))
    (hb : op < 64 ∧ vd < 16 ∧ ra < 32 ∧ rb < 32 ∧ vm < 16 ∧ mp < 2 ∧ dt < 16 ∧ fn < 8)
    (hd : ∀ w, bits w 25 22 = vd → bits w 21 17 = ra → bits w 16 12 = rb → bits w 11 8 = vm → bits w 7 7 = mp → bits w 6 3 =
      dt → bits w 2 0 = fn → D w = .ok i) :
    Decodes i := by
  intro w h
  obtain ⟨hw, hop, hvd, hra, hrb, hvm, hmp, hdt, hfn⟩ := wordW_fields (Option.some.inj (he.symm.trans h)) hb
  exact ⟨hw, (hD w hop).trans (hd w hvd hra hrb hvm hmp hdt hfn)⟩

/-- An instruction of format F-C decodes where its major's decoder answers it to every word of its fields. -/
theorem decodes_wordC {i : Instr} {D : Nat → Decoded} {op x cb need off fn : Nat}
    (hD : ∀ w, bits w 31 26 = op → decodeFields w = D w) (he : encode i = some (wordC op x cb need off fn))
    (hb : op < 64 ∧ x < 32 ∧ cb < 8 ∧ need < 8 ∧ off < 256 ∧ fn < 128)
    (hd : ∀ w, bits w 25 21 = x → bits w 20 18 = cb → bits w 17 15 = need → bits w 14 7 = off → bits w 6 0 = fn → D w = .ok
      i) :
    Decodes i := by
  intro w h
  obtain ⟨hw, hop, hx, hcb, hneed, hoff, hfn⟩ := wordC_fields (Option.some.inj (he.symm.trans h)) hb
  exact ⟨hw, (hD w hop).trans (hd w hx hcb hneed hoff hfn)⟩

/-- An instruction of format F-P decodes where its major's decoder answers it to every word of its fields. -/
theorem decodes_wordP {i : Instr} {D : Nat → Decoded} {op cnt rep sd sa sb sm : Nat}
    (hD : ∀ w, bits w 31 26 = op → decodeFields w = D w) (he : encode i = some (wordP op cnt rep sd sa sb sm))
    (hb : op < 64 ∧ cnt < 16 ∧ rep < 64 ∧ sd < 8 ∧ sa < 8 ∧ sb < 8 ∧ sm < 8)
    (hd : ∀ w, bits w 25 22 = cnt → bits w 21 16 = rep → bits w 15 13 = sd → bits w 12 10 = sa → bits w 9 7 = sb → bits w 6
      4 = sm → bits w 3 0 = 0 → D w = .ok i) :
    Decodes i := by
  intro w h
  obtain ⟨hw, hop, hcnt, hrep, hsd, hsa, hsb, hsm, hlow⟩ := wordP_fields (Option.some.inj (he.symm.trans h)) hb
  exact ⟨hw, (hD w hop).trans (hd w hcnt hrep hsd hsa hsb hsm hlow)⟩

/-- The decoder of each major that has minors (03 R60). -/
theorem decodeFields_major (w : Nat) :
    (bits w 31 26 = 1 → decodeFields w = decodeAlu w) ∧ (bits w 31 26 = 6 → decodeFields w = decodeShi w) ∧
    (bits w 31 26 = 9 → decodeFields w = decodeSetq w) ∧ (bits w 31 26 = 11 → decodeFields w = decodeLd w) ∧
    (bits w 31 26 = 12 → decodeFields w = decodeSt w) ∧ (bits w 31 26 = 15 → decodeFields w = decodeAmo w) ∧
    (bits w 31 26 = 25 → decodeFields w = decodeSys w) ∧ (bits w 31 26 = 29 → decodeFields w = decodeCb w) ∧
    (bits w 31 26 = 30 → decodeFields w = decodeBs w) ∧ (bits w 31 26 = 31 → decodeFields w = decodeLa w) ∧
    (bits w 31 26 = 32 → decodeFields w = decodeVa w) ∧ (bits w 31 26 = 33 → decodeFields w = decodeVf w) ∧
    (bits w 31 26 = 34 → decodeFields w = decodeVc w) ∧ (bits w 31 26 = 35 → decodeFields w = decodeVm w) ∧
    (bits w 31 26 = 36 → decodeFields w = decodeVr w) ∧ (bits w 31 26 = 37 → decodeFields w = decodeVcv w) ∧
    (bits w 31 26 = 38 → decodeFields w = decodeVld w) ∧ (bits w 31 26 = 39 → decodeFields w = decodeVst w) ∧
    (bits w 31 26 = 40 → decodeFields w = decodeVmv w) ∧ (bits w 31 26 = 42 → decodeFields w = decodeMsg w) ∧
    (bits w 31 26 = 43 → decodeFields w = decodeTask w) ∧ (bits w 31 26 = 44 → decodeFields w = decodeBar w) ∧
    (bits w 31 26 = 45 → decodeFields w = decodeRing w) ∧ (bits w 31 26 = 46 → decodeFields w = decodeCpy w) ∧
    (bits w 31 26 = 47 → decodeFields w = decodeGs w) ∧ (bits w 31 26 = 48 → decodeFields w = decodeSp w) ∧
    (bits w 31 26 = 49 → decodeFields w = decodeLife w) ∧ (bits w 31 26 = 50 → decodeFields w = decodeXd w) ∧
    (bits w 31 26 = 51 → decodeFields w = decodePerf w) := by
  and_intros <;> intro h <;> simp only [decodeFields, h]

/-- Majors 0x02 to 0x05, 0x07, 0x08, 0x0A, 0x11 to 0x16, 0x18 and 0x1B (03 R60). -/
@[simp] theorem decodes_imm :
    (∀ rd ra imm, Decodes (.addi rd ra imm)) ∧ (∀ rd ra imm, Decodes (.andi rd ra imm)) ∧
    (∀ rd ra imm, Decodes (.ori rd ra imm)) ∧ (∀ rd ra imm, Decodes (.xori rd ra imm)) ∧
    (∀ rd ra imm, Decodes (.slti rd ra imm)) ∧ (∀ rd ra imm, Decodes (.sltni rd ra imm)) ∧
    (∀ ra rb off, Decodes (.beq ra rb off)) ∧ (∀ ra rb off, Decodes (.bne ra rb off)) ∧
    (∀ ra rb off, Decodes (.blt ra rb off)) ∧ (∀ ra rb off, Decodes (.bge ra rb off)) ∧
    (∀ ra rb off, Decodes (.bltn ra rb off)) ∧ (∀ ra rb off, Decodes (.bgen ra rb off)) ∧
    (∀ rd ra imm, Decodes (.jalr rd ra imm)) ∧ (∀ ra imm, Decodes (.spwr ra imm)) ∧ (∀ rd imm, Decodes (.pcadd rd imm)) := by
  and_intros
  all_goals
    intros
    refine decodes_wordI (fun w h => by simp only [decodeFields, h]; rfl) rfl (by omega) fun w hrd hra himm => ?_
    simp [given_eq_ok, field_eq, hrd, hra, himm]

/-- Major 0x01 (06 R101). -/
@[simp] theorem decodes_alu :
    (∀ rd ra rb, Decodes (.add rd ra rb)) ∧ (∀ rd ra rb, Decodes (.sub rd ra rb)) ∧ (∀ rd ra rb, Decodes (.and rd ra rb)) ∧
    (∀ rd ra rb, Decodes (.or rd ra rb)) ∧ (∀ rd ra rb, Decodes (.xor rd ra rb)) ∧ (∀ rd ra rb, Decodes (.andn rd ra rb)) ∧
    (∀ rd ra rb, Decodes (.sll rd ra rb)) ∧ (∀ rd ra rb, Decodes (.srl rd ra rb)) ∧ (∀ rd ra rb, Decodes (.sra rd ra rb)) ∧
    (∀ rd ra rb, Decodes (.slt rd ra rb)) ∧ (∀ rd ra rb, Decodes (.sltn rd ra rb)) ∧ (∀ rd ra rb, Decodes (.mul rd ra rb)) ∧
    (∀ rd ra rb, Decodes (.mulh rd ra rb)) ∧ (∀ rd ra rb, Decodes (.mulhn rd ra rb)) ∧
    (∀ rd ra rb, Decodes (.div rd ra rb)) ∧ (∀ rd ra rb, Decodes (.divn rd ra rb)) ∧ (∀ rd ra rb, Decodes (.rem rd ra rb)) ∧
    (∀ rd ra rb, Decodes (.remn rd ra rb)) ∧ (∀ rd ra rb, Decodes (.min rd ra rb)) ∧ (∀ rd ra rb, Decodes (.max rd ra rb)) ∧
    (∀ rd ra rb, Decodes (.minn rd ra rb)) ∧ (∀ rd ra rb, Decodes (.maxn rd ra rb)) ∧ (∀ rd ra, Decodes (.clz rd ra)) ∧
    (∀ rd ra, Decodes (.ctz rd ra)) ∧ (∀ rd ra, Decodes (.popc rd ra)) ∧ (∀ rd ra sh, Decodes (.sext rd ra sh)) ∧
    (∀ rd ra sh, Decodes (.zext rd ra sh)) ∧ (∀ rd ra rb sh, Decodes (.addx rd ra rb sh)) ∧
    (∀ rd ra rb sh, Decodes (.rotl rd ra rb sh)) ∧ (∀ rd ra rb sh, Decodes (.bext rd ra rb sh)) ∧
    (∀ rd ra rb, Decodes (.cmov rd ra rb)) := by
  have hD : ∀ w, bits w 31 26 = 1 → decodeFields w = decodeAlu w := fun w h => by simp only [decodeFields_major, h]
  and_intros
  all_goals
    intros
    refine decodes_wordR hD rfl (by omega) fun w hrd hra hrb hfn hsh => ?_
    simp [decodeAlu, given_eq_ok, field_eq, hrd, hra, hrb, hfn, hsh]

/-- Major 0x06 (06 R104). -/
@[simp] theorem decodes_shi :
    (∀ rd ra n, Decodes (.slli rd ra n)) ∧ (∀ rd ra n, Decodes (.srli rd ra n)) ∧ (∀ rd ra n, Decodes (.srai rd ra n)) := by
  have hD : ∀ w, bits w 31 26 = 6 → decodeFields w = decodeShi w := fun w h => by simp only [decodeFields_major, h]
  refine ⟨fun _ _ _ => decodes_wordI hD rfl (by omega) fun w hrd hra himm => ?_, fun _ _ _ => decodes_wordI hD rfl (by
    omega) fun w hrd hra himm => ?_, fun _ _ _ => decodes_wordI hD rfl (by omega) fun w hrd hra himm => ?_⟩
  · have hfn : bits w 7 6 = 0 := by rw [bits_within w 15 0 7 6, himm]; omega
    simp [decodeShi, given_eq_ok, field_eq, hfn, hrd, hra, himm, imm_within]
    omega
  · have hfn : bits w 7 6 = 1 := by rw [bits_within w 15 0 7 6, himm]; omega
    simp [decodeShi, given_eq_ok, field_eq, hfn, hrd, hra, himm, imm_within]
    omega
  · have hfn : bits w 7 6 = 2 := by rw [bits_within w 15 0 7 6, himm]; omega
    simp [decodeShi, given_eq_ok, field_eq, hfn, hrd, hra, himm, imm_within]
    omega

/-- Major 0x09 (06 R105). -/
@[simp] theorem decodes_setq :
    (∀ rd q imm, Decodes (.setqZ rd q imm)) ∧ (∀ rd q imm, Decodes (.setqK rd q imm)) := by
  have hD : ∀ w, bits w 31 26 = 9 → decodeFields w = decodeSetq w := fun w h => by simp only [decodeFields_major, h]
  refine ⟨fun _ _ _ => decodes_wordI hD rfl (by omega) fun w hrd hra himm => ?_, fun _ _ _ => decodes_wordI hD rfl (by
    omega) fun w hrd hra himm => ?_⟩
  · have hfn : bits w 20 20 = 0 := by rw [bits_within w 20 16 20 20, hra]; omega
    simp [decodeSetq, given_eq_ok, field_eq, hfn, hrd, hra, himm, bits_within w 20 16 19 18, bits_within w 20 16 17 16]
    omega
  · have hfn : bits w 20 20 = 1 := by rw [bits_within w 20 16 20 20, hra]; omega
    simp [decodeSetq, given_eq_ok, field_eq, hfn, hrd, hra, himm, bits_within w 20 16 19 18, bits_within w 20 16 17 16]
    omega

/-- Major 0x0B (06 R108). -/
@[simp] theorem decodes_ld :
    (∀ rd ra off, Decodes (.ldB rd ra off)) ∧ (∀ rd ra off, Decodes (.ldH rd ra off)) ∧
    (∀ rd ra off, Decodes (.ldW rd ra off)) ∧ (∀ rd ra off, Decodes (.ldD rd ra off)) ∧
    (∀ rd ra off, Decodes (.ldBn rd ra off)) ∧ (∀ rd ra off, Decodes (.ldHn rd ra off)) ∧
    (∀ rd ra off, Decodes (.ldWn rd ra off)) := by
  have hD : ∀ w, bits w 31 26 = 11 → decodeFields w = decodeLd w := fun w h => by simp only [decodeFields_major, h]
  and_intros
  all_goals
    intros
    refine decodes_wordM hD rfl (by omega) fun w hrd hra hsz hoff => ?_
    simp [decodeLd, field_eq, hrd, hra, hsz, hoff]

/-- Major 0x0C (06 R108). -/
@[simp] theorem decodes_st :
    (∀ rs ra off, Decodes (.stB rs ra off)) ∧ (∀ rs ra off, Decodes (.stH rs ra off)) ∧
    (∀ rs ra off, Decodes (.stW rs ra off)) ∧ (∀ rs ra off, Decodes (.stD rs ra off)) ∧
    (∀ rs ra off, Decodes (.stNib rs ra off)) := by
  have hD : ∀ w, bits w 31 26 = 12 → decodeFields w = decodeSt w := fun w h => by simp only [decodeFields_major, h]
  and_intros
  all_goals
    intros
    refine decodes_wordM hD rfl (by omega) fun w hrd hra hsz hoff => ?_
    simp [decodeSt, field_eq, hrd, hra, hsz, hoff]

/-- Major 0x0F (15 R286). -/
@[simp] theorem decodes_amo :
    (∀ rd ra rb sc aq rl wd, Decodes (.amoadd rd ra rb sc aq rl wd)) ∧
    (∀ rd ra rb sc aq rl wd, Decodes (.amoswap rd ra rb sc aq rl wd)) ∧
    (∀ rd ra rb sc aq rl wd, Decodes (.amoand rd ra rb sc aq rl wd)) ∧
    (∀ rd ra rb sc aq rl wd, Decodes (.amoor rd ra rb sc aq rl wd)) ∧
    (∀ rd ra rb sc aq rl wd, Decodes (.amoxor rd ra rb sc aq rl wd)) ∧
    (∀ rd ra rb sc aq rl wd, Decodes (.amomin rd ra rb sc aq rl wd)) ∧
    (∀ rd ra rb sc aq rl wd, Decodes (.amomax rd ra rb sc aq rl wd)) ∧
    (∀ rd ra rb sc aq rl wd, Decodes (.amominn rd ra rb sc aq rl wd)) ∧
    (∀ rd ra rb sc aq rl wd, Decodes (.amomaxn rd ra rb sc aq rl wd)) ∧
    (∀ rd ra rb sc aq rl wd, Decodes (.amocas rd ra rb sc aq rl wd)) ∧
    (∀ rd ra rb sc aq rl, Decodes (.amocasq rd ra rb sc aq rl)) ∧
    (∀ rd ra rb sc aq rl wd, Decodes (.amodecp rd ra rb sc aq rl wd)) ∧
    (∀ rd ra rb sc aq rl, Decodes (.amofaddS rd ra rb sc aq rl)) ∧
    (∀ rd ra rb sc aq rl, Decodes (.amofaddD rd ra rb sc aq rl)) := by
  have hD : ∀ w, bits w 31 26 = 15 → decodeFields w = decodeAmo w := fun w h => by simp only [decodeFields_major, h]
  and_intros
  all_goals
    intros
    refine decodes_wordA hD rfl (by omega) fun w hrd hra hrb hsc haq hrl hfn => ?_
    simp [decodeAmo, given_eq_ok, field_eq, hrd, hra, hrb, hsc, haq, hrl, hfn, offset_within] <;>
      omega

/-- Major 0x19 (06 R115). -/
@[simp] theorem decodes_sys :
    (∀ code, Decodes (.trap code)) ∧ (∀ code, Decodes (.brk code)) ∧ (∀ rd ra, Decodes (.wpswap rd ra)) ∧
    (∀ n, Decodes (.mqwait n)) ∧ Decodes .done ∧ Decodes (.yield) ∧ Decodes (.tret) ∧ Decodes (.wfe) ∧ Decodes (.nop) := by
  have hD : ∀ w, bits w 31 26 = 25 → decodeFields w = decodeSys w := fun w h => by simp only [decodeFields_major, h]
  and_intros
  all_goals
    intros
    refine decodes_wordI hD rfl (by omega) fun w hrd hra himm => ?_
    simp [decodeSys, given_eq_ok, field_eq, hrd, hra, himm, imm_within, bits_cut w 25 21 20 4, bits_cut w 20 16 15 4,
      bits_cut w 25 21 20 16, bits_cut w 25 21 20 8, bits_cut w 20 16 15 8] <;>
      omega

/-- Major 0x1D (08 R149). -/
@[simp] theorem decodes_cb :
    (∀ x cb, Decodes (.cbbind x cb)) ∧ (∀ x cb need off, Decodes (.cbget x cb need off)) ∧
    (∀ x cb need off, Decodes (.cbput x cb need off)) ∧ (∀ x cb need, Decodes (.cbpop x cb need)) ∧
    (∀ x cb need, Decodes (.cbpush x cb need)) ∧ (∀ x cb, Decodes (.cbstat x cb)) ∧
    (∀ x cb need off, Decodes (.cbwfill x cb need off)) ∧ (∀ x cb need off, Decodes (.cbwfree x cb need off)) := by
  have hD : ∀ w, bits w 31 26 = 29 → decodeFields w = decodeCb w := fun w h => by simp only [decodeFields_major, h]
  and_intros
  all_goals
    intros
    refine decodes_wordC hD rfl (by omega) fun w hx hcb hneed hoff hfn => ?_
    simp [decodeCb, given_eq_ok, field_eq, hx, hcb, hneed, hoff, hfn, bits_cut w 17 15 14 7]

/-- Major 0x1E (08 R155). -/
@[simp] theorem decodes_bs :
    (∀ ra dir, Decodes (.bsinit ra dir)) ∧ (∀ rd n, Decodes (.bsget rd n)) ∧ (∀ rd n, Decodes (.bspeek rd n)) ∧
    (∀ n, Decodes (.bsskip n)) ∧ (∀ ra n, Decodes (.bsput ra n)) ∧ (∀ rd, Decodes (.bspos rd)) ∧ Decodes (.bsflush) ∧
    Decodes (.bsalign) := by
  have hD : ∀ w, bits w 31 26 = 30 → decodeFields w = decodeBs w := fun w h => by simp only [decodeFields_major, h]
  refine ⟨fun _ _ => decodes_wordI hD rfl (by omega) fun w hrd hra himm => ?_, fun _ _ => decodes_wordI hD rfl (by omega)
    fun w hrd hra himm => ?_, fun _ _ => decodes_wordI hD rfl (by omega) fun w hrd hra himm => ?_, fun _ => decodes_wordI hD
    rfl (by omega) fun w hrd hra himm => ?_, fun _ _ => decodes_wordI hD rfl (by omega) fun w hrd hra himm => ?_, fun _ =>
    decodes_wordI hD rfl (by omega) fun w hrd hra himm => ?_, decodes_wordI hD rfl (by omega) fun w hrd hra himm => ?_,
    decodes_wordI hD rfl (by omega) fun w hrd hra himm => ?_⟩
  · have hfn : bits w 15 12 = 0 := by rw [bits_within w 15 0 15 12, himm]; omega
    simp [decodeBs, given_eq_ok, field_eq, hfn, hrd, hra, himm, imm_within]
    omega
  · have hfn : bits w 15 12 = 1 := by rw [bits_within w 15 0 15 12, himm]; omega
    simp [decodeBs, given_eq_ok, field_eq, hfn, hrd, hra, himm, imm_within]
    omega
  · have hfn : bits w 15 12 = 2 := by rw [bits_within w 15 0 15 12, himm]; omega
    simp [decodeBs, given_eq_ok, field_eq, hfn, hrd, hra, himm, imm_within]
    omega
  · have hfn : bits w 15 12 = 3 := by rw [bits_within w 15 0 15 12, himm]; omega
    simp [decodeBs, given_eq_ok, field_eq, hfn, hrd, hra, himm, imm_within, bits_cut w 25 21 20 16]
    omega
  · have hfn : bits w 15 12 = 4 := by rw [bits_within w 15 0 15 12, himm]; omega
    simp [decodeBs, given_eq_ok, field_eq, hfn, hrd, hra, himm, imm_within]
    omega
  · have hfn : bits w 15 12 = 7 := by rw [bits_within w 15 0 15 12, himm]; omega
    simp [decodeBs, given_eq_ok, field_eq, hfn, hrd, hra, himm, imm_within]
  · have hfn : bits w 15 12 = 5 := by rw [bits_within w 15 0 15 12, himm]; omega
    simp [decodeBs, given_eq_ok, hfn, hrd, hra, himm, imm_within, bits_cut w 25 21 20 16]
  · have hfn : bits w 15 12 = 6 := by rw [bits_within w 15 0 15 12, himm]; omega
    simp [decodeBs, given_eq_ok, hfn, hrd, hra, himm, imm_within, bits_cut w 25 21 20 16]

/-- Major 0x1F (08 R163). -/
@[simp] theorem decodes_la :
    (∀ ra, Decodes (.laclr ra)) ∧ (∀ ra rb, Decodes (.laaddD ra rb)) ∧ (∀ rd ra rb, Decodes (.lamulD rd ra rb)) ∧
    (∀ ra rb, Decodes (.lasubD ra rb)) ∧ (∀ ra rb, Decodes (.laaddS ra rb)) ∧ (∀ rd ra, Decodes (.larndD rd ra)) ∧
    (∀ rd ra, Decodes (.larndS rd ra)) ∧ (∀ rd ra, Decodes (.lastat rd ra)) := by
  have hD : ∀ w, bits w 31 26 = 31 → decodeFields w = decodeLa w := fun w h => by simp only [decodeFields_major, h]
  and_intros
  all_goals
    intros
    refine decodes_wordR hD rfl (by omega) fun w hrd hra hrb hfn hsh => ?_
    simp [decodeLa, given_eq_ok, field_eq, hrd, hra, hrb, hfn, hsh]

/-- Major 0x20 (07 R129). -/
@[simp] theorem decodes_va :
    (∀ vd va vb vm mp dt, Decodes (.vadd vd va vb vm mp dt)) ∧ (∀ vd va vb vm mp dt, Decodes (.vsub vd va vb vm mp dt)) ∧
    (∀ vd va vb vm mp dt, Decodes (.vmul vd va vb vm mp dt)) ∧ (∀ vd va vb vm mp dt, Decodes (.vmulh vd va vb vm mp dt)) ∧
    (∀ vd va vb vm mp dt, Decodes (.vmin vd va vb vm mp dt)) ∧ (∀ vd va vb vm mp dt, Decodes (.vmax vd va vb vm mp dt)) ∧
    (∀ vd va vb vm mp dt, Decodes (.vand vd va vb vm mp dt)) ∧ (∀ vd va vb vm mp dt, Decodes (.vor vd va vb vm mp dt)) ∧
    (∀ vd va vb vm mp dt, Decodes (.vxor vd va vb vm mp dt)) ∧ (∀ vd va vb vm mp dt, Decodes (.vsll vd va vb vm mp dt)) ∧
    (∀ vd va vb vm mp dt, Decodes (.vsrl vd va vb vm mp dt)) ∧ (∀ vd va vb vm mp dt, Decodes (.vsra vd va vb vm mp dt)) ∧
    (∀ vd va vm mp dt, Decodes (.vabs vd va vm mp dt)) ∧ (∀ vd va vb vm mp dt, Decodes (.vsadd vd va vb vm mp dt)) ∧
    (∀ vd va vb vm mp dt, Decodes (.vssub vd va vb vm mp dt)) := by
  have hD : ∀ w, bits w 31 26 = 32 → decodeFields w = decodeVa w := fun w h => by simp only [decodeFields_major, h]
  and_intros
  all_goals
    intros
    refine decodes_wordV hD rfl (by omega) fun w hvd hva hvb hvm hmp hdt hfn => ?_
    simp [decodeVa, given_eq_ok, field_eq, hvd, hva, hvb, hvm, hmp, hdt, hfn]

/-- Major 0x21 (07 R130). -/
@[simp] theorem decodes_vf :
    (∀ vd va vb vm mp dt, Decodes (.vfadd vd va vb vm mp dt)) ∧ (∀ vd va vb vm mp dt, Decodes (.vfsub vd va vb vm mp dt)) ∧
    (∀ vd va vb vm mp dt, Decodes (.vfmul vd va vb vm mp dt)) ∧ (∀ vd va vb vm mp dt, Decodes (.vfma vd va vb vm mp dt)) ∧
    (∀ vd va vb vm mp dt, Decodes (.vfms vd va vb vm mp dt)) ∧ (∀ vd va vb vm mp dt, Decodes (.vfnma vd va vb vm mp dt)) ∧
    (∀ vd va vb vm mp dt, Decodes (.vfmin vd va vb vm mp dt)) ∧ (∀ vd va vb vm mp dt, Decodes (.vfmax vd va vb vm mp dt)) ∧
    (∀ vd va vm mp dt, Decodes (.vfabs vd va vm mp dt)) ∧ (∀ vd va vm mp dt, Decodes (.vfneg vd va vm mp dt)) ∧
    (∀ vd va vb vm mp dt, Decodes (.vfdiv vd va vb vm mp dt)) ∧ (∀ vd va vm mp dt, Decodes (.vfsqrt vd va vm mp dt)) ∧
    (∀ vd va vm mp dt, Decodes (.vfclass vd va vm mp dt)) := by
  have hD : ∀ w, bits w 31 26 = 33 → decodeFields w = decodeVf w := fun w h => by simp only [decodeFields_major, h]
  and_intros
  all_goals
    intros
    refine decodes_wordV hD rfl (by omega) fun w hvd hva hvb hvm hmp hdt hfn => ?_
    simp [decodeVf, given_eq_ok, field_eq, hvd, hva, hvb, hvm, hmp, hdt, hfn]

/-- Major 0x22 (07 R132). -/
@[simp] theorem decodes_vc :
    (∀ vd va vb vm mp dt, Decodes (.vceq vd va vb vm mp dt)) ∧ (∀ vd va vb vm mp dt, Decodes (.vcne vd va vb vm mp dt)) ∧
    (∀ vd va vb vm mp dt, Decodes (.vclt vd va vb vm mp dt)) ∧ (∀ vd va vb vm mp dt, Decodes (.vcle vd va vb vm mp dt)) ∧
    (∀ vd va vb vm mp dt, Decodes (.vcltn vd va vb vm mp dt)) ∧ (∀ vd va vb vm mp dt, Decodes (.vclen vd va vb vm mp dt)) ∧
    (∀ vd va vb vm mp dt, Decodes (.vfceq vd va vb vm mp dt)) ∧ (∀ vd va vb vm mp dt, Decodes (.vfclt vd va vb vm mp dt)) ∧
    (∀ vd va vb vm mp dt, Decodes (.vfcle vd va vb vm mp dt)) ∧ (∀ vd va vb vm mp dt, Decodes (.vfcun vd va vb vm mp dt)) := by
  have hD : ∀ w, bits w 31 26 = 34 → decodeFields w = decodeVc w := fun w h => by simp only [decodeFields_major, h]
  and_intros
  all_goals
    intros
    refine decodes_wordV hD rfl (by omega) fun w hvd hva hvb hvm hmp hdt hfn => ?_
    simp [decodeVc, field_eq, hvd, hva, hvb, hvm, hmp, hdt, hfn]

/-- Major 0x23 (07 R133). -/
@[simp] theorem decodes_vm :
    (∀ vd va vb vm dt, Decodes (.vsel vd va vb vm dt)) ∧ (∀ vd va vb vm mp dt, Decodes (.vperm vd va vb vm mp dt)) ∧
    (∀ vd va vb vm mp dt, Decodes (.vslup vd va vb vm mp dt)) ∧ (∀ vd va vb vm mp dt, Decodes (.vsldn vd va vb vm mp dt)) ∧
    (∀ vd va vb, Decodes (.mand vd va vb)) ∧ (∀ vd va vb, Decodes (.mor vd va vb)) ∧ (∀ vd va vb, Decodes (.mxor vd va vb)) ∧
    (∀ vd va, Decodes (.mnot vd va)) ∧ (∀ vd va dt, Decodes (.mpop vd va dt)) ∧ (∀ vd va dt, Decodes (.mfirst vd va dt)) ∧
    (∀ vd va vm mp dt, Decodes (.viota vd va vm mp dt)) ∧ (∀ vd va vb vm mp dt, Decodes (.vzip vd va vb vm mp dt)) ∧
    (∀ vd va vb vm mp dt, Decodes (.vunzip vd va vb vm mp dt)) := by
  have hD : ∀ w, bits w 31 26 = 35 → decodeFields w = decodeVm w := fun w h => by simp only [decodeFields_major, h]
  and_intros
  all_goals
    intros
    refine decodes_wordV hD rfl (by omega) fun w hvd hva hvb hvm hmp hdt hfn => ?_
    simp [decodeVm, given_eq_ok, field_eq, hvd, hva, hvb, hvm, hmp, hdt, hfn, bits_cut w 13 10 9 5, bits_cut w 9 9 8 5,
      bits_cut w 17 14 13 5, bits_cut w 17 14 13 9, bits_cut w 13 10 9 9]

/-- Major 0x24 (07 R134). -/
@[simp] theorem decodes_vr :
    (∀ vd va vm dt, Decodes (.vrsum vd va vm dt)) ∧ (∀ vd va vm dt, Decodes (.vrmax vd va vm dt)) ∧
    (∀ vd va vm dt, Decodes (.vrmin vd va vm dt)) ∧ (∀ vd va vm dt, Decodes (.vrmaxn vd va vm dt)) ∧
    (∀ vd va vm dt, Decodes (.vrminn vd va vm dt)) ∧ (∀ vd va vm dt, Decodes (.vfrsum vd va vm dt)) ∧
    (∀ vd va vm dt, Decodes (.vfrmax vd va vm dt)) ∧ (∀ vd va vm dt, Decodes (.vfrmin vd va vm dt)) ∧
    (∀ vd va vm dt, Decodes (.vrand vd va vm dt)) ∧ (∀ vd va vm dt, Decodes (.vror vd va vm dt)) := by
  have hD : ∀ w, bits w 31 26 = 36 → decodeFields w = decodeVr w := fun w h => by simp only [decodeFields_major, h]
  and_intros
  all_goals
    intros
    refine decodes_wordV hD rfl (by omega) fun w hvd hva hvb hvm hmp hdt hfn => ?_
    simp [decodeVr, given_eq_ok, field_eq, hvd, hva, hvb, hvm, hmp, hdt, hfn]

/-- Major 0x25 (08 R160). -/
@[simp] theorem decodes_vcv :
    (∀ vd va st vm mp dt, Decodes (.vcvt vd va st vm mp dt)) ∧ (∀ vd va st vm mp dt, Decodes (.vdec vd va st vm mp dt)) ∧
    (∀ vd va st vm mp dt, Decodes (.venc vd va st vm mp dt)) ∧ (∀ vd va st vm mp dt, Decodes (.vscl vd va st vm mp dt)) := by
  have hD : ∀ w, bits w 31 26 = 37 → decodeFields w = decodeVcv w := fun w h => by simp only [decodeFields_major, h]
  and_intros
  all_goals
    intros
    refine decodes_wordV hD rfl (by omega) fun w hvd hva hvb hvm hmp hdt hfn => ?_
    simp [decodeVcv, field_eq, hvd, hva, hvb, hvm, hmp, hdt, hfn]

/-- Major 0x26 (07 R135). -/
@[simp] theorem decodes_vld :
    (∀ vd ra rb vm mp dt, Decodes (.vld vd ra rb vm mp dt)) ∧ (∀ vd ra rb vm mp dt, Decodes (.vlds vd ra rb vm mp dt)) ∧
    (∀ vd ra rb vm mp dt, Decodes (.vldb vd ra rb vm mp dt)) ∧ (∀ ra dt, Decodes (.vtbl ra dt)) := by
  have hD : ∀ w, bits w 31 26 = 38 → decodeFields w = decodeVld w := fun w h => by simp only [decodeFields_major, h]
  and_intros
  all_goals
    intros
    refine decodes_wordW hD rfl (by omega) fun w hvd hra hrb hvm hmp hdt hfn => ?_
    simp [decodeVld, given_eq_ok, field_eq, hvd, hra, hrb, hvm, hmp, hdt, hfn, dt_within, bits_cut w 16 12 11 4,
      bits_cut w 11 8 7 4, bits_cut w 7 7 6 4]
    omega

/-- Major 0x27 (07 R135). -/
@[simp] theorem decodes_vst :
    (∀ vd ra rb vm dt, Decodes (.vst vd ra rb vm dt)) ∧ (∀ vd ra rb vm dt, Decodes (.vsts vd ra rb vm dt)) ∧
    (∀ vd ra rb vm, Decodes (.vstnib vd ra rb vm)) := by
  have hD : ∀ w, bits w 31 26 = 39 → decodeFields w = decodeVst w := fun w h => by simp only [decodeFields_major, h]
  and_intros
  all_goals
    intros
    refine decodes_wordW hD rfl (by omega) fun w hvd hra hrb hvm hmp hdt hfn => ?_
    simp [decodeVst, given_eq_ok, field_eq, hvd, hra, hrb, hvm, hmp, hdt, hfn, dt_within, bits_cut w 7 7 6 6,
      bits_cut w 7 7 6 3] <;>
      omega

/-- Major 0x28 (07 R139). -/
@[simp] theorem decodes_vmv :
    (∀ vd ra rb dt, Decodes (.vins vd ra rb dt)) ∧ (∀ vd ra rb dt, Decodes (.vext vd ra rb dt)) ∧
    (∀ vd ra vm dt, Decodes (.vsplat vd ra vm dt)) := by
  have hD : ∀ w, bits w 31 26 = 40 → decodeFields w = decodeVmv w := fun w h => by simp only [decodeFields_major, h]
  and_intros
  all_goals
    intros
    refine decodes_wordW hD rfl (by omega) fun w hvd hra hrb hvm hmp hdt hfn => ?_
    simp [decodeVmv, given_eq_ok, field_eq, hvd, hra, hrb, hvm, hmp, hdt, hfn, dt_within, bits_cut w 11 8 7 6,
      bits_cut w 7 7 6 6]
    omega

/-- Major 0x2A (11 R209). -/
@[simp] theorem decodes_msg :
    (∀ ra rb sc, Decodes (.send ra rb sc)) ∧ (∀ ra vb sc, Decodes (.sendv ra vb sc)) ∧ (∀ rd n, Decodes (.mget rd n)) ∧
    (∀ vd half, Decodes (.vmget vd half)) ∧ (∀ ra rb n, Decodes (.htset ra rb n)) ∧ Decodes (.mrel) ∧ Decodes (.htsync) := by
  have hD : ∀ w, bits w 31 26 = 42 → decodeFields w = decodeMsg w := fun w h => by simp only [decodeFields_major, h]
  and_intros
  all_goals
    intros
    refine decodes_wordR hD rfl (by omega) fun w hrd hra hrb hfn hsh => ?_
    simp [decodeMsg, given_eq_ok, field_eq, hrd, hra, hrb, hfn, hsh, sh_within, bits_within w 15 11 15 15,
      bits_within w 15 11 14 11, bits_within w 25 21 25 25, bits_within w 25 21 24 21, bits_cut w 25 21 20 11,
      bits_cut w 20 16 15 11] <;>
      omega

/-- Major 0x2B (11 R219). -/
@[simp] theorem decodes_task :
    (∀ ra, Decodes (.dqpush ra)) ∧ (∀ rd ra, Decodes (.dqpop rd ra)) ∧ (∀ ra sc, Decodes (.spawn ra sc)) ∧
    (∀ ra slot, Decodes (.actdecl ra slot)) ∧ (∀ slot, Decodes (.actarm slot)) ∧ (∀ slot, Decodes (.actoff slot)) ∧
    (∀ rd, Decodes (.dqstat rd)) := by
  have hD : ∀ w, bits w 31 26 = 43 → decodeFields w = decodeTask w := fun w h => by simp only [decodeFields_major, h]
  and_intros
  all_goals
    intros
    refine decodes_wordR hD rfl (by omega) fun w hrd hra hrb hfn hsh => ?_
    simp [decodeTask, given_eq_ok, field_eq, hrd, hra, hrb, hfn, hsh, sh_within, bits_cut w 25 21 20 11,
      bits_cut w 20 16 15 11] <;>
      omega

/-- Major 0x2C (11 R224, 15 R293). -/
@[simp] theorem decodes_bar :
    (∀ rd ra level, Decodes (.barArr rd ra level)) ∧ (∀ ra rb level, Decodes (.barWait ra rb level)) ∧
    (∀ rd ra level, Decodes (.barArrw rd ra level)) ∧ (∀ rd ra rb sc, Decodes (.obarArr rd ra rb sc)) ∧
    (∀ ra rb sc, Decodes (.obarWait ra rb sc)) := by
  have hD : ∀ w, bits w 31 26 = 44 → decodeFields w = decodeBar w := fun w h => by simp only [decodeFields_major, h]
  and_intros
  all_goals
    intros
    refine decodes_wordR hD rfl (by omega) fun w hrd hra hrb hfn hsh => ?_
    simp [decodeBar, given_eq_ok, field_eq, hrd, hra, hrb, hfn, hsh, sh_within] <;>
      omega

/-- Major 0x2D (12 R244). -/
@[simp] theorem decodes_ring :
    (∀ ra, Decodes (.rcfg ra)) ∧ (∀ rd ra, Decodes (.rinj rd ra)) ∧ (∀ ra rb, Decodes (.rmset ra rb)) ∧
    (∀ ra rb, Decodes (.rmclr ra rb)) ∧ (∀ ra rb trk sc, Decodes (.rphase ra rb trk sc)) ∧
    (∀ rd ra sel trk, Decodes (.rcnt rd ra sel trk)) ∧ (∀ rd rb, Decodes (.rfetch rd rb)) ∧
    (∀ rd trk, Decodes (.rdrain rd trk)) := by
  have hD : ∀ w, bits w 31 26 = 45 → decodeFields w = decodeRing w := fun w h => by simp only [decodeFields_major, h]
  and_intros
  all_goals
    intros
    refine decodes_wordR hD rfl (by omega) fun w hrd hra hrb hfn hsh => ?_
    simp [decodeRing, given_eq_ok, field_eq, hrd, hra, hrb, hfn, hsh, sh_within, bits_cut w 20 16 15 11] <;>
      omega

/-- Major 0x2E (17 R309). -/
@[simp] theorem decodes_cpy :
    (∀ rd ra, Decodes (.cwait rd ra)) ∧ (∀ rd, Decodes (.cstat rd)) ∧ (∀ rd ra, Decodes (.ccancel rd ra)) := by
  have hD : ∀ w, bits w 31 26 = 46 → decodeFields w = decodeCpy w := fun w h => by simp only [decodeFields_major, h]
  and_intros
  all_goals
    intros
    refine decodes_wordI hD rfl (by omega) fun w hrd hra himm => ?_
    simp [decodeCpy, given_eq_ok, field_eq, hrd, hra, himm, imm_within, bits_cut w 20 16 15 4]

/-- Major 0x2F (17 R311). -/
@[simp] theorem decodes_gs :
    (∀ vd ra sc vm mp dt, Decodes (.vgath vd ra sc vm mp dt)) ∧ (∀ vd ra sc vm dt, Decodes (.vscat vd ra sc vm dt)) ∧
    (∀ vd ra sc vm dt, Decodes (.vscadd vd ra sc vm dt)) ∧ (∀ vd ra sc vm mp dt, Decodes (.vgathw vd ra sc vm mp dt)) := by
  have hD : ∀ w, bits w 31 26 = 47 → decodeFields w = decodeGs w := fun w h => by simp only [decodeFields_major, h]
  and_intros
  all_goals
    intros
    refine decodes_wordW hD rfl (by omega) fun w hvd hra hrb hvm hmp hdt hfn => ?_
    simp [decodeGs, given_eq_ok, field_eq, hvd, hra, hrb, hvm, hmp, hdt, hfn, dt_within, bits_within w 16 12 16 15,
      bits_within w 16 12 14 12, bits_cut w 7 7 6 6]
    omega

/-- Major 0x30 (18 R326). -/
@[simp] theorem decodes_sp :
    (∀ rd ra, Decodes (.mverOpen rd ra)) ∧ (∀ rd ra, Decodes (.mverTag rd ra)) ∧ (∀ ra rb, Decodes (.mverDone ra rb)) ∧
    (∀ rd ra sel, Decodes (.mverStat rd ra sel)) ∧ (∀ rd ra op, Decodes (.prgGo rd ra op)) ∧
    (∀ rd ra, Decodes (.prgStat rd ra)) ∧ (∀ rd ra, Decodes (.stash rd ra)) ∧
    (∀ rd ra rb ret, Decodes (.unstash rd ra rb ret)) ∧ (∀ rd ra rb blk, Decodes (.wshad rd ra rb blk)) := by
  have hD : ∀ w, bits w 31 26 = 48 → decodeFields w = decodeSp w := fun w h => by simp only [decodeFields_major, h]
  and_intros
  all_goals
    intros
    refine decodes_wordR hD rfl (by omega) fun w hrd hra hrb hfn hsh => ?_
    simp [decodeSp, given_eq_ok, field_eq, hrd, hra, hrb, hfn, hsh, sh_within] <;>
      omega

/-- Major 0x31 (17 R318). -/
@[simp] theorem decodes_life :
    (∀ rd ra, Decodes (.ltdecl rd ra)) ∧ (∀ rd ra rb, Decodes (.ltuse rd ra rb)) ∧ (∀ ra mode, Decodes (.ltdrop ra mode)) ∧
    (∀ rd ra, Decodes (.ltstat rd ra)) := by
  have hD : ∀ w, bits w 31 26 = 49 → decodeFields w = decodeLife w := fun w h => by simp only [decodeFields_major, h]
  and_intros
  all_goals
    intros
    refine decodes_wordR hD rfl (by omega) fun w hrd hra hrb hfn hsh => ?_
    simp [decodeLife, given_eq_ok, field_eq, hrd, hra, hrb, hfn, hsh, sh_within] <;>
      omega

/-- Major 0x32 (21 R379). -/
@[simp] theorem decodes_xd :
    (∀ rd ra rb, Decodes (.rbput rd ra rb)) ∧ (∀ rd ra, Decodes (.rbret rd ra)) ∧ (∀ rd ra, Decodes (.rbstat rd ra)) ∧
    (∀ rd ra, Decodes (.collGo rd ra)) ∧ (∀ rd ra, Decodes (.collWait rd ra)) ∧ (∀ rd ra, Decodes (.rsplan rd ra)) ∧
    (∀ rd ra, Decodes (.rsgo rd ra)) ∧ (∀ rd ra, Decodes (.rsstat rd ra)) ∧ (∀ rd ra, Decodes (.lkput rd ra)) := by
  have hD : ∀ w, bits w 31 26 = 50 → decodeFields w = decodeXd w := fun w h => by simp only [decodeFields_major, h]
  and_intros
  all_goals
    intros
    refine decodes_wordR hD rfl (by omega) fun w hrd hra hrb hfn hsh => ?_
    simp [decodeXd, given_eq_ok, field_eq, hrd, hra, hrb, hfn, hsh]

/-- Major 0x33 (20 R368). -/
@[simp] theorem decodes_perf :
    (∀ ra n, Decodes (.pmcfg ra n)) ∧ (∀ rd ra, Decodes (.pmrdCore rd ra)) ∧ (∀ rd ra, Decodes (.pmrdSlice rd ra)) ∧
    (∀ rd ra, Decodes (.jrnlStart rd ra)) ∧ (∀ rd ra, Decodes (.jrnlStop rd ra)) ∧ (∀ rd ra, Decodes (.jrnlMark rd ra)) ∧
    (∀ rd ra, Decodes (.jrnlStatus rd ra)) ∧ (∀ rd ra sel, Decodes (.fcstrd rd ra sel)) := by
  have hD : ∀ w, bits w 31 26 = 51 → decodeFields w = decodePerf w := fun w h => by simp only [decodeFields_major, h]
  and_intros
  all_goals
    intros
    refine decodes_wordR hD rfl (by omega) fun w hrd hra hrb hfn hsh => ?_
    simp [decodePerf, given_eq_ok, field_eq, hrd, hra, hrb, hfn, hsh, sh_within] <;>
      omega

/-- Major 0x0D (03 R60). -/
@[simp] theorem decodes_lda : ∀ rd ra sc wd, Decodes (.lda rd ra sc wd) := by
  intros
  refine decodes_wordA (fun w h => by simp only [decodeFields, h]; rfl) rfl (by omega) fun w hrd hra hrb hsc haq hrl hfn => ?_
  simp [given_eq_ok, field_eq, hrd, hra, hrb, hsc, haq, hrl, hfn, bits_cut w 7 7 6 1, bits_cut w 6 6 5 1, offset_within]
  omega

/-- Major 0x0E (03 R60). -/
@[simp] theorem decodes_str : ∀ ra rb sc wd, Decodes (.str ra rb sc wd) := by
  intros
  refine decodes_wordA (fun w h => by simp only [decodeFields, h]; rfl) rfl (by omega) fun w hrd hra hrb hsc haq hrl hfn => ?_
  simp [given_eq_ok, field_eq, hrd, hra, hrb, hsc, haq, hrl, hfn, bits_cut w 7 7 6 1, bits_cut w 6 6 5 1, offset_within]
  omega

/-- Major 0x10 (03 R60). -/
@[simp] theorem decodes_fence : ∀ sc kinds, Decodes (.fence sc kinds) := by
  intros
  refine decodes_wordA (fun w h => by simp only [decodeFields, h]; rfl) rfl (by omega) fun w hrd hra hrb hsc haq hrl hfn => ?_
  simp [given_eq_ok, field_eq, hrd, hra, hrb, hsc, haq, hrl, hfn, bits_cut w 25 21 20 11, bits_cut w 20 16 15 11,
    bits_cut w 7 7 6 5, bits_cut w 6 6 5 5, offset_within]
  omega

/-- Major 0x17 (03 R60). -/
@[simp] theorem decodes_jal : ∀ rd off, Decodes (.jal rd off) := by
  intros
  refine decodes_wordJ (fun w h => by simp only [decodeFields, h]; rfl) rfl (by omega) fun w hrd hoff => ?_
  simp [field_eq, hrd, hoff]

/-- Major 0x1C (03 R60). -/
@[simp] theorem decodes_rpt : ∀ cnt rep sd sa sb sm, Decodes (.rpt cnt rep sd sa sb sm) := by
  intros
  refine decodes_wordP (fun w h => by simp only [decodeFields, h]; rfl) rfl (by omega) fun w hcnt hrep hsd hsa hsb hsm hlow => ?_
  simp [given_eq_ok, field_eq, hcnt, hrep, hsd, hsa, hsb, hsm, hlow]

/-- Major 0x1A, but for the special register whose read launches a copy (17 R300). -/
theorem decodes_sprd {rd : Fin 32} {imm : BitVec 16} (h : imm ≠ 0x18#16) : Decodes (.sprd rd imm) := by
  have hne : imm.toNat ≠ 24 := fun e => h (BitVec.eq_of_toNat_eq e)
  refine decodes_wordI (fun w h => by simp only [decodeFields, h]; rfl) rfl (by omega) fun w hrd hra himm => ?_
  simp [given_eq_ok, field_eq, hrd, hra, himm, hne]

/-- Major 0x1A at the special register whose read launches a copy (17 R300). -/
@[simp] theorem decodes_cpyLaunch (rd : Fin 32) : Decodes (.cpyLaunch rd) := by
  refine decodes_wordI (fun w h => by simp only [decodeFields, h]; rfl) rfl (by omega) fun w hrd hra himm => ?_
  simp [given_eq_ok, field_eq, hrd, hra, himm]

/-- Every well-formed instruction decodes from its word; the other steps have none. -/
theorem decodes_of_wf {i : Instr} (hwf : i.wf = true) : Decodes i := by
  cases he : encode i with
  | none => exact fun _ h => nomatch he.symm.trans h
  | some v =>
    cases i <;> cases he
    case some.sprd.refl rd imm =>
      simp only [Instr.wf, Bool.and_eq_true, bne_iff_ne] at hwf
      exact decodes_sprd hwf.2
    all_goals simp

/-- A word is an instruction where its fields name one within the limits of its minor (03 R62). -/
theorem decodeWord_eq_ok {w : Nat} {i : Instr} : decodeWord w = .ok i ↔ decodeFields w = .ok i ∧ i.wf = true := by
  by_cases hz : w = 0
  · subst hz
    simp [decodeWord, decodeFields, bits]
  · unfold decodeWord
    rw [if_neg hz]
    cases decodeFields w with
    | error e => simp
    | ok j =>
      by_cases hwf : j.wf = true
      · simp only [hwf, if_true, Except.ok.injEq, iff_self_and]
        rintro rfl
        exact hwf
      · simp only [hwf, Bool.false_eq_true, if_false, reduceCtorEq, Except.ok.injEq, false_iff, not_and]
        rintro rfl
        exact hwf

/-- Settles O1: the decoder of each major answers the instruction to the fields of its word. -/
theorem decodeEncode : Obligations.DecodeEncode := by
  intro i w hwf h
  obtain ⟨hw, hd⟩ := decodes_of_wf hwf w h
  exact ⟨hw, decodeWord_eq_ok.mpr ⟨hd, hwf⟩⟩

/-- Settles O3, each word as the one that encodes its instruction. -/
theorem specWordsDecode : Obligations.SpecWordsDecode :=
  ⟨(decodeEncode (.rcfg 1) _ rfl rfl).2, (decodeEncode (.rmset 7 8) _ rfl rfl).2, (decodeEncode (.rphase 5 6 1 2) _ rfl rfl).2,
    (decodeEncode (.mverOpen 2 1) _ rfl rfl).2, (decodeEncode (.mverStat 4 1 1) _ rfl rfl).2,
    (decodeEncode (.unstash 8 1 9 1) _ rfl rfl).2, (decodeEncode (.rbstat 2 7) _ rfl rfl).2⟩

end Sys2Proof.Formats
end

section
/-! PROOFS. A word that decodes is the word of its instruction (03 R62, R63): a lemma for each major's decoder. -/

namespace Sys2Proof.Formats

-- Each lemma is elaborated by itself, so that the many long ones of a section do not stand in memory together.
set_option Elab.async false

/-- Every instruction that an answer of the decoder names encodes to `w`. -/
def Reads (d : Decoded) (w : Nat) : Prop := ∀ i, d = .ok i → encode i = some w

theorem reads_error {e : DecodeError} {w : Nat} : Reads (.error e) w := fun _ h => nomatch h

/-- An answer that asks for unused fields names only `w`, if its instruction encodes to `w` where they hold what the minor fixes. -/
theorem reads_given {b : Bool} {i : Instr} {v w : Nat} (he : encode i = some v) (h : b = true → v = w) :
    Reads (given b i) w := by
  intro j hj
  obtain ⟨hb, rfl⟩ := given_eq_ok.mp hj
  exact h hb ▸ he

/-- An answer without unused fields asks for nothing. -/
theorem ok_eq_given (i : Instr) : (.ok i : Decoded) = given true i := rfl

theorem reads_decodeAlu {w : Nat} (hw : w < 2 ^ 32) (hop : bits w 31 26 = 1) : Reads (decodeAlu w) w := by
  have hs := eq_wordR hw
  unfold decodeAlu
  simp only [ok_eq_given]
  split
  case h_32 => exact reads_error
  all_goals
    refine reads_given rfl fun hz => ?_
    simp only [field_val, Nat.reduceAdd, Bool.and_eq_true, beq_iff_eq, wordR] at hs hz ⊢
    omega

theorem reads_decodeShi {w : Nat} (hw : w < 2 ^ 32) (hop : bits w 31 26 = 6) : Reads (decodeShi w) w := by
  have hs := eq_wordI hw
  have h0 := bits_cut w 15 8 7 0
  have h1 := bits_cut w 7 6 5 0
  unfold decodeShi
  split
  case h_4 => exact reads_error
  all_goals
    refine reads_given rfl fun hz => ?_
    simp only [field_val, Nat.reduceAdd, beq_iff_eq, wordI] at hs hz ⊢
    omega

theorem reads_decodeSetq {w : Nat} (hw : w < 2 ^ 32) (hop : bits w 31 26 = 9) : Reads (decodeSetq w) w := by
  have hs := eq_wordI hw
  have h0 := bits_cut w 20 20 19 16
  have h1 := bits_cut w 19 18 17 16
  unfold decodeSetq
  split
  case h_3 => exact reads_error
  all_goals
    refine reads_given rfl fun hz => ?_
    simp only [field_val, Nat.reduceAdd, beq_iff_eq, wordI] at hs hz ⊢
    omega

theorem reads_decodeLd {w : Nat} (hw : w < 2 ^ 32) (hop : bits w 31 26 = 11) : Reads (decodeLd w) w := by
  have hs := eq_wordM hw
  unfold decodeLd
  simp only [ok_eq_given]
  split
  case h_8 => exact reads_error
  all_goals
    refine reads_given rfl fun hz => ?_
    simp only [field_val, Nat.reduceAdd, wordM] at hs hz ⊢
    omega

theorem reads_decodeSt {w : Nat} (hw : w < 2 ^ 32) (hop : bits w 31 26 = 12) : Reads (decodeSt w) w := by
  have hs := eq_wordM hw
  unfold decodeSt
  simp only [ok_eq_given]
  split
  case h_6 => exact reads_error
  all_goals
    refine reads_given rfl fun hz => ?_
    simp only [field_val, Nat.reduceAdd, wordM] at hs hz ⊢
    omega

theorem reads_decodeAmo {w : Nat} (hw : w < 2 ^ 32) (hop : bits w 31 26 = 15) : Reads (decodeAmo w) w := by
  have hs := eq_wordA hw
  have h0 := bits_cut w 5 5 4 0
  have h1 := bits_cut w 4 4 3 0
  have h2 := bits_cut w 5 5 4 4
  unfold decodeAmo
  split
  case h_15 => exact reads_error
  all_goals
    refine reads_given rfl fun hz => ?_
    simp only [field_val, Nat.reduceAdd, beq_iff_eq, wordA] at hs hz ⊢
    omega

theorem reads_decodeSys {w : Nat} (hw : w < 2 ^ 32) (hop : bits w 31 26 = 25) : Reads (decodeSys w) w := by
  have hs := eq_wordI hw
  have h0 := bits_cut w 15 4 3 0
  have h1 := bits_cut w 25 21 20 4
  have h2 := bits_cut w 20 16 15 4
  have h3 := bits_cut w 25 21 20 16
  have h4 := bits_cut w 25 21 20 8
  have h5 := bits_cut w 20 16 15 8
  have h6 := bits_cut w 15 8 7 4
  unfold decodeSys
  split
  case h_10 => exact reads_error
  all_goals
    refine reads_given rfl fun hz => ?_
    simp only [field_val, Nat.reduceAdd, beq_iff_eq, wordI] at hs hz ⊢
    omega

theorem reads_decodeCb {w : Nat} (hw : w < 2 ^ 32) (hop : bits w 31 26 = 29) : Reads (decodeCb w) w := by
  have hs := eq_wordC hw
  have h0 := bits_cut w 17 15 14 7
  unfold decodeCb
  simp only [ok_eq_given]
  split
  case h_9 => exact reads_error
  all_goals
    refine reads_given rfl fun hz => ?_
    simp only [field_val, Nat.reduceAdd, beq_iff_eq, wordC] at hs hz ⊢
    omega

theorem reads_decodeBs {w : Nat} (hw : w < 2 ^ 32) (hop : bits w 31 26 = 30) : Reads (decodeBs w) w := by
  have hs := eq_wordI hw
  have h0 := bits_cut w 15 12 11 0
  have h1 := bits_cut w 11 1 0 0
  have h2 := bits_cut w 11 6 5 0
  have h3 := bits_cut w 25 21 20 16
  unfold decodeBs
  split
  case h_9 => exact reads_error
  all_goals
    refine reads_given rfl fun hz => ?_
    simp only [field_val, Nat.reduceAdd, Bool.and_eq_true, beq_iff_eq, wordI] at hs hz ⊢
    omega

theorem reads_decodeLa {w : Nat} (hw : w < 2 ^ 32) (hop : bits w 31 26 = 31) : Reads (decodeLa w) w := by
  have hs := eq_wordR hw
  unfold decodeLa
  split
  case h_9 => exact reads_error
  all_goals
    refine reads_given rfl fun hz => ?_
    simp only [field_val, Nat.reduceAdd, Bool.and_eq_true, beq_iff_eq, wordR] at hs hz ⊢
    omega

theorem reads_decodeVa {w : Nat} (hw : w < 2 ^ 32) (hop : bits w 31 26 = 32) : Reads (decodeVa w) w := by
  have hs := eq_wordV hw
  unfold decodeVa
  simp only [ok_eq_given]
  split
  case h_16 => exact reads_error
  all_goals
    refine reads_given rfl fun hz => ?_
    simp only [field_val, Nat.reduceAdd, beq_iff_eq, wordV] at hs hz ⊢
    omega

theorem reads_decodeVf {w : Nat} (hw : w < 2 ^ 32) (hop : bits w 31 26 = 33) : Reads (decodeVf w) w := by
  have hs := eq_wordV hw
  unfold decodeVf
  simp only [ok_eq_given]
  split
  case h_14 => exact reads_error
  all_goals
    refine reads_given rfl fun hz => ?_
    simp only [field_val, Nat.reduceAdd, beq_iff_eq, wordV] at hs hz ⊢
    omega

theorem reads_decodeVc {w : Nat} (hw : w < 2 ^ 32) (hop : bits w 31 26 = 34) : Reads (decodeVc w) w := by
  have hs := eq_wordV hw
  unfold decodeVc
  simp only [ok_eq_given]
  split
  case h_11 => exact reads_error
  all_goals
    refine reads_given rfl fun hz => ?_
    simp only [field_val, Nat.reduceAdd, wordV] at hs hz ⊢
    omega

theorem reads_decodeVm {w : Nat} (hw : w < 2 ^ 32) (hop : bits w 31 26 = 35) : Reads (decodeVm w) w := by
  have hs := eq_wordV hw
  have h0 := bits_cut w 13 10 9 5
  have h1 := bits_cut w 9 9 8 5
  have h2 := bits_cut w 17 14 13 5
  have h3 := bits_cut w 17 14 13 9
  have h4 := bits_cut w 13 10 9 9
  unfold decodeVm
  simp only [ok_eq_given]
  split
  case h_14 => exact reads_error
  all_goals
    refine reads_given rfl fun hz => ?_
    simp only [field_val, Nat.reduceAdd, beq_iff_eq, wordV] at hs hz ⊢
    omega

theorem reads_decodeVr {w : Nat} (hw : w < 2 ^ 32) (hop : bits w 31 26 = 36) : Reads (decodeVr w) w := by
  have hs := eq_wordV hw
  unfold decodeVr
  split
  case h_11 => exact reads_error
  all_goals
    refine reads_given rfl fun hz => ?_
    simp only [field_val, Nat.reduceAdd, Bool.and_eq_true, beq_iff_eq, wordV] at hs hz ⊢
    omega

theorem reads_decodeVcv {w : Nat} (hw : w < 2 ^ 32) (hop : bits w 31 26 = 37) : Reads (decodeVcv w) w := by
  have hs := eq_wordV hw
  unfold decodeVcv
  simp only [ok_eq_given]
  split
  case h_5 => exact reads_error
  all_goals
    refine reads_given rfl fun hz => ?_
    simp only [field_val, Nat.reduceAdd, wordV] at hs hz ⊢
    omega

theorem reads_decodeVld {w : Nat} (hw : w < 2 ^ 32) (hop : bits w 31 26 = 38) : Reads (decodeVld w) w := by
  have hs := eq_wordW hw
  have h0 := bits_cut w 6 6 5 3
  have h1 := bits_cut w 16 12 11 4
  have h2 := bits_cut w 11 8 7 4
  have h3 := bits_cut w 7 7 6 4
  have h4 := bits_cut w 6 4 3 3
  unfold decodeVld
  split
  case h_5 => exact reads_error
  all_goals
    refine reads_given rfl fun hz => ?_
    simp only [field_val, Nat.reduceAdd, Bool.and_eq_true, beq_iff_eq, wordW] at hs hz ⊢
    omega

theorem reads_decodeVst {w : Nat} (hw : w < 2 ^ 32) (hop : bits w 31 26 = 39) : Reads (decodeVst w) w := by
  have hs := eq_wordW hw
  have h0 := bits_cut w 7 7 6 6
  have h1 := bits_cut w 6 6 5 3
  have h2 := bits_cut w 7 7 6 3
  unfold decodeVst
  split
  case h_4 => exact reads_error
  all_goals
    refine reads_given rfl fun hz => ?_
    simp only [field_val, Nat.reduceAdd, beq_iff_eq, wordW] at hs hz ⊢
    omega

theorem reads_decodeVmv {w : Nat} (hw : w < 2 ^ 32) (hop : bits w 31 26 = 40) : Reads (decodeVmv w) w := by
  have hs := eq_wordW hw
  have h0 := bits_cut w 11 8 7 6
  have h1 := bits_cut w 7 7 6 6
  have h2 := bits_cut w 6 6 5 3
  unfold decodeVmv
  split
  case h_4 => exact reads_error
  all_goals
    refine reads_given rfl fun hz => ?_
    simp only [field_val, Nat.reduceAdd, Bool.and_eq_true, beq_iff_eq, wordW] at hs hz ⊢
    omega

theorem reads_decodeMsg {w : Nat} (hw : w < 2 ^ 32) (hop : bits w 31 26 = 42) : Reads (decodeMsg w) w := by
  have hs := eq_wordR hw
  have h0 := bits_cut w 4 3 2 0
  have h1 := bits_cut w 15 15 14 11
  have h2 := bits_cut w 20 16 15 11
  have h3 := bits_cut w 4 4 3 0
  have h4 := bits_cut w 25 25 24 21
  have h5 := bits_cut w 4 1 0 0
  have h6 := bits_cut w 25 21 20 11
  have h7 := bits_cut w 4 2 1 0
  unfold decodeMsg
  split
  case h_8 => exact reads_error
  all_goals
    refine reads_given rfl fun hz => ?_
    simp only [field_val, Nat.reduceAdd, Bool.and_eq_true, beq_iff_eq, wordR, wordG] at hs hz ⊢
    omega

theorem reads_decodeTask {w : Nat} (hw : w < 2 ^ 32) (hop : bits w 31 26 = 43) : Reads (decodeTask w) w := by
  have hs := eq_wordR hw
  have h0 := bits_cut w 4 3 2 0
  have h1 := bits_cut w 25 21 20 11
  have h2 := bits_cut w 20 16 15 11
  unfold decodeTask
  split
  case h_8 => exact reads_error
  all_goals
    refine reads_given rfl fun hz => ?_
    simp only [field_val, Nat.reduceAdd, Bool.and_eq_true, beq_iff_eq, wordR, wordG] at hs hz ⊢
    omega

theorem reads_decodeBar {w : Nat} (hw : w < 2 ^ 32) (hop : bits w 31 26 = 44) : Reads (decodeBar w) w := by
  have hs := eq_wordR hw
  have h0 := bits_cut w 4 3 2 0
  unfold decodeBar
  split
  case h_6 => exact reads_error
  all_goals
    refine reads_given rfl fun hz => ?_
    simp only [field_val, Nat.reduceAdd, Bool.and_eq_true, beq_iff_eq, wordR, wordG] at hs hz ⊢
    omega

theorem reads_decodeRing {w : Nat} (hw : w < 2 ^ 32) (hop : bits w 31 26 = 45) : Reads (decodeRing w) w := by
  have hs := eq_wordR hw
  have h0 := bits_cut w 4 4 3 0
  have h1 := bits_cut w 3 3 2 0
  have h2 := bits_cut w 4 3 2 0
  have h3 := bits_cut w 2 1 0 0
  have h4 := bits_cut w 4 1 0 0
  have h5 := bits_cut w 20 16 15 11
  unfold decodeRing
  split
  case h_9 => exact reads_error
  all_goals
    refine reads_given rfl fun hz => ?_
    simp only [field_val, Nat.reduceAdd, Bool.and_eq_true, beq_iff_eq, wordR, wordG] at hs hz ⊢
    omega

theorem reads_decodeCpy {w : Nat} (hw : w < 2 ^ 32) (hop : bits w 31 26 = 46) : Reads (decodeCpy w) w := by
  have hs := eq_wordI hw
  have h0 := bits_cut w 15 4 3 0
  have h1 := bits_cut w 20 16 15 4
  unfold decodeCpy
  split
  case h_4 => exact reads_error
  all_goals
    refine reads_given rfl fun hz => ?_
    simp only [field_val, Nat.reduceAdd, beq_iff_eq, wordI] at hs hz ⊢
    omega

theorem reads_decodeGs {w : Nat} (hw : w < 2 ^ 32) (hop : bits w 31 26 = 47) : Reads (decodeGs w) w := by
  have hs := eq_wordW hw
  have h0 := bits_cut w 16 15 14 12
  have h1 := bits_cut w 6 6 5 3
  have h2 := bits_cut w 7 7 6 6
  have h3 := bits_cut w 5 5 4 3
  unfold decodeGs
  split
  case h_5 => exact reads_error
  all_goals
    refine reads_given rfl fun hz => ?_
    simp only [field_val, Nat.reduceAdd, Bool.and_eq_true, beq_iff_eq, wordW] at hs hz ⊢
    omega

theorem reads_decodeSp {w : Nat} (hw : w < 2 ^ 32) (hop : bits w 31 26 = 48) : Reads (decodeSp w) w := by
  have hs := eq_wordR hw
  have h0 := bits_cut w 4 3 2 0
  have h1 := bits_cut w 4 2 1 0
  have h2 := bits_cut w 4 1 0 0
  unfold decodeSp
  split
  case h_10 => exact reads_error
  all_goals
    refine reads_given rfl fun hz => ?_
    simp only [field_val, Nat.reduceAdd, Bool.and_eq_true, beq_iff_eq, wordR, wordG] at hs hz ⊢
    omega

theorem reads_decodeLife {w : Nat} (hw : w < 2 ^ 32) (hop : bits w 31 26 = 49) : Reads (decodeLife w) w := by
  have hs := eq_wordR hw
  have h0 := bits_cut w 4 1 0 0
  unfold decodeLife
  split
  case h_5 => exact reads_error
  all_goals
    refine reads_given rfl fun hz => ?_
    simp only [field_val, Nat.reduceAdd, Bool.and_eq_true, beq_iff_eq, wordR, wordG] at hs hz ⊢
    omega

theorem reads_decodeXd {w : Nat} (hw : w < 2 ^ 32) (hop : bits w 31 26 = 50) : Reads (decodeXd w) w := by
  have hs := eq_wordR hw
  unfold decodeXd
  split
  case h_10 => exact reads_error
  all_goals
    refine reads_given rfl fun hz => ?_
    simp only [field_val, Nat.reduceAdd, Bool.and_eq_true, beq_iff_eq, wordR, wordG] at hs hz ⊢
    omega

theorem reads_decodePerf {w : Nat} (hw : w < 2 ^ 32) (hop : bits w 31 26 = 51) : Reads (decodePerf w) w := by
  have hs := eq_wordR hw
  have h0 := bits_cut w 4 3 2 0
  have h1 := bits_cut w 4 1 0 0
  unfold decodePerf
  split
  case h_5 => exact reads_error
  case' h_2 =>
    split
    case h_3 => exact reads_error
  case' h_3 =>
    split
    case h_5 => exact reads_error
  all_goals
    refine reads_given rfl fun hz => ?_
    simp only [field_val, Nat.reduceAdd, Bool.and_eq_true, beq_iff_eq, wordR, wordG] at hs hz ⊢
    omega

/-- The instruction that the fields of a word name encodes to the word. -/
theorem reads_decodeFields {w : Nat} (hw : w < 2 ^ 32) : Reads (decodeFields w) w := by
  unfold decodeFields
  simp only [ok_eq_given]
  split
  case h_2 hop | h_3 hop | h_4 hop | h_5 hop | h_7 hop | h_8 hop | h_10 hop | h_17 hop | h_18 hop | h_19 hop | h_20 hop | h_21 hop | h_22 hop | h_24 hop | h_27 hop =>
    have hs := eq_wordI hw
    refine reads_given rfl fun hz => ?_
    simp only [field_val, Nat.reduceAdd, beq_iff_eq, wordI, wordB] at hs hz ⊢
    omega
  case h_1 hop => exact reads_decodeAlu hw hop
  case h_6 hop => exact reads_decodeShi hw hop
  case h_9 hop => exact reads_decodeSetq hw hop
  case h_11 hop => exact reads_decodeLd hw hop
  case h_12 hop => exact reads_decodeSt hw hop
  case h_13 hop =>
    have hs := eq_wordA hw
    have h0 := bits_cut w 7 7 6 1
    have h1 := bits_cut w 6 6 5 1
    have h2 := bits_cut w 5 1 0 0
    refine reads_given rfl fun hz => ?_
    simp only [field_val, Nat.reduceAdd, Bool.and_eq_true, beq_iff_eq, wordA] at hs hz ⊢
    omega
  case h_14 hop =>
    have hs := eq_wordA hw
    have h0 := bits_cut w 7 7 6 1
    have h1 := bits_cut w 6 6 5 1
    have h2 := bits_cut w 5 1 0 0
    refine reads_given rfl fun hz => ?_
    simp only [field_val, Nat.reduceAdd, Bool.and_eq_true, beq_iff_eq, wordA] at hs hz ⊢
    omega
  case h_15 hop => exact reads_decodeAmo hw hop
  case h_16 hop =>
    have hs := eq_wordA hw
    have h0 := bits_cut w 25 21 20 11
    have h1 := bits_cut w 20 16 15 11
    have h2 := bits_cut w 7 7 6 5
    have h3 := bits_cut w 6 6 5 5
    have h4 := bits_cut w 5 5 4 0
    refine reads_given rfl fun hz => ?_
    simp only [field_val, Nat.reduceAdd, Bool.and_eq_true, beq_iff_eq, wordA] at hs hz ⊢
    omega
  case h_23 hop =>
    have hs := eq_wordJ hw
    refine reads_given rfl fun hz => ?_
    simp only [field_val, Nat.reduceAdd, wordJ] at hs hz ⊢
    omega
  case h_25 hop => exact reads_decodeSys hw hop
  case h_26 hop =>
    have hs := eq_wordI hw
    split
    case isTrue h24 =>
      refine reads_given rfl fun hz => ?_
      simp only [field_val, Nat.reduceAdd, beq_iff_eq, wordI] at hs hz h24 ⊢
      omega
    case isFalse =>
      refine reads_given rfl fun hz => ?_
      simp only [field_val, Nat.reduceAdd, beq_iff_eq, wordI] at hs hz ⊢
      omega
  case h_28 hop =>
    have hs := eq_wordP hw
    refine reads_given rfl fun hz => ?_
    simp only [field_val, Nat.reduceAdd, beq_iff_eq, wordP] at hs hz ⊢
    omega
  case h_29 hop => exact reads_decodeCb hw hop
  case h_30 hop => exact reads_decodeBs hw hop
  case h_31 hop => exact reads_decodeLa hw hop
  case h_32 hop => exact reads_decodeVa hw hop
  case h_33 hop => exact reads_decodeVf hw hop
  case h_34 hop => exact reads_decodeVc hw hop
  case h_35 hop => exact reads_decodeVm hw hop
  case h_36 hop => exact reads_decodeVr hw hop
  case h_37 hop => exact reads_decodeVcv hw hop
  case h_38 hop => exact reads_decodeVld hw hop
  case h_39 hop => exact reads_decodeVst hw hop
  case h_40 hop => exact reads_decodeVmv hw hop
  case h_41 hop => exact reads_decodeMsg hw hop
  case h_42 hop => exact reads_decodeTask hw hop
  case h_43 hop => exact reads_decodeBar hw hop
  case h_44 hop => exact reads_decodeRing hw hop
  case h_45 hop => exact reads_decodeCpy hw hop
  case h_46 hop => exact reads_decodeGs hw hop
  case h_47 hop => exact reads_decodeSp hw hop
  case h_48 hop => exact reads_decodeLife hw hop
  case h_49 hop => exact reads_decodeXd hw hop
  case h_50 hop => exact reads_decodePerf hw hop
  case h_51 => exact reads_error

/-- A word of an unassigned major names no instruction (03 R60, R62). -/
theorem decodeFields_unassigned {w : Nat} (h : bits w 31 26 = 0 ∨ bits w 31 26 = 0x29 ∨ 0x34 ≤ bits w 31 26) :
    decodeFields w = .error .noMajor := by
  unfold decodeFields
  split
  case h_51 => rfl
  all_goals omega

/-- Settles O2: each major's decoder names only the instruction that encodes to the word, and none takes an unassigned major. -/
theorem encodeDecode : Obligations.EncodeDecode := by
  refine ⟨fun i w hw h => ?_, fun w hw h => ?_⟩
  · obtain ⟨hd, hwf⟩ := decodeWord_eq_ok.mp h
    exact ⟨hwf, reads_decodeFields hw i hd⟩
  · have hop : bits w 31 26 = w / 2 ^ 26 := Nat.mod_eq_of_lt (by omega)
    have hmajor : decodeFields w = .error .noMajor := decodeFields_unassigned (by omega)
    by_cases hz : w = 0
    · exact ⟨.zeroWord, by simp [decodeWord, hz]⟩
    · exact ⟨.noMajor, by simp [decodeWord, hz, hmajor]⟩

end Sys2Proof.Formats
end

section
/-! PROOFS. Words that are no instruction, and the instructions that only complete or wait (03 R63, R67, 06 R117, R123 to R125). -/

namespace Sys2Proof.Formats

open Sys2Proof.Machine
open Sys2Proof.NumberFormats (context_advance ws_advance sameMemory_trans sameUnits_trans)
open Sys2Proof.Says hiding none

/-! ### A change of the executing context -/

section
variable {s t u : State} {g : Context → Context}

theorem sameMemory_modCx : SameMemory s (s.modCx g) := ⟨rfl, rfl, rfl, rfl, rfl, rfl⟩

theorem sameUnits_modCx : SameUnits s (s.modCx g) := ⟨rfl, rfl, rfl, rfl, rfl⟩

theorem sameCores_modCx : SameCores s (s.modCx g) s.cur.core := fun h hh => by
  rw [State.modCx, State.core_modCtx, if_neg hh]

theorem sameCore_modCx : SameCore s (s.modCx g) s.cur := by
  refine ⟨?_, fun c hc => State.ctx_modCtx_ne s (fun e => hc (congrArg CtxRef.ctx e)) g⟩
  rw [State.modCx, State.core_modCtx, if_pos rfl]
  rfl

theorem sameCores_trans {k : Nat} (h : SameCores s t k) (i : SameCores t u k) : SameCores s u k :=
  fun c hc => (i c hc).trans (h c hc)

/-- Moving on writes no register but the PC. -/
theorem sameWs_advance (s : State) : SameWs s s.advance s.cur Says.none Says.none 0 := by
  obtain ⟨pc, h⟩ := ws_advance s
  have hw : (s.advance.ctx s.cur).ws = { (s.ctx s.cur).ws with pc := pc } := h
  rw [SameWs, hw]
  exact ⟨rfl, fun _ _ => rfl, fun _ _ => rfl, rfl⟩

/-- Moving on stays in the executing context. -/
theorem onlyOwn_advance (s : State) : OnlyOwn s s.advance Says.none Says.none 0 := by
  refine ⟨sameMemory_modCx, sameUnits_modCx, sameCores_modCx, sameCore_modCx, ?_, sameWs_advance s, rfl, rfl⟩
  obtain ⟨pc, fr, re, rf, wt, h⟩ := context_advance s.cx
  have hx : s.advance.ctx s.cur = s.cx.advance := State.cx_modCx s Context.advance
  rw [SameContext, hx, h]
  rfl

/-- Outside a frame the context goes on at IA + 4. -/
theorem pc_advance (h : s.cx.frame = .none) : s.advance.cx.ws.pc = s.cx.ws.pc + 4 := by rw [advance_cx h]

end

/-! ### A word that is no instruction (03 R63, 20 R347) -/

/-- A system-level fault outside a frame suspends the executing context at its instruction, and changes no register but EPC, EVAL
and ECAUSE. -/
theorem sysFault_cx {s : State} (h : s.cx.frame = .none) (c : BitVec 8) (v a : Word) (k : Kind) :
    (s.sysFault c v a k).cx =
      { s.cx with
        ws := { s.cx.ws with epc := s.cx.ws.pc, eval := v, ecause := withCause s.cx.ws.ecause c }
        suspended := true, fp := false, frame := .none, wait := .none, resume := false, refusals := 0, linkFails := false } := by
  rw [State.cx, State.sysFault_cur]
  simp only [State.sysFault, h]
  exact takeSys_ctx s s.cur _ v false

theorem sameMemory_sysFault (s : State) (c : BitVec 8) (v a : Word) (k : Kind) : SameMemory s (s.sysFault c v a k) := by
  simp [SameMemory]

/-- Settles O4: the word runs as an instruction that raises ILLEGAL with the word as its value. -/
theorem illegalWordFaults : Obligations.IllegalWordFaults := by
  intro w s hf
  have hcx := sysFault_cx (s := { s with curWord := w }) hf 0x01 (w.setWidth 64) 0 .none
  refine ⟨({ s with curWord := w } : State).sysFault 0x01 (w.setWidth 64) 0 .none, rfl, ?_⟩
  rw [hcx]
  exact ⟨rfl, rfl, rfl, rfl, rfl, rfl, rfl, rfl, sameMemory_sysFault { s with curWord := w } _ _ _ _⟩

/-! ### `nop` and `yield` (06 R117, R124) -/

/-- `yield` in ctx1 to ctx3 makes its context the last in round-robin order; in ctx0 it changes nothing. -/
def yielded (s : State) : State := if s.cur.ctx = 0 then s else s.modMe fun k => { k with rrLast := s.cur.ctx }

theorem exec_yield (s : State) : exec .yield s = .next (yielded s).advance := by
  change execYield s = _
  rw [execYield, yielded]
  split <;> rfl

theorem rrLast_yielded (s : State) : (yielded s).me.rrLast = if s.cur.ctx = 0 then s.me.rrLast else s.cur.ctx := by
  unfold yielded
  split
  · rfl
  · rw [State.me_modMe]

theorem rrLast_modCx (s : State) (g : Context → Context) : (s.modCx g).me.rrLast = s.me.rrLast := by
  rw [State.me, State.modCx, State.core_modCtx, State.modCtx_cur, if_pos rfl]
  rfl

theorem yielded_frame (s : State) : SameMemory s (yielded s) ∧ SameUnits s (yielded s) ∧ SameCores s (yielded s) s.cur.core ∧
    (yielded s).cur = s.cur ∧ (yielded s).ctx s.cur = s.ctx s.cur := by
  unfold yielded
  split
  · exact ⟨⟨rfl, rfl, rfl, rfl, rfl, rfl⟩, ⟨rfl, rfl, rfl, rfl, rfl⟩, fun _ _ => rfl, rfl, rfl⟩
  · refine ⟨⟨rfl, rfl, rfl, rfl, rfl, rfl⟩, ⟨rfl, rfl, rfl, rfl, rfl⟩, fun h hh => ?_, rfl, ?_⟩
    · rw [State.modMe, State.core_modCore, if_neg hh]
    · rw [State.ctx, State.modMe, State.core_modCore, if_pos rfl]
      rfl

theorem nopYieldResults : Says.NopYieldResults := by
  intro s hf
  refine ⟨⟨s.advance, rfl, onlyOwn_advance s, pc_advance hf⟩, ?_⟩
  obtain ⟨hm, hu, hg, hcur, hx⟩ := yielded_frame s
  have hcx : (yielded s).cx = s.cx := by rw [State.cx, hcur, hx, State.cx]
  have hw := sameWs_advance (yielded s)
  rw [SameWs, hcur, hx] at hw
  have hg' : SameCores (yielded s) (yielded s).advance s.cur.core := hcur ▸ sameCores_modCx
  refine ⟨(yielded s).advance, exec_yield s, sameMemory_trans hm sameMemory_modCx, sameUnits_trans hu sameUnits_modCx,
    sameCores_trans hg hg', hw, ?_, ?_⟩
  · rw [pc_advance (by rw [hcx]; exact hf), hcx]
  · rw [State.advance, rrLast_modCx, rrLast_yielded]

/-! ### `wfe` and `mqwait` (03 R67, 06 R123, R125) -/

/-- What a context waits for, with its limit (03 R67). -/
def waiting (s : State) (op : WaitOp) : State := s.modCx fun x =>
  { x with wait := some { op, word := s.curWord, since := s.now, limit := some s.me.waitlim.toNat } }

theorem waits_waiting (s : State) (op : WaitOp) : Waits s (waiting s op) := by
  refine ⟨?_, ?_, sameMemory_modCx, sameUnits_modCx, sameCores_modCx, sameCore_modCx⟩
  · rw [waiting, State.cx_modCx]
    rfl
  · rw [waiting, State.cx_modCx]

/-- An instruction whose condition does not hold waits, within a limit that is not 0. -/
theorem settle_waitOn_wait {s : State} (h : s.me.waitlim ≠ 0) (op : WaitOp) (v : Word) :
    settle s (s.waitOn op v true (.ok .none)) = .next (waiting s op) := by
  rcases waitOn_cases s op v true (.ok .none) with ⟨_, h1, _⟩ | ⟨_, h1, _⟩ | ⟨_, _, h1, _⟩ | ⟨_, _, h1⟩
  · cases h1
  · cases h1
  · exact absurd h1 h
  · rw [h1, settle_ok]
    rfl

/-- With WAITLIM 0 it traps at once, and event 13 counts that. -/
theorem settle_waitOn_trap {s : State} (h : s.me.waitlim = 0) (op : WaitOp) (v : Word) :
    settle s (s.waitOn op v true (.ok .none)) = .next ((s.count s.cur 13 1).userTrap 0x06 v s.cx.ws.pc) := by
  rcases waitOn_cases s op v true (.ok .none) with ⟨_, h1, _⟩ | ⟨_, h1, _⟩ | ⟨_, _, _, h1⟩ | ⟨_, h1 | h1, _⟩
  · cases h1
  · cases h1
  · rw [h1, settle_error]
    rfl
  · cases h1
  · exact absurd h h1

theorem exec_wfe (s : State) : exec .wfe s =
    settle s (s.waitOn .wfe 0 true (.ok (if s.cx.evl then some (s.modCx fun x => { x with evl := false }).advance else .none))) :=
  rfl

theorem exec_mqwait (s : State) (n : Fin 16) : exec (.mqwait n) s =
    settle s (s.waitOn (.mqwait n.val) (BitVec.ofNat 64 s.unretired) true
      (.ok (if s.unretired ≤ n.val then some s.advance else .none))) := rfl

/-- `wfe` with its latch set clears it and moves on. -/
theorem wfe_completes {s : State} (h : s.cx.evl = true) : ∃ t, exec .wfe s = .next t ∧ t.cx.evl = false ∧
    SameWs s t s.cur Says.none Says.none 0 ∧ SameMemory s t ∧ (s.cx.frame = .none → t.cx.ws.pc = s.cx.ws.pc + 4) := by
  obtain ⟨u, hu⟩ : ∃ u, u = s.modCx fun x => { x with evl := false } := ⟨_, rfl⟩
  have hcx : u.cx = { s.cx with evl := false } := by rw [hu, State.cx_modCx]
  have hx : (u.ctx s.cur).ws = (s.ctx s.cur).ws := by
    have hcur : u.cx = u.ctx s.cur := by rw [hu]; rfl
    rw [← hcur, hcx]
    rfl
  have hw := sameWs_advance u
  have hcur : u.cur = s.cur := by rw [hu]; rfl
  rw [SameWs, hcur, hx] at hw
  obtain ⟨pc, fr, re, rf, wt, ha⟩ := context_advance u.cx
  refine ⟨u.advance, ?_, ?_, hw, sameMemory_trans (hu ▸ sameMemory_modCx) sameMemory_modCx, fun hf => ?_⟩
  · rw [exec_wfe, if_pos h, hu]
    rfl
  · rw [State.advance, State.cx_modCx, ha, hcx]
  · rw [pc_advance (by rw [hcx]; exact hf), hcx]

theorem wfeMqwaitResults : Says.WfeMqwaitResults := by
  intro s n c
  have hc : s.unretired = c := rfl
  have hwfe : s.cx.evl = false → exec .wfe s = settle s (s.waitOn .wfe 0 true (.ok .none)) := fun h => by
    rw [exec_wfe, h]
    rfl
  have hmq : n.val < c →
      exec (.mqwait n) s = settle s (s.waitOn (.mqwait n.val) (BitVec.ofNat 64 c) true (.ok .none)) := fun h => by
    rw [exec_mqwait, hc, if_neg (Nat.not_le.mpr h)]
  refine ⟨wfe_completes, fun h => ⟨s.advance, ?_, onlyOwn_advance s, pc_advance⟩, fun hl => ⟨fun h => ?_, fun h => ?_⟩,
    fun hl => ⟨fun h => ?_, fun h => ?_⟩⟩
  · rw [exec_mqwait, hc, if_pos h]
    rfl
  · exact ⟨_, (hwfe h).trans (settle_waitOn_wait hl _ _), waits_waiting s _⟩
  · exact ⟨_, (hmq h).trans (settle_waitOn_wait hl _ _), waits_waiting s _⟩
  · exact (hwfe h).trans (settle_waitOn_trap hl _ _)
  · exact (hmq h).trans (settle_waitOn_trap hl _ _)

/-- Settles O22: the completions are moves on, and a condition that does not hold is a wait with WAITLIM or a trap without. -/
theorem nopYieldWaitResults : Obligations.NopYieldWaitResults := ⟨nopYieldResults, wfeMqwaitResults⟩

end Sys2Proof.Formats
end

section
/-! PROOFS. The repeat frame: its order, the words that its passes issue, and `rpt` (03 R64, R65, 07 R141 to R144). -/

namespace Sys2Proof.Formats

open Sys2Proof.Machine
open Sys2Proof.NumberFormats (sameUnits_trans)
open Sys2Proof.Says hiding none

/-! ### The order of a frame (07 R142) -/

theorem frameNext : Says.FrameNext := by
  intro s f hf x
  have hx : x = s.cx.advance := State.cx_modCx s Context.advance
  refine ⟨fun h => ?_, fun h h' => ?_, fun h h' => ?_⟩
  · rw [hx, Context.advance, hf]
    simp only [Frame.next, if_pos h]
    exact ⟨trivial, trivial⟩
  · rw [hx, Context.advance, hf]
    simp only [Frame.next, if_neg (Nat.not_lt.mpr h), if_pos h']
    exact ⟨trivial, trivial⟩
  · rw [hx, Context.advance, hf]
    simp only [Frame.next, if_neg (Nat.not_lt.mpr h), if_neg (Nat.not_lt.mpr h')]
    exact ⟨trivial, trivial⟩

/-! ### The word of a pass (03 R64) -/

/-- A word with the 4-bit field at `lo` advanced by `d`, wrapping: one step of `passWord`. -/
def stepField (w lo d : Nat) : Nat := putField w (lo + 3) lo ((bits w (lo + 3) lo + d) % 16)

/-- The bits of the field's new value stand in its place, and every other bit is as before. -/
theorem testBit_stepField (w lo d i : Nat) : (stepField w lo d).testBit i =
    if lo ≤ i ∧ i < lo + 4 then ((fieldAt w lo 4 + d) % 16).testBit (i - lo) else w.testBit i := by
  have hb : bits w (lo + 3) lo = fieldAt w lo 4 := by simp only [bits, fieldAt]; congr 2; omega
  obtain ⟨v, hv⟩ : ∃ v, v = (fieldAt w lo 4 + d) % 16 := ⟨_, rfl⟩
  have hlt : v < 2 ^ 4 := by omega
  have hL : w % 2 ^ lo < 2 ^ lo := Nat.mod_lt _ (Nat.two_pow_pos lo)
  have hw : w = 2 ^ lo * (2 ^ 4 * (w / 2 ^ lo / 2 ^ 4) + fieldAt w lo 4) + w % 2 ^ lo := by
    rw [fieldAt, Nat.div_add_mod, Nat.div_add_mod]
  have hs : stepField w lo d = 2 ^ lo * (2 ^ 4 * (w / 2 ^ lo / 2 ^ 4) + v) + w % 2 ^ lo := by
    rw [stepField, putField, hb, ← hv]
    generalize fieldAt w lo 4 = a at hw
    generalize w / 2 ^ lo / 2 ^ 4 = q at hw ⊢
    generalize w % 2 ^ lo = r at hw ⊢
    rw [hw, Nat.mul_add, Nat.mul_add, Nat.mul_comm a, Nat.mul_comm v]
    omega
  rw [hs, ← hv]
  conv_rhs => rw [hw]
  rw [Nat.testBit_two_pow_mul_add _ hL, Nat.testBit_two_pow_mul_add _ hL]
  have ha : fieldAt w lo 4 < 2 ^ 4 := Nat.mod_lt _ (by decide)
  rw [Nat.testBit_two_pow_mul_add _ hlt, Nat.testBit_two_pow_mul_add _ ha]
  by_cases h : i < lo
  · have hout : ¬ (lo ≤ i ∧ i < lo + 4) := fun hin => absurd hin.1 (Nat.not_le.mpr h)
    simp only [if_pos h, if_neg hout]
  · by_cases h' : i - lo < 4
    · have hin : lo ≤ i ∧ i < lo + 4 := by omega
      simp only [if_neg h, if_pos h', if_pos hin]
    · have hout : ¬ (lo ≤ i ∧ i < lo + 4) := by omega
      simp only [if_neg h, if_neg h', if_neg hout]

/-- A field is its bits. -/
theorem fieldAt_eq_of_testBit {w p lo n : Nat} (h : ∀ i, lo ≤ i → i < lo + n → p.testBit i = w.testBit i) :
    fieldAt p lo n = fieldAt w lo n := by
  refine Nat.eq_of_testBit_eq fun i => ?_
  simp only [fieldAt, Nat.testBit_mod_two_pow, Nat.testBit_div_two_pow]
  by_cases hi : i < n
  · rw [h (i + lo) (by omega) (by omega)]
  · simp [hi]

theorem fieldAt_stepField (w lo d : Nat) : fieldAt (stepField w lo d) lo 4 = (fieldAt w lo 4 + d) % 16 := by
  refine Nat.eq_of_testBit_eq fun i => ?_
  have hlt : (fieldAt w lo 4 + d) % 16 < 2 ^ 4 := Nat.mod_lt _ (by decide)
  rw [fieldAt, Nat.testBit_mod_two_pow, Nat.testBit_div_two_pow, testBit_stepField]
  by_cases hi : i < 4
  · rw [if_pos (by omega), Nat.add_sub_cancel]
    simp [hi]
  · rw [Nat.testBit_lt_two_pow (hlt.trans_le (Nat.pow_le_pow_right (by decide) (Nat.not_lt.mp hi)))]
    simp [hi]

/-- A step leaves the fields beside its own alone. -/
theorem fieldAt_stepField_of_disjoint {lo lo' n : Nat} (w d : Nat) (h : lo' + n ≤ lo ∨ lo + 4 ≤ lo') :
    fieldAt (stepField w lo d) lo' n = fieldAt w lo' n :=
  fieldAt_eq_of_testBit fun i _ _ => by rw [testBit_stepField, if_neg (by omega)]

theorem stepField_lt {w lo : Nat} (d : Nat) (hw : w < 2 ^ 32) (hlo : lo + 4 ≤ 32) : stepField w lo d < 2 ^ 32 := by
  refine Nat.lt_pow_two_of_testBit _ fun i hi => ?_
  rw [testBit_stepField, if_neg (by omega)]
  exact Nat.testBit_lt_two_pow (hw.trans_le (Nat.pow_le_pow_right (by decide) hi))

/-- The word of a pass, by its steps. -/
theorem passWord_eq (sd sa sb sm j w : Nat) : passWord sd sa sb sm j w =
    if fieldAt w 26 6 ≤ 0x25 then
      stepField (stepField (stepField (stepField w 22 (j * sd)) 18 (j * sa)) 14 (j * sb)) 10 (j * sm)
    else stepField (stepField w 22 (j * sd)) 8 (j * sm) := by
  change (if decide (fieldAt w 26 6 ≤ 0x25) = true then _ else _) = _
  simp only [decide_eq_true_eq]
  rfl

theorem passWord_says (f : Frame) {w : Nat} (hw : w < 2 ^ 32) :
    PassWord f w (passWord f.sd f.sa f.sb f.sm f.pass w) := by
  rw [passWord_eq, PassWord]
  by_cases fv : fieldAt w 26 6 ≤ 0x25
  · rw [if_pos fv]
    simp only [fv, not_true_eq_false, false_imp_iff, true_imp_iff, fieldAt_stepField, fieldAt_stepField_of_disjoint, true_and,
      Nat.reduceAdd, Nat.reduceLeDiff, true_or, or_true]
    refine ⟨stepField_lt _ (stepField_lt _ (stepField_lt _ (stepField_lt _ hw (by decide)) (by decide)) (by decide))
      (by decide), fun i hi h22 h => ?_⟩
    simp only [testBit_stepField]
    rw [if_neg (by omega), if_neg (by omega), if_neg (by omega), if_neg (by omega)]
  · rw [if_neg fv]
    simp only [fv, not_false_eq_true, false_imp_iff, true_imp_iff, fieldAt_stepField, fieldAt_stepField_of_disjoint, true_and,
      Nat.reduceAdd, Nat.reduceLeDiff, true_or, or_true]
    refine ⟨stepField_lt _ (stepField_lt _ hw (by decide)) (by decide), fun i hi h22 h => ?_⟩
    simp only [testBit_stepField]
    rw [if_neg (by omega), if_neg (by omega)]

/-! ### The step that issues it (01 R9, 07 R142) -/

/-- With no charged fault and no crossing, a context in a frame issues the frame's word. -/
theorem turnOf_frame {s : State} {g : Nat} {c : CtxId} {f : Frame} (hc : (s.ctx ⟨g, c⟩).charged = [])
    (hx : (s.ctx ⟨g, c⟩).crossings = []) (hf : (s.ctx ⟨g, c⟩).frame = some f) : s.turnOf g c = .word f.word := by
  simp [State.turnOf, hc, hx, hf]

/-- Without an agenda the context that the focused core picks takes its turn, after one cycle. -/
theorem step_takeTurn {s : State} {c : CtxId} (ha : s.agenda = []) (hp : (s.elapse 1).pickCtx (s.elapse 1).focus = some c) :
    step s = (s.elapse 1).takeTurn (s.elapse 1).focus c := by
  change s.move = _
  simp only [State.move, ha, State.idle, hp]

theorem takeTurn_word {s : State} {g : Nat} {c : CtxId} {w : Nat} {i : Instr} (ht : s.turnOf g c = .word w)
    (hi : decodeWord w = .ok i) : s.takeTurn g c = exec i (((s.takeSlot g c).fetched g c w).issued g c w) := by
  simp only [State.takeTurn, ht, instrOf, hi]

theorem frameWordIssues : Says.FrameWordIssues := by
  intro s c f w ha t x hp hcharged hcross hf hw
  have hword : f.word = passWord f.sd f.sa f.sb f.sm f.pass w.toNat := by
    rw [Frame.word, List.getD_eq_getElem?_getD, hw, Option.getD_some]
  refine ⟨f.word, hword ▸ passWord_says f w.isLt, fun i hi => ?_⟩
  rw [step_takeTurn ha hp]
  exact takeTurn_word (turnOf_frame hcharged hcross hf) hi

/-- Settles O11: the frame's order is that of `Frame.next`, and its word is the captured one with each stepped field advanced. -/
theorem frameAdvances : Obligations.FrameAdvances := ⟨frameNext, frameWordIssues⟩

/-! ### Correcting soft errors of a core's own TCM (20 R354, R367) -/

/-- Nothing has changed but the correctable errors of memory and the registers of one core that belong to no context. -/
def OnlyCounts (s t : State) (g : Nat) : Prop :=
  SameMemory s { t with soft := s.soft } ∧ SameUnits s t ∧ SameCores s t g ∧ (∀ r, t.ctx r = s.ctx r) ∧ t.cur = s.cur

section
variable {s t u : State} {g : Nat}

theorem onlyCounts_trans (h : OnlyCounts s t g) (k : OnlyCounts t u g) : OnlyCounts s u g := by
  obtain ⟨⟨h1, h2, _, h4, h5, h6⟩, hu, hg, hx, hc⟩ := h
  obtain ⟨⟨k1, k2, _, k4, k5, k6⟩, ku, kg, kx, kc⟩ := k
  exact ⟨⟨k1.trans h1, k2.trans h2, rfl, k4.trans h4, k5.trans h5, k6.trans h6⟩, sameUnits_trans hu ku,
    sameCores_trans hg kg, fun r => (kx r).trans (hx r), kc.trans hc⟩

theorem onlyCounts_soft (s : State) (l : List Nat) (g : Nat) : OnlyCounts s { s with soft := l } g :=
  ⟨⟨rfl, rfl, rfl, rfl, rfl, rfl⟩, ⟨rfl, rfl, rfl, rfl, rfl⟩, fun _ _ => rfl, fun _ => rfl, rfl⟩

theorem onlyCounts_count (s : State) (r : CtxRef) (e n : Nat) : OnlyCounts s (s.count r e n) r.core := by
  refine ⟨?_, ?_, fun h hh => ?_, fun q => ctx_count s r q e n, State.count_cur s r e n⟩
  · simp [SameMemory]
  · simp [SameUnits]
  · unfold State.count
    split
    · rw [State.core_modCore, if_neg hh]
    · rfl

theorem onlyCounts_foldl {β : Type} {f : State → β → State} (l : List β) (hf : ∀ x ∈ l, ∀ s, OnlyCounts s (f s x) g)
    (s : State) : OnlyCounts s (l.foldl f s) g := by
  induction l generalizing s with
  | nil => exact onlyCounts_soft s s.soft g
  | cons x l ih =>
    exact onlyCounts_trans (hf x List.mem_cons_self s) (ih (fun y hy => hf y (List.mem_cons_of_mem x hy)) (f s x))

/-- The granule of a byte of a core's TCM is one of that core. -/
theorem core_of_granule {p o : Nat} (ho : o < 0x80000) (hp : p = tcmPlace g o) : (granule p - tcmPlace 0 0) / 0x80000 = g := by
  have hn : inHbm p = false := by
    rw [inHbm, decide_eq_false_iff_not, hp, dieSize, tcmPlace]
    omega
  rw [granule, hn, hp]
  simp only [tcmPlace, Bool.false_eq_true, if_false]
  omega

/-- A read of a core's own TCM counts its corrected errors at that core only. -/
theorem onlyCounts_correct (s : State) {ps : List Nat} (h : ∀ p ∈ ps, ∃ o < 0x80000, p = tcmPlace g o) :
    OnlyCounts s (s.correct ps) g := by
  unfold State.correct
  split
  · exact onlyCounts_soft s s.soft g
  · refine onlyCounts_trans (onlyCounts_soft s _ g) (onlyCounts_foldl _ (fun gr hgr t => ?_) _)
    obtain ⟨p, hp, hpg⟩ : ∃ p ∈ ps, granule p = gr := by
      simpa using (List.mem_filter.mp (List.mem_filter.mp hgr).1).2
    obtain ⟨o, ho, hpo⟩ := h p hp
    have hcore : (gr - tcmPlace 0 0) / 0x80000 = g := hpg ▸ core_of_granule ho hpo
    have hcount := onlyCounts_count t ⟨(gr - tcmPlace 0 0) / 0x80000, 0⟩ 12 1
    rwa [hcore] at hcount ⊢

end

/-! ### `rpt` (03 R65, 07 R141 to R144) -/

/-- The words that the `rpt` at IA captures. -/
def capturedWords (s : State) (c : Nat) : List Nat :=
  (List.range c).map fun i => s.fetchWord s.cur.core (s.ia + BitVec.ofNat 64 (4 * (i + 1))) true

/-- A frame stands open in the executing context, after its words have been read; a resumed one clears EVAL[63]. -/
def opened (s : State) (c : Nat) (f : Frame) (again : Bool) : State :=
  (s.correct ((List.range c).map fun i => fetchPlace s.cur.core (s.ia + BitVec.ofNat 64 (4 * (i + 1))))).modCx fun x =>
    { x with
      frame := some f, fp := false, resume := false, refusals := 0
      ws := if again then { x.ws with eval := x.ws.eval &&& 0x7FFFFFFFFFFFFFFF } else x.ws }

theorem opened_says (s : State) (c : Nat) (f : Frame) (again : Bool) :
    (opened s c f again).cx.frame = some f ∧
      (opened s c f again).cx.ws =
        (if again then { s.cx.ws with eval := s.cx.ws.eval &&& 0x7FFFFFFFFFFFFFFF } else s.cx.ws) ∧
      (opened s c f again).cx.fp = false ∧ SameMemory s { opened s c f again with soft := s.soft } ∧
      SameUnits s (opened s c f again) ∧ SameCores s (opened s c f again) s.cur.core := by
  unfold opened
  generalize hu : s.correct _ = u
  obtain ⟨hm, hn, hg, hx, hc⟩ : OnlyCounts s u s.cur.core := by
    rw [← hu]
    refine onlyCounts_correct s fun p hp => ?_
    obtain ⟨i, _, rfl⟩ := List.mem_map.mp hp
    exact ⟨_, Nat.mod_lt _ (by decide), rfl⟩
  have hcx : u.cx = s.cx := by rw [State.cx, hx, hc, State.cx]
  rw [State.cx_modCx, hcx]
  exact ⟨rfl, rfl, rfl, hm, sameUnits_trans hn sameUnits_modCx, sameCores_trans hg (hc ▸ sameCores_modCx)⟩

/-- FP and EVAL[63] are 1, and no instruction was issued since `tret` or a resumption. -/
def Resumes (x : Context) : Prop := x.resume = true ∧ x.fp = true ∧ x.ws.eval.getLsbD 63 = true

theorem frameStart_begins {x : Context} (h : ¬ Resumes x) (n c : Nat) : x.frameStart n c = some (0, 0, false) := by
  rw [Context.frameStart, if_neg]
  simpa [Resumes, and_assoc] using h

theorem frameStart_resumes {x : Context} (h : Resumes x) (n c : Nat) : x.frameStart n c =
    if x.ws.eval.toNat / 2 ^ 57 % 64 < n ∧ x.ws.eval.toNat / 2 ^ 53 % 16 < c then
      some (x.ws.eval.toNat / 2 ^ 57 % 64, x.ws.eval.toNat / 2 ^ 53 % 16, true) else .none := by
  obtain ⟨hr, hp, he⟩ := h
  rw [Context.frameStart, hr, hp, he]
  rfl

section
variable {s : State} {cnt : Fin 16} {rep : Fin 64} {sd sa sb sm : Fin 8}

theorem rpt_access (h : ¬ s.ia.toNat + 4 * (cnt.val + 1) ≤ 0x800000000007FFFC) :
    exec (.rpt cnt rep sd sa sb sm) s = .next (s.sysFault 0x03 0x8000000000080000 0x8000000000080000 .read) := by
  change execRpt cnt rep sd sa sb sm s = _
  simp only [execRpt, h, decide_false, Bool.not_false, if_true, settle_error]
  rfl

theorem rpt_poison (h : s.ia.toNat + 4 * (cnt.val + 1) ≤ 0x800000000007FFFC) {a : Word}
    (hp : s.capturePoison s.cur.core s.ia (cnt.val + 1) = some a) :
    exec (.rpt cnt rep sd sa sb sm) s = .next (s.sysFault 0x05 a a .read) := by
  change execRpt cnt rep sd sa sb sm s = _
  simp only [execRpt, h, hp, decide_true, Bool.not_true, Bool.false_eq_true, if_false, settle_error]
  rfl

theorem rpt_breach (h : s.ia.toNat + 4 * (cnt.val + 1) ≤ 0x800000000007FFFC)
    (hp : s.capturePoison s.cur.core s.ia (cnt.val + 1) = .none) {i w : Nat}
    (hb : frameBreach sd.val sa.val sb.val sm.val (rep.val + 1) (capturedWords s (cnt.val + 1)) = some (i, w)) :
    exec (.rpt cnt rep sd sa sb sm) s = .next (s.sysFault 0x01 (BitVec.ofNat 64 (2 ^ 36 + i * 2 ^ 32 + w)) 0 .none) := by
  unfold capturedWords at hb
  change execRpt cnt rep sd sa sb sm s = _
  simp only [execRpt, h, hp, hb, decide_true, Bool.not_true, Bool.false_eq_true, if_false]
  rfl

/-- A frame whose words pass the checks opens where it starts, or is ILLEGAL where it would resume outside itself. -/
theorem rpt_start (h : s.ia.toNat + 4 * (cnt.val + 1) ≤ 0x800000000007FFFC)
    (hp : s.capturePoison s.cur.core s.ia (cnt.val + 1) = .none)
    (hb : frameBreach sd.val sa.val sb.val sm.val (rep.val + 1) (capturedWords s (cnt.val + 1)) = .none) :
    (∀ pass pos again, s.cx.frameStart (rep.val + 1) (cnt.val + 1) = some (pass, pos, again) →
      exec (.rpt cnt rep sd sa sb sm) s = .next (opened s (cnt.val + 1)
        ⟨s.ia, (capturedWords s (cnt.val + 1)).map (BitVec.ofNat 32), rep.val + 1, sd.val, sa.val, sb.val, sm.val, pass, pos⟩
        again)) ∧
    (s.cx.frameStart (rep.val + 1) (cnt.val + 1) = .none →
      exec (.rpt cnt rep sd sa sb sm) s = .next (s.sysFault 0x01 (s.curWord.setWidth 64) 0 .none)) := by
  unfold capturedWords at hb
  refine ⟨fun pass pos again hs => ?_, fun hs => ?_⟩ <;> change execRpt cnt rep sd sa sb sm s = _ <;>
    simp only [execRpt, h, hp, hb, hs, decide_true, Bool.not_true, Bool.false_eq_true, if_false] <;> rfl

end

/-- Settles O28: by the checks of `rpt` in their order, and by where the frame starts. -/
theorem repeatResults : Obligations.RepeatResults := by
  intro s cnt rep sd sa sb sm c ia ws pass pos resumes opens
  refine ⟨fun h => rpt_access (Nat.not_le.mpr h), fun a h hp => rpt_poison h hp, fun h hp i w hb => rpt_breach h hp hb,
    fun h hp hb => ?_⟩
  obtain ⟨hopen, hout⟩ := rpt_start (s := s) h hp hb
  refine ⟨fun hr => ?_, fun hr h1 h2 => ?_, fun hr ho => ?_⟩
  · exact ⟨_, hopen 0 0 false (frameStart_begins hr _ _), opened_says s _ _ false⟩
  · refine ⟨_, hopen pass pos true ?_, opened_says s _ _ true⟩
    rw [frameStart_resumes hr, if_pos ⟨Nat.lt_succ_of_le h1, h2⟩]
  · refine hout ?_
    rw [frameStart_resumes hr, if_neg]
    intro hin
    obtain ⟨h1, h2⟩ := hin
    rcases ho with h3 | h3
    · exact absurd (Nat.le_of_lt_succ h1) (Nat.not_le.mpr h3)
    · exact absurd h2 (Nat.not_lt.mpr h3)

end Sys2Proof.Formats
end

section
/-! PROOFS. The frame of the scalar instructions, branches and jumps (06 R101 to R106, R111 to R113). -/

namespace Sys2Proof.Scalar

open Sys2Proof.Machine
open Sys2Proof.NumberFormats (onlyVec_modCx onlyVec_setW onlyVec_trans onlyVec_advance scalarTableResults)
open Sys2Proof.Formats (sameCore_modCx onlyOwn_advance pc_advance)
open Sys2Proof.Says hiding none

/-! ### Steps that write the executing context's own registers -/

section
variable {s t u : State} {w : Reg → Prop} {v : VReg → Prop} {f : Word}

theorem sameCore_trans {r : CtxRef} (h : SameCore s t r) (k : SameCore t u r) : SameCore s u r := by
  obtain ⟨h1, h2⟩ := h
  obtain ⟨k1, k2⟩ := k
  refine ⟨?_, fun c hc => (k2 c hc).trans (h2 c hc)⟩
  rw [← k1] at h1
  exact h1

theorem sameCore_setW (s : State) (n : Reg) (x : Word) : SameCore s (s.setW n x) s.cur := by
  unfold State.setW
  split
  · exact ⟨rfl, fun _ _ => rfl⟩
  · exact sameCore_modCx

/-- A step in the frame of the vector instructions that leaves its core's own registers alone. -/
theorem onlyOwn_of_onlyVec (h : OnlyVec s t w v f) (hc : SameCore s t s.cur) : OnlyOwn s t w v f := by
  obtain ⟨hm, hu, hg, _, hx, hw, hcur, hnow⟩ := h
  exact ⟨hm, hu, hg, hc, hx, hw, hcur, hnow⟩

/-- Going on at an address changes the PC and how the context goes on. -/
theorem onlyVec_jump (s : State) (a : Word) : OnlyVec s (s.jump a) w v f :=
  onlyVec_modCx rfl rfl (fun _ _ => rfl) (fun _ _ => rfl) rfl

theorem onlyOwn_jump (s : State) (a : Word) : OnlyOwn s (s.jump a) w v f :=
  onlyOwn_of_onlyVec (onlyVec_jump s a) sameCore_modCx

/-- A register is written, and the context goes on by a change of itself. -/
theorem onlyOwn_setW_modCx {s : State} {rd : Reg} {x : Word} {g : Context → Context} (hw : w rd)
    (h : OnlyVec (s.setW rd x) ((s.setW rd x).modCx g) w v f) : OnlyOwn s ((s.setW rd x).modCx g) w v f := by
  refine onlyOwn_of_onlyVec (onlyVec_trans (onlyVec_setW s hw x) h) (sameCore_trans (sameCore_setW s rd x) ?_)
  have hc : SameCore (s.setW rd x) ((s.setW rd x).modCx g) (s.setW rd x).cur := sameCore_modCx
  rwa [State.setW_cur] at hc

/-- A result that retires writes its register and no other (01 R16). -/
theorem onlyOwn_retire (s : State) (rd : Reg) (x : Word) : OnlyOwn s (s.retire rd x) (· = rd) Says.none 0 :=
  onlyOwn_setW_modCx (w := (· = rd)) rfl (onlyVec_advance _)

/-- A write to no register is a write to any set of registers. -/
theorem onlyOwn_mono (h : OnlyOwn s t Says.none Says.none 0) : OnlyOwn s t w Says.none 0 := by
  obtain ⟨hm, hu, hg, hc, hx, ⟨hws, hwr, hv, hf⟩, hcur, hnow⟩ := h
  exact ⟨hm, hu, hg, hc, hx, ⟨hws, fun n _ => hwr n id, hv, hf⟩, hcur, hnow⟩

end

/-! ### Register and immediate instructions (06 R101 to R106) -/

/-- Where a table instruction writes does not depend on the state. -/
theorem scalarResult_dest (s t : State) (i : Instr) : (scalarResult s i).map (·.1) = (scalarResult t i).map (·.1) := by
  cases i <;> simp only [scalarResult, Option.map_some, Option.map_none]

/-- A register or immediate instruction retires a value in its register, or is a `cmov` that only moves on. -/
theorem exec_of_scalarDest {s : State} {i : Instr} {rd : Reg} (h : scalarDest i = some rd) :
    (∃ v, exec i s = .next (s.retire rd v)) ∨ exec i s = .next s.advance := by
  by_cases hc : ∃ d a b, i = .cmov d a b
  · obtain ⟨d, a, b, rfl⟩ := hc
    cases h
    change ((∃ v, execCmov rd a b s = _) ∨ execCmov rd a b s = _)
    unfold execCmov
    split
    · exact .inr rfl
    · exact .inl ⟨_, rfl⟩
  · have hd : scalarDest i = (scalarResult {} i).map (·.1) := by
      cases i with
      | cmov d a b => exact absurd ⟨d, a, b, rfl⟩ hc
      | _ => rfl
    rw [hd, scalarResult_dest {} s] at h
    obtain ⟨⟨_, v⟩, hr, rfl⟩ := Option.map_eq_some_iff.mp h
    exact .inl ⟨v, scalarTableResults s i _ v hr⟩

/-- Settles O13: a result retires in rd alone, and a `cmov` that writes nothing only moves on. -/
theorem scalarFrame : Obligations.ScalarFrame := by
  intro s t i rd hd ht
  rcases exec_of_scalarDest (s := s) hd with ⟨v, he⟩ | he <;> cases he.symm.trans ht
  · exact onlyOwn_retire s rd v
  · exact onlyOwn_mono (onlyOwn_advance s)

/-! ### Branches (06 R111) -/

theorem branchTarget_eq {w : Nat} (ia : Word) (off : BitVec w) : branchTarget ia off = ia + BitVec.ofInt 64 (off.toInt * 4) := by
  simp [branchTarget, BitVec.ofInt_mul, BitVec.signExtend]

theorem not_slt_iff (a b : Word) : (!a.slt b) = true ↔ b.toInt ≤ a.toInt := by
  rw [Bool.not_eq_true', ← Bool.not_eq_true, BitVec.slt_iff_toInt_lt, Int.not_lt]

theorem not_ult_iff (a b : Word) : (!a.ult b) = true ↔ b.toNat ≤ a.toNat := by
  rw [Bool.not_eq_true', ← Bool.not_eq_true, BitVec.ult_iff_toNat_lt, Nat.not_lt]

/-- A branch is `State.branch` on its registers with a test that decides its condition. -/
theorem exec_branch {s : State} {i : Instr} {p : Prop} {off : BitVec 16} (h : branchTaken s i = some (p, off)) :
    ∃ ra rb cond, exec i s = s.branch ra rb off cond ∧ (cond (s.getW ra) (s.getW rb) = true ↔ p) := by
  cases i with
  | beq ra rb => cases h; exact ⟨ra, rb, _, rfl, beq_iff_eq⟩
  | bne ra rb => cases h; exact ⟨ra, rb, _, rfl, bne_iff_ne⟩
  | blt ra rb => cases h; exact ⟨ra, rb, _, rfl, BitVec.slt_iff_toInt_lt⟩
  | bge ra rb => cases h; exact ⟨ra, rb, fun a b => !a.slt b, rfl, not_slt_iff _ _⟩
  | bltn ra rb => cases h; exact ⟨ra, rb, _, rfl, BitVec.ult_iff_toNat_lt⟩
  | bgen ra rb => cases h; exact ⟨ra, rb, fun a b => !a.ult b, rfl, not_ult_iff _ _⟩
  | _ => cases h

theorem branchTargets : Says.BranchTargets := by
  intro s i p off h hf
  obtain ⟨ra, rb, cond, he, hp⟩ := exec_branch h
  by_cases hc : cond (s.getW ra) (s.getW rb) = true
  · refine ⟨s.jump (branchTarget s.ia off), by rw [he, State.branch, if_pos hc], onlyOwn_jump s _, fun _ => ?_,
      fun hn => absurd (hp.mp hc) hn⟩
    rw [jump_cx, branchTarget_eq, State.ia]
  · exact ⟨s.advance, by rw [he, State.branch, if_neg hc], onlyOwn_advance s, fun hy => absurd (hp.mpr hy) hc,
      fun _ => pc_advance hf⟩

theorem branchWords : Says.BranchWords := fun _ _ _ => ⟨rfl, rfl, rfl, rfl, rfl, rfl⟩

/-- Settles O14: a branch jumps where its test holds and moves on where it does not. -/
theorem branchResults : Obligations.BranchResults := ⟨branchTargets, branchWords⟩

/-! ### Jumps (06 R112, R113) -/

/-- The link is written, and the context goes on at the target. -/
theorem linked_says (s : State) (rd : Reg) (x a : Word) :
    ((s.setW rd x).jump a).cx.ws.pc = a ∧ (∀ n, ((s.setW rd x).jump a).getW n = if n = rd ∧ rd ≠ 0 then x else s.getW n) ∧
      OnlyOwn s ((s.setW rd x).jump a) (· = rd) Says.none 0 := by
  refine ⟨by rw [jump_cx], fun n => ?_, onlyOwn_setW_modCx (w := (· = rd)) rfl (onlyVec_jump _ a)⟩
  rw [← State.getW_setW, State.getW, jump_cx, State.getW]

/-- Settles O15: both write their link and go on at a target that is computed from the state before. -/
theorem jumpResults : Obligations.JumpResults := by
  intro s rd ra off imm
  have himm : s.getW ra + imm.signExtend 64 = s.getW ra + BitVec.ofInt 64 imm.toInt := rfl
  exact ⟨rfl, rfl, ⟨_, rfl, branchTarget_eq s.ia off ▸ linked_says s rd (s.cx.ws.pc + 4) (branchTarget s.ia off)⟩,
    ⟨_, rfl, himm ▸ linked_says s rd (s.cx.ws.pc + 4) _⟩⟩

end Sys2Proof.Scalar
end

section
/-! PROOFS. The end of a firing, traps, their return and breakpoints (06 R116, R118 to R121). -/

namespace Sys2Proof.Scalar

open Sys2Proof.Machine
open Sys2Proof.NumberFormats (context_advance sameMemory_trans)
open Sys2Proof.Formats (sameMemory_modCx sameUnits_modCx sameCores_modCx sameCore_modCx)
open Sys2Proof.Says hiding none

/-! ### The end of a message firing (11 R207, R212) -/

/-- What a core holds of its messages: the network interface, MSGHDR and MSGSRC. -/
def msgPart (k : Core) : Net × Word × BitVec 13 := (k.net, k.msghdr, k.msgsrc)

theorem msgPart_modCtx (s : State) (r : CtxRef) (f : Context → Context) (g : Nat) :
    msgPart ((s.modCtx r f).core g) = msgPart (s.core g) := by
  rw [State.core_modCtx]
  split <;> rfl

/-- Closing the window changes no context and no count of returned credits. -/
theorem closeWindow_keeps (k : Core) : k.closeWindow.ctxs = k.ctxs ∧ k.closeWindow.net.creditReturns = k.net.creditReturns := by
  unfold Core.closeWindow
  split
  · split <;> exact ⟨rfl, rfl⟩
  · exact ⟨rfl, rfl⟩

/-- A core whose message firing has ended. -/
def msgEnded (k : Core) : Core :=
  { k.closeWindow with net := { k.closeWindow.net with openMsg := .none }, msghdr := 0, msgsrc := 0 }

/-- The firing of an open message ends, and a request that was not replied to returns its credit. -/
theorem endMessage_open {s : State} {g : Nat} {m : OpenMsg} (h : (s.core g).net.openMsg = some m) :
    s.endMessage g = if m.arrival.hdr.getLsbD 50 = false ∧ m.replied = false then
      (s.modCore g msgEnded).returnCredit m.arrival.src else s.modCore g msgEnded := by
  have hc : (!hdrVn m.arrival.hdr && !m.replied) = true ↔ m.arrival.hdr.getLsbD 50 = false ∧ m.replied = false := by
    simp [hdrVn]
  simp only [State.endMessage, h, hc]
  rfl

theorem endMessage_closed {s : State} {g : Nat} (h : (s.core g).net.openMsg = .none) : s.endMessage g = s := by
  simp only [State.endMessage, h]

/-- A core after a credit is returned to one. -/
theorem core_returnCredit (s : State) (g a : Nat) : (s.returnCredit g).core a = { s.core a with net := { (s.core a).net with
    creditReturns := (s.core a).net.creditReturns + if a = g then 1 else 0 } } := by
  rw [State.returnCredit, State.core_modCore]
  split
  · next e => rw [e]
  · rfl

/-- The end of a message firing is seen in cores alone, and changes no context. -/
theorem endMessage_frame (s : State) (g : Nat) :
    SameMemory s (s.endMessage g) ∧ (s.endMessage g).cur = s.cur ∧ ∀ r, (s.endMessage g).ctx r = s.ctx r := by
  have hctx : ∀ r, (s.modCore g msgEnded).ctx r = s.ctx r := fun r => by
    rw [State.ctx, State.core_modCore]
    split
    · next e => rw [State.ctx, e, Core.ctx, Core.ctx, msgEnded, (closeWindow_keeps _).1]
    · rfl
  cases h : (s.core g).net.openMsg with
  | none => rw [endMessage_closed h]; exact ⟨⟨rfl, rfl, rfl, rfl, rfl, rfl⟩, rfl, fun _ => rfl⟩
  | some m =>
    rw [endMessage_open h]
    split
    · refine ⟨⟨rfl, rfl, rfl, rfl, rfl, rfl⟩, rfl, fun r => ?_⟩
      rw [← hctx, State.ctx, core_returnCredit]
      rfl
    · exact ⟨⟨rfl, rfl, rfl, rfl, rfl, rfl⟩, rfl, hctx⟩

/-- After it no message is open, and its sender's core holds the credit that is due. -/
theorem endMessage_msgPart {s : State} {g : Nat} {m : OpenMsg} (h : (s.core g).net.openMsg = some m) :
    ((s.endMessage g).core g).net.openMsg = .none ∧ ((s.endMessage g).core g).msghdr = 0 ∧
      ((s.endMessage g).core g).msgsrc = 0 ∧
      ((s.endMessage g).core m.arrival.src).net.creditReturns = (s.core m.arrival.src).net.creditReturns +
        if m.arrival.hdr.getLsbD 50 = false ∧ m.replied = false then 1 else 0 := by
  have hret : ∀ a, ((s.modCore g msgEnded).core a).net.creditReturns = (s.core a).net.creditReturns := fun a => by
    rw [State.core_modCore]
    split
    · next e => rw [e]; exact (closeWindow_keeps _).2
    · rfl
  have hg : (s.modCore g msgEnded).core g = msgEnded (s.core g) := by rw [State.core_modCore, if_pos rfl]
  rw [endMessage_open h, ← hret]
  split
  · rw [core_returnCredit, core_returnCredit, if_pos rfl, hg]
    exact ⟨rfl, rfl, rfl, rfl⟩
  · rw [hg]
    exact ⟨rfl, rfl, rfl, rfl⟩

/-! ### `done` (06 R116) -/

/-- The end of an actor's firing takes its slot from the context that ran it. -/
theorem ctx_endActor (k : Core) (c : CtxId) : (k.endActor c).ctx c = { k.ctx c with actorSlot := .none } := by
  unfold Core.endActor
  split
  · next h => rw [← h]
  · dsimp only
    rw [Core.ctx_modCtx, if_pos rfl]
    rfl

theorem msgPart_endActor (k : Core) (c : CtxId) : msgPart (k.endActor c) = msgPart k := by
  unfold Core.endActor
  split <;> rfl

/-- The message firing of ctx0 has ended. -/
def messageEnded (s : State) : State := if s.cur.ctx = 0 then s.endMessage s.cur.core else s

/-- The state in which `done` frees its context: the message firing of ctx0 and the actor's firing have ended. -/
def firingEnded (s : State) : State := (messageEnded s).modMe fun k => k.endActor (messageEnded s).cur.ctx

/-- A context that is free, with UTA, FP and KIND 0. -/
def freed (x : Context) : Context :=
  { x with firing := false, fp := false, firingReg := x.firingReg &&& ~~~7
           ws := { x.ws with ecause := x.ws.ecause &&& 0x7FFFFFFFFFFFFFFF } }

/-- What `done` leaves. -/
def doneState (s : State) : State := ((firingEnded s).modCx freed).advance

theorem exec_done (s : State) : exec .done s = .next (doneState s) := rfl

theorem messageEnded_frame (s : State) :
    SameMemory s (messageEnded s) ∧ (messageEnded s).cur = s.cur ∧ ∀ r, (messageEnded s).ctx r = s.ctx r := by
  unfold messageEnded
  split
  · exact endMessage_frame s s.cur.core
  · exact ⟨⟨rfl, rfl, rfl, rfl, rfl, rfl⟩, rfl, fun _ => rfl⟩

theorem firingEnded_frame (s : State) : SameMemory s (firingEnded s) ∧ (firingEnded s).cur = s.cur ∧
    (firingEnded s).cx = { s.cx with actorSlot := .none } := by
  obtain ⟨hm, hcur, hx⟩ := messageEnded_frame s
  refine ⟨sameMemory_trans hm ⟨rfl, rfl, rfl, rfl, rfl, rfl⟩, hcur, ?_⟩
  have hcx : (messageEnded s).me.ctx (messageEnded s).cur.ctx = s.cx := by rw [State.cx, ← hx, State.ctx, State.me, hcur]
  rw [State.cx, firingEnded, State.modMe_cur, State.ctx, State.modMe, State.core_modCore, if_pos rfl, ← State.me,
    ctx_endActor, hcx]

/-- In ctx0 what cores hold of messages is as the end of the message firing leaves it. -/
theorem msgPart_doneState {s : State} (h : s.cur.ctx = 0) (g : Nat) :
    msgPart ((doneState s).core g) = msgPart ((s.endMessage s.cur.core).core g) := by
  rw [doneState, State.advance, State.modCx, msgPart_modCtx, State.modCx, msgPart_modCtx, firingEnded, State.modMe,
    State.core_modCore, messageEnded, if_pos h]
  split
  · next e => rw [e, msgPart_endActor]
  · rfl

theorem ecause_uta_cleared (e : Word) : (e &&& 0x7FFFFFFFFFFFFFFF).getLsbD 63 = false := by
  rw [BitVec.getLsbD_and, show (0x7FFFFFFFFFFFFFFF : Word).getLsbD 63 = false from by decide, Bool.and_false]

/-- Settles O21: the message firing and the actor's firing end, and then the context is freed and moves on. -/
theorem doneResults : Obligations.DoneResults := by
  intro s
  obtain ⟨hm, hcur, hx⟩ := firingEnded_frame s
  obtain ⟨pc, fr, re, rf, wt, ha⟩ := context_advance (freed (firingEnded s).cx)
  have hcx : (doneState s).cx = (freed (firingEnded s).cx).advance := by
    rw [doneState, State.advance, State.cx_modCx, State.cx_modCx]
  refine ⟨doneState s, exec_done s, ?_⟩
  rw [hcx, ha, hx]
  refine ⟨rfl, rfl, rfl, ecause_uta_cleared _, rfl, rfl, rfl,
    sameMemory_trans hm (sameMemory_trans sameMemory_modCx sameMemory_modCx), fun m h0 ho => ?_⟩
  obtain ⟨hopen, hhdr, hsrc, hcredit⟩ := endMessage_msgPart ho
  obtain ⟨hnet, hregs⟩ := Prod.ext_iff.mp (msgPart_doneState h0 s.cur.core)
  obtain ⟨hhdr', hsrc'⟩ := Prod.ext_iff.mp hregs
  obtain ⟨hnet', _⟩ := Prod.ext_iff.mp (msgPart_doneState h0 m.arrival.src)
  have hme : (doneState s).me = (doneState s).core s.cur.core := congrArg (fun r : CtxRef => (doneState s).core r.core) hcur
  rw [hme]
  exact ⟨(congrArg Net.openMsg hnet).trans hopen, hhdr'.trans hhdr, hsrc'.trans hsrc,
    (congrArg Net.creditReturns hnet').trans hcredit⟩

/-! ### `trap` (06 R118, R119) -/

theorem utvecOk_iff (v : Word) :
    utvecOk v = true ↔ v.toNat % 4 = 0 ∧ 0x8000000000000000 ≤ v.toNat ∧ v.toNat ≤ 0x800000000007FFFC := by
  simp [utvecOk, and_assoc]

section
variable {s : State} (c : BitVec 8) (v e : Word)

theorem userTrap_eq (hf : s.cx.frame = .none) : s.userTrap c v e = s.enterTrap s.cur c e v v false := by
  simp only [State.userTrap, hf]

/-- A trap outside a frame with a usable UTVEC goes on at the handler. -/
theorem userTrap_handler (hf : s.cx.frame = .none) (hv : utvecOk s.me.utvec = true) :
    (s.userTrap c v e).cx = { s.cx with
      ws := { s.cx.ws with epc := e, eval := v, ecause := 0x8000000000000000 ||| c.setWidth 64, pc := s.me.utvec }
      fp := false, frame := .none, wait := .none, resume := false, refusals := 0 } ∧ SameUnits s (s.userTrap c v e) := by
  rw [State.cx, State.userTrap_cur, userTrap_eq c v e hf]
  refine ⟨enterTrap_ctx s s.cur c e v v false hv, ?_⟩
  have hv' : utvecOk (s.core s.cur.core).utvec = true := hv
  simp [State.enterTrap, hv', SameUnits]

/-- With a UTVEC that is no own-TCM address the entry is the system-level fault ACCESS with UTA 1. -/
theorem userTrap_access (hf : s.cx.frame = .none) (hv : ¬ utvecOk s.me.utvec = true) :
    (s.userTrap c v e).cx = { s.cx with
      ws := { s.cx.ws with epc := e, eval := s.me.utvec, ecause := withCause 0x8000000000000000 0x03 }
      suspended := true, fp := false, frame := .none, wait := .none, resume := false, refusals := 0, linkFails := false } := by
  have hv' : ¬ utvecOk (s.core s.cur.core).utvec = true := hv
  rw [State.cx, State.userTrap_cur, userTrap_eq c v e hf]
  simp only [State.enterTrap, if_neg hv']
  rw [takeSys_ctx, State.ctx_modCtx_self]
  rfl

end

/-- Settles O23: the entry outside a frame, by whether UTVEC is a usable address. -/
theorem trapEntry : Obligations.TrapEntry := by
  intro s code hf v
  have hmem : SameMemory s (s.userTrap 0x10 (code.setWidth 64) (s.ia + 4)) := by simp [SameMemory]
  have hcause : withCause 0x8000000000000000 0x03 = 0x8000000000000003 := by decide
  refine ⟨_, rfl, ?_⟩
  by_cases hv : utvecOk v = true
  · obtain ⟨hcx, hu⟩ := userTrap_handler 0x10 (code.setWidth 64) (s.ia + 4) hf hv
    rw [hcx]
    exact ⟨rfl, rfl, rfl, rfl, hmem, fun _ => ⟨rfl, rfl, rfl, rfl, hu⟩, fun h => absurd ((utvecOk_iff v).mp hv) h⟩
  · rw [userTrap_access 0x10 (code.setWidth 64) (s.ia + 4) hf hv]
    exact ⟨rfl, rfl, rfl, rfl, hmem, fun h => absurd ((utvecOk_iff v).mpr h) hv, fun _ => ⟨rfl, hcause, rfl, rfl⟩⟩

/-! ### `tret` and `brk` (06 R120, R121) -/

theorem exec_tret (s : State) : exec .tret s =
    settle s (if s.cx.ws.ecause.getLsbD 63 then .ok s.returnTrap else illegal (s.curWord.setWidth 64)) := rfl

theorem trapReturn : Says.TrapReturn := by
  intro s
  refine ⟨fun h => ⟨s.returnTrap, by rw [exec_tret, if_pos h, settle_ok], ?_⟩, fun h => ?_⟩
  · rw [State.returnTrap, State.cx_modCx]
    exact ⟨rfl, rfl, rfl, rfl, rfl, rfl, rfl, sameMemory_modCx, sameUnits_modCx, sameCores_modCx, sameCore_modCx⟩
  · rw [exec_tret, h]
    rfl

/-- A context that `brk` halts for the debugger, to go on at IA + 4. -/
def broken (s : State) (code : BitVec 12) : State := s.modCx fun x =>
  { x with
    ws := { x.ws with epc := x.ws.pc, eval := code.setWidth 64, ecause := withCause x.ws.ecause 0x0F, pc := x.ws.pc + 4 }
    halted := true, haltedAt := s.now, fp := false }

theorem exec_brk (s : State) (code : BitVec 12) : exec (.brk code) s =
    if s.dev.debug = .invasive then .next (broken s code) else .next (s.sysFault 0x0F (code.setWidth 64) 0 .none) := rfl

theorem breakpointResults : Says.BreakpointResults := by
  intro s code
  refine ⟨fun h => by rw [exec_brk, if_neg h], fun h => ⟨broken s code, by rw [exec_brk, if_pos h], ?_⟩⟩
  rw [broken, State.cx_modCx]
  exact ⟨rfl, rfl, rfl, rfl, rfl, rfl, sameMemory_modCx, sameUnits_modCx⟩

/-- Settles O24: `tret` by UTA, `brk` by the debug state. -/
theorem trapReturnAndBreakpoint : Obligations.TrapReturnAndBreakpoint := ⟨trapReturn, breakpointResults⟩

end Sys2Proof.Scalar
end

section
/-! PROOFS. Loads of the executing context from plain bytes of its core's own TCM (06 R107, 14 R257, R258, 15 R274 to R278). -/

namespace Sys2Proof.Scalar

open Sys2Proof.Machine
open Sys2Proof.Says hiding none

/-! ### Addresses and places of own TCM (14 R257) -/

theorem granule_tcmPlace (g off : Nat) : granule (tcmPlace g off) = tcmPlace g off / 8 * 8 := by
  have h : inHbm (tcmPlace g off) = false := by
    rw [inHbm, decide_eq_false_iff_not, dieSize, tcmPlace]
    omega
  rw [granule, h]
  rfl

theorem tcmPlace_add (g off i : Nat) : tcmPlace g (off + i) = tcmPlace g off + i := (Nat.add_assoc _ _ _).symm

theorem tcmPlace_mod (g : Nat) {off : Nat} (h : off < 0x80000) : tcmPlace g off % 0x80000 = off := by
  rw [tcmPlace]
  omega

theorem toNat_tcmAddr {off : Nat} (h : off < 0x80000) :
    (BitVec.ofNat 64 (0x8000000000000000 + off)).toNat = 0x8000000000000000 + off := by
  rw [BitVec.toNat_ofNat]
  omega

/-- An access within an aligned 64-byte block of the local space is one piece. -/
theorem pieces_block {a n : Nat} (h0 : 0 < n) (ha : 2 ^ 63 ≤ a) (hn : a % 64 + n ≤ 64) : pieces n a n = [(a, n)] := by
  obtain ⟨k, rfl⟩ := Nat.exists_eq_add_one_of_ne_zero h0.ne'
  have hk : min (k + 1) (pieceLen a) = k + 1 := by
    rw [pieceLen, if_pos ha]
    omega
  have hz : ∀ f b, pieces f b 0 = [] := fun f b => by cases f <;> rfl
  rw [pieces, if_neg (Nat.succ_ne_zero k)]
  simp only [hk, Nat.sub_self, hz]

theorem locate_tcm (s : State) (who : Who) (need : Need) {off : Nat} (h : off < 0x80000) :
    s.locate who need (0x8000000000000000 + off) = .ok (⟨tcmPlace who.core off, .tcm who.core⟩, none) := by
  rw [State.locate, if_pos (by omega), localLoc]
  simp only [Nat.add_sub_cancel_left, if_pos h]
  rfl

/-! ### Plain places, runs and cells -/

/-- A run of bytes of the executing core's own TCM that hold plain memory. -/
def PlainRun (s : State) (r : Run) : Prop :=
  r.space = .tcm s.cur.core ∧ ∃ off, r.place = tcmPlace s.cur.core off ∧ PlainTcm s off r.len

/-- A cell that lies in plain memory of the executing core's own TCM. -/
def PlainCell (s : State) (p : Nat) : Prop :=
  ∃ off < 0x80000, p = tcmPlace s.cur.core off ∧ s.me.wsAt off = none ∧ PlainPlace s p

theorem PlainCell.place {s : State} {p : Nat} (h : PlainCell s p) : PlainPlace s p := by
  obtain ⟨_, _, _, _, hp⟩ := h
  exact hp

theorem PlainCell.wsAt {s : State} {p : Nat} (h : PlainCell s p) : (s.core s.cur.core).wsAt (p % 0x80000) = none := by
  obtain ⟨off, hoff, rfl, hw, _⟩ := h
  rw [tcmPlace_mod _ hoff]
  exact hw

theorem PlainCell.poison {s : State} {p : Nat} (h : PlainCell s p) : granule p ∉ s.poison := by
  obtain ⟨off, _, rfl, _, hp, _⟩ := h
  rwa [granule_tcmPlace]

theorem PlainCell.soft {s : State} {p : Nat} (h : PlainCell s p) : granule p ∉ s.soft := by
  obtain ⟨off, _, rfl, _, _, hp, _⟩ := h
  rwa [granule_tcmPlace]

theorem plainCell_of_plainTcm {s : State} {off n i : Nat} (h : PlainTcm s off n) (hi : i < n) :
    PlainCell s (tcmPlace s.cur.core off + i) := by
  obtain ⟨hb, hp⟩ := h
  obtain ⟨hw, hp⟩ := hp i hi
  rw [tcmPlace_add] at hp
  exact ⟨off + i, by omega, (tcmPlace_add _ _ _).symm, hw, hp⟩

theorem PlainRun.cell {s : State} {r : Run} (h : PlainRun s r) {i : Nat} (hi : i < r.len) : PlainCell s (r.place + i) := by
  obtain ⟨_, off, hp, ht⟩ := h
  rw [hp]
  exact plainCell_of_plainTcm ht hi

theorem plainCell_of_mem_placesOf {s : State} {rs : List Run} (h : ∀ r ∈ rs, PlainRun s r) {p : Nat} (hp : p ∈ placesOf rs) :
    PlainCell s p := by
  obtain ⟨r, hr, hp⟩ := List.mem_flatMap.mp hp
  obtain ⟨i, hi, rfl⟩ := List.mem_map.mp hp
  exact (h r hr).cell (List.mem_range.mp hi)

/-! ### What an access to plain places performs before it: nothing (15 R275, R277, R278) -/

theorem foldl_eq_self {α β : Type} {f : α → β → α} {a : α} (l : List β) (h : ∀ x ∈ l, f a x = a) :
    l.foldl f a = a := by
  induction l with
  | nil => rfl
  | cons x l ih =>
    rw [List.foldl_cons, h x List.mem_cons_self]
    exact ih fun y hy => h y (List.mem_cons_of_mem x hy)

theorem splitWrites_none {first : PendWrite → PendWrite → Bool} {go : PendWrite → Bool} {ws : List PendWrite}
    (h : ∀ w ∈ ws, go w = false) : splitWrites first go ws = ([], ws) := by
  induction ws with
  | nil => rfl
  | cons w t ih =>
    rw [splitWrites, ih fun v hv => h v (List.mem_cons_of_mem w hv), h w List.mem_cons_self]
    rfl

theorem performSome_none {s : State} {g : Nat} {go : PendWrite → Bool} (h : ∀ w ∈ (s.core g).writes, go w = false) :
    s.performSome g go = s := by
  simp only [State.performSome, splitWrites_none h, List.isEmpty_nil, if_true]

theorem pushSome_none {s : State} {go : PendWrite → Bool} (h : ∀ w ∈ s.dev.posted, go w = false) : s.pushSome go = s := by
  simp only [State.pushSome, splitWrites_none h, List.isEmpty_nil, if_true]

section
variable {s : State} {ps : List Nat} (h : ∀ p ∈ ps, PlainPlace s p)
include h

/-- No write on its way touches a plain place. -/
theorem touches_plain {w : PendWrite}
    (hw : w ∈ s.me.writes ++ s.dev.posted ++ s.me.sees.flatMap fun x => (s.core x.1).writes) : w.touches ps = false := by
  rw [PendWrite.touches, List.any_eq_false]
  intro c hc
  rw [Bool.not_eq_true, List.any_eq_false]
  intro p hp e
  obtain ⟨_, _, hcells, _⟩ := h p hp
  exact hcells w hw c hc (beq_iff_eq.mp e).symm

theorem seenOver_plain : s.seenOver s.cur.core ps = s := by
  refine foldl_eq_self _ fun t ht => performSome_none fun w hw => ?_
  rw [touches_plain h (List.mem_append_right _ (List.mem_flatMap.mpr ⟨t, ht, hw⟩)), Bool.and_false]

theorem pushSome_plain : s.pushSome (·.touches ps) = s :=
  pushSome_none fun _ hw => touches_plain h (List.mem_append_left _ (List.mem_append_right _ hw))

theorem before_plain {who : Who} (hg : who.core = s.cur.core) : s.before who ps = s := by
  have hmine : ∀ w ∈ (s.core s.cur.core).writes, w.touches ps = false := fun _ hw =>
    touches_plain h (List.mem_append_left _ (List.mem_append_left _ hw))
  have hfirst : (if who.own then s.performOver s.cur.core ps else s.performSome s.cur.core fun w => w.owed && w.touches ps) = s := by
    split <;> refine performSome_none fun w hw => ?_ <;> rw [hmine w hw, Bool.and_false]
  rw [State.before, hg, hfirst, seenOver_plain h]

/-- No release stands at a plain place. -/
theorem tags_plain {x : Nat × List Tag × List Tag} (hx : x ∈ s.tags) {p : Nat} (hp : p ∈ ps) : x.1 ≠ p / 8 := by
  obtain ⟨_, _, _, htags⟩ := h p hp
  exact htags x hx

end

theorem acquire_nil (s : State) (who : Who) : s.acquire who [] = s := rfl

/-- Where no soft error stands there is nothing to correct. -/
theorem correct_none {s : State} {ps : List Nat} (h : ∀ p ∈ ps, granule p ∉ s.soft) : s.correct ps = s := by
  have hhit : (s.soft.filter fun gr => ps.any fun p => granule p == gr) = [] := by
    rw [List.filter_eq_nil_iff]
    intro gr hgr hany
    obtain ⟨p, hp, e⟩ := List.any_eq_true.mp hany
    exact h p hp (beq_iff_eq.mp e ▸ hgr)
  unfold State.correct
  split
  · rfl
  · simp only [hhit, List.filter_nil, List.foldl_nil, List.contains_nil, Bool.not_false, List.filter_true]

/-- A read of plain runs changes nothing before it. -/
theorem beforeRead_plain {s : State} {who : Who} {rs : List Run} (hg : who.core = s.cur.core) (h : ∀ r ∈ rs, PlainRun s r) :
    s.beforeRead who rs = s := by
  have hcell : ∀ p ∈ placesOf rs, PlainCell s p := fun p hp => plainCell_of_mem_placesOf h hp
  have hplace : ∀ p ∈ placesOf rs, PlainPlace s p := fun p hp => (hcell p hp).place
  have hread : (s.tags.filter fun x => (placesOf rs).any fun p => p / 8 == x.1) = [] := by
    rw [List.filter_eq_nil_iff]
    intro x hx hany
    obtain ⟨p, hp, e⟩ := List.any_eq_true.mp hany
    exact tags_plain hplace hx hp (beq_iff_eq.mp e).symm
  have hnote : (rs.foldl (fun s r => s.noteMapped r.space false ((List.range r.len).map (r.place + ·))) s) = s :=
    foldl_eq_self _ fun r hr => by rw [(h r hr).1]; rfl
  simp only [State.beforeRead, before_plain hplace hg, pushSome_plain hplace, hread, List.flatMap_nil, acquire_nil, ite_self, hnote]
  exact correct_none fun p hp => (hcell p hp).soft

/-! ### Checks of an access to own TCM (14 R258) -/

theorem byteFlaw_plain {s : State} {who : Who} (ho : who.own = true) (need : Need) (cover : List (Nat × Nat)) (a : Nat) {p : Nat}
    (hp : granule p ∉ s.poison) (g : Nat) : s.byteFlaw who need cover a p (.tcm g) = none := by
  simp [State.byteFlaw, ho, hp]

/-- The run of an access to own TCM. -/
def tcmRun (g off n : Nat) : Run := ⟨0x8000000000000000 + off, n, tcmPlace g off, .tcm g⟩

theorem plainRun_tcmRun {s : State} {off n : Nat} (h : PlainTcm s off n) : PlainRun s (tcmRun s.cur.core off n) := ⟨rfl, off, rfl, h⟩

/-- An access to plain bytes within an aligned 64-byte block of own TCM is one run that passes its checks. -/
theorem resolvePieces_tcm {s : State} {who : Who} (ho : who.own = true) (hg : who.core = s.cur.core) {off n : Nat}
    (h : PlainTcm s off n) (h0 : 0 < n) (hn : off % 64 + n ≤ 64) (need : Need) (cover : List (Nat × Nat)) :
    s.resolvePieces who need cover (pieces n (0x8000000000000000 + off) n) = .ok ([tcmRun s.cur.core off n], []) := by
  have hb : off < 0x80000 := Nat.lt_of_lt_of_le (Nat.lt_add_of_pos_right h0) h.1
  have hcheck : s.checkRun who need cover (tcmRun s.cur.core off n) = .ok (tcmRun s.cur.core off n) := by
    have hnone : ((List.range n).findSome? fun i =>
        s.byteFlaw who need cover (0x8000000000000000 + off + i) (tcmPlace s.cur.core off + i) (.tcm s.cur.core)) = none :=
      List.findSome?_eq_none_iff.mpr fun i hi =>
        byteFlaw_plain ho need cover _ (plainCell_of_plainTcm h (List.mem_range.mp hi)).poison _
    simp only [State.checkRun, tcmRun, hnone]
  rw [pieces_block h0 (by omega) (by omega), State.resolvePieces, locate_tcm s who need hb, hg]
  change (do let r ← s.checkRun who need cover (tcmRun s.cur.core off n); _) = _
  rw [hcheck]
  rfl

theorem noQueue_tcm {off : Nat} (h : off < 0x80000) (k : Kind) :
    noQueue (BitVec.ofNat 64 (0x8000000000000000 + off)) k = .ok () := by
  have hq : inQueueWindow (BitVec.ofNat 64 (0x8000000000000000 + off)) = false := by
    rw [inQueueWindow, toNat_tcmAddr h, Bool.and_eq_false_iff]
    exact .inl (decide_eq_false (by omega))
  rw [noQueue, hq]
  rfl

/-! ### Loads (06 R107, R108) -/

/-- Plain bytes read as memory holds them. -/
theorem readRun_plain {s : State} (who : Who) {r : Run} (h : PlainRun s r) :
    s.readRun who r = (List.range r.len).map fun i => Memory.read s.mem (r.place + i) := by
  refine List.map_congr_left fun i hi => ?_
  rw [h.1]
  simp only [State.byteAt, State.tcmByte, (h.cell (List.mem_range.mp hi)).wsAt]

theorem sliceReads_tcm (s : State) (b : Bool) (g off n : Nat) : s.sliceReads b [tcmRun g off n] = .ok s := rfl

theorem linkCheck_tcm (s : State) (k : Kind) (off n : Nat) : s.linkCheck k [tcmRun s.cur.core off n] = .ok () := by
  have hown : ([tcmRun s.cur.core off n].find? fun r => !r.isOwn s.cur.core) = none := by simp [tcmRun, Run.isOwn]
  unfold State.linkCheck
  rw [hown]
  split
  · next h => cases h
  · rfl

theorem stallOn_tcm (s : State) (off n : Nat) : s.stallOn [tcmRun s.cur.core off n] = s := by
  simp [State.stallOn, tcmRun, Run.isOwn]

theorem countAt_tcm (s : State) {off : Nat} (h : off < 0x80000) : s.countAt (BitVec.ofNat 64 (0x8000000000000000 + off)) = s := by
  simp only [State.countAt, toNat_tcmAddr h, locate_tcm s _ .any h]
  rfl

/-- A load of plain bytes of own TCM gives what memory holds there, and changes nothing. -/
theorem load_tcm {s : State} {off n : Nat} (h : PlainTcm s off n) (h0 : 0 < n) (hn : off % 64 + n ≤ 64) (acq : Option Nat) :
    s.load (BitVec.ofNat 64 (0x8000000000000000 + off)) n acq =
      .ok ((List.range n).map fun i => Memory.read s.mem (tcmPlace s.cur.core off + i), s) := by
  have hb : off < 0x80000 := Nat.lt_of_lt_of_le (Nat.lt_add_of_pos_right h0) h.1
  obtain ⟨who, hwho⟩ : ∃ who : Who, who = { s.whoOwn s.cur.core with acq } := ⟨_, rfl⟩
  have ho : who.own = true := by rw [hwho]; rfl
  have hg : who.core = s.cur.core := by rw [hwho]; rfl
  have hruns : s.resolveReads who [(BitVec.ofNat 64 (0x8000000000000000 + off), n)] = .ok ([[tcmRun s.cur.core off n]], []) := by
    rw [State.resolveReads, noQueue_tcm hb, State.resolve, toNat_tcmAddr hb, resolvePieces_tcm ho hg h h0 hn]
    rfl
  have hbefore : s.beforeRead who [tcmRun s.cur.core off n] = s := by
    refine beforeRead_plain hg fun r hr => ?_
    rw [List.mem_singleton.mp hr]
    exact plainRun_tcmRun h
  have hparts : s.loadParts [(BitVec.ofNat 64 (0x8000000000000000 + off), n)] acq =
      .ok ([[tcmRun s.cur.core off n].flatMap (s.readRun who)], s) := by
    rw [State.loadParts, ← hwho, hruns]
    change (do s.linkCheck .read [tcmRun s.cur.core off n]; _) = _
    rw [linkCheck_tcm]
    change Except.ok ([[tcmRun s.cur.core off n].flatMap ((s.beforeRead who [tcmRun s.cur.core off n]).readRun who)],
      (((s.beforeRead who [tcmRun s.cur.core off n]).cache s.cur.core []).stallOn [tcmRun s.cur.core off n])) = _
    rw [hbefore]
    exact congrArg (fun t => Except.ok (_, t)) (stallOn_tcm s off n)
  rw [State.load, hparts]
  change Except.ok ([[tcmRun s.cur.core off n].flatMap (s.readRun who)].flatten, s.countAt _) = _
  rw [countAt_tcm s hb, List.flatMap_singleton, List.flatten_singleton, readRun_plain who (plainRun_tcmRun h)]
  rfl

end Sys2Proof.Scalar
end

section
/-! PROOFS. Stores of the executing context to plain bytes of its core's own TCM (01 R10, 06 R107, 15 R275, R278). -/

namespace Sys2Proof.Scalar

open Sys2Proof.Machine
open Sys2Proof.Says hiding none

/-! ### Cells that are written -/

/-- Memory with some cells written, each under its mask. -/
def writeCells (m : Memory) (cs : List Machine.Cell) : Memory :=
  cs.foldl (fun m c => Memory.write m c.1 (blend (Memory.read m c.1) c.2.1 c.2.2)) m

/-- Some cells have been written to memory, error marks may have gone, and nothing else has changed. -/
def Wrote (s t : State) (cs : List Machine.Cell) : Prop :=
  t = { s with mem := writeCells s.mem cs, poison := t.poison, soft := t.soft } ∧ t.poison ⊆ s.poison ∧ t.soft ⊆ s.soft

theorem wrote_nil (s : State) : Wrote s s [] := ⟨rfl, List.Subset.refl _, List.Subset.refl _⟩

theorem wrote_append {s t u : State} {cs ds : List Machine.Cell} (h : Wrote s t cs) (k : Wrote t u ds) : Wrote s u (cs ++ ds) := by
  obtain ⟨ht, hp, hs⟩ := h
  obtain ⟨hu, kp, ks⟩ := k
  refine ⟨?_, List.Subset.trans kp hp, List.Subset.trans ks hs⟩
  rw [hu, ht, writeCells, writeCells, writeCells, List.foldl_append]

theorem Wrote.plainCell {s t : State} {cs : List Machine.Cell} (h : Wrote s t cs) {p : Nat} (hp : PlainCell s p) : PlainCell t p := by
  obtain ⟨ht, hpo, hso⟩ := h
  obtain ⟨off, hoff, e, hw, h1, h2, h3, h4⟩ := hp
  have hcur : t.cur = s.cur := by rw [ht]
  have hcores : ∀ g, t.core g = s.core g := fun g => by rw [ht]; rfl
  have hdev : t.dev = s.dev := by rw [ht]
  have htags : t.tags = s.tags := by rw [ht]
  refine ⟨off, hoff, by rw [hcur, e], ?_, fun hin => h1 (hpo hin), fun hin => h2 (hso hin), ?_, ?_⟩
  · rw [State.me, hcores, hcur]
    exact hw
  · rw [State.me, hcores, hcur, hdev]
    simp only [hcores]
    exact h3
  · rw [htags]
    exact h4

/-- Cells are written at plain places of own TCM. -/
theorem foldl_poke_tcm {s : State} (who : Who) (cs : List Machine.Cell) (h : ∀ c ∈ cs, PlainCell s c.1) :
    cs.foldl (fun t c => t.poke who c.1 c.2.1 c.2.2 (.tcm s.cur.core)) s = { s with mem := writeCells s.mem cs } := by
  induction cs generalizing s with
  | nil => rfl
  | cons c cs ih =>
    have hc := (h c List.mem_cons_self).wsAt
    have hpoke : s.poke who c.1 c.2.1 c.2.2 (.tcm s.cur.core) =
        { s with mem := Memory.write s.mem c.1 (blend (Memory.read s.mem c.1) c.2.1 c.2.2) } := by
      simp only [State.poke, State.pokeTcm, State.tcmByte, hc]
    rw [List.foldl_cons, hpoke]
    exact ih (s := { s with mem := Memory.write s.mem c.1 (blend (Memory.read s.mem c.1) c.2.1 c.2.2) })
      fun d hd => h d (List.mem_cons_of_mem c hd)

/-! ### Performing a write (15 R275, R278, 20 R354) -/

theorem wrote_cleanse (s : State) (w : PendWrite) : Wrote s (s.cleanse w) [] := by
  unfold State.cleanse
  split
  · exact wrote_nil s
  · exact ⟨rfl, fun _ h => (List.mem_filter.mp h).1, fun _ h => (List.mem_filter.mp h).1⟩

theorem find_eq_none_of_ne {α : Type} {m : SMap α} {k : Nat} (h : ∀ x ∈ m, x.1 ≠ k) : SMap.find m k = none := by
  cases hf : SMap.find m k with
  | none => rfl
  | some v => exact absurd rfl (h _ (SMap.mem_of_find hf))

theorem del_eq_self_of_ne {α : Type} {m : SMap α} {k : Nat} (h : ∀ x ∈ m, x.1 ≠ k) : SMap.del m k = m := by
  induction m with
  | nil => rfl
  | cons a t ih =>
    rw [SMap.del, if_neg (h a List.mem_cons_self), ih fun x hx => h x (List.mem_cons_of_mem a hx)]

/-- A write that is no release leaves the releases of memory alone where none stands at its cells. -/
theorem retag_plain {s : State} (who : Who) {w : PendWrite} (atomic : Bool) (ht : w.tags = [])
    (h : ∀ c ∈ w.cells, ∀ x ∈ s.tags, x.1 ≠ c.1 / 8) : s.retag who w atomic = s := by
  unfold State.retag
  simp only [ht, List.filter_nil]
  split
  · rfl
  · refine foldl_eq_self _ fun k hk => ?_
    obtain ⟨c, hc, rfl⟩ := List.mem_map.mp (List.mem_dedup.mp hk)
    have hk := h c (List.mem_filter.mp hc).1
    simp only [find_eq_none_of_ne hk, del_eq_self_of_ne hk, Option.getD_none, List.filter_nil, List.append_nil, List.dedup_nil,
      List.isEmpty_nil, if_true, acquire_nil]

/-- A plain write of the executing core to its own TCM. -/
def TcmWrite (s : State) (w : PendWrite) : Prop :=
  w.space = .tcm s.cur.core ∧ w.rel = none ∧ w.tags = [] ∧ ∀ c ∈ w.cells, PlainCell s c.1

theorem Wrote.tcmWrite {s t : State} {cs : List Machine.Cell} (h : Wrote s t cs) {w : PendWrite} (hw : TcmWrite s w) :
    TcmWrite t w := by
  obtain ⟨hs, hr, ht, hc⟩ := hw
  have hcur : t.cur = s.cur := by rw [h.1]
  exact ⟨by rw [hs, hcur], hr, ht, fun c hcm => h.plainCell (hc c hcm)⟩

theorem wrote_land {s : State} (who : Who) {w : PendWrite} (h : TcmWrite s w) : Wrote s (s.land who w) w.cells := by
  obtain ⟨hs, hr, _, hc⟩ := h
  have hcells : Wrote s { s with mem := writeCells s.mem w.cells } w.cells := ⟨rfl, List.Subset.refl _, List.Subset.refl _⟩
  have hclean := wrote_append hcells (wrote_cleanse { s with mem := writeCells s.mem w.cells } w)
  rw [List.append_nil] at hclean
  have hcorrect := correct_none (s := ({ s with mem := writeCells s.mem w.cells } : State).cleanse w) (ps := w.cells.map Prod.fst)
    fun p hp => by
      obtain ⟨c, hcm, rfl⟩ := List.mem_map.mp hp
      exact (hclean.plainCell (hc c hcm)).soft
  simp only [State.land, hs, hr, foldl_poke_tcm who w.cells hc, hcorrect]
  exact hclean

/-- A plain write to own TCM writes its cells when it is performed. -/
theorem wrote_perform {s : State} (who : Who) {w : PendWrite} (atomic : Bool) (h : TcmWrite s w) :
    Wrote s (s.perform who w atomic) w.cells := by
  have ⟨_, _, ht, hc⟩ := h
  have hplain : ∀ p ∈ w.cells.map Prod.fst, PlainPlace s p := fun p hp => by
    obtain ⟨c, hcm, rfl⟩ := List.mem_map.mp hp
    exact (hc c hcm).place
  have hland := wrote_land who h
  have htags : (s.land who w).tags = s.tags := by rw [hland.1]
  have hretag : (s.land who w).retag who w atomic = s.land who w := retag_plain who atomic ht fun c hcm x hx =>
    tags_plain hplain (htags ▸ hx) (List.mem_map.mpr ⟨c, hcm, rfl⟩)
  rw [State.perform, pushSome_plain hplain, hretag]
  exact hland

theorem wrote_foldl_perform {s : State} (who : State → Who) {ws : List PendWrite} (h : ∀ w ∈ ws, TcmWrite s w) :
    Wrote s (ws.foldl (fun s w => s.perform (who s) w) s) (ws.flatMap (·.cells)) := by
  induction ws generalizing s with
  | nil => exact wrote_nil s
  | cons w ws ih =>
    have hw := wrote_perform (who s) false (h w List.mem_cons_self)
    exact wrote_append hw (ih fun v hv => hw.tcmWrite (h v (List.mem_cons_of_mem w hv)))

/-! ### Sending cells and storing parts (06 R107, 15 R282) -/

/-- The writes of some words differ from the given one in their cells, address and count. -/
theorem mem_wordWrites {w v : PendWrite} {count : Bool} {a : Nat} {css : List (List Machine.Cell)} (h : v ∈ wordWrites w count a css) :
    v.cells ∈ css ∧ v.space = w.space ∧ v.rel = w.rel ∧ v.tags = w.tags := by
  induction css generalizing count a with
  | nil => cases h
  | cons cs css ih =>
    rcases List.mem_cons.mp h with rfl | h
    · exact ⟨List.mem_cons_self, rfl, rfl, rfl⟩
    · obtain ⟨hc, hrest⟩ := ih h
      exact ⟨List.mem_cons_of_mem cs hc, hrest⟩

theorem cells_wordWrites (w : PendWrite) (count : Bool) (a : Nat) (css : List (List Machine.Cell)) :
    (wordWrites w count a css).flatMap (·.cells) = css.flatten := by
  induction css generalizing count a with
  | nil => rfl
  | cons cs css ih => rw [wordWrites, List.flatMap_cons, ih, List.flatten_cons]

/-- Cells of own TCM leave the core at once. -/
theorem wrote_sendCells {s : State} {w : PendWrite} {x : Cells} (hw : w.core = s.cur.core) (ha : w.agent ≠ .copy)
    (hr : w.rel = none) (ht : w.tags = []) (hx : x.space = .tcm s.cur.core) (hc : ∀ c ∈ x.cells, PlainCell s c.1) :
    Wrote s (s.sendCells true w x) x.cells := by
  have hplain : ∀ p ∈ x.cells.map Prod.fst, PlainPlace s p := fun p hp => by
    obtain ⟨c, hcm, rfl⟩ := List.mem_map.mp hp
    exact (hc c hcm).place
  have hcells : (wordWrites { w with space := x.space } true x.addr (wordCells x.cells)).flatMap (·.cells) = x.cells := by
    rw [cells_wordWrites, wordCells, List.flatten_splitBy]
  have hwrites : ∀ v ∈ wordWrites { w with space := x.space } true x.addr (wordCells x.cells), TcmWrite s v := fun v hv => by
    obtain ⟨_, hs, hvr, hvt⟩ := mem_wordWrites hv
    refine ⟨hs.trans hx, hvr.trans hr, hvt.trans ht, fun c hcm => hc c ?_⟩
    rw [← hcells]
    exact List.mem_flatMap.mpr ⟨v, hv, hcm⟩
  have hown : (true && x.space == .tcm w.core) = true := by rw [hx, hw]; simp
  have hseen : s.seenOver w.core (x.cells.map Prod.fst) = s := hw ▸ seenOver_plain hplain
  have h := wrote_foldl_perform (fun t => t.whoOwn w.core) hwrites
  rw [hcells] at h
  simp only [State.sendCells, if_neg ha, hseen, hown, if_true]
  exact h

theorem wsCheck_tcm {s : State} {off n : Nat} (h : PlainTcm s off n) (who : Who) :
    s.wsCheck who .write [tcmRun s.cur.core off n] = .ok () := by
  have hnone : ((List.range n).findSome? fun i => if s.wsBreach who .write (tcmPlace s.cur.core off + i) (.tcm s.cur.core) then
      some (0x8000000000000000 + off + i) else none) = none := by
    refine List.findSome?_eq_none_iff.mpr fun i hi => if_neg ?_
    simp only [State.wsBreach, (plainCell_of_plainTcm h (List.mem_range.mp hi)).wsAt, Bool.false_eq_true, not_false_eq_true]
  simp only [State.wsCheck, tcmRun, List.findSome?_cons, List.findSome?_nil, hnone]

/-- A store to plain bytes of own TCM writes its bytes there under its mask, and changes nothing but error marks beside. -/
theorem store_tcm {s : State} {off n : Nat} (h : PlainTcm s off n) (h0 : 0 < n) (hn : off % 64 + n ≤ 64) {bs : List Byte}
    (hbs : bs.length = n) (m : Byte) : ∃ t, s.store (BitVec.ofNat 64 (0x8000000000000000 + off)) bs m = .ok t ∧
      Wrote s t ((List.range n).map fun i => (tcmPlace s.cur.core off + i, bs.getD i 0, m)) := by
  have hb : off < 0x80000 := Nat.lt_of_lt_of_le (Nat.lt_add_of_pos_right h0) h.1
  obtain ⟨p, hp⟩ : ∃ p : Part, p = ⟨BitVec.ofNat 64 (0x8000000000000000 + off), bs, m⟩ := ⟨_, rfl⟩
  have hparts : s.resolveParts (s.whoOwn s.cur.core) [] [p] = .ok ([(p, [tcmRun s.cur.core off n])], []) := by
    rw [State.resolveParts, hp, noQueue_tcm hb, toNat_tcmAddr hb, hbs, resolvePieces_tcm rfl rfl h h0 hn]
    rfl
  obtain ⟨x, hx⟩ : ∃ x : Cells, x = ⟨.tcm s.cur.core, 0x8000000000000000 + off,
    (List.range n).map fun i => (tcmPlace s.cur.core off + i, bs.getD i 0, m)⟩ := ⟨_, rfl⟩
  have hcells : runCells m [tcmRun s.cur.core off n] bs = [x] := by
    rw [runCells, runCells, hx, cellsOf]
    simp only [tcmRun, List.take_of_length_le (Nat.le_of_eq hbs)]
  have hstore : s.store (BitVec.ofNat 64 (0x8000000000000000 + off)) bs m =
      .ok (s.sendAll true { s.ownWrite none with count := true } [x]) := by
    rw [State.store, State.storeParts, ← hp]
    simp only [Bool.false_eq_true, if_false, hparts]
    change (do orStop .write (s.wsCheck (s.whoOwn s.cur.core) .write [tcmRun s.cur.core off n]); _) = _
    rw [wsCheck_tcm h]
    change Except.ok (State.sendAll s true _ (runCells p.mask [tcmRun s.cur.core off n] p.bytes)) = _
    rw [hp, hcells]
    rfl
  obtain ⟨clears, count, hsend⟩ : ∃ clears count, s.sendAll true { s.ownWrite none with count := true } [x] =
    s.sendCells true { s.ownWrite none with clears, count } x := ⟨_, _, rfl⟩
  refine ⟨_, hstore.trans (congrArg Except.ok hsend), ?_⟩
  have hsent := wrote_sendCells (w := { s.ownWrite none with clears, count }) (x := x) rfl (fun e => nomatch e) rfl rfl (by rw [hx])
    fun c hc => by
      rw [hx] at hc
      obtain ⟨i, hi, rfl⟩ := List.mem_map.mp hc
      exact plainCell_of_plainTcm h (List.mem_range.mp hi)
  rw [hx] at hsent
  rwa [hx]

end Sys2Proof.Scalar
end

section
/-! PROOFS. Loads and stores (06 R107 to R110, 15 R285). -/

namespace Sys2Proof.Scalar

open Sys2Proof.Machine
open Sys2Proof.Formats (onlyOwn_advance)
open Sys2Proof.Says hiding none

theorem aligned_iff {a : Word} {n : Nat} : aligned a n = true ↔ a.toNat % n = 0 := beq_iff_eq

/-- A multiple of a size that divides 64 lies in an aligned 64-byte block with its bytes. -/
theorem block_of_aligned {off n : Nat} (hn : n ∈ [1, 2, 4, 8]) (ha : off % n = 0) : 0 < n ∧ off % 64 + n ≤ 64 := by
  simp only [List.mem_cons, List.not_mem_nil, or_false] at hn
  rcases hn with rfl | rfl | rfl | rfl <;> omega

theorem aligned_tcmAddr {off n : Nat} (hb : off < 0x80000) (hn : n ∈ [1, 2, 4, 8]) (ha : off % n = 0) :
    (BitVec.ofNat 64 (0x8000000000000000 + off)).toNat % n = 0 := by
  rw [toNat_tcmAddr hb]
  simp only [List.mem_cons, List.not_mem_nil, or_false] at hn
  rcases hn with rfl | rfl | rfl | rfl <;> omega

/-! ### Loads (06 R107, R108, 15 R285) -/

/-- A load checks its alignment, then reads, then retires (06 R107, R108). -/
def loaded (s : State) (n : Nat) (rd : Reg) (ea : Word) (f : List Byte → Word) (acq : Option Nat) : Res :=
  if aligned ea n then do
    let (bs, t) ← s.load ea n acq
    return t.retire rd (f bs)
  else misalign ea .read

section
variable {s : State} {i : Instr} {n : Nat} {rd : Reg} {ea : Word} {f : List Byte → Word} {acq : Option Nat}

theorem exec_load (h : loadForm s i = some (n, rd, ea, f, acq)) : exec i s = settle s (loaded s n rd ea f acq) := by
  cases i with
  | ldB | ldH | ldW | ldD | ldBn | ldHn | ldWn | lda => cases h; rfl
  | _ => cases h

theorem loadForm_size (h : loadForm s i = some (n, rd, ea, f, acq)) : n ∈ [1, 2, 4, 8] := by
  cases i with
  | ldB | ldH | ldW | ldD | ldBn | ldHn | ldWn => cases h; decide
  | lda => cases h; split <;> decide
  | _ => cases h

theorem loaded_ok (ha : ea.toNat % n = 0) {bs : List Byte} {t : State} (hl : s.load ea n acq = .ok (bs, t)) :
    loaded s n rd ea f acq = .ok (t.retire rd (f bs)) := by
  rw [loaded, if_pos (aligned_iff.mpr ha), hl]
  rfl

theorem loaded_error (ha : ea.toNat % n = 0) {e : Stop} (hl : s.load ea n acq = .error e) :
    loaded s n rd ea f acq = .error e := by
  rw [loaded, if_pos (aligned_iff.mpr ha), hl]
  rfl

theorem loaded_misaligned (ha : ea.toNat % n ≠ 0) : loaded s n rd ea f acq = .error (.sys 0x02 ea ea .read) := by
  rw [loaded, if_neg (mt aligned_iff.mp ha)]
  rfl

end

theorem loadOfCheckedBytes : Says.LoadOfCheckedBytes := by
  intro s i n rd ea f acq h
  rw [exec_load h]
  refine ⟨fun bs t ha hl => ?_, fun ha => ?_, fun c v a k ha hl => ?_⟩
  · rw [loaded_ok ha hl, settle_ok]
  · rw [loaded_misaligned ha, settle_error, State.stop]
  · rw [loaded_error ha hl, settle_error, State.stop]

theorem loadFromOwnTcm : Says.LoadFromOwnTcm := by
  intro s i n off rd ea f acq h he ha ht
  have hn := loadForm_size h
  obtain ⟨h0, hblock⟩ := block_of_aligned hn ha
  have hb : off < 0x80000 := Nat.lt_of_lt_of_le (Nat.lt_add_of_pos_right h0) ht.1
  have hload := load_tcm ht h0 hblock acq
  rw [← he] at hload
  rw [exec_load h, loaded_ok (he ▸ aligned_tcmAddr hb hn ha) hload, settle_ok]
  simp only [tcmPlace_add]

/-- Settles O16: the checks of a load in their order, and what it reads where own TCM is plain. -/
theorem loadResults : Obligations.LoadResults := ⟨loadOfCheckedBytes, loadFromOwnTcm⟩

/-! ### Memory after a store -/

theorem wf_writeCells {m : Memory} (h : m.wf = true) (cs : List Machine.Cell) : (writeCells m cs).wf = true := by
  induction cs generalizing m with
  | nil => exact h
  | cons c cs ih => exact ih (Memory.wf_write h _ _)

/-- A byte after neighbouring cells were written under one mask. -/
theorem read_writeCells {m : Memory} (h : m.wf = true) (p n : Nat) (b : Nat → Byte) (mask : Byte) (q : Nat) :
    Memory.read (writeCells m ((List.range n).map fun i => (p + i, b i, mask))) q =
      if p ≤ q ∧ q < p + n then blend (Memory.read m q) (b (q - p)) mask else Memory.read m q := by
  induction n with
  | zero => exact (if_neg (by omega)).symm
  | succ n ih =>
    have hlast : writeCells m ((List.range (n + 1)).map fun i => (p + i, b i, mask)) =
        Memory.write (writeCells m ((List.range n).map fun i => (p + i, b i, mask))) (p + n)
          (blend (Memory.read (writeCells m ((List.range n).map fun i => (p + i, b i, mask))) (p + n)) (b n) mask) := by
      rw [List.range_succ, List.map_append, writeCells, List.foldl_append]
      rfl
    rw [hlast, Memory.read_write (wf_writeCells h _), ih]
    by_cases hq : q = p + n
    · subst hq
      rw [if_pos rfl, ih, if_neg (by omega), if_pos (by omega), Nat.add_sub_cancel_left]
    · rw [if_neg hq]
      exact if_congr (by omega) rfl rfl

/-- What reads the same in memory reads the same at every slice. -/
theorem sameBytes_of_read {s t : State} {p : Nat → Prop} (hd : t.dev = s.dev) (hs : t.sectors = s.sectors)
    (h : ∀ a, ¬ p a → Memory.read t.mem a = Memory.read s.mem a) : SameBytes s t p := by
  refine fun a ha => ⟨h a ha, fun plc pol => ?_⟩
  simp only [State.hbmByte, State.underPosted, State.hbmNow, hd, hs, h a ha]

/-- Moving on after cells were written to memory changes no register but the PC and no other unit. -/
theorem wrote_advance_frame {s t : State} {cs : List Machine.Cell} (h : Wrote s t cs) :
    SameUnits s t.advance ∧ SameCores s t.advance s.cur.core ∧ SameCore s t.advance s.cur ∧ SameContext s t.advance s.cur ∧
      SameWs s t.advance s.cur Says.none Says.none 0 ∧ t.advance.sectors = s.sectors ∧ t.advance.dev = s.dev ∧
      t.advance.mem = writeCells s.mem cs := by
  obtain ⟨po, so, rfl⟩ : ∃ po so, t = { s with mem := writeCells s.mem cs, poison := po, soft := so } := ⟨_, _, h.1⟩
  obtain ⟨_, hu, hg, hc, hx, hw, _, _⟩ := onlyOwn_advance { s with mem := writeCells s.mem cs, poison := po, soft := so }
  exact ⟨hu, hg, hc, hx, hw, rfl, rfl, rfl⟩

/-! ### Stores of whole bytes (06 R107, R108) -/

/-- A store checks its alignment, then writes, then moves on (06 R107, R108). -/
def stored (s : State) (n : Nat) (ea x : Word) : Res :=
  if aligned ea n then do
    let t ← s.store ea (toBytes n x.toNat)
    return t.advance
  else misalign ea .write

section
variable {s : State} {i : Instr} {n : Nat} {ea x : Word}

theorem exec_store (h : storeForm s i = some (n, ea, x)) : exec i s = settle s (stored s n ea x) := by
  cases i with
  | stB | stH | stW | stD => cases h; rfl
  | _ => cases h

theorem storeForm_size (h : storeForm s i = some (n, ea, x)) : n ∈ [1, 2, 4, 8] := by
  cases i with
  | stB | stH | stW | stD => cases h; decide
  | _ => cases h

theorem stored_ok (ha : ea.toNat % n = 0) {t : State} (hs : s.store ea (toBytes n x.toNat) = .ok t) :
    stored s n ea x = .ok t.advance := by
  rw [stored, if_pos (aligned_iff.mpr ha), hs]
  rfl

theorem stored_error (ha : ea.toNat % n = 0) {e : Stop} (hs : s.store ea (toBytes n x.toNat) = .error e) :
    stored s n ea x = .error e := by
  rw [stored, if_pos (aligned_iff.mpr ha), hs]
  rfl

theorem stored_misaligned (ha : ea.toNat % n ≠ 0) : stored s n ea x = .error (.sys 0x02 ea ea .write) := by
  rw [stored, if_neg (mt aligned_iff.mp ha)]
  rfl

end

theorem storeOfCheckedBytes : Says.StoreOfCheckedBytes := by
  intro s i n ea x h
  rw [exec_store h]
  refine ⟨fun t ha hs => ?_, fun ha => ?_, fun c v a k ha hs => ?_⟩
  · rw [stored_ok ha hs, settle_ok]
  · rw [stored_misaligned ha, settle_error, State.stop]
  · rw [stored_error ha hs, settle_error, State.stop]

theorem length_toBytes (n x : Nat) : (toBytes n x).length = n := by
  induction n generalizing x with
  | zero => rfl
  | succ n ih => rw [toBytes, List.length_cons, ih]

theorem getD_toBytes {n j : Nat} (hj : j < n) (x : Nat) : (toBytes n x).getD j 0 = BitVec.ofNat 8 (x / 256 ^ j) := by
  induction n generalizing x j with
  | zero => cases hj
  | succ n ih =>
    cases j with
    | zero => rw [toBytes, List.getD_cons_zero, Nat.pow_zero, Nat.div_one]
    | succ j => rw [toBytes, List.getD_cons_succ, ih (Nat.lt_of_succ_lt_succ hj), Nat.div_div_eq_div_mul, ← Nat.pow_succ']

theorem blend_full (old v : Byte) : blend old v 0xFF = v := by
  rw [blend, show (0xFF : Byte) = BitVec.allOnes 8 from rfl, BitVec.and_allOnes, BitVec.not_allOnes, BitVec.and_zero, BitVec.zero_or]

theorem storeToOwnTcm : Says.StoreToOwnTcm := by
  intro s i n off ea x hinv h he ha ht at_
  have hn := storeForm_size h
  obtain ⟨h0, hblock⟩ := block_of_aligned hn ha
  have hb : off < 0x80000 := Nat.lt_of_lt_of_le (Nat.lt_add_of_pos_right h0) ht.1
  obtain ⟨t, hs, hwrote⟩ := store_tcm ht h0 hblock (length_toBytes n x.toNat) 0xFF
  rw [← he] at hs
  obtain ⟨hu, hg, hc, hx, hw, hsec, hdev, hmem⟩ := wrote_advance_frame hwrote
  have hread : ∀ q, Memory.read t.advance.mem q =
      if at_ ≤ q ∧ q < at_ + n then (toBytes n x.toNat).getD (q - at_) 0 else Memory.read s.mem q := fun q => by
    rw [hmem, read_writeCells hinv, blend_full]
  refine ⟨t.advance, ?_, fun j hj => ?_, sameBytes_of_read hdev hsec fun a ha => (hread a).trans (if_neg ha), hu, hg, hc, hx, hw, hsec⟩
  · rw [exec_store h, stored_ok (he ▸ aligned_tcmAddr hb hn ha) hs, settle_ok]
  · rw [hread, if_pos ⟨Nat.le_add_right _ _, Nat.add_lt_add_left hj _⟩, Nat.add_sub_cancel_left, getD_toBytes hj]

/-! ### `st.nib` (06 R109) -/

/-- A bit of a byte whose low and high nibbles are given. -/
theorem testBit_nibbles (hi : Nat) {lo : Nat} (hlo : lo < 2 ^ 4) (k : Nat) :
    (2 ^ 4 * hi + lo).testBit k = if k < 4 then lo.testBit k else hi.testBit (k - 4) := Nat.testBit_two_pow_mul_add hi hlo k

theorem getLsbD_lowMask (k : Nat) : (0x0F : Byte).getLsbD k = decide (k < 4) := by
  rw [show (0x0F : Byte) = BitVec.ofNat 8 (2 ^ 4 - 1) from rfl, BitVec.getLsbD_ofNat, Nat.testBit_two_pow_sub_one]
  simp only [Bool.and_eq_right_iff_imp, decide_eq_true_eq]
  omega

theorem getLsbD_highMask {k : Nat} (hk : k < 8) : (0xF0 : Byte).getLsbD k = decide (¬ k < 4) := by
  rw [show (0xF0 : Byte) = ~~~(0x0F : Byte) from rfl, BitVec.getLsbD_not, getLsbD_lowMask, decide_eq_true hk, Bool.true_and, decide_not]

/-- The low nibble of a byte is replaced. -/
theorem blend_low (old : Byte) {v : Nat} (hv : v < 16) :
    blend old (BitVec.ofNat 8 v) 0x0F = BitVec.ofNat 8 (2 ^ 4 * (old.toNat / 2 ^ 4) + v) := by
  refine BitVec.eq_of_getLsbD_eq fun k hk => ?_
  simp only [blend, BitVec.getLsbD_or, BitVec.getLsbD_and, BitVec.getLsbD_not, getLsbD_lowMask, BitVec.getLsbD_ofNat,
    testBit_nibbles _ hv, Nat.testBit_div_two_pow, BitVec.testBit_toNat, hk, decide_true, Bool.true_and]
  by_cases h4 : k < 4
  · simp [h4]
  · simp [h4, Nat.sub_add_cancel (Nat.not_lt.mp h4)]

/-- The high nibble of a byte is replaced. -/
theorem blend_high (old : Byte) (v : Nat) :
    blend old (BitVec.ofNat 8 (v * 16)) 0xF0 = BitVec.ofNat 8 (2 ^ 4 * v + old.toNat % 2 ^ 4) := by
  refine BitVec.eq_of_getLsbD_eq fun k hk => ?_
  have hv : v * 16 = 2 ^ 4 * v + 0 := by omega
  simp only [hv, blend, BitVec.getLsbD_or, BitVec.getLsbD_and, BitVec.getLsbD_not, getLsbD_highMask hk, BitVec.getLsbD_ofNat,
    testBit_nibbles v (Nat.two_pow_pos 4), testBit_nibbles v (Nat.mod_lt _ (Nat.two_pow_pos 4)), Nat.testBit_mod_two_pow,
    BitVec.testBit_toNat, hk, decide_true, Bool.true_and]
  by_cases h4 : k < 4 <;> simp [h4]

/-- The byte that a nibble store leaves: the nibble that bit 4 selects is replaced (06 R109). -/
theorem toNat_blend_nibble (old : Byte) (x : Word) : (blend old (nibble x).1 (nibble x).2).toNat =
    if x.toNat / 16 % 2 = 0 then old.toNat / 16 * 16 + x.toNat % 16 else x.toNat % 16 * 16 + old.toNat % 16 := by
  have hold := old.isLt
  have hbit : x.getLsbD 4 = decide (x.toNat / 16 % 2 = 1) := by
    rw [← BitVec.testBit_toNat, Nat.testBit_eq_decide_div_mod_eq]
  rcases Nat.mod_two_eq_zero_or_one (x.toNat / 16) with h | h
  · rw [nibble, hbit, h]
    simp only [Nat.zero_ne_one, decide_false, Bool.false_eq_true, if_false, if_true]
    rw [blend_low old (Nat.mod_lt _ (by decide)), BitVec.toNat_ofNat]
    omega
  · rw [nibble, hbit, h]
    simp only [Nat.one_ne_zero, decide_true, if_false, if_true]
    rw [blend_high, BitVec.toNat_ofNat]
    omega

theorem exec_stNib {s t : State} {rs ra : Reg} {d : BitVec 13}
    (h : s.store (effAddr (s.getW ra) d) [(nibble (s.getW rs)).1] (nibble (s.getW rs)).2 = .ok t) :
    exec (.stNib rs ra d) s = .next t.advance := by
  change settle s (do let t ← s.store (effAddr (s.getW ra) d) [(nibble (s.getW rs)).1] (nibble (s.getW rs)).2; return t.advance) = _
  rw [h]
  rfl

theorem nibbleStore : Says.NibbleStore := by
  intro s rs ra off d hinv he ht p old v
  obtain ⟨t, hs, hwrote⟩ := store_tcm ht Nat.one_pos (by omega) (bs := [(nibble (s.getW rs)).1]) rfl (nibble (s.getW rs)).2
  rw [← he] at hs
  obtain ⟨_, _, _, _, hw, hsec, hdev, hmem⟩ := wrote_advance_frame hwrote
  have hread : ∀ q, Memory.read t.advance.mem q = if p ≤ q ∧ q < p + 1 then
      blend (Memory.read s.mem q) ([(nibble (s.getW rs)).1].getD (q - p) 0) (nibble (s.getW rs)).2 else Memory.read s.mem q := fun q => by
    rw [hmem, read_writeCells hinv]
  refine ⟨t.advance, exec_stNib hs, ?_, sameBytes_of_read hdev hsec fun a ha => (hread a).trans (if_neg ?_), hw⟩
  · rw [hread, if_pos ⟨Nat.le_refl p, Nat.lt_succ_self p⟩, Nat.sub_self, List.getD_cons_zero, toNat_blend_nibble]
  · omega

/-- Settles O17: the checks of a store in their order, and the cells that it writes where own TCM is plain. -/
theorem storeResults : Obligations.StoreResults := ⟨storeOfCheckedBytes, storeToOwnTcm, nibbleStore⟩

end Sys2Proof.Scalar
end

section
/-! PROOFS. Lane-wise integer instructions and permutations (02 R31, 07 R128, R129, R133). -/

namespace Sys2Proof.Vector

open Sys2Proof.Machine
open Sys2Proof.NumberFormats
open Sys2Proof.Says hiding none

/-! ### The lanes of a result under a mask (03 R59) -/

theorem active_iff (s : State) (vm : VReg) (k : Nat) : s.active vm k = true ↔ vm = 0 ∨ (s.getV vm).getLsbD k = true := by
  rw [State.active, Bool.or_eq_true, beq_iff_eq]

/-- An active lane holds the new pattern, an inactive one is kept or all ones. -/
theorem lane_mergeLanes {w k : Nat} (h : k < 512 / w) (old : VWord) (act : Nat → Bool) (ones : Bool) (f : Nat → Nat) :
    lane (mergeLanes w (512 / w) old act ones f) w k =
      if act k then f k % 2 ^ w else if ones then 2 ^ w - 1 else lane old w k := by
  rw [mergeLanes, lane_ofLanes_range h]
  split_ifs
  · rfl
  · exact Nat.mod_eq_of_lt (Nat.sub_one_lt (Nat.two_pow_pos w).ne')
  · exact Nat.mod_eq_of_lt (lane_lt old w k)

/-- The lanes of a result as the statements give them, for patterns that agree modulo 2^w. -/
theorem lane_result {s : State} {vm : VReg} {mp : Fin 2} {w k : Nat} (h : k < 512 / w) (old : VWord) {g : Nat → Nat} {f : Nat → Int}
    (hg : (g k : Int) % 2 ^ w = f k % 2 ^ w) :
    (lane (mergeLanes w (512 / w) old (s.active vm) (mp == 1) g) w k : Int) =
      if vm = 0 ∨ (s.getV vm).getLsbD k then f k % 2 ^ w else if mp = 1 then 2 ^ w - 1 else lane old w k := by
  rw [lane_mergeLanes h]
  simp only [active_iff, beq_iff_eq]
  split_ifs
  · exact_mod_cast hg
  · exact Nat.cast_pred (Nat.two_pow_pos w) |>.trans (by norm_cast)
  · rfl

/-- A lane-wise instruction completes with patterns that agree with the table's values modulo 2^w. -/
theorem completes_lanewise {s : State} {i : Instr} {x : LaneForm} (g : Nat → Nat)
    (he : exec i s = s.lanewise x.vd x.vm x.mp (dtWidth x.dt) g)
    (hg : ∀ k, (g k : Int) % 2 ^ dtWidth x.dt = x.f k % 2 ^ dtWidth x.dt) :
    ∃ t, exec i s = .next t ∧ OnlyVec s t Says.none (· = x.vd) 0 ∧ ∀ k, k < 512 / dtWidth x.dt →
      (lane (t.getV x.vd) (dtWidth x.dt) k : Int) =
        if x.vm = 0 ∨ (s.getV x.vm).getLsbD k then x.f k % 2 ^ dtWidth x.dt
        else if x.mp = 1 then 2 ^ dtWidth x.dt - 1 else lane (s.getV x.vd) (dtWidth x.dt) k := by
  obtain ⟨t, ht, ho, hv⟩ := completes_vretire he
  exact ⟨t, ht, ho, fun k hk => by rw [hv, lane_result hk _ (hg k)]⟩

/-! ### Patterns of a type (02 R31) -/

theorem signedLow_emod (x w : Nat) : signedLow x w % 2 ^ w = (x : Int) % 2 ^ w := by
  unfold signedLow
  split
  · push_cast
    rw [Int.sub_emod_right, Int.emod_emod]
  · push_cast
    exact Int.emod_emod _ _

theorem laneVal_emod (dt x : Nat) : laneVal dt x % 2 ^ dtWidth dt = (x : Int) % 2 ^ dtWidth dt := by
  unfold laneVal
  split
  · exact signedLow_emod x _
  · rfl

theorem wrapInt_emod (w : Nat) (x : Int) : (wrapInt w x : Int) % 2 ^ w = x % 2 ^ w := by
  rw [wrapInt, Int.toNat_of_nonneg (Int.emod_nonneg x (by positivity)), Int.emod_emod]

/-- A pattern cut to w bits agrees with the whole. -/
theorem mod_emod (x w : Nat) : ((x % 2 ^ w : Nat) : Int) % 2 ^ w = (x : Int) % 2 ^ w := by exact_mod_cast Nat.mod_mod x (2 ^ w)

theorem natAbs_emod (x : Int) (w : Nat) : ((x.natAbs % 2 ^ w : Nat) : Int) % 2 ^ w = |x| % 2 ^ w := by
  rw [mod_emod, Int.natCast_natAbs]

/-- The range of an integer type clamps as the table says. -/
theorem clampInt_eq (dt : Nat) (x : Int) : clampInt (rangeOf (dtSigned dt) (dtWidth dt)) x = clampTo dt x := by
  have hp : (0 : Int) < 2 ^ (dtWidth dt - 1) := by positivity
  have hq : (0 : Int) < 2 ^ dtWidth dt := by positivity
  unfold clampInt clampTo rangeOf dtSigned
  by_cases hd : dt < 4
  · simp only [hd, decide_true, if_true]
    generalize (2 : Int) ^ (dtWidth dt - 1) = n at *
    split_ifs <;> omega
  · simp only [hd, decide_false, Bool.false_eq_true, if_false]
    generalize (2 : Int) ^ dtWidth dt = n at *
    split_ifs <;> omega

/-- The chosen pattern of two is that of the smaller value. -/
theorem choose_min {dt a b : Nat} : ((if laneVal dt b < laneVal dt a then b else a : Nat) : Int) % 2 ^ dtWidth dt =
    min (laneVal dt a) (laneVal dt b) % 2 ^ dtWidth dt := by
  split
  · next h => rw [min_eq_right h.le, laneVal_emod]
  · next h => rw [min_eq_left (not_lt.mp h), laneVal_emod]

/-- The chosen pattern of two is that of the larger value. -/
theorem choose_max {dt a b : Nat} : ((if laneVal dt a < laneVal dt b then b else a : Nat) : Int) % 2 ^ dtWidth dt =
    max (laneVal dt a) (laneVal dt b) % 2 ^ dtWidth dt := by
  split
  · next h => rw [max_eq_right h.le, laneVal_emod]
  · next h => rw [max_eq_left (not_lt.mp h), laneVal_emod]

theorem lane_zero (v : VWord) : lane v 64 0 = v.toNat % 2 ^ 64 := by rw [lane, Nat.mul_zero, Nat.pow_zero, Nat.div_one]

/-! ### The integer lane instructions and permutations (07 R129, R133, R139) -/

/-- A lane read as an integer of its type. -/
theorem laneInt_lane (dt : Nat) (v : VWord) (k : Nat) :
    laneInt (dtSigned dt) (dtWidth dt) (lane v (dtWidth dt) k) = laneVal dt (lane v (dtWidth dt) k) :=
  laneInt_eq_laneVal dt (lane_lt v _ k)

theorem laneInt_true_lane (dt : Nat) (v : VWord) (k : Nat) :
    laneInt true (dtWidth dt) (lane v (dtWidth dt) k) = signedLow (lane v (dtWidth dt) k) (dtWidth dt) :=
  laneInt_true (dtWidth_pos dt) (lane_lt v _ k)

theorem integerLaneResults : Says.IntegerLaneResults := by
  intro s i x h
  cases i with
  | vadd | vsub | vmul | vmulh => cases h; exact completes_lanewise _ rfl fun k => by simp only [laneInt_lane, wrapInt_emod]
  | vsadd | vssub => cases h; exact completes_lanewise _ rfl fun k => by simp only [laneInt_lane, wrapInt_emod, clampInt_eq]
  | vmin => cases h; exact completes_lanewise _ rfl fun k => by simp only [laneInt_lane, choose_min]
  | vmax => cases h; exact completes_lanewise _ rfl fun k => by simp only [laneInt_lane, choose_max]
  | vsra => cases h; exact completes_lanewise _ rfl fun k => by simp only [laneInt_true_lane, wrapInt_emod]
  | vabs => cases h; exact completes_lanewise _ rfl fun k => by simp only [laneInt_true_lane, natAbs_emod]
  | vsll => cases h; exact completes_lanewise _ rfl fun k => mod_emod _ _
  | vslup | vsldn => cases h; exact completes_lanewise _ rfl fun k => by simp only [lane_zero]
  | viota => cases h; exact completes_lanewise _ rfl fun k => by simp only [maskCount_eq]
  | vand | vor | vxor | vsrl | vperm | vzip | vunzip | vsplat => cases h; exact completes_lanewise _ rfl fun _ => rfl
  | _ => cases h

end Sys2Proof.Vector
end

section
/-! PROOFS. Lane-wise floating-point instructions (02 R34, R35, 07 R130, R131). -/

namespace Sys2Proof.Vector

open Sys2Proof.Machine
open Sys2Proof.NumberFormats
open Sys2Proof.Says hiding none

/-- A result with flags completes: the flags within the frame's mask are raised and the register is written, however long the unit
is occupied. -/
theorem completes_raise_vretire {s : State} {i : Instr} {vd : VReg} {v : VWord} {fl : Flags} {mask : Word} {bound : Nat}
    (he : exec i s = .next ((s.raise fl).vretire vd v bound)) (hm : fl.word &&& ~~~mask = 0) :
    ∃ t, exec i s = .next t ∧ OnlyVec s t Says.none (· = vd) mask ∧ t.cx.ws.cflags = s.cx.ws.cflags ||| fl.word ∧ t.getV vd = v :=
  ⟨_, he, onlyVec_trans (onlyVec_raise s hm) (onlyVec_vretire (v := (· = vd)) _ rfl v bound), by rw [cflags_vretire, cflags_raise],
    by rw [getV_vretire, if_pos rfl]⟩

/-- A floating-point lane instruction completes where the patterns and flags of its lanes are the table's. -/
theorem completes_lanewiseF {s : State} {i : Instr} {x : LaneForm} {bound : Nat} (g : Nat → Nat × Flags)
    (he : exec i s = s.lanewiseF x.vd x.vm x.mp x.dt bound g) (hf : x.f = fun k => ((g k).1 : Int)) (hl : x.flags = fun k => (g k).2) :
    ∃ t, exec i s = .next t ∧ OnlyVec s t Says.none (· = x.vd) 0x1F0 ∧
      t.cx.ws.cflags = s.cx.ws.cflags ||| (unionFlags (dtLanes x.dt) (s.active x.vm) x.flags).word ∧ ∀ k, k < 512 / dtWidth x.dt →
      (lane (t.getV x.vd) (dtWidth x.dt) k : Int) =
        if x.vm = 0 ∨ (s.getV x.vm).getLsbD k then x.f k % 2 ^ dtWidth x.dt
        else if x.mp = 1 then 2 ^ dtWidth x.dt - 1 else lane (s.getV x.vd) (dtWidth x.dt) k := by
  obtain ⟨t, ht, ho, hc, hv⟩ := completes_raise_vretire he (flags_word_mask _)
  exact ⟨t, ht, ho, by rw [hc, hl], fun k hk => by rw [hv, dtLanes, lane_result (f := x.f) hk _ (by rw [hf])]⟩

/-- Inverting a bit adds or takes its weight. -/
theorem xor_two_pow (a n : Nat) : a ^^^ 2 ^ n = if a / 2 ^ n % 2 = 1 then a - 2 ^ n else a + 2 ^ n := by
  have hlow : (a ^^^ 2 ^ n) % 2 ^ n = a % 2 ^ n := by rw [Nat.xor_mod_two_pow, Nat.mod_self, Nat.xor_zero]
  have hhigh : (a ^^^ 2 ^ n) / 2 ^ n = a / 2 ^ n ^^^ 1 := by
    rw [← Nat.shiftRight_eq_div_pow, Nat.shiftRight_xor_distrib, Nat.shiftRight_eq_div_pow, Nat.shiftRight_eq_div_pow,
      Nat.div_self (Nat.two_pow_pos n)]
  have hx := Nat.div_add_mod (a ^^^ 2 ^ n) (2 ^ n)
  have ha := Nat.div_add_mod a (2 ^ n)
  rw [hlow, hhigh] at hx
  split
  · next h =>
    obtain ⟨q, hq⟩ : ∃ q, a / 2 ^ n = 2 * q + 1 := ⟨a / 2 ^ n / 2, by omega⟩
    rw [hq, Nat.xor_one_of_odd ⟨q, rfl⟩, Nat.add_sub_cancel] at hx
    rw [hq, Nat.mul_succ] at ha
    omega
  · next h =>
    obtain ⟨q, hq⟩ : ∃ q, a / 2 ^ n = 2 * q := ⟨a / 2 ^ n / 2, by omega⟩
    rw [hq, Nat.xor_one_of_even ⟨q, by omega⟩, Nat.mul_succ] at hx
    rw [hq] at ha
    omega

theorem floatLaneResults : Says.FloatLaneResults := by
  intro s i x h
  cases i with
  | vfadd | vfsub | vfmul | vfma | vfms | vfnma | vfdiv | vfsqrt | vfmin | vfmax | vfabs | vfclass =>
    cases h; exact completes_lanewiseF _ rfl rfl rfl
  | vfneg =>
    cases h
    refine completes_lanewiseF _ rfl (funext fun k => ?_) rfl
    dsimp only
    rw [Fmt.sign, xor_two_pow]
  | _ => cases h

/-- Settles O32: each lane retires a pattern that is the table's value modulo 2^w, and the float lanes raise the union of their
flags. -/
theorem laneResults : Obligations.LaneResults := ⟨integerLaneResults, floatLaneResults⟩

end Sys2Proof.Vector
end

section
/-! PROOFS. Comparisons into masks (02 R35, 07 R132). -/

namespace Sys2Proof.Vector

open Sys2Proof.Machine
open Sys2Proof.NumberFormats
open Sys2Proof.Says hiding none

/-! ### Masks (03 R59, 07 R132) -/

theorem getLsbD_eq_lane (v : VWord) (k : Nat) : v.getLsbD k = decide (lane v 1 k = 1) := by
  rw [← BitVec.testBit_toNat, Nat.testBit_eq_decide_div_mod_eq, lane, Nat.one_mul, Nat.pow_one]

/-- The bits of a register made of l bits. -/
theorem getLsbD_ofLanes_range {l : Nat} (hl : l ≤ 512) (b : Nat → Bool) (k : Nat) :
    (ofLanes 1 ((List.range l).map fun i => if b i then 1 else 0)).getLsbD k = (decide (k < l) && b k) := by
  rcases Nat.lt_or_ge k 512 with hk | hk
  · rw [getLsbD_eq_lane, lane_ofLanes (by simpa using hk), List.getD_eq_getElem?_getD, List.getElem?_map]
    rcases Nat.lt_or_ge k l with h | h
    · rw [List.getElem?_range h, decide_eq_true h]
      cases h : b k <;> simp [h]
    · rw [List.getElem?_eq_none (by simpa using h), decide_eq_false (Nat.not_lt.mpr h)]
      simp
  · rw [BitVec.getLsbD_of_ge _ _ hk, decide_eq_false (by omega), Bool.false_and]

/-- The bits of a mask result as the statements give them. -/
theorem getLsbD_maskResult {s : State} {vm : VReg} {mp : Fin 2} (dt : Nat) (old : VWord) (c : Nat → Bool) (k : Nat) :
    (maskResult (dtLanes dt) old (s.active vm) (mp == 1) c).getLsbD k = (decide (k < dtLanes dt) &&
      if vm = 0 ∨ (s.getV vm).getLsbD k then c k else mp == 1 || old.getLsbD k) := by
  rw [maskResult, getLsbD_ofLanes_range ((dtLanes_le dt).trans (by decide))]
  simp only [active_iff]

/-! ### The invalid flag of the active lanes (02 R35) -/

/-- Only NV is raised where the lanes ask for no other flag. -/
theorem unionFlags_nv (n : Nat) (act : Nat → Bool) (nv : Nat → Bool) :
    unionFlags n act (fun k => { nv := nv k }) = { nv := (List.range n).any fun k => act k && nv k } := by
  induction n with
  | zero => rfl
  | succ n ih =>
    have hstep : unionFlags (n + 1) act (fun k => { nv := nv k }) =
        if act n then (unionFlags n act fun k => { nv := nv k }).or { nv := nv n } else unionFlags n act fun k => { nv := nv k } := by
      rw [unionFlags, List.range_succ, List.foldl_append]
      rfl
    rw [hstep, ih, List.range_succ, List.any_append]
    cases h : act n <;> simp [Flags.or, h]

theorem word_nv_mask (b : Bool) : ({ nv := b } : Flags).word &&& ~~~(0x10 : Word) = 0 := by cases b <;> decide

theorem word_nv_bit (b : Bool) : ({ nv := b } : Flags).word.getLsbD 4 = b := by cases b <;> decide

/-! ### Comparisons (07 R132) -/

section
variable {s : State} {i : Instr} {vd vm : VReg} {mp : Fin 2} {dt : Nat} {c nv : Nat → Bool}

/-- A mask that is retired with NV for the lanes that ask for it. -/
theorem completes_mask_nv (he : exec i s = .next ((s.raise (unionFlags (dtLanes dt) (s.active vm) fun k => { nv := nv k })).vretire vd
      (maskResult (dtLanes dt) (s.getV vd) (s.active vm) (mp == 1) c))) :
    ∃ t, exec i s = .next t ∧ OnlyVec s t Says.none (· = vd) 0x10 ∧
      (∀ k, (t.getV vd).getLsbD k = (decide (k < dtLanes dt) &&
        if vm = 0 ∨ (s.getV vm).getLsbD k then c k else mp == 1 || (s.getV vd).getLsbD k)) ∧
      t.cx.ws.cflags.getLsbD 4 = (s.cx.ws.cflags.getLsbD 4 ||
        (List.range (dtLanes dt)).any fun k => (vm == 0 || (s.getV vm).getLsbD k) && nv k) := by
  rw [unionFlags_nv] at he
  obtain ⟨t, ht, ho, hc, hv⟩ := completes_raise_vretire he (word_nv_mask _)
  refine ⟨t, ht, ho, fun k => by rw [hv, getLsbD_maskResult], ?_⟩
  rw [hc, BitVec.getLsbD_or, word_nv_bit]
  rfl

/-- A mask that is retired without a flag. -/
theorem completes_mask (he : exec i s = .next (s.vretire vd (maskResult (dtLanes dt) (s.getV vd) (s.active vm) (mp == 1) c))) :
    ∃ t, exec i s = .next t ∧ OnlyVec s t Says.none (· = vd) 0x10 ∧
      (∀ k, (t.getV vd).getLsbD k = (decide (k < dtLanes dt) &&
        if vm = 0 ∨ (s.getV vm).getLsbD k then c k else mp == 1 || (s.getV vd).getLsbD k)) ∧
      t.cx.ws.cflags.getLsbD 4 = (s.cx.ws.cflags.getLsbD 4 ||
        (List.range (dtLanes dt)).any fun k => (vm == 0 || (s.getV vm).getLsbD k) && false) := by
  refine ⟨_, he, onlyVec_vretire (v := (· = vd)) s rfl _ 1, fun k => ?_, ?_⟩
  · rw [getV_vretire, if_pos rfl, getLsbD_maskResult]
  · simp

end

/-- An integer comparison reads its lanes as integers of its type. -/
theorem vcmp_eq (s : State) (vd va vb vm : VReg) (mp : Fin 2) (dt : Fin 16) (c : Int → Int → Bool) :
    s.vcmp vd va vb vm mp dt c = .next (s.vretire vd (maskResult (dtLanes dt) (s.getV vd) (s.active vm) (mp == 1) fun k =>
      c (laneVal dt (lane (s.getV va) (dtWidth dt) k)) (laneVal dt (lane (s.getV vb) (dtWidth dt) k)))) := by
  simp only [State.vcmp, laneInt_lane]

/-- Settles O34: a comparison's mask is made of its lanes' bits, and the union of its lanes' flags is NV alone. -/
theorem compareResults : Obligations.CompareResults := by
  intro s i vd vm mp dt c nv h
  cases i with
  | vceq vd va vb vm mp dt => cases h; exact completes_mask (vcmp_eq s vd va vb vm mp dt fun a b => a == b)
  | vcne vd va vb vm mp dt =>
    cases h
    have hne : (fun a b : Int => decide (a ≠ b)) = fun a b => a != b := by funext a b; exact decide_not
    exact completes_mask ((congrArg (s.vcmp vd va vb vm mp dt) hne).trans (vcmp_eq s vd va vb vm mp dt _))
  | vclt vd va vb vm mp dt | vcltn vd va vb vm mp dt => cases h; exact completes_mask (vcmp_eq s vd va vb vm mp dt fun a b => a < b)
  | vcle vd va vb vm mp dt | vclen vd va vb vm mp dt => cases h; exact completes_mask (vcmp_eq s vd va vb vm mp dt fun a b => a ≤ b)
  | vfceq | vfclt | vfcle | vfcun => cases h; exact completes_mask_nv rfl
  | _ => cases h

end Sys2Proof.Vector
end

section
/-! PROOFS. Reads of several parts at plain bytes of own TCM, and the values of lanes in memory (07 R135, R136, 14 R257, R258). -/

namespace Sys2Proof.Vector

open Sys2Proof.Machine
open Sys2Proof.NumberFormats
open Sys2Proof.Scalar
open Sys2Proof.Says hiding none

/-! ### Values of neighbouring bytes -/

theorem ofBytes_append (l m : List Byte) : ofBytes (l ++ m) = ofBytes l + 256 ^ l.length * ofBytes m := by
  induction l with
  | nil => simp [ofBytes]
  | cons b l ih =>
    rw [List.cons_append, ofBytes, ofBytes, ih, List.length_cons, Nat.pow_succ]
    ring

theorem ofBytes_lt (l : List Byte) : ofBytes l < 256 ^ l.length := by
  induction l with
  | nil => exact Nat.one_pos
  | cons b l ih =>
    have hb := b.isLt
    rw [ofBytes, List.length_cons, Nat.pow_succ]
    omega

theorem tcmValue_lt (s : State) (off n : Nat) : tcmValue s off n < 256 ^ n := by
  have h := ofBytes_lt ((List.range n).map fun j => Memory.read s.mem (tcmPlace s.cur.core (off + j)))
  rwa [List.length_map, List.length_range] at h

theorem tcmValue_add (s : State) (off a b : Nat) : tcmValue s off (a + b) = tcmValue s off a + 256 ^ a * tcmValue s (off + a) b := by
  simp only [tcmValue, List.range_add, List.map_append, ofBytes_append, List.length_map, List.length_range, List.map_map,
    Function.comp_def, Nat.add_assoc]

/-- Some bytes of a longer value. -/
theorem tcmValue_slice (s : State) (off : Nat) {a b n : Nat} (h : a + b ≤ n) :
    tcmValue s off n / 256 ^ a % 256 ^ b = tcmValue s (off + a) b := by
  obtain ⟨c, rfl⟩ := Nat.exists_eq_add_of_le h
  rw [Nat.add_assoc, tcmValue_add, Nat.add_mul_div_left _ _ (Nat.pow_pos (by decide)), Nat.div_eq_of_lt (tcmValue_lt s off a),
    Nat.zero_add, tcmValue_add, Nat.add_mul_mod_self_left, Nat.mod_eq_of_lt (tcmValue_lt s _ b)]

/-! ### Elements of a vector access (03 R57, 07 R135) -/

/-- An element width in bytes that a vector access may have, as a divisor of the register's 64 bytes. -/
theorem dtWidth_bytes (dt : Fin 8) : dtWidth dt / 8 ∈ [1, 2, 4, 8] ∧ dtWidth dt = 8 * (dtWidth dt / 8) ∧
    512 / dtWidth dt * (dtWidth dt / 8) = 64 := by
  revert dt
  decide

theorem dtWidth_bytes_pos (dt : Fin 8) : 0 < dtWidth dt / 8 := by
  revert dt
  decide

/-- The last byte of a lane lies among the register's 64. -/
theorem lane_end_le {l n k : Nat} (h : l * n = 64) (hk : k < l) : k * n + n ≤ 64 := by
  rw [← h, ← Nat.succ_mul]
  exact Nat.mul_le_mul_right n hk

/-- The bytes at an address of own TCM as memory holds them. -/
def bytesAt (s : State) (a : Word) (n : Nat) : List Byte := (List.range n).map fun i => Memory.read s.mem (placeAt s a + i)

theorem ofBytes_bytesAt (s : State) (a : Word) (n : Nat) : ofBytes (bytesAt s a n) = valueAt s a n := by
  simp only [bytesAt, placeAt, valueAt, tcmValue, tcmPlace_add]

section
variable {s : State} {a : Word} (hlo : 0x8000000000000000 ≤ a.toNat) (hhi : a.toNat < 0x8000000000080000)
include hlo hhi

/-- A read of own TCM counts at no slice. -/
theorem countAt_own : s.countAt a = s := by
  have h := countAt_tcm s (off := a.toNat - 0x8000000000000000) (by omega)
  rwa [Nat.add_sub_cancel' hlo, BitVec.ofNat_toNat, BitVec.setWidth_eq] at h

/-- Own TCM does not meet the Lantern queue window (09 R166). -/
theorem not_queue_own : inQueueWindow a = false := by
  rw [inQueueWindow, Bool.and_eq_false_iff]
  exact .inl (decide_eq_false (by omega))

theorem noQueue_own (k : Kind) : noQueue a k = .ok () := by
  rw [noQueue, not_queue_own hlo hhi]
  rfl

end

/-- The run of an access to own TCM. -/
def runAt (s : State) (a : Word) (n : Nat) : Run := tcmRun s.cur.core (a.toNat - 0x8000000000000000) n

theorem plainRun_runAt {s : State} {a : Word} {n : Nat} (h : PlainAt s a n) : PlainRun s (runAt s a n) := plainRun_tcmRun h.2

/-- Whole bytes of own TCM that hold plain memory and lie in an aligned 64-byte block: one part of an access. -/
def PlainPart (s : State) (a : Word) (n : Nat) : Prop := 0 < n ∧ a.toNat % 64 + n ≤ 64 ∧ PlainAt s a n

theorem PlainPart.bounds {s : State} {a : Word} {n : Nat} (h : PlainPart s a n) :
    0x8000000000000000 ≤ a.toNat ∧ a.toNat < 0x8000000000080000 := by
  obtain ⟨h0, _, hle, hend, _⟩ := h
  omega

/-- A naturally aligned element is one part. -/
theorem plainPart_of_aligned {s : State} {a : Word} {n : Nat} (hn : n ∈ [1, 2, 4, 8]) (ha : a.toNat % n = 0) (h : PlainAt s a n) :
    PlainPart s a n := by
  obtain ⟨h0, hb⟩ := block_of_aligned hn ha
  exact ⟨h0, hb, h⟩

/-- A part is one run that passes its checks. -/
theorem PlainPart.resolvePieces {s : State} {who : Who} (ho : who.own = true) (hg : who.core = s.cur.core) {a : Word} {n : Nat}
    (h : PlainPart s a n) (need : Need) (cover : List (Nat × Nat)) :
    s.resolvePieces who need cover (pieces n a.toNat n) = .ok ([runAt s a n], []) := by
  obtain ⟨h0, hn, hle, hp⟩ := h
  have hr := resolvePieces_tcm ho hg hp h0 (by omega) need cover
  rwa [Nat.add_sub_cancel' hle] at hr

/-! ### Reads of several parts (07 R136) -/

theorem resolveReads_plain {s : State} {who : Who} (ho : who.own = true) (hg : who.core = s.cur.core) {ps : List (Word × Nat)}
    (h : ∀ p ∈ ps, PlainPart s p.1 p.2) : s.resolveReads who ps = .ok (ps.map fun p => [runAt s p.1 p.2], []) := by
  induction ps with
  | nil => rfl
  | cons p ps ih =>
    have hp := h p List.mem_cons_self
    obtain ⟨hlo, hhi⟩ := hp.bounds
    rw [State.resolveReads, noQueue_own hlo hhi, State.resolve, hp.resolvePieces ho hg, ih fun q hq => h q (List.mem_cons_of_mem p hq)]
    rfl

theorem linkCheck_own {s : State} (k : Kind) {rs : List Run} (h : ∀ r ∈ rs, PlainRun s r) : s.linkCheck k rs = .ok () := by
  have hown : (rs.find? fun r => !r.isOwn s.cur.core) = none := by
    rw [List.find?_eq_none]
    intro r hr
    rw [Run.isOwn, (h r hr).1]
    simp
  unfold State.linkCheck
  rw [hown]
  split
  · next e => cases e
  · rfl

theorem sliceReads_own {s : State} (b : Bool) {rs : List Run} (h : ∀ r ∈ rs, PlainRun s r) : s.sliceReads b rs = .ok s := by
  induction rs with
  | nil => rfl
  | cons r rs ih =>
    have hone : s.sliceRead b r = .ok (b, s) := by
      rw [State.sliceRead, Run.cachedLine, (h r List.mem_cons_self).1]
    rw [State.sliceReads, hone]
    exact ih fun q hq => h q (List.mem_cons_of_mem r hq)

theorem stallOn_own {s : State} {rs : List Run} (h : ∀ r ∈ rs, PlainRun s r) : s.stallOn rs = s := by
  refine if_pos (List.all_eq_true.mpr fun r hr => ?_)
  rw [Run.isOwn, (h r hr).1, beq_self_eq_true]

/-- A load of several plain parts of own TCM gives what memory holds there, and changes nothing. -/
theorem loadParts_plain {s : State} {ps : List (Word × Nat)} (h : ∀ p ∈ ps, PlainPart s p.1 p.2) :
    s.loadParts ps = .ok (ps.map fun p => bytesAt s p.1 p.2, s) := by
  obtain ⟨who, hwho⟩ : ∃ who : Who, who = { s.whoOwn s.cur.core with acq := none } := ⟨_, rfl⟩
  have ho : who.own = true := by rw [hwho]; rfl
  have hg : who.core = s.cur.core := by rw [hwho]; rfl
  have hruns : ∀ r ∈ (ps.map fun p => [runAt s p.1 p.2]).flatten, PlainRun s r := fun r hr => by
    obtain ⟨l, hl, hr⟩ := List.mem_flatten.mp hr
    obtain ⟨p, hp, rfl⟩ := List.mem_map.mp hl
    obtain ⟨_, _, hplain⟩ := h p hp
    rw [List.mem_singleton.mp hr]
    exact plainRun_runAt hplain
  have hbytes : ∀ p ∈ ps, [runAt s p.1 p.2].flatMap (s.readRun who) = bytesAt s p.1 p.2 := fun p hp => by
    obtain ⟨_, _, hplain⟩ := h p hp
    rw [List.flatMap_singleton, readRun_plain who (plainRun_runAt hplain)]
    rfl
  simp only [State.loadParts, ← hwho, resolveReads_plain ho hg h, bind, Except.bind, linkCheck_own _ hruns, sliceReads_own _ hruns,
    beforeRead_plain hg hruns, List.map_map]
  exact congrArg Except.ok (Prod.ext (List.map_congr_left hbytes) (stallOn_own hruns))

end Sys2Proof.Vector
end

section
/-! PROOFS. Vector loads from plain bytes of own TCM (07 R135, R136). -/

namespace Sys2Proof.Vector

open Sys2Proof.Machine
open Sys2Proof.NumberFormats
open Sys2Proof.Scalar
open Sys2Proof.Says hiding none

/-! ### The lanes of an access (03 R59) -/

theorem mem_activeLanes {s : State} {vm : VReg} {l k : Nat} : k ∈ s.activeLanes vm l ↔ k < l ∧ s.active vm k = true := by
  rw [State.activeLanes, List.mem_filter, List.mem_range]

theorem activeLanes_unmasked (s : State) (l : Nat) : s.activeLanes 0 l = List.range l :=
  List.filter_eq_self.mpr fun _ _ => (active_iff s 0 _).mpr (.inl rfl)

/-- Where no lane is active, none is. -/
theorem inactive_of_isEmpty {s : State} {vm : VReg} {l : Nat} (h : (s.activeLanes vm l).isEmpty = true) {k : Nat} (hk : k < l) :
    s.active vm k ≠ true := fun ha => by
  have hmem := mem_activeLanes.mpr ⟨hk, ha⟩
  rw [List.isEmpty_iff.mp h] at hmem
  cases hmem

/-- Where some lane is active, one is. -/
theorem active_of_not_isEmpty {s : State} {vm : VReg} {l : Nat} (h : ¬ (s.activeLanes vm l).isEmpty = true) :
    ∃ k, k < l ∧ s.active vm k = true := by
  obtain ⟨k, hk⟩ := List.exists_mem_of_ne_nil _ (mt List.isEmpty_iff.mpr h)
  exact ⟨k, mem_activeLanes.mp hk⟩

/-- An active lane's element among the elements that were read. -/
theorem partOf_map {ls : List Nat} (g : Nat → List Byte) {k : Nat} (h : k ∈ ls) : partOf ls (ls.map g) k = ofBytes (g k) := by
  have hzip : ls.zip (ls.map g) = ls.map fun x => (x, g x) := by simpa using List.zip_map' (f := id) (g := g) (l := ls)
  have hfind : ls.find? (fun x => x == k) = some k := by
    cases hf : ls.find? (fun x => x == k) with
    | none => exact absurd (beq_self_eq_true k) (List.find?_eq_none.mp hf k h)
    | some x => rw [beq_iff_eq.mp (List.find?_some (p := fun x => x == k) hf)]
  rw [partOf, hzip, List.find?_map]
  exact congrArg (fun o => (o.map fun x => (x, g x)).elim 0 fun x => ofBytes x.2) hfind

/-! ### Contiguous elements (07 R135) -/

/-- The address of a lane's element in an aligned 64-byte block. -/
theorem toNat_block_add {ea : Word} {j : Nat} (ha : ea.toNat % 64 = 0) (hj : j < 64) : (ea + BitVec.ofNat 64 j).toNat = ea.toNat + j := by
  have := ea.isLt
  rw [BitVec.toNat_add, BitVec.toNat_ofNat]
  omega

section
variable {s : State} {ea : Word} {l n : Nat} (ha : ea.toNat % 64 = 0) (h0 : 0 < n) (hl : l * n = 64)
include ha h0 hl

theorem toNat_element {k : Nat} (hk : k < l) : (ea + BitVec.ofNat 64 (k * n)).toNat = ea.toNat + k * n :=
  toNat_block_add ha (Nat.lt_of_lt_of_le (Nat.lt_add_of_pos_right h0) (lane_end_le hl hk))

/-- The block of a plain element lies in own TCM. -/
theorem block_of_element {k : Nat} (hk : k < l) (hp : PlainAt s (ea + BitVec.ofNat 64 (k * n)) n) :
    0x8000000000000000 ≤ ea.toNat ∧ ea.toNat < 0x8000000000080000 := by
  have hfit := lane_end_le hl hk
  obtain ⟨hle, hend, _⟩ := hp
  rw [toNat_element ha h0 hl hk] at hle hend
  omega

/-- A block is plain where all its elements are. -/
theorem plainAt_block (hp : ∀ k, k < l → PlainAt s (ea + BitVec.ofNat 64 (k * n)) n) : PlainAt s ea 64 := by
  have hpos : 0 < l := Nat.pos_of_ne_zero fun e => by simp [e] at hl
  obtain ⟨hlo, hhi⟩ := block_of_element ha h0 hl hpos (hp 0 hpos)
  refine ⟨hlo, by omega, fun i hi => ?_⟩
  have hk : i / n < l := Nat.div_lt_of_lt_mul (by rwa [Nat.mul_comm, hl])
  obtain ⟨_, _, hbytes⟩ := hp _ hk
  have hbyte := hbytes (i % n) (Nat.mod_lt i h0)
  have hi' := Nat.div_add_mod' i n
  rw [toNat_element ha h0 hl hk] at hbyte
  rwa [show ea.toNat + i / n * n - 0x8000000000000000 + i % n = ea.toNat - 0x8000000000000000 + i by omega] at hbyte

/-- An element is its share of the block's value. -/
theorem valueAt_element (hlo : 0x8000000000000000 ≤ ea.toNat) {k : Nat} (hk : k < l) :
    valueAt s (ea + BitVec.ofNat 64 (k * n)) n = valueAt s ea 64 / 256 ^ (k * n) % 256 ^ n := by
  rw [valueAt, valueAt, tcmValue_slice s _ (lane_end_le hl hk), toNat_element ha h0 hl hk, Nat.sub_add_comm hlo]

theorem placeAt_element (hlo : 0x8000000000000000 ≤ ea.toNat) {k : Nat} (hk : k < l) :
    placeAt s (ea + BitVec.ofNat 64 (k * n)) = placeAt s ea + k * n := by
  rw [placeAt, placeAt, toNat_element ha h0 hl hk, Nat.sub_add_comm hlo, tcmPlace_add]

end

/-! ### Vector loads (07 R135, R136) -/

/-- A vector load completes: it retires a register whose active lanes hold the elements in memory. -/
def Loads (s : State) (i : Instr) (vd vm : VReg) (mp : Fin 2) (w : Nat) (ea : Nat → Word) : Prop :=
  ∃ f bound, exec i s = .next (s.loadLanes vd vm mp w f bound) ∧
    ∀ k, k < 512 / w → s.active vm k = true → f k % 2 ^ w = valueAt s (ea k) (w / 8)

section
variable {s : State} {i : Instr} {vd vm : VReg} {mp : Fin 2} {w : Nat} {ea : Nat → Word}

/-- A load without an active lane reads nothing. -/
theorem loads_nothing (hnone : (s.activeLanes vm (512 / w)).isEmpty = true)
    (he : exec i s = .next (s.loadLanes vd vm mp w (fun _ => 0) 1)) : Loads s i vd vm mp w ea :=
  ⟨_, _, he, fun _ hk hact => absurd hact (inactive_of_isEmpty hnone hk)⟩

theorem Loads.result (h : Loads s i vd vm mp w ea) :
    ∃ t, exec i s = .next t ∧ OnlyVec s t Says.none (· = vd) 0 ∧ ∀ k, k < 512 / w → lane (t.getV vd) w k =
      if vm = 0 ∨ (s.getV vm).getLsbD k then valueAt s (ea k) (w / 8) else if mp = 1 then 2 ^ w - 1 else lane (s.getV vd) w k := by
  obtain ⟨f, bound, he, hf⟩ := h
  refine ⟨_, he, onlyVec_vretire (v := (· = vd)) s rfl _ bound, fun k hk => ?_⟩
  rw [State.loadLanes, getV_vretire, if_pos rfl, lane_mergeLanes hk]
  simp only [beq_iff_eq, ← active_iff]
  split
  · next ha => exact hf k hk ha
  · rfl

end

theorem two_pow_width {w : Nat} (hw : w = 8 * (w / 8)) : 2 ^ w = 256 ^ (w / 8) := by
  conv_lhs => rw [hw]
  rw [Nat.pow_mul]

theorem valueAt_mod {w : Nat} (hw : w = 8 * (w / 8)) (s : State) (a : Word) : valueAt s a (w / 8) % 2 ^ w = valueAt s a (w / 8) := by
  rw [two_pow_width hw]
  exact Nat.mod_eq_of_lt (tcmValue_lt s _ _)

/-- The elements that were read, as the lanes of the register. -/
theorem partOf_active {s : State} {vm : VReg} {w : Nat} {ea : Nat → Word} (hw : w = 8 * (w / 8)) {k : Nat} (hk : k < 512 / w)
    (hact : s.active vm k = true) :
    partOf (s.activeLanes vm (512 / w)) ((s.activeLanes vm (512 / w)).map fun k => bytesAt s (ea k) (w / 8)) k % 2 ^ w =
      valueAt s (ea k) (w / 8) := by
  rw [partOf_map _ (mem_activeLanes.mpr ⟨hk, hact⟩), ofBytes_bytesAt, valueAt_mod hw]

/-- The element of each active lane is a part at plain bytes of own TCM, naturally aligned. -/
def PlainLanes (s : State) (vm : VReg) (l n : Nat) (ea : Nat → Word) : Prop :=
  ∀ k, k < l → s.active vm k = true → aligned (ea k) n = true ∧ PlainPart s (ea k) n

section
variable {s : State} {vm : VReg} {l n : Nat} {ea : Nat → Word} (h : PlainLanes s vm l n ea)
include h

/-- The elements of the active lanes are read as memory holds them. -/
theorem PlainLanes.loadParts : s.loadParts ((s.activeLanes vm l).map fun k => (ea k, n)) =
    .ok ((s.activeLanes vm l).map fun k => bytesAt s (ea k) n, s) := by
  rw [loadParts_plain, List.map_map]
  · rfl
  · intro p hp
    obtain ⟨k, hk, rfl⟩ := List.mem_map.mp hp
    obtain ⟨hlt, hact⟩ := mem_activeLanes.mp hk
    exact (h k hlt hact).2

theorem PlainLanes.firstMisaligned : firstMisaligned n ((s.activeLanes vm l).map ea) = none := by
  refine List.find?_eq_none.mpr fun a ha => ?_
  obtain ⟨k, hk, rfl⟩ := List.mem_map.mp ha
  obtain ⟨hlt, hact⟩ := mem_activeLanes.mp hk
  rw [(h k hlt hact).1]
  decide

theorem PlainLanes.countEach : s.countEach ((s.activeLanes vm l).map ea) = s := by
  refine foldl_eq_self _ fun a ha => ?_
  obtain ⟨k, hk, rfl⟩ := List.mem_map.mp ha
  obtain ⟨hlt, hact⟩ := mem_activeLanes.mp hk
  obtain ⟨hlo, hhi⟩ := (h k hlt hact).2.bounds
  exact countAt_own hlo hhi

end

section
variable {s : State} {vd vm : VReg} {ra rb : Reg} {mp : Fin 2} {dt : Fin 8}

theorem loads_vlds (h : PlainLanes s vm (512 / dtWidth dt) (dtWidth dt / 8) fun k => s.getW ra + BitVec.ofNat 64 k * s.getW rb) :
    Loads s (.vlds vd ra rb vm mp dt) vd vm mp (dtWidth dt) fun k => s.getW ra + BitVec.ofNat 64 k * s.getW rb := by
  obtain ⟨_, hw, _⟩ := dtWidth_bytes dt
  refine ⟨_, 0, ?_, fun k hk hact => partOf_active (ea := fun k => s.getW ra + BitVec.ofNat 64 k * s.getW rb) hw hk hact⟩
  change execVlds vd ra rb vm mp dt s = _
  simp only [execVlds, h.firstMisaligned, List.map_map, Function.comp_def, h.loadParts, bind, Except.bind, pure, Except.pure,
    h.countEach, settle_ok]

theorem loads_vldb (ha : aligned (s.getW ra + s.getW rb) (dtWidth dt / 8) = true)
    (h : PlainLanes s vm (512 / dtWidth dt) (dtWidth dt / 8) fun _ => s.getW ra + s.getW rb) :
    Loads s (.vldb vd ra rb vm mp dt) vd vm mp (dtWidth dt) fun _ => s.getW ra + s.getW rb := by
  obtain ⟨_, hw, _⟩ := dtWidth_bytes dt
  have he : exec (.vldb vd ra rb vm mp dt) s = execVldb vd ra rb vm mp dt s := rfl
  unfold execVldb at he
  generalize s.getW ra + s.getW rb = ea at *
  by_cases hnone : (s.activeLanes vm (512 / dtWidth dt)).isEmpty = true
  · exact loads_nothing hnone (he.trans (by simp only [hnone, if_true, settle_ok]))
  · obtain ⟨k, hlt, hact⟩ := active_of_not_isEmpty hnone
    have hpart := (h k hlt hact).2
    obtain ⟨hlo, hhi⟩ := hpart.bounds
    have hload : s.load ea (dtWidth dt / 8) = .ok (bytesAt s ea (dtWidth dt / 8), s) := by
      rw [State.load, loadParts_plain (by simpa using hpart)]
      simp only [bind, Except.bind, pure, Except.pure, List.map_cons, List.map_nil, List.flatten_singleton, countAt_own hlo hhi]
    refine ⟨fun _ => ofBytes (bytesAt s ea (dtWidth dt / 8)), 1, he.trans ?_, fun k _ _ => by rw [ofBytes_bytesAt, valueAt_mod hw]⟩
    simp only [hnone, ha, hload, bind, Except.bind, pure, Except.pure, settle_ok, Bool.not_true, Bool.false_eq_true, if_false]

/-- The elements of an unmasked access are those of one part of 64 bytes. -/
theorem plainPart_block {ea : Word} {l n : Nat} (ha : ea.toNat % 64 = 0) (h0 : 0 < n) (hl : l * n = 64)
    (h : PlainLanes s 0 l n fun k => ea + BitVec.ofNat 64 (k * n)) : PlainPart s ea 64 :=
  ⟨by decide, by rw [ha], plainAt_block ha h0 hl fun k hk => (h k hk ((active_iff s 0 k).mpr (.inl rfl))).2.2.2⟩

theorem loads_vld (ha : aligned (s.getW ra + s.getW rb) 64 = true) (h : PlainLanes s vm (512 / dtWidth dt) (dtWidth dt / 8) fun k =>
      s.getW ra + s.getW rb + BitVec.ofNat 64 (k * (dtWidth dt / 8))) :
    Loads s (.vld vd ra rb vm mp dt) vd vm mp (dtWidth dt) fun k => s.getW ra + s.getW rb + BitVec.ofNat 64 (k * (dtWidth dt / 8)) := by
  obtain ⟨_, hw, hl⟩ := dtWidth_bytes dt
  have he : exec (.vld vd ra rb vm mp dt) s = execVld vd ra rb vm mp dt s := rfl
  unfold execVld at he
  generalize s.getW ra + s.getW rb = ea at *
  have ha' := aligned_iff.mp ha
  by_cases hnone : (s.activeLanes vm (512 / dtWidth dt)).isEmpty = true
  · exact loads_nothing hnone (he.trans (by simp only [hnone, if_true, settle_ok]))
  · obtain ⟨k, hlt, hact⟩ := active_of_not_isEmpty hnone
    obtain ⟨h0, _, hplain⟩ := (h k hlt hact).2
    obtain ⟨hlo, hhi⟩ := block_of_element ha' h0 hl hlt hplain
    by_cases hvm : vm = 0
    · subst hvm
      refine ⟨fun k => ofBytes (bytesAt s ea 64) / 2 ^ (dtWidth dt * k) % 2 ^ dtWidth dt, 1, he.trans ?_, fun k hk _ => ?_⟩
      · have hload : s.loadParts [(ea, 64)] = .ok ([bytesAt s ea 64], s) :=
          loadParts_plain (by simpa using plainPart_block ha' h0 hl h)
        simp only [hnone, ha, not_queue_own hlo hhi, contiguous, hload, bind, Except.bind, pure, Except.pure, settle_ok, Bool.not_true,
          Bool.false_eq_true, if_false, if_true, List.flatten_singleton, countAt_own hlo hhi]
      · dsimp only
        rw [Nat.mod_mod, ofBytes_bytesAt, valueAt_element ha' h0 hl hlo hk, Nat.pow_mul, two_pow_width hw, ← Nat.pow_mul,
          Nat.mul_comm k]
    · refine ⟨_, 1, he.trans ?_, fun k hk hact => partOf_active (ea := fun k => ea + BitVec.ofNat 64 (k * (dtWidth dt / 8))) hw hk hact⟩
      simp only [hnone, ha, not_queue_own hlo hhi, contiguous, if_neg hvm, h.loadParts, bind, Except.bind, pure, Except.pure,
        settle_ok, Bool.not_true, Bool.false_eq_true, if_false, countAt_own hlo hhi]

end

/-- The elements that a statement gives as aligned and plain are parts. -/
theorem plainLanes_of {s : State} {vm : VReg} {dt : Fin 8} {ea : Nat → Word}
    (h : ∀ k, k < 512 / dtWidth dt → (vm = 0 ∨ (s.getV vm).getLsbD k = true) →
      (ea k).toNat % (dtWidth dt / 8) = 0 ∧ PlainAt s (ea k) (dtWidth dt / 8)) :
    PlainLanes s vm (512 / dtWidth dt) (dtWidth dt / 8) ea := fun k hk hact => by
  obtain ⟨ha, hp⟩ := h k hk ((active_iff s vm k).mp hact)
  exact ⟨aligned_iff.mpr ha, plainPart_of_aligned (dtWidth_bytes dt).1 ha hp⟩

/-- Settles O37: each vector load retires a register whose active lanes hold the elements that its reads return. -/
theorem vectorLoadResults : Obligations.VectorLoadResults := by
  intro s i vd vm mp w ea al h act ha hp
  cases i with
  | vld =>
    cases h
    exact (loads_vld (aligned_iff.mpr (by simpa using ha)) (plainLanes_of hp)).result
  | vlds => cases h; exact (loads_vlds (plainLanes_of hp)).result
  | vldb => cases h; exact (loads_vldb (aligned_iff.mpr ha) (plainLanes_of hp)).result
  | _ => cases h

end Sys2Proof.Vector
end

section
/-! PROOFS. Writes of several parts to plain bytes of own TCM (07 R136, 15 R275, R282). -/

namespace Sys2Proof.Vector

open Sys2Proof.Machine
open Sys2Proof.Scalar
open Sys2Proof.Says hiding none

/-! ### Sending the cells of several accesses -/

theorem wrote_cur {s t : State} {cs : List Machine.Cell} (h : Wrote s t cs) : t.cur = s.cur := by rw [h.1]

/-- Steps that each write the cells of their element write the cells of all, in order. -/
theorem wrote_foldl {β : Type} {f : State → β → State} {cells : β → List Machine.Cell} {s : State} {l : List β}
    (hf : ∀ t cs, ∀ x ∈ l, Wrote s t cs → Wrote t (f t x) (cells x)) : Wrote s (l.foldl f s) (l.flatMap cells) := by
  have key : ∀ {t cs}, Wrote s t cs → Wrote s (l.foldl f t) (cs ++ l.flatMap cells) := by
    induction l with
    | nil => intro t cs h; rwa [List.flatMap_nil, List.append_nil]
    | cons x l ih =>
      intro t cs h
      rw [List.flatMap_cons, ← List.append_assoc]
      exact ih (fun t cs y hy => hf t cs y (List.mem_cons_of_mem x hy)) (wrote_append h (hf t cs x List.mem_cons_self h))
  exact key (wrote_nil s)

/-- Cells at plain bytes of the executing core's own TCM. -/
def OwnCells (s : State) (x : Cells) : Prop := x.space = .tcm s.cur.core ∧ ∀ c ∈ x.cells, PlainCell s c.1

theorem ownCells_of_wrote {s t : State} {cs : List Machine.Cell} (h : Wrote s t cs) {x : Cells} (hx : OwnCells s x) : OwnCells t x := by
  obtain ⟨hs, hc⟩ := hx
  exact ⟨by rw [hs, wrote_cur h], fun c hcm => h.plainCell (hc c hcm)⟩

theorem flatMap_zipIdx {α β : Type} (g : α → List β) (l : List α) (n : Nat) : (l.zipIdx n).flatMap (fun x => g x.1) = l.flatMap g := by
  rw [← List.zipIdx_map_fst n l, List.flatMap_map, List.zipIdx_map_fst]

theorem mem_of_mem_zipIdx {α : Type} {l : List α} {n : Nat} {x : α × Nat} (h : x ∈ l.zipIdx n) : x.1 ∈ l := by
  rw [← List.zipIdx_map_fst n l]
  exact List.mem_map.mpr ⟨x, h, rfl⟩

/-- The cells of one access of the executing context. -/
theorem wrote_sendAll {s : State} {w : PendWrite} {xs : List Cells} (hw : w.core = s.cur.core) (ha : w.agent ≠ .copy)
    (hr : w.rel = none) (ht : w.tags = []) (hx : ∀ x ∈ xs, OwnCells s x) :
    Wrote s (s.sendAll true w xs) (xs.flatMap (·.cells)) := by
  rw [← flatMap_zipIdx _ xs 0]
  refine wrote_foldl fun t cs x hxm hwrote => ?_
  obtain ⟨hs, hc⟩ := ownCells_of_wrote hwrote (hx x.1 (mem_of_mem_zipIdx hxm))
  exact wrote_sendCells (by rw [wrote_cur hwrote]; exact hw) ha hr ht hs hc

/-- The cells of several accesses of one instruction, however they count. -/
theorem wrote_sendEach {s : State} {xss : List (List Cells)} (count : Nat → Bool) (hx : ∀ xs ∈ xss, ∀ x ∈ xs, OwnCells s x) :
    Wrote s (xss.zipIdx.foldl (fun s x => s.sendAll true { s.ownWrite none with count := count x.2 } x.1) s)
      (xss.flatMap fun xs => xs.flatMap (·.cells)) := by
  rw [← flatMap_zipIdx _ xss 0]
  refine wrote_foldl fun t cs x hxm hwrote => ?_
  exact wrote_sendAll rfl (fun e => nomatch e) rfl rfl fun y hy => ownCells_of_wrote hwrote (hx x.1 (mem_of_mem_zipIdx hxm) y hy)

/-! ### Neighbouring cells together (15 R282) -/

theorem flatMap_mergeCells (xs : List Cells) : (mergeCells xs).flatMap (·.cells) = xs.flatMap (·.cells) := by
  induction xs with
  | nil => rfl
  | cons x xs ih =>
    rw [mergeCells, List.flatMap_cons, ← ih]
    split
    · next h => rw [h]; rfl
    · next h =>
      rw [h]
      split
      · rw [List.flatMap_cons, List.flatMap_cons, List.append_assoc]
      · rw [List.flatMap_cons]

/-- Merged cells are cells of the same spaces. -/
theorem ownCells_mergeCells {s : State} {xs : List Cells} (h : ∀ x ∈ xs, OwnCells s x) : ∀ x ∈ mergeCells xs, OwnCells s x := by
  induction xs with
  | nil => exact fun x hx => nomatch hx
  | cons x xs ih =>
    have hx := h x List.mem_cons_self
    have ih := ih fun y hy => h y (List.mem_cons_of_mem x hy)
    rw [mergeCells]
    split
    · exact fun y hy => by rwa [List.mem_singleton.mp hy]
    · next y u hm =>
      rw [hm] at ih
      have hy := ih y List.mem_cons_self
      have hu := fun z hz => ih z (List.mem_cons_of_mem y hz)
      split
      · refine List.forall_mem_cons.mpr ⟨⟨hx.1, fun c hc => ?_⟩, hu⟩
        rcases List.mem_append.mp hc with hc | hc
        · exact hx.2 c hc
        · exact hy.2 c hc
      · exact List.forall_mem_cons.mpr ⟨hx, List.forall_mem_cons.mpr ⟨hy, hu⟩⟩

/-! ### Stores of several parts (07 R136) -/

/-- The cells of a part at own TCM. -/
def partCells (s : State) (p : Part) : List Machine.Cell :=
  (List.range p.bytes.length).map fun i => (placeAt s p.ea + i, p.bytes.getD i 0, p.mask)

/-- The runs of a part, as cells of own TCM. -/
theorem runCells_runAt (s : State) (p : Part) : runCells p.mask [runAt s p.ea p.bytes.length] p.bytes =
    [⟨.tcm s.cur.core, (runAt s p.ea p.bytes.length).addr, partCells s p⟩] := by
  rw [runCells, runCells, cellsOf]
  simp only [runAt, tcmRun, List.take_length, partCells, placeAt]

theorem PlainPart.ownCells {s : State} {p : Part} (h : PlainPart s p.ea p.bytes.length) (addr : Nat) :
    OwnCells s ⟨.tcm s.cur.core, addr, partCells s p⟩ := by
  refine ⟨rfl, fun c hc => ?_⟩
  obtain ⟨i, hi, rfl⟩ := List.mem_map.mp hc
  obtain ⟨_, _, _, hp⟩ := h
  exact plainCell_of_plainTcm hp (List.mem_range.mp hi)

section
variable {s : State} {ps : List Part} (h : ∀ p ∈ ps, PlainPart s p.ea p.bytes.length)
include h

theorem resolveParts_plain (cover : List (Nat × Nat)) : s.resolveParts (s.whoOwn s.cur.core) cover ps =
    .ok (ps.map fun p => (p, [runAt s p.ea p.bytes.length]), []) := by
  induction ps with
  | nil => rfl
  | cons p ps ih =>
    have hp := h p List.mem_cons_self
    obtain ⟨hlo, hhi⟩ := hp.bounds
    rw [State.resolveParts, noQueue_own hlo hhi, hp.resolvePieces rfl rfl, ih fun q hq => h q (List.mem_cons_of_mem p hq)]
    rfl

/-- No part meets an active workspace. -/
theorem wsCheck_plain (who : Who) :
    s.wsCheck who .write ((ps.map fun p => (p, [runAt s p.ea p.bytes.length])).flatMap (·.2)) = .ok () := by
  have hnone : ((ps.map fun p => (p, [runAt s p.ea p.bytes.length])).flatMap (·.2)).findSome? (fun r =>
      (List.range r.len).findSome? fun i => if s.wsBreach who .write (r.place + i) r.space then some (r.addr + i) else none) = none := by
    refine List.findSome?_eq_none_iff.mpr fun r hr => List.findSome?_eq_none_iff.mpr fun i hi => if_neg ?_
    obtain ⟨x, hx, hr⟩ := List.mem_flatMap.mp hr
    obtain ⟨p, hp, rfl⟩ := List.mem_map.mp hx
    obtain ⟨_, _, hplain⟩ := h p hp
    rw [List.mem_singleton.mp hr] at hi ⊢
    have hcell := (plainRun_runAt hplain).cell (List.mem_range.mp hi)
    simp only [runAt, tcmRun] at hcell ⊢
    simp only [State.wsBreach, hcell.wsAt, Bool.false_eq_true, not_false_eq_true]
  rw [State.wsCheck, hnone]

/-- A store of plain parts of own TCM writes their cells in order, and changes nothing but error marks beside. -/
theorem storeParts_plain (whole once : Bool) : ∃ t, s.storeParts ps none whole once = .ok t ∧ Wrote s t (ps.flatMap (partCells s)) := by
  have hcells : ((ps.map fun p => (p, [runAt s p.ea p.bytes.length])).map fun x => runCells x.1.mask x.2 x.1.bytes) =
      ps.map fun p => [⟨.tcm s.cur.core, (runAt s p.ea p.bytes.length).addr, partCells s p⟩] := by
    rw [List.map_map]
    exact List.map_congr_left fun p _ => runCells_runAt s p
  obtain ⟨css, hcss⟩ : ∃ css : List (List Cells), css = ps.map fun p =>
    [⟨.tcm s.cur.core, (runAt s p.ea p.bytes.length).addr, partCells s p⟩] := ⟨_, rfl⟩
  have hown : ∀ cs ∈ css, ∀ x ∈ cs, OwnCells s x := fun cs hcs x hx => by
    rw [hcss] at hcs
    obtain ⟨p, hp, rfl⟩ := List.mem_map.mp hcs
    rw [List.mem_singleton.mp hx]
    exact (h p hp).ownCells _
  have hflat : (css.flatMap fun cs => cs.flatMap (·.cells)) = ps.flatMap (partCells s) := by
    rw [hcss, List.flatMap_map]
    exact List.flatMap_congr fun p _ => List.flatMap_singleton ..
  refine ⟨_, by
    simp only [State.storeParts, resolveParts_plain h, wsCheck_plain h, hcells, ← hcss, orStop, bind, Except.bind, pure, Except.pure]
    rfl, ?_⟩
  rw [← hflat]
  cases whole with
  | false => exact wrote_sendEach (fun n => !once || n == 0) hown
  | true =>
    have hmerged : ([mergeCells css.flatten].flatMap fun cs => cs.flatMap (·.cells)) = css.flatMap fun cs => cs.flatMap (·.cells) := by
      rw [List.flatMap_singleton, flatMap_mergeCells, List.flatten_eq_flatMap, List.flatMap_assoc]
      rfl
    rw [← hmerged]
    refine wrote_sendEach (fun n => !once || n == 0) fun cs hcs x hx => ?_
    rw [List.mem_singleton.mp hcs] at hx
    refine ownCells_mergeCells (fun y hy => ?_) x hx
    obtain ⟨cs, hcs, hy⟩ := List.mem_flatten.mp hy
    exact hown cs hcs y hy

end

end Sys2Proof.Vector
end

section
/-! PROOFS. Vector stores of whole elements to plain bytes of own TCM (07 R135, R136). -/

namespace Sys2Proof.Vector

open Sys2Proof.Machine
open Sys2Proof.NumberFormats
open Sys2Proof.Scalar
open Sys2Proof.Says hiding none

/-! ### Memory after the elements of some lanes are written -/

/-- The cells of n bytes at each active lane's place, in lane order, under a mask of the lane. -/
def elementCells (act : Nat → Bool) (n : Nat) (p : Nat → Nat) (b : Nat → Nat → Byte) (mask : Nat → Byte) (l : Nat) :
    List Machine.Cell :=
  ((List.range l).filter act).flatMap fun k => (List.range n).map fun i => (p k + i, b k i, mask k)

section
variable {act : Nat → Bool} {n : Nat} {p : Nat → Nat} {b : Nat → Nat → Byte} {mask : Nat → Byte} {m : Memory}
  (hm : m.wf = true) {q : Nat}
include hm

/-- A byte after the next lane was written. -/
theorem read_elementCells_succ (l : Nat) : Memory.read (writeCells m (elementCells act n p b mask (l + 1))) q =
    if act l = true ∧ p l ≤ q ∧ q < p l + n then
      blend (Memory.read (writeCells m (elementCells act n p b mask l)) q) (b l (q - p l)) (mask l)
    else Memory.read (writeCells m (elementCells act n p b mask l)) q := by
  have hwf := wf_writeCells hm (elementCells act n p b mask l)
  have happ : elementCells act n p b mask (l + 1) = elementCells act n p b mask l ++
      if act l = true then (List.range n).map fun i => (p l + i, b l i, mask l) else [] := by
    rw [elementCells, elementCells, List.range_succ, List.filter_append, List.flatMap_append]
    congr 1
    cases h : act l <;> simp [h]
  rw [happ, writeCells, List.foldl_append]
  change Memory.read (writeCells (writeCells m (elementCells act n p b mask l)) _) q = _
  by_cases h : act l = true
  · rw [if_pos h, read_writeCells hwf]
    simp only [h, true_and]
  · rw [if_neg h, if_neg fun hc => h hc.1]
    rfl

/-- A byte outside the elements is unchanged. -/
theorem read_elementCells_outside {l : Nat} (hq : ∀ k, k < l → act k = true → ¬ (p k ≤ q ∧ q < p k + n)) :
    Memory.read (writeCells m (elementCells act n p b mask l)) q = Memory.read m q := by
  induction l with
  | zero => rfl
  | succ l ih =>
    rw [read_elementCells_succ hm, if_neg fun hc => hq l (Nat.lt_succ_self l) hc.1 hc.2]
    exact ih fun k hk => hq k (Nat.lt_succ_of_lt hk)

/-- A byte of an element that no later lane meets was last written by its lane. -/
theorem read_elementCells_last {l k : Nat} (hk : k < l) (hact : act k = true) (hin : p k ≤ q ∧ q < p k + n)
    (hlater : ∀ j, k < j → j < l → act j = true → ¬ (p j ≤ q ∧ q < p j + n)) :
    Memory.read (writeCells m (elementCells act n p b mask l)) q =
      blend (Memory.read (writeCells m (elementCells act n p b mask k)) q) (b k (q - p k)) (mask k) := by
  induction l with
  | zero => cases hk
  | succ l ih =>
    rw [read_elementCells_succ hm]
    rcases Nat.lt_succ_iff_lt_or_eq.mp hk with hlt | rfl
    · rw [if_neg fun hc => hlater l hlt (Nat.lt_succ_self l) hc.1 hc.2]
      exact ih hlt fun j hj hjl => hlater j hj (Nat.lt_succ_of_lt hjl)
    · rw [if_pos ⟨hact, hin⟩]

end

/-! ### The bytes of a lane -/

/-- The digits of a value in base 256, as bytes. -/
theorem ofBytes_digits (n x : Nat) : ofBytes ((List.range n).map fun i => BitVec.ofNat 8 (x / 256 ^ i)) = x % 256 ^ n := by
  induction n with
  | zero => rw [Nat.pow_zero, Nat.mod_one]; rfl
  | succ n ih =>
    rw [List.range_succ, List.map_append, ofBytes_append, ih, List.length_map, List.length_range, Nat.pow_succ, Nat.mod_mul]
    simp [ofBytes]

/-- A digit of a value is one of its low digits. -/
theorem digit_mod {n i : Nat} (hi : i < n) (x : Nat) : BitVec.ofNat 8 (x % 256 ^ n / 256 ^ i) = BitVec.ofNat 8 (x / 256 ^ i) := by
  obtain ⟨c, rfl⟩ := Nat.exists_eq_add_of_lt hi
  refine BitVec.eq_of_toNat_eq ?_
  rw [BitVec.toNat_ofNat, BitVec.toNat_ofNat, Nat.add_assoc, Nat.pow_add, Nat.mod_mul_right_div_self, Nat.pow_succ', Nat.mod_mul_right_mod]

/-- The cells of a part whose bytes are the digits of a value. -/
theorem partCells_toBytes (s : State) (a : Word) (n x : Nat) (m : Byte) :
    partCells s ⟨a, toBytes n x, m⟩ = (List.range n).map fun i => (placeAt s a + i, BitVec.ofNat 8 (x / 256 ^ i), m) := by
  rw [partCells, length_toBytes]
  exact List.map_congr_left fun i hi => by rw [getD_toBytes (List.mem_range.mp hi)]

/-- Byte j of lane k of a register. -/
def laneByte (v : VWord) (w k j : Nat) : Byte := BitVec.ofNat 8 (lane v w k / 256 ^ j)

/-- The bytes of a lane are bytes of the register. -/
theorem laneByte_eq {v : VWord} {w k j : Nat} (hw : w = 8 * (w / 8)) (hj : j < w / 8) :
    laneByte v w k j = BitVec.ofNat 8 (v.toNat / 256 ^ (k * (w / 8)) / 256 ^ j) := by
  rw [laneByte, lane, Nat.pow_mul, two_pow_width hw, ← Nat.pow_mul, digit_mod hj, Nat.mul_comm]

/-- The numbers below a product, row by row. -/
theorem range_mul (l n : Nat) : List.range (l * n) = (List.range l).flatMap fun k => (List.range n).map (k * n + ·) := by
  induction l with
  | zero => rw [Nat.zero_mul]; rfl
  | succ l ih => rw [Nat.succ_mul, List.range_add, ih, List.range_succ, List.flatMap_append, List.flatMap_singleton]

/-! ### Stores of whole elements (07 R135, R136) -/

/-- The cells of the active lanes' elements, in lane order. -/
def storeCells (s : State) (vd vm : VReg) (w : Nat) (ea : Nat → Word) : List Machine.Cell :=
  elementCells (s.active vm) (w / 8) (fun k => placeAt s (ea k)) (laneByte (s.getV vd) w) (fun _ => 0xFF) (512 / w)

/-- A vector store completes: it writes the elements of its active lanes in lane order and moves on. -/
def Stores (s : State) (i : Instr) (cells : List Machine.Cell) : Prop :=
  ∃ u bound, exec i s = .next (u.vecBusy bound).advance ∧ Wrote s u cells

/-- The unit's occupancy and moving on after cells were written to memory change no register but the PC and no other unit. -/
theorem Stores.frame {s : State} {i : Instr} {cs : List Machine.Cell} (h : Stores s i cs) : ∃ t, exec i s = .next t ∧
    SameUnits s t ∧ SameCores s t s.cur.core ∧ SameWs s t s.cur Says.none Says.none 0 ∧ t.sectors = s.sectors ∧ t.cur = s.cur ∧
      t.mem = writeCells s.mem cs := by
  obtain ⟨u, bound, he, hu⟩ := h
  obtain ⟨po, so, rfl⟩ : ∃ po so, u = { s with mem := writeCells s.mem cs, poison := po, soft := so } := ⟨_, _, hu.1⟩
  obtain ⟨⟨hmem, _, _, hsec, _⟩, hunits, hcores, _, _, hws, hcur, _⟩ := onlyVec_trans (w := Says.none) (v := Says.none) (f := 0)
    (onlyVec_vecBusy { s with mem := writeCells s.mem cs, poison := po, soft := so } bound) (onlyVec_advance _)
  exact ⟨_, he, hunits, hcores, hws, hsec, hcur, hmem⟩

theorem sameBytes_of_units {s t : State} {p : Nat → Prop} (hu : SameUnits s t) (hs : t.sectors = s.sectors)
    (h : ∀ a, ¬ p a → Memory.read t.mem a = Memory.read s.mem a) : SameBytes s t p := by
  obtain ⟨_, _, _, _, hd⟩ := hu
  exact sameBytes_of_read hd hs h

/-- Different aligned elements of own TCM do not overlap. -/
theorem elements_apart {s : State} {a b : Word} {n : Nat} (hn : n ∈ [1, 2, 4, 8]) (ha : a.toNat % n = 0) (hb : b.toNat % n = 0)
    (hpa : PlainAt s a n) (hpb : PlainAt s b n) (hne : b ≠ a) {i : Nat} (hi : i < n) :
    ¬ (placeAt s b ≤ placeAt s a + i ∧ placeAt s a + i < placeAt s b + n) := by
  have hne : b.toNat ≠ a.toNat := fun e => hne (BitVec.eq_of_toNat_eq e)
  obtain ⟨hla, _⟩ := hpa
  obtain ⟨hlb, _⟩ := hpb
  simp only [placeAt, tcmPlace]
  simp only [List.mem_cons, List.not_mem_nil, or_false] at hn
  rcases hn with rfl | rfl | rfl | rfl <;> omega

section
variable {s : State} {i : Instr} {vd vm : VReg} {dt : Fin 8} {ea : Nat → Word}

theorem Stores.result (h : Stores s i (storeCells s vd vm (dtWidth dt) ea)) (hinv : s.Inv)
    (hp : PlainLanes s vm (512 / dtWidth dt) (dtWidth dt / 8) ea) : ∃ t, exec i s = .next t ∧
      (∀ k, k < 512 / dtWidth dt → s.active vm k = true →
        (∀ j, k < j → j < 512 / dtWidth dt → s.active vm j = true → ea j ≠ ea k) →
        valueAt t (ea k) (dtWidth dt / 8) = lane (s.getV vd) (dtWidth dt) k) ∧
      SameBytes s t (fun p => ∃ k, k < 512 / dtWidth dt ∧ s.active vm k = true ∧
        placeAt s (ea k) ≤ p ∧ p < placeAt s (ea k) + dtWidth dt / 8) ∧
      SameUnits s t ∧ SameCores s t s.cur.core ∧ SameWs s t s.cur Says.none Says.none 0 ∧ t.sectors = s.sectors := by
  obtain ⟨hn, hw, _⟩ := dtWidth_bytes dt
  obtain ⟨t, he, hunits, hcores, hws, hsec, hcur, hmem⟩ := h.frame
  refine ⟨t, he, fun k hk hact hlater => ?_, sameBytes_of_units hunits hsec fun a ha => ?_, hunits, hcores, hws, hsec⟩
  · obtain ⟨hak, _, _, hpk⟩ := hp k hk hact
    have hbytes : bytesAt t (ea k) (dtWidth dt / 8) = (List.range (dtWidth dt / 8)).map fun j => laneByte (s.getV vd) (dtWidth dt) k j := by
      refine List.map_congr_left fun j hj => ?_
      have hj := List.mem_range.mp hj
      have hplace : placeAt t (ea k) = placeAt s (ea k) := by rw [placeAt, placeAt, hcur]
      rw [hplace, hmem, storeCells, read_elementCells_last hinv hk hact ⟨Nat.le_add_right _ _, Nat.add_lt_add_left hj _⟩, blend_full,
        Nat.add_sub_cancel_left]
      intro l hkl hl hactl
      obtain ⟨hal, _, _, hpl⟩ := hp l hl hactl
      exact elements_apart hn (aligned_iff.mp hak) (aligned_iff.mp hal) hpk hpl (hlater l hkl hl hactl) hj
    rw [← ofBytes_bytesAt, hbytes]
    refine (ofBytes_digits _ _).trans (Nat.mod_eq_of_lt ?_)
    rw [← two_pow_width hw]
    exact lane_lt _ _ _
  · rw [hmem, storeCells]
    exact read_elementCells_outside hinv fun k hk hact hc => ha ⟨k, hk, hact, hc⟩

end

section
variable {s : State} {vd vm : VReg} {ra rb : Reg} {dt : Fin 8}

/-- The part of a lane's element. -/
def elementPart (a : Word) (n x : Nat) : Machine.Part := ⟨a, toBytes n x, 0xFF⟩

/-- The parts of the active lanes, as cells in lane order. -/
theorem storeCells_eq {ea : Nat → Word} {x : Nat → Nat} (hx : ∀ k j, k < 512 / dtWidth dt → j < dtWidth dt / 8 →
      BitVec.ofNat 8 (x k / 256 ^ j) = laneByte (s.getV vd) (dtWidth dt) k j) :
    ((s.activeLanes vm (512 / dtWidth dt)).map fun k => elementPart (ea k) (dtWidth dt / 8) (x k)).flatMap (partCells s) =
      storeCells s vd vm (dtWidth dt) ea := by
  rw [List.flatMap_map, storeCells, elementCells]
  refine List.flatMap_congr fun k hk => ?_
  rw [elementPart, partCells_toBytes]
  exact List.map_congr_left fun j hj => by rw [hx k j (mem_activeLanes.mp hk).1 (List.mem_range.mp hj)]

/-- A store of the active lanes' elements writes them in lane order. -/
theorem storeParts_active {ea : Nat → Word} {x : Nat → Nat} (h : PlainLanes s vm (512 / dtWidth dt) (dtWidth dt / 8) ea)
    (hx : ∀ k j, k < 512 / dtWidth dt → j < dtWidth dt / 8 →
      BitVec.ofNat 8 (x k / 256 ^ j) = laneByte (s.getV vd) (dtWidth dt) k j) (whole once : Bool) :
    ∃ u, s.storeParts ((s.activeLanes vm (512 / dtWidth dt)).map fun k => elementPart (ea k) (dtWidth dt / 8) (x k)) none whole once =
      .ok u ∧ Wrote s u (storeCells s vd vm (dtWidth dt) ea) := by
  rw [← storeCells_eq hx]
  refine storeParts_plain (fun p hp => ?_) whole once
  obtain ⟨k, hk, rfl⟩ := List.mem_map.mp hp
  obtain ⟨hlt, hact⟩ := mem_activeLanes.mp hk
  rw [elementPart, length_toBytes]
  exact (h k hlt hact).2

theorem stores_vsts (h : PlainLanes s vm (512 / dtWidth dt) (dtWidth dt / 8) fun k => s.getW ra + BitVec.ofNat 64 k * s.getW rb) :
    Stores s (.vsts vd ra rb vm dt)
      (storeCells s vd vm (dtWidth dt) fun k => s.getW ra + BitVec.ofNat 64 k * s.getW rb) := by
  obtain ⟨u, hstore, hu⟩ := storeParts_active (vd := vd) (x := lane (s.getV vd) (dtWidth dt)) h (fun _ _ _ _ => rfl) false false
  refine ⟨u, 0, ?_, hu⟩
  simp only [elementPart] at hstore
  change execVsts vd ra rb vm dt s = _
  simp only [execVsts, h.firstMisaligned, hstore, bind, Except.bind, pure, Except.pure, settle_ok]

/-- The parts of a contiguous store. -/
def blockParts (ea : Word) (w : Nat) (vm : VReg) (ls : List Nat) (v : VWord) : List Machine.Part :=
  (contiguous ea w vm ls).map fun x => elementPart x.1 x.2 (v.toNat / 2 ^ (8 * (x.1 - ea).toNat))

/-- The one part of an unmasked contiguous store holds every lane. -/
theorem partCells_block {ea : Word} (ha : ea.toNat % 64 = 0) (hlo : 0x8000000000000000 ≤ ea.toNat) :
    partCells s (elementPart ea 64 (s.getV vd).toNat) =
      storeCells s vd 0 (dtWidth dt) fun k => ea + BitVec.ofNat 64 (k * (dtWidth dt / 8)) := by
  obtain ⟨_, hw, hl⟩ := dtWidth_bytes dt
  have h0 := dtWidth_bytes_pos dt
  have hact : (List.range (512 / dtWidth dt)).filter (s.active 0) = List.range (512 / dtWidth dt) := activeLanes_unmasked s _
  have hrows : List.range 64 = (List.range (512 / dtWidth dt)).flatMap fun k =>
      (List.range (dtWidth dt / 8)).map (k * (dtWidth dt / 8) + ·) := by rw [← range_mul, hl]
  rw [elementPart, partCells_toBytes, storeCells, elementCells, hact, hrows, List.map_flatMap]
  refine List.flatMap_congr fun k hk => ?_
  rw [List.map_map]
  refine List.map_congr_left fun j hj => ?_
  rw [laneByte_eq hw (List.mem_range.mp hj), placeAt_element ha h0 hl hlo (List.mem_range.mp hk), Nat.div_div_eq_div_mul, ← Nat.pow_add,
    Nat.add_assoc]
  rfl

theorem storeParts_block {ea : Word} (ha : ea.toNat % 64 = 0) (hlo : 0x8000000000000000 ≤ ea.toNat)
    (h : PlainLanes s vm (512 / dtWidth dt) (dtWidth dt / 8) fun k => ea + BitVec.ofNat 64 (k * (dtWidth dt / 8))) :
    ∃ u, s.storeParts (blockParts ea (dtWidth dt) vm (s.activeLanes vm (512 / dtWidth dt)) (s.getV vd)) none true = .ok u ∧
      Wrote s u (storeCells s vd vm (dtWidth dt) fun k => ea + BitVec.ofNat 64 (k * (dtWidth dt / 8))) := by
  obtain ⟨_, hw, hl⟩ := dtWidth_bytes dt
  have h0 := dtWidth_bytes_pos dt
  by_cases hvm : vm = 0
  · subst hvm
    have hparts : blockParts ea (dtWidth dt) 0 (s.activeLanes 0 (512 / dtWidth dt)) (s.getV vd) =
        [elementPart ea 64 (s.getV vd).toNat] := by
      rw [blockParts, contiguous, if_pos rfl, List.map_singleton, BitVec.sub_self]
      simp
    have hstore := storeParts_plain (s := s) (ps := [elementPart ea 64 (s.getV vd).toNat]) (fun p hp => by
      rw [List.mem_singleton.mp hp, elementPart, length_toBytes]
      exact plainPart_block ha h0 hl h) true true
    rw [List.flatMap_singleton, partCells_block (dt := dt) ha hlo] at hstore
    rwa [hparts]
  · have hparts : blockParts ea (dtWidth dt) vm (s.activeLanes vm (512 / dtWidth dt)) (s.getV vd) =
        (s.activeLanes vm (512 / dtWidth dt)).map fun k => elementPart (ea + BitVec.ofNat 64 (k * (dtWidth dt / 8))) (dtWidth dt / 8)
          ((s.getV vd).toNat / 2 ^ (8 * (ea + BitVec.ofNat 64 (k * (dtWidth dt / 8)) - ea).toNat)) := by
      rw [blockParts, contiguous, if_neg hvm, List.map_map]
      rfl
    rw [hparts]
    refine storeParts_active h (fun k j hk hj => ?_) true true
    have hfit := lane_end_le hl hk
    have hoff : (ea + BitVec.ofNat 64 (k * (dtWidth dt / 8)) - ea).toNat = k * (dtWidth dt / 8) := by
      rw [BitVec.add_comm, BitVec.add_sub_cancel, BitVec.toNat_ofNat]
      exact Nat.mod_eq_of_lt (by omega)
    rw [laneByte_eq hw hj, hoff, Nat.pow_mul]

theorem stores_vst (ha : aligned (s.getW ra + s.getW rb) 64 = true) (h : PlainLanes s vm (512 / dtWidth dt) (dtWidth dt / 8) fun k =>
      s.getW ra + s.getW rb + BitVec.ofNat 64 (k * (dtWidth dt / 8))) :
    Stores s (.vst vd ra rb vm dt)
      (storeCells s vd vm (dtWidth dt) fun k => s.getW ra + s.getW rb + BitVec.ofNat 64 (k * (dtWidth dt / 8))) := by
  obtain ⟨_, _, hl⟩ := dtWidth_bytes dt
  have he : exec (.vst vd ra rb vm dt) s = execVst vd ra rb vm dt s := rfl
  unfold execVst at he
  generalize s.getW ra + s.getW rb = ea at *
  have ha' := aligned_iff.mp ha
  by_cases hnone : (s.activeLanes vm (512 / dtWidth dt)).isEmpty = true
  · have hcells : storeCells s vd vm (dtWidth dt) (fun k => ea + BitVec.ofNat 64 (k * (dtWidth dt / 8))) = [] := by
      have hnil : (List.range (512 / dtWidth dt)).filter (s.active vm) = [] := List.isEmpty_iff.mp hnone
      rw [storeCells, elementCells, hnil, List.flatMap_nil]
    refine ⟨s, 1, he.trans (by simp only [hnone, if_true, settle_ok]), ?_⟩
    rw [hcells]
    exact wrote_nil s
  · obtain ⟨k, hlt, hact⟩ := active_of_not_isEmpty hnone
    obtain ⟨h0, _, hplain⟩ := (h k hlt hact).2
    obtain ⟨hlo, hhi⟩ := block_of_element ha' h0 hl hlt hplain
    obtain ⟨u, hstore, hu⟩ := storeParts_block (vd := vd) ha' hlo h
    simp only [blockParts, elementPart] at hstore
    refine ⟨u, 1, he.trans ?_, hu⟩
    simp only [hnone, ha, not_queue_own hlo hhi, hstore, bind, Except.bind, pure, Except.pure, settle_ok, Bool.not_true,
      Bool.false_eq_true, if_false]

end

theorem wholeElementStores : Says.WholeElementStores := by
  intro s i vd vm w ea al h hinv act covers ha hp
  simp only [act, covers, ← active_iff]
  cases i with
  | vst => cases h; exact (stores_vst (aligned_iff.mpr (by simpa using ha)) (plainLanes_of hp)).result hinv (plainLanes_of hp)
  | vsts => cases h; exact (stores_vsts (plainLanes_of hp)).result hinv (plainLanes_of hp)
  | _ => cases h

end Sys2Proof.Vector
end

section
/-! PROOFS. `vstnib` to plain bytes of own TCM (07 R135, R137). -/

namespace Sys2Proof.Vector

open Sys2Proof.Machine
open Sys2Proof.NumberFormats
open Sys2Proof.Scalar
open Sys2Proof.Says hiding none

/-! ### Bytes of nibbles -/

/-- The bits of a byte whose nibbles are written or kept. -/
def nibbleMask (lo hi : Bool) : Byte := BitVec.ofNat 8 ((if lo then 0x0F else 0) + (if hi then 0xF0 else 0))

theorem nibbleMask_bit (lo hi : Bool) (e : Fin 2) (b : Fin 4) :
    (nibbleMask lo hi).getLsbD (b + 4 * e) = if e = 0 then lo else hi := by
  revert lo hi e b
  decide

/-- Each nibble of a byte is replaced where its lane is active. -/
theorem blend_nibble (old v : Byte) (lo hi : Bool) (e : Fin 2) : (blend old v (nibbleMask lo hi)).toNat / 16 ^ e.val % 16 =
    if (if e = 0 then lo else hi) then v.toNat / 16 ^ e.val % 16 else old.toNat / 16 ^ e.val % 16 := by
  have hp : 16 ^ e.val = 2 ^ (4 * e.val) := by rw [Nat.pow_mul]
  rw [hp, show 16 = 2 ^ 4 from rfl]
  refine Nat.eq_of_testBit_eq fun b => ?_
  rcases Nat.lt_or_ge b 4 with hb | hb
  · have hbit := nibbleMask_bit lo hi e ⟨b, hb⟩
    dsimp only at hbit
    have hlt : b + 4 * e.val < 8 := by omega
    simp only [apply_ite (fun x => Nat.testBit x b), Nat.testBit_mod_two_pow, Nat.testBit_div_two_pow, BitVec.testBit_toNat, blend,
      BitVec.getLsbD_or, BitVec.getLsbD_and, BitVec.getLsbD_not, hbit, hlt, decide_true, Bool.true_and]
    generalize (if e = 0 then lo else hi) = c
    cases c <;> simp
  · simp only [apply_ite (fun x => Nat.testBit x b), Nat.testBit_mod_two_pow, decide_eq_false (Nat.not_lt.mpr hb), Bool.false_and, ite_self]

/-- A byte of a register is two lanes of q4. -/
theorem byteOf_nibble (v : VWord) (j : Nat) (e : Fin 2) : (byteOf v j).toNat / 16 ^ e.val % 16 = lane v 4 (2 * j + e) := by
  have hp : 16 ^ e.val = 2 ^ (4 * e.val) := by rw [Nat.pow_mul]
  have hs : 4 * (2 * j + e.val) = 8 * j + 4 * e.val := by ring
  have hv : (byteOf v j).toNat = v.toNat / 2 ^ (8 * j) % 2 ^ 8 := by
    rw [byteOf, BitVec.extractLsb'_toNat, Nat.shiftRight_eq_div_pow]
  obtain ⟨c, hc⟩ : ∃ c, 8 = 4 * e.val + (4 + c) := ⟨4 - 4 * e.val, by omega⟩
  rw [hv, hp, lane, hs, hc, Nat.pow_add 2 (4 * e.val) (4 + c), Nat.mod_mul_right_div_self, Nat.pow_add, Nat.mod_mul_right_mod, ← hc,
    Nat.div_div_eq_div_mul, ← Nat.pow_add]

/-- A byte of own TCM as a value. -/
theorem valueAt_one (s : State) (a : Word) : valueAt s a 1 = (Memory.read s.mem (placeAt s a)).toNat := by
  simp [valueAt, tcmValue, ofBytes, placeAt]

/-! ### The store (07 R137) -/

/-- The mask of byte j: the nibbles whose lanes are active. -/
def laneMask (s : State) (vm : VReg) (j : Nat) : Byte := nibbleMask (s.active vm (2 * j)) (s.active vm (2 * j + 1))

/-- A lane of byte j is active. -/
def activeByte (s : State) (vm : VReg) (j : Nat) : Bool := s.active vm (2 * j) || s.active vm (2 * j + 1)

theorem activeByte_eq (s : State) (vm : VReg) (j : Nat) :
    (((if s.active vm (2 * j) then 0x0F else 0) + (if s.active vm (2 * j + 1) then 0xF0 else 0) : Nat) != 0) = activeByte s vm j := by
  unfold activeByte
  cases s.active vm (2 * j) <;> cases s.active vm (2 * j + 1) <;> rfl

/-- The cells of the bytes with an active lane. -/
def nibbleCells (s : State) (vd vm : VReg) (ea : Word) : List Machine.Cell :=
  elementCells (activeByte s vm) 1 (fun j => placeAt s ea + j) (fun j _ => byteOf (s.getV vd) j) (laneMask s vm) 64

theorem blend_none (old v : Byte) : blend old v (nibbleMask false false) = old := by
  rw [blend, show nibbleMask false false = 0#8 from rfl, BitVec.and_zero, BitVec.or_zero, BitVec.not_zero, BitVec.and_allOnes]

/-- Each byte of the block is blended under its mask. -/
theorem read_nibbleCells {s : State} (hinv : s.Inv) (vd vm : VReg) (ea : Word) {j : Nat} (hj : j < 64) :
    Memory.read (writeCells s.mem (nibbleCells s vd vm ea)) (placeAt s ea + j) =
      blend (Memory.read s.mem (placeAt s ea + j)) (byteOf (s.getV vd) j) (laneMask s vm j) := by
  by_cases hact : activeByte s vm j = true
  · rw [nibbleCells, read_elementCells_last (k := j) hinv hj hact (by omega) fun l hl _ _ => by omega,
      read_elementCells_outside hinv fun l hl _ => by omega]
  · rw [nibbleCells, read_elementCells_outside hinv fun l _ hl hin => hact (by rwa [show j = l by omega]), laneMask]
    obtain ⟨hlo, hhi⟩ := Bool.or_eq_false_iff.mp (Bool.eq_false_of_not_eq_true hact)
    rw [hlo, hhi, blend_none]

/-- Each nibble of the block holds its lane where that is active, and else what it held. -/
theorem nibble_nibbleCells {s : State} (hinv : s.Inv) (vd vm : VReg) (ea : Word) {j : Nat} (hj : j < 64) (e : Fin 2) :
    (Memory.read (writeCells s.mem (nibbleCells s vd vm ea)) (placeAt s ea + j)).toNat / 16 ^ e.val % 16 =
      if s.active vm (2 * j + e) then lane (s.getV vd) 4 (2 * j + e)
      else (Memory.read s.mem (placeAt s ea + j)).toNat / 16 ^ e.val % 16 := by
  have hact : (if e = 0 then s.active vm (2 * j) else s.active vm (2 * j + 1)) = s.active vm (2 * j + e) := by
    match e with
    | 0 => rfl
    | 1 => rfl
  rw [read_nibbleCells hinv vd vm ea hj, laneMask, blend_nibble, hact, byteOf_nibble]

/-- The part of a byte with its mask. -/
def nibblePart (s : State) (vd vm : VReg) (ea : Word) (j : Nat) : Machine.Part :=
  ⟨ea + BitVec.ofNat 64 j, [byteOf (s.getV vd) j], laneMask s vm j⟩

section
variable {s : State} {vd vm : VReg} {ra rb : Reg} {ea : Word}

theorem placeAt_block_add (ha : ea.toNat % 64 = 0) (hlo : 0x8000000000000000 ≤ ea.toNat) {j : Nat} (hj : j < 64) :
    placeAt s (ea + BitVec.ofNat 64 j) = placeAt s ea + j := by
  have h := placeAt_element (s := s) ha Nat.one_pos rfl hlo hj
  rwa [Nat.mul_one] at h

/-- A byte of a plain block is a part. -/
theorem plainPart_byte (ha : ea.toNat % 64 = 0) (h : PlainAt s ea 64) {j : Nat} (hj : j < 64) :
    PlainPart s (ea + BitVec.ofNat 64 j) 1 := by
  obtain ⟨hlo, hend, hp⟩ := h
  have hbyte := hp j hj
  refine ⟨Nat.one_pos, by omega, ?_, ?_, fun i hi => ?_⟩ <;> rw [toNat_block_add ha hj]
  · omega
  · omega
  · rwa [Nat.lt_one_iff.mp hi, Nat.add_zero, Nat.sub_add_comm hlo]

theorem storeParts_nibbles (ha : ea.toNat % 64 = 0) (h : PlainAt s ea 64) :
    ∃ u, s.storeParts (((List.range 64).filter (activeByte s vm)).map (nibblePart s vd vm ea)) none false true = .ok u ∧
      Wrote s u (nibbleCells s vd vm ea) := by
  have hlt : ∀ j ∈ (List.range 64).filter (activeByte s vm), j < 64 := fun j hj => List.mem_range.mp (List.mem_filter.mp hj).1
  have hcells : (((List.range 64).filter (activeByte s vm)).map (nibblePart s vd vm ea)).flatMap (partCells s) = nibbleCells s vd vm ea := by
    rw [List.flatMap_map, nibbleCells, elementCells]
    refine List.flatMap_congr fun j hj => ?_
    simp only [nibblePart, partCells, List.length_singleton, List.range_one, List.map_cons, List.map_nil, List.getD_cons_zero,
      placeAt_block_add ha h.1 (hlt j hj)]
  rw [← hcells]
  refine storeParts_plain (fun p hp => ?_) false true
  obtain ⟨j, hj, rfl⟩ := List.mem_map.mp hp
  exact plainPart_byte ha h (hlt j hj)

theorem stores_vstnib (ha : aligned (s.getW ra + s.getW rb) 64 = true) (h : PlainAt s (s.getW ra + s.getW rb) 64) :
    Stores s (.vstnib vd ra rb vm) (nibbleCells s vd vm (s.getW ra + s.getW rb)) := by
  have he : exec (.vstnib vd ra rb vm) s = execVstnib vd ra rb vm s := rfl
  unfold execVstnib at he
  generalize s.getW ra + s.getW rb = ea at *
  simp only [activeByte_eq] at he
  have ha' := aligned_iff.mp ha
  have hpart : PlainPart s ea 64 := ⟨by decide, by rw [ha'], h⟩
  obtain ⟨hlo, hhi⟩ := hpart.bounds
  by_cases hnone : ((List.range 64).filter (activeByte s vm)).isEmpty = true
  · refine ⟨s, 0, he.trans (by simp only [hnone, if_true, settle_ok]), ?_⟩
    rw [nibbleCells, elementCells, List.isEmpty_iff.mp hnone, List.flatMap_nil]
    exact wrote_nil s
  · obtain ⟨u, hstore, hu⟩ := storeParts_nibbles (vd := vd) (vm := vm) ha' h
    refine ⟨u, 0, he.trans ?_, hu⟩
    change s.storeParts (((List.range 64).filter (activeByte s vm)).map fun i => Machine.Part.mk (ea + BitVec.ofNat 64 i)
      [byteOf (s.getV vd) i] (BitVec.ofNat 8 _)) none false true = _ at hstore
    simp only [hnone, ha, not_queue_own hlo hhi, hstore, bind, Except.bind, pure, Except.pure, settle_ok, Bool.not_true,
      Bool.false_eq_true, if_false]

end

theorem Stores.nibbles {s : State} {i : Instr} {vd vm : VReg} {ea : Word} (h : Stores s i (nibbleCells s vd vm ea)) (hinv : s.Inv)
    (ha : ea.toNat % 64 = 0) (hp : PlainAt s ea 64) : ∃ t, exec i s = .next t ∧
      (∀ k, k < 128 → valueAt t (ea + BitVec.ofNat 64 (k / 2)) 1 / 16 ^ (k % 2) % 16 =
        if s.active vm k then lane (s.getV vd) 4 k else valueAt s (ea + BitVec.ofNat 64 (k / 2)) 1 / 16 ^ (k % 2) % 16) ∧
      SameBytes s t (fun p => placeAt s ea ≤ p ∧ p < placeAt s ea + 64) ∧ SameWs s t s.cur Says.none Says.none 0 := by
  obtain ⟨t, he, hunits, _, hws, hsec, hcur, hmem⟩ := h.frame
  refine ⟨t, he, fun k hk => ?_, sameBytes_of_units hunits hsec fun a hout => ?_, hws⟩
  · have hj : k / 2 < 64 := by omega
    have hs : placeAt s (ea + BitVec.ofNat 64 (k / 2)) = placeAt s ea + k / 2 := placeAt_block_add ha hp.1 hj
    have ht : placeAt t (ea + BitVec.ofNat 64 (k / 2)) = placeAt s ea + k / 2 := by rw [placeAt, hcur, ← placeAt, hs]
    have hnib := nibble_nibbleCells hinv vd vm ea hj ⟨k % 2, Nat.mod_lt k (by decide)⟩
    rw [Nat.div_add_mod k 2] at hnib
    rwa [valueAt_one, valueAt_one, ht, hs, hmem]
  · rw [hmem, nibbleCells]
    exact read_elementCells_outside hinv fun j hj _ hin => hout (by omega)

theorem nibbleVectorStore : Says.NibbleVectorStore := by
  intro s vd vm ra rb hinv ea act ha hp
  simp only [act, ← active_iff]
  exact (stores_vstnib (aligned_iff.mpr ha) hp).nibbles hinv ha hp

/-- Settles O39: a store writes its active lanes' elements in lane order, and `vstnib` the bytes with an active lane under their masks. -/
theorem vectorStoreResults : Obligations.VectorStoreResults := ⟨wholeElementStores, nibbleVectorStore⟩

end Sys2Proof.Vector
end

section
/-! PROOFS. What goes on beside an instruction: no agent but the executing instruction writes a register of an active workspace
(01 R20 to R22, 15 R275). -/

namespace Sys2Proof.Streams

open Sys2Proof.Machine
open Sys2Proof.Says hiding none

/-! ### The frame of what other agents do -/

/-- A context's registers, and where its workspace lies. -/
def registers (x : Context) : Workspace × Word × Bool := (x.ws, x.wp, x.active)

/-- THE FRAME of accesses by other agents: the executing context stays, every context keeps its registers and the place of its
workspace, no mark of poison arises, and the cores outside `G` keep their writes on the way. -/
structure Background (G : Nat → Prop) (s t : State) : Prop where
  cur : t.cur = s.cur
  registers : ∀ r, registers (t.ctx r) = registers (s.ctx r)
  writes : ∀ g, ¬ G g → (t.core g).writes = (s.core g).writes
  poison : t.poison ⊆ s.poison

namespace Background

variable {G : Nat → Prop} {s t u : State}

theorem refl : Background G s s := ⟨rfl, fun _ => rfl, fun _ _ => rfl, List.Subset.refl _⟩

theorem trans (h : Background G s t) (k : Background G t u) : Background G s u :=
  ⟨k.cur.trans h.cur, fun r => (k.registers r).trans (h.registers r), fun g hg => (k.writes g hg).trans (h.writes g hg),
    List.Subset.trans k.poison h.poison⟩

theorem mono {H : Nat → Prop} (h : Background G s t) (hG : ∀ g, G g → H g) : Background H s t :=
  ⟨h.cur, h.registers, fun g hg => h.writes g (mt (hG g) hg), h.poison⟩

/-- A change outside the cores that marks nothing. -/
theorem outside (h : Background G s t) (hc : u.cores = t.cores) (hr : u.cur = t.cur) (hp : u.poison ⊆ t.poison) :
    Background G s u := by
  have hcore : ∀ g, u.core g = t.core g := fun g => by rw [State.core, State.core, hc]
  exact h.trans ⟨hr, fun r => by rw [State.ctx, State.ctx, hcore], fun g _ => by rw [hcore], hp⟩

theorem modCore (h : Background G s t) {g : Nat} {f : Core → Core} (hf : ∀ k c, Streams.registers ((f k).ctx c) = Streams.registers (k.ctx c))
    (hw : G g ∨ ∀ k, (f k).writes = k.writes) : Background G s (t.modCore g f) := by
  refine h.trans ⟨rfl, fun r => ?_, fun h hh => ?_, List.Subset.refl _⟩
  · rw [State.ctx, State.core_modCore]
    split
    · next e => rw [hf, State.ctx, e]
    · rfl
  · rw [State.core_modCore]
    split
    · next e => subst e; exact hw.elim (fun hg => absurd hg hh) fun hf => hf _
    · rfl

theorem modCtx (h : Background G s t) {r : CtxRef} {f : Context → Context} (hf : ∀ x, Streams.registers (f x) = Streams.registers x) :
    Background G s (t.modCtx r f) := by
  refine h.modCore (fun k c => ?_) (.inr fun k => rfl)
  rw [Core.ctx_modCtx]
  split
  · next e => rw [hf, e]
  · rfl

theorem modDev (h : Background G s t) (f : Device → Device) : Background G s (t.modDev f) := h.outside rfl rfl (List.Subset.refl _)

theorem modDie (h : Background G s t) (d : Nat) (f : Die → Die) : Background G s (t.modDie d f) :=
  h.outside rfl rfl (List.Subset.refl _)

theorem modCluster (h : Background G s t) (c : Nat) (f : Cluster → Cluster) : Background G s (t.modCluster c f) :=
  h.outside rfl rfl (List.Subset.refl _)

theorem modQuad (h : Background G s t) (q : Nat) (f : Quad → Quad) : Background G s (t.modQuad q f) :=
  h.outside rfl rfl (List.Subset.refl _)

/-- Either way of a choice. -/
theorem choice {c : Prop} [Decidable c] (ht : Background G s t) (hu : Background G s u) :
    Background G s (if c then t else u) := by
  split
  · exact ht
  · exact hu

theorem foldl {β : Type} {f : State → β → State} {l : List β} (h : Background G s t)
    (hf : ∀ u, ∀ x ∈ l, Background G s u → Background G s (f u x)) : Background G s (l.foldl f t) := by
  induction l generalizing t with
  | nil => exact h
  | cons x l ih => exact ih (hf t x List.mem_cons_self h) fun u y hy => hf u y (List.mem_cons_of_mem x hy)

/-! ### Counting, lines and sectors -/

theorem count (h : Background G s t) (r : CtxRef) (e n : Nat) : Background G s (t.count r e n) := by
  unfold State.count
  split
  · refine h.modCore (fun k c => ?_) (.inr fun k => ?_) <;> unfold Core.count <;> split <;> rfl
  · exact h

theorem countSlice (h : Background G s t) (g a : Nat) (w : Bool) (x : Space) : Background G s (t.countSlice g a w x) := by
  cases x with
  | hbm => exact h.outside rfl rfl (List.Subset.refl _)
  | _ => exact h

theorem cache (h : Background G s t) (g : Nat) (es : List TlbEntry) : Background G s (t.cache g es) := by
  unfold State.cache
  generalize es.dedup = es
  induction es generalizing t with
  | nil => exact h
  | cons e es ih => exact ih ((h.modCluster _ _).count _ 11 1)

theorem writeBack (h : Background G s t) (q : Nat) : Background G s (t.writeBack q) := by
  unfold State.writeBack
  split
  · split
    · exact h.outside rfl rfl (List.Subset.refl _)
    · exact h
  · exact h

theorem evict (h : Background G s t) (l : Nat) : Background G s (t.evict l) :=
  h.foldl fun _ q _ h => (h.writeBack q).outside rfl rfl (List.Subset.refl _)

theorem makeRoom (h : Background G s t) (d l n : Nat) : Background G s (t.makeRoom d l n) := by
  unfold State.makeRoom
  dsimp only
  split
  · exact h
  · exact (h.evict _).outside rfl rfl (List.Subset.refl _)

theorem fillSector (h : Background G s t) (d l q : Nat) : Background G s (t.fillSector d l q) := by
  unfold State.fillSector
  split
  · exact h
  · exact (h.makeRoom d l _).outside rfl rfl (List.Subset.refl _)

theorem endFill (h : Background G s t) (l : Nat) : Background G s (t.endFill l) := by
  unfold State.endFill
  split
  · exact h
  · refine modDev (foldl ?_ fun _ m _ h => h.modCtx ?_) _
    · exact h.foldl fun _ q _ h => h.fillSector _ _ q
    · exact fun _ => rfl

theorem pokeSector (h : Background G s t) (plc p : Nat) (v m : Byte) : Background G s (t.pokeSector plc p v m) := by
  unfold State.pokeSector
  split
  · exact h.outside rfl rfl (List.Subset.refl _)
  · exact h

/-! ### Writes that take effect -/

/-- An agent that is no instruction writes no register (01 R21). -/
theorem poke (h : Background G s t) {who : Who} (ho : who.own = false) (p : Nat) (v m : Byte) (x : Space) :
    Background G s (t.poke who p v m x) := by
  cases x with
  | tcm g =>
    simp only [State.poke, State.pokeTcm, ho, Bool.false_and, Bool.false_eq_true, if_false]
    split
    · split
      · exact h.outside rfl rfl (List.Subset.refl _)
      · exact h
    · exact h.outside rfl rfl (List.Subset.refl _)
  | hbm d l c pol =>
    simp only [State.poke, State.pokeHbm]
    split
    · exact (h.writeBack _).outside rfl rfl (List.Subset.refl _)
    · split
      · exact h.outside rfl rfl (List.Subset.refl _)
      · exact (h.fillSector _ _ _).pokeSector _ _ _ _
  | _ => exact h.outside rfl rfl (List.Subset.refl _)

theorem cleanse (h : Background G s t) (w : PendWrite) : Background G s (t.cleanse w) := by
  unfold State.cleanse
  split
  · exact h
  · exact h.outside rfl rfl fun _ h => (List.mem_filter.mp h).1

theorem correct (h : Background G s t) (ps : List Nat) : Background G s (t.correct ps) := by
  unfold State.correct
  dsimp only
  split
  · exact h
  · exact foldl (h.outside rfl rfl (List.Subset.refl _)) fun _ _ _ h => h.count _ 12 1

theorem wake (h : Background G s t) (g : Nat) : Background G s (t.wake g) :=
  h.modCore (fun k c => by simp [Core.wake, Core.ctx, Streams.registers]) (.inr fun _ => rfl)

theorem acquire (h : Background G s t) (who : Who) (ts : List Tag) : Background G s (t.acquire who ts) := by
  unfold State.acquire
  split
  · exact h
  · exact h.modCore (fun _ _ => rfl) (.inr fun _ => rfl)

theorem retag (h : Background G s t) (who : Who) (w : PendWrite) (a : Bool) : Background G s (t.retag who w a) := by
  unfold State.retag
  dsimp only
  split
  · exact h
  · refine h.foldl fun u k _ h => acquire ?_ who _
    exact h.outside rfl rfl (List.Subset.refl _)

theorem land (h : Background G s t) {who : Who} (ho : who.own = false) (w : PendWrite) : Background G s (t.land who w) := by
  have hcells : ∀ u : State, Background G s u → Background G s (((w.cells.foldl (fun s c => s.poke who c.1 c.2.1 c.2.2 w.space) u).cleanse w).correct
      (w.cells.map Prod.fst)) := fun u h =>
    ((h.foldl fun _ c _ h => h.poke ho _ _ _ _).cleanse w).correct _
  unfold State.land
  dsimp only
  split
  · refine (hcells _ ?_).wake _
    split
    · exact h.endFill _
    · exact h
  · refine hcells _ ?_
    split
    · exact h.endFill _
    · exact h

theorem pushSome (h : Background G s t) (go : PendWrite → Bool) : Background G s (t.pushSome go) := by
  unfold State.pushSome
  dsimp only
  split
  · exact h
  · exact foldl (h.modDev _) fun _ w _ h => h.land rfl w

theorem perform (h : Background G s t) {who : Who} (ho : who.own = false) (w : PendWrite) (a : Bool) :
    Background G s (t.perform who w a) := ((h.pushSome _).land ho w).retag who w a

/-! ### Writes that arrive -/

theorem loseWrite (h : Background G s t) (w : PendWrite) (c : BitVec 8) : Background G s (t.loseWrite w c) := by
  refine modCtx ?_ fun _ => rfl
  unfold State.failCopy
  split
  · exact h.modCore (fun _ _ => rfl) (.inr fun _ => rfl)
  · exact h

theorem countRefusals (h : Background G s t) (r : CtxRef) (n : Nat) (x : Option (Nat × Nat)) :
    Background G s (t.countRefusals r n x) := by
  cases x with
  | none => exact h
  | some x =>
    refine h.foldl fun _ _ _ h => ?_
    exact (h.count r 10 1).outside rfl rfl (List.Subset.refl _)

theorem noteMapped (h : Background G s t) (x : Space) (b : Bool) (ps : List Nat) : Background G s (t.noteMapped x b ps) := by
  cases x with
  | hbm =>
    refine h.foldl fun u p _ h => ?_
    dsimp only
    generalize (if b = true then _ else _) = m
    split
    · exact h
    · exact h.outside rfl rfl (List.Subset.refl _)
  | _ => exact h

theorem arrive (h : Background G s t) (w : PendWrite) : Background G s (t.arrive w) := by
  unfold State.arrive
  dsimp only
  split
  · exact h.loseWrite w _
  · have hnoted := (h.countRefusals ⟨w.core, w.ctx⟩ (3 - w.refusals) (t.writeRefused w.space (w.cells.map Prod.fst))).noteMapped
      w.space true (w.cells.map Prod.fst)
    have hcounted := choice (c := w.count = true) (hnoted.countSlice w.core (t.whoAgent w.core).asid true w.space) hnoted
    exact choice (((hcounted.modDev _).cleanse w).retag _ w false) (hcounted.perform rfl w false)

theorem splitWrites_stay {first : PendWrite → PendWrite → Bool} {go : PendWrite → Bool} {ws : List PendWrite}
    (h : (splitWrites first go ws).1 = []) : (splitWrites first go ws).2 = ws := by
  induction ws with
  | nil => rfl
  | cons w ws ih =>
    rw [splitWrites] at h ⊢
    dsimp only at h ⊢
    split at h
    · cases h
    · next hn => rw [if_neg hn, ih h]

/-- Writes that are performed leave the ones that stay on their way. -/
theorem performSome_rest (g : Nat) (go : PendWrite → Bool) :
    Background G (s.modCore g fun k => { k with writes := (splitWrites PendWrite.follows go (s.core g).writes).2 })
      (s.performSome g go) := by
  unfold State.performSome
  dsimp only
  split
  · next h =>
    rw [splitWrites_stay (List.isEmpty_iff.mp h)]
    refine ⟨rfl, fun r => ?_, fun h _ => ?_, List.Subset.refl _⟩
    · rw [State.ctx, State.ctx, State.core_modCore]
      split
      · next e => rw [e]
      · rfl
    · rw [State.core_modCore]
      split
      · next e => rw [e]
      · rfl
  · exact refl.foldl fun _ w _ h => h.arrive w

theorem performSome (h : Background G s t) {g : Nat} (hg : G g) (go : PendWrite → Bool) : Background G s (t.performSome g go) :=
  trans (h.modCore (f := fun k => { k with writes := (splitWrites PendWrite.follows go (t.core g).writes).2 }) (fun _ _ => rfl) (.inl hg))
    (performSome_rest g go)

theorem seenOver (h : Background G s t) {g : Nat} (hG : ∀ x ∈ (t.core g).sees, G x.1) (ps : List Nat) :
    Background G s (t.seenOver g ps) := h.foldl fun _ x hx h => h.performSome (hG x hx) _

end Background

/-- Any core's writes on the way may have been performed. -/
def anyCore : Nat → Prop := fun _ => True

namespace Background

variable {s t u : State}

theorem before (h : Background anyCore s t) (who : Who) (ps : List Nat) : Background anyCore s (t.before who ps) := by
  refine seenOver ?_ (fun _ _ => trivial) ps
  split
  · exact h.performSome trivial _
  · exact h.performSome trivial _

theorem beforeRead (h : Background anyCore s t) (who : Who) (rs : List Run) : Background anyCore s (t.beforeRead who rs) := by
  unfold State.beforeRead
  dsimp only
  have hpush := (h.before who (placesOf rs)).pushSome (·.touches (placesOf rs))
  refine correct (foldl ?_ fun _ r _ h => h.noteMapped _ _ _) _
  split
  · exact hpush
  · exact hpush.acquire who _

theorem sliceRead {b c : Bool} {r : Run} (h : Background anyCore s t) (hr : t.sliceRead b r = .ok (c, u)) :
    Background anyCore s u := by
  unfold State.sliceRead at hr
  split at hr
  · cases hr; exact h
  · dsimp only at hr
    split at hr
    · split at hr <;> cases hr
      exact h.outside rfl rfl (List.Subset.refl _)
    · split at hr
      · cases hr; exact h
      · split at hr <;> cases hr
        exact h.outside rfl rfl (List.Subset.refl _)

theorem sliceReads {b : Bool} {rs : List Run} (h : Background anyCore s t) (hr : t.sliceReads b rs = .ok u) :
    Background anyCore s u := by
  induction rs generalizing t b with
  | nil => cases hr; exact h
  | cons r rs ih =>
    obtain ⟨v, hv, hr⟩ := res_bind_ok hr
    exact ih (h.sliceRead hv) hr

theorem stallOn (h : Background anyCore s t) (rs : List Run) : Background anyCore s (t.stallOn rs) := by
  unfold State.stallOn
  split
  · exact h
  · exact h.modCtx fun _ => rfl

theorem countAt (h : Background anyCore s t) (a : Word) : Background anyCore s (t.countAt a) := by
  unfold State.countAt
  dsimp only
  split
  · exact h.countSlice _ _ _ _
  · exact h

/-- A load writes no register itself, whatever it meets at its place. -/
theorem load {ea : Word} {n : Nat} {acq : Option Nat} {bs : List Byte} (h : s.load ea n acq = .ok (bs, t)) :
    Background anyCore s t := by
  obtain ⟨x, hx, h⟩ := res_bind_ok h
  cases h
  obtain ⟨_, _, hx⟩ := res_bind_ok hx
  obtain ⟨_, _, hx⟩ := res_bind_ok hx
  obtain ⟨u, hu, hx⟩ := res_bind_ok hx
  cases hx
  exact ((((refl.sliceReads hu).beforeRead _ _).cache _ _).stallOn _).countAt ea

/-! ### Conversion counters (02 R51, R52) -/

theorem countRuns (h : Background anyCore s t) (who : Who) (w : Bool) (rs : List Run) :
    Background anyCore s (t.countRuns who w rs) :=
  h.foldl fun _ _ _ h => foldl (h.countRefusals _ _ _) fun _ _ _ h => h.countSlice _ _ _ _

theorem performRuns (h : Background anyCore s t) {who : Who} (ho : who.own = false) (rel : Option Nat) (a : Bool) (rs : List Run)
    (bs : List Byte) (ts : List Tag) : Background anyCore s (t.performRuns who rel a rs bs ts) := by
  induction rs generalizing t bs with
  | nil => exact h
  | cons r rs ih => exact ih ((h.noteMapped _ _ _).perform ho _ a) _

theorem agentAtom (h : Background anyCore s t) {who : Who} (ho : who.own = false) {a : Word} {n : Nat} {f : List Byte → List Byte}
    {rel : Bool} {sc : Option Nat} {ts : List Tag} {bs : List Byte} (ha : t.agentAtom who a n f rel sc ts = .ok (bs, u)) :
    Background anyCore s u := by
  obtain ⟨x, _, ha⟩ := res_bind_ok ha
  obtain ⟨_, _, ha⟩ := res_bind_ok ha
  cases ha
  refine performRuns (beforeRead ?_ who _) ho _ _ _ _ _
  unfold State.releaseAt
  split
  · exact ((h.countRuns who true _).cache _ _).pushSome _
  · exact (h.countRuns who true _).cache _ _

theorem pendCrossing (h : Background anyCore s t) (r : CtxRef) (c : Crossing) (x : CrossAt) :
    Background anyCore s (t.pendCrossing r c x) := by
  cases x with
  | context => exact h.modCtx fun _ => rfl
  | command | meeting =>
    exact choice (h.modQuad _ _) (h.modCtx fun _ => rfl)

theorem counterAdd (h : Background anyCore s t) (r : CtxRef) (a : Agent) (wd : BitVec 32) (i : Fin 4) (n : Nat) (src : Fin 4)
    (x : CrossAt) : Background anyCore s (t.counterAdd r a wd i n src x) := by
  unfold State.counterAdd
  dsimp only
  split
  · exact h.modCtx fun _ => rfl
  · next u hu =>
    have hadd := h.agentAtom rfl hu
    refine choice (pendCrossing ?_ r _ x) hadd
    split
    · next hv => exact hadd.agentAtom rfl hv
    · exact hadd

/-- The totals of an operation change no register. -/
theorem countCvt (h : Background anyCore s t) (r : CtxRef) (a : Agent) (wd : BitVec 32) (c : Counts) (src : Fin 4) (x : CrossAt) :
    Background anyCore s (t.countCvt r a wd c src x) := by
  have step : ∀ {u : State} (i : Fin 4) (n : Nat), Background anyCore s u →
      Background anyCore s (if n = 0 then u else u.counterAdd r a wd i n src x) := fun i n h =>
    choice h (h.counterAdd r a wd i n src x)
  exact step 2 c.nan (step 1 c.ftz (step 0 c.sat h))

/-! ### What the registers show after it -/

variable {G : Nat → Prop} (h : Background G s t)
include h

theorem ws : t.cx.ws = s.cx.ws := by
  rw [State.cx, State.cx, h.cur]
  exact congrArg Prod.fst (h.registers s.cur)

theorem getW (n : Reg) : t.getW n = s.getW n := by rw [State.getW, State.getW, h.ws]

theorem getV (n : VReg) : t.getV n = s.getV n := by rw [State.getV, State.getV, h.ws]

theorem getCb (n : Fin 8) : t.getCb n = s.getCb n := by rw [State.getCb, State.getCb, h.ws]

end Background

end Sys2Proof.Streams
end

section
/-! PROOFS. Conversions (08 R158 to R162). -/

namespace Sys2Proof.Streams

open Sys2Proof.Machine
open Sys2Proof.NumberFormats
open Sys2Proof.Vector (lane_mergeLanes)
open Sys2Proof.Says hiding none

/-! ### The elements of a conversion (08 R159) -/

/-- The first elements of a result are computed, kept or all ones, and those above are 0. -/
theorem lane_mergeLanes_le {w n k : Nat} (h : k < 512 / w) (old : VWord) (act : Nat → Bool) (ones : Bool) (f : Nat → Nat) :
    lane (mergeLanes w n old act ones f) w k =
      if n ≤ k then 0 else if act k then f k % 2 ^ w else if ones then 2 ^ w - 1 else lane old w k := by
  rw [mergeLanes, lane_ofLanes h]
  by_cases hk : n ≤ k
  · rw [List.getD_eq_default _ _ (by simpa using hk), Nat.zero_mod, if_pos hk]
  · rw [List.getD_eq_getElem _ _ (by simpa using hk), List.getElem_map, List.getElem_range, if_neg hk]
    split_ifs
    · rfl
    · exact Nat.mod_eq_of_lt (Nat.sub_one_lt (Nat.two_pow_pos w).ne')
    · exact Nat.mod_eq_of_lt (lane_lt old w k)

/-- Where no active element counts, the totals are nothing. -/
theorem foldl_counts_nothing {n : Nat} {act : Nat → Bool} {c : Nat → Counted} (h : ∀ k, k < n → act k = true → c k = .nothing) :
    (List.range n).foldl (fun (x : Counts) k => if act k then x.plus (c k).counts else x) {} = {} := by
  have step : ∀ l : List Nat, (∀ k ∈ l, k < n) →
      l.foldl (fun (x : Counts) k => if act k then x.plus (c k).counts else x) {} = {} := by
    intro l hl
    induction l with
    | nil => rfl
    | cons k l ih =>
      have hk : (if act k = true then Counts.plus {} (c k).counts else {}) = {} := by
        split
        · next ha => rw [h k (hl k List.mem_cons_self) ha]; rfl
        · rfl
      rw [List.foldl_cons, hk, ih fun j hj => hl j (List.mem_cons_of_mem k hj)]
  exact step _ fun k hk => List.mem_range.mp hk

/-! ### Conversions complete -/

/-- What a conversion retires: its elements, its flags and what it counts. -/
def converted (s : State) (vd va vm : VReg) (mp : Fin 2) (st dt : Nat) (f : Nat → Nat → Elem) : VWord × Flags × Counts :=
  let e := min (dtLanes st) (dtLanes dt)
  let x := fun i => f i (lane (s.getV va) (dtWidth st) i)
  (mergeLanes (dtWidth dt) e (s.getV vd) (s.active vm) (mp == 1) fun i => (x i).bits,
    unionFlags e (s.active vm) fun i => (x i).flags,
    (List.range e).foldl (fun (c : Counts) i => if s.active vm i then c.plus (x i).count.counts else c) {})

theorem convert_eq (s : State) (vd va vm : VReg) (mp : Fin 2) (st dt bound : Nat) (f : Nat → Nat → Elem) :
    s.convert vd va vm mp st dt bound f =
      let r := converted s vd va vm mp st dt f
      .next (((((s.raise r.2.1).setV vd r.1).vecBusy bound).countCvt s.cur .network s.curWord r.2.2 0).advance) := rfl

/-- Each conversion is one shared operation. -/
theorem exec_convert {s : State} {i : Instr} {vd va vm : VReg} {mp : Fin 2} {st dt : Nat} {f : Nat → Nat → Elem}
    (h : convertForm s i = some (vd, va, vm, mp, st, dt, f)) : ∃ bound, exec i s = s.convert vd va vm mp st dt bound f := by
  cases i with
  | vcvt | vdec | vscl => cases h; exact ⟨1, rfl⟩
  | venc _ _ _ _ _ dt =>
    cases h
    have hbig : (dt == 9) = (dt.val == 9) := by revert dt; decide
    have hnine : dt = 9 ↔ dt.val = 9 := by revert dt; decide
    refine ⟨if dt == 9 then 4 else 1, ?_⟩
    change execVenc _ _ _ _ _ dt s = _
    simp only [execVenc, hbig, hnine, beq_iff_eq]
  | _ => cases h

/-- Settles O36: the counts that follow the write of vd change no register, and are nothing where no element counts. -/
theorem conversionResults : Obligations.ConversionResults := by
  intro s i vd va vm mp st dt f h n w act x
  obtain ⟨bound, he⟩ := exec_convert h
  rw [convert_eq] at he
  dsimp only at he
  obtain ⟨v, hv⟩ : ∃ v, v = ((s.raise (converted s vd va vm mp st dt f).2.1).setV vd (converted s vd va vm mp st dt f).1).vecBusy bound :=
    ⟨_, rfl⟩
  rw [← hv] at he
  have hcount := Background.refl.countCvt (s := v) s.cur .network s.curWord (converted s vd va vm mp st dt f).2.2 0 .context
  refine ⟨_, he, fun k hk => ?_, ?_, fun hnone => ?_⟩
  · rw [getV_advance, hcount.getV, hv, State.getV, cx_vecBusy, ← State.getV, State.getV_setV, if_pos rfl, converted,
      lane_mergeLanes_le hk]
    simp only [beq_iff_eq]
    rfl
  · rw [cflags_advance, hcount.ws, hv, cx_vecBusy, State.setV, State.cx_modWs, cflags_raise]
    rfl
  · have hz : (converted s vd va vm mp st dt f).2.2 = {} := foldl_counts_nothing hnone
    rw [hz, hv]
    exact onlyVec_trans (onlyVec_raise s (flags_word_mask _)) (onlyVec_vretire (v := (· = vd)) _ rfl _ bound)

end Sys2Proof.Streams
end

section
/-! PROOFS. Changes of the executing context's own workspace, and values stored to own TCM (01 R15, R16, 14 R257). -/

namespace Sys2Proof.Streams

open Sys2Proof.Machine
open Sys2Proof.NumberFormats
open Sys2Proof.Formats (sameMemory_modCx sameUnits_modCx sameCores_modCx sameCore_modCx sameCores_trans onlyOwn_advance)
open Sys2Proof.Scalar
open Sys2Proof.Vector (ofBytes_digits)
open Sys2Proof.Says hiding none

/-! ### A change of the workspace that an instruction makes before it moves on -/

/-- Memory, the units, the other cores and the rest of the executing core are as before. -/
def OwnContext (s t : State) : Prop := SameMemory s t ∧ SameUnits s t ∧ SameCores s t s.cur.core ∧ SameCore s t s.cur

theorem ownContext_of_onlyOwn {s t : State} {w : Reg → Prop} {v : VReg → Prop} {f : Word} (h : OnlyOwn s t w v f) : OwnContext s t := by
  obtain ⟨hm, hu, hg, hc, _⟩ := h
  exact ⟨hm, hu, hg, hc⟩

theorem ownContext_modWs_trans {s t : State} {g : Workspace → Workspace} (h : OwnContext (s.modWs g) t) : OwnContext s t := by
  obtain ⟨hm, hu, hg, hc⟩ := h
  exact ⟨sameMemory_trans sameMemory_modCx hm, sameUnits_trans sameUnits_modCx hu, sameCores_trans sameCores_modCx hg,
    sameCore_trans sameCore_modCx hc⟩

theorem ownContext_modWs_retire (s : State) (g : Workspace → Workspace) (rd : Reg) (x : Word) :
    OwnContext s ((s.modWs g).retire rd x) := ownContext_modWs_trans (ownContext_of_onlyOwn (onlyOwn_retire _ rd x))

theorem ownContext_modWs_advance (s : State) (g : Workspace → Workspace) : OwnContext s (s.modWs g).advance :=
  ownContext_modWs_trans (ownContext_of_onlyOwn (onlyOwn_advance _))

theorem getW_modWs (s : State) {g : Workspace → Workspace} (hg : ∀ w, (g w).w = w.w) (n : Reg) : (s.modWs g).getW n = s.getW n := by
  rw [State.getW, State.cx_modWs, State.getW, hg]

@[simp] theorem getW_setCb (s : State) (c : Fin 8) (d : BitVec 128) (n : Reg) : (s.setCb c d).getW n = s.getW n := by
  refine getW_modWs s ?_ n
  exact fun _ => rfl

/-- A result that retires leaves the workspace but for its register and the PC. -/
theorem ws_retire (s : State) (rd : Reg) (x : Word) : ∃ r pc, (s.retire rd x).cx.ws = { s.cx.ws with w := r, pc := pc } := by
  obtain ⟨pc, h⟩ := ws_advance (s.setW rd x)
  have hset : ∃ r, (s.setW rd x).cx.ws = { s.cx.ws with w := r } := by
    unfold State.setW
    split
    · exact ⟨_, rfl⟩
    · rw [State.cx_modWs]
      exact ⟨_, rfl⟩
  obtain ⟨r, hr⟩ := hset
  exact ⟨r, pc, by rw [State.retire, h, hr]⟩

theorem getCb_advance (s : State) (n : Fin 8) : s.advance.getCb n = s.getCb n := by
  obtain ⟨pc, h⟩ := ws_advance s
  rw [State.getCb, h, State.getCb]

theorem getCb_retire (s : State) (rd : Reg) (x : Word) (n : Fin 8) : (s.retire rd x).getCb n = s.getCb n := by
  obtain ⟨r, pc, h⟩ := ws_retire s rd x
  rw [State.getCb, h, State.getCb]

/-! ### A value stored to own TCM -/

/-- The cells of a value's low bytes at an offset of the executing core's TCM. -/
def valueCells (s : State) (off n x : Nat) : List Machine.Cell :=
  (List.range n).map fun i => (tcmPlace s.cur.core off + i, (toBytes n x).getD i 0, 0xFF)

theorem read_valueCells {m : Memory} (hm : m.wf = true) (s : State) (off n x q : Nat) :
    Memory.read (writeCells m (valueCells s off n x)) q =
      if tcmPlace s.cur.core off ≤ q ∧ q < tcmPlace s.cur.core off + n then (toBytes n x).getD (q - tcmPlace s.cur.core off) 0
      else Memory.read m q := by
  rw [valueCells, read_writeCells hm, blend_full]

/-- The value that was stored last stands there. -/
theorem tcmValue_valueCells {s t : State} {m : Memory} {off n x : Nat} (hm : m.wf = true) (hcur : t.cur = s.cur)
    (hmem : t.mem = writeCells m (valueCells s off n x)) : tcmValue t off n = x % 256 ^ n := by
  rw [← ofBytes_digits, tcmValue]
  refine congrArg ofBytes (List.map_congr_left fun i hi => ?_)
  have hi := List.mem_range.mp hi
  rw [hmem, hcur, tcmPlace_add, read_valueCells hm, if_pos ⟨Nat.le_add_right _ _, Nat.add_lt_add_left hi _⟩, Nat.add_sub_cancel_left,
    getD_toBytes hi]

/-- A value is stored to plain bytes of own TCM. -/
theorem store_value {s : State} {off n : Nat} (h : PlainTcm s off n) (h0 : 0 < n) (hn : off % 64 + n ≤ 64) (x : Nat) :
    ∃ t, s.store (BitVec.ofNat 64 (0x8000000000000000 + off)) (toBytes n x) = .ok t ∧ Wrote s t (valueCells s off n x) :=
  store_tcm h h0 hn (length_toBytes n x) 0xFF

theorem cx_wrote {s t : State} {cs : List Machine.Cell} (h : Wrote s t cs) : t.cx = s.cx := by
  rw [h.1]
  rfl

/-- The value of a store, after a change of the workspace. -/
theorem tcmValue_stored {s t u : State} {off n x : Nat} (hinv : s.Inv) (h : Wrote s t (valueCells s off n x)) (hcur : u.cur = t.cur)
    (hmem : u.mem = t.mem) : tcmValue u off n = x % 256 ^ n := by
  refine tcmValue_valueCells (s := s) hinv (hcur.trans ?_) (hmem.trans ?_) <;> rw [h.1]

end Sys2Proof.Streams
end

section
/-! PROOFS. The bit-stream instructions (08 R154 to R157). -/

namespace Sys2Proof.Streams

open Sys2Proof.Machine
open Sys2Proof.NumberFormats
open Sys2Proof.Formats (onlyOwn_advance)
open Sys2Proof.Scalar
open Sys2Proof.Vector (tcmValue_lt)
open Sys2Proof.Says hiding none

/-! ### The fields of BSN and BSP (08 R154) -/

theorem bsCnt_eq (w : Workspace) : w.bsCnt = w.bsn.toNat % 2 ^ 7 := by
  rw [Workspace.bsCnt, bits, Nat.pow_zero, Nat.div_one]

theorem bsDir_iff (w : Workspace) : w.bsDir = true ↔ 2 ^ 31 ≤ w.bsn.toNat := by
  have := w.bsn.isLt
  rw [Workspace.bsDir, ← BitVec.testBit_toNat, Nat.testBit_eq_decide_div_mod_eq, decide_eq_true_eq]
  omega

/-- The state that 08 R157 asks for: at most 64 bits held, no reserved bit, and a block-aligned pointer. -/
def BufferSound (w : Workspace) : Prop := w.bsn.toNat % 2 ^ 7 ≤ 64 ∧ w.bsn.toNat / 2 ^ 7 % 2 ^ 24 = 0 ∧ w.bsp.toNat % 8 = 0

theorem bsCheck_ok {w : Workspace} {dir : Option Bool} (hd : (dir.any fun d => d != w.bsDir) = false) (h : BufferSound w) :
    w.bsCheck dir = .ok () := by
  obtain ⟨hc, hr, hp⟩ := h
  have hbits : bits w.bsn.toNat 30 7 = 0 := hr
  rw [Workspace.bsCheck, hd, bsCnt_eq, hbits, hp]
  simp only [Bool.false_eq_true, if_false, ne_eq, not_true_eq_false, or_false, if_neg (Nat.not_lt.mpr hc)]

theorem bsCheck_direction {w : Workspace} {dir : Option Bool} (hd : (dir.any fun d => d != w.bsDir) = true) :
    w.bsCheck dir = .error (.sys 0x01 1 0 .none) := by
  rw [Workspace.bsCheck, if_pos hd]
  rfl

theorem bsCheck_unsound {w : Workspace} {dir : Option Bool} (hd : (dir.any fun d => d != w.bsDir) = false)
    (h : 64 < w.bsn.toNat % 2 ^ 7 ∨ w.bsn.toNat / 2 ^ 7 % 2 ^ 24 ≠ 0 ∨ w.bsp.toNat % 8 ≠ 0) :
    w.bsCheck dir = .error (.sys 0x01 2 0 .none) := by
  have hodd : 64 < w.bsCnt ∨ bits w.bsn.toNat 30 7 ≠ 0 ∨ w.bsp.toNat % 8 ≠ 0 := by rwa [bsCnt_eq]
  rw [Workspace.bsCheck, if_neg (by rw [hd]; decide), if_pos hodd]
  rfl

theorem bsBlock_eq (w : Workspace) : w.bsBlock = BitVec.ofNat 64 (0x8000000000000000 + w.bsp.toNat) := by
  have := w.bsp.isLt
  have hbase : (0x8000000000000000 : Word).toNat = 0x8000000000000000 := rfl
  refine BitVec.eq_of_toNat_eq ?_
  rw [Workspace.bsBlock, BitVec.toNat_add, BitVec.toNat_setWidth, BitVec.toNat_ofNat, hbase]
  omega

theorem toNat_bsnOf (dir : Bool) {c : Nat} (h : c < 2 ^ 31) : (bsnOf dir c).toNat = (if dir then 2 ^ 31 else 0) + c := by
  rw [bsnOf, BitVec.toNat_ofNat]
  cases dir <;> simp only [Bool.false_eq_true, if_false, if_true] <;> omega

/-- An aligned block lies in one aligned 64-byte block. -/
theorem block_in_line {off : Nat} (h : off % 8 = 0) : off % 64 + 8 ≤ 64 := by omega

/-! ### The state checks (08 R157) -/

section
variable {s : State} {e : Stop}

theorem exec_read_stop (h : s.cx.ws.bsCheck (some false) = .error e) {i : Instr} {rd : Reg} {n : Fin 64}
    (hi : i = .bsget rd n ∨ i = .bspeek rd n ∨ i = .bsskip n) : exec i s = .next (s.stop e) := by
  have hfetch : s.bsFetch (bsN n) = .error e := by
    rw [State.bsFetch, h]
    rfl
  rcases hi with rfl | rfl | rfl
  · change execBsget rd n s = _
    rw [execBsget, hfetch]
    rfl
  · change execBspeek rd n s = _
    rw [execBspeek, hfetch]
    rfl
  · change execBsskip n s = _
    rw [execBsskip, hfetch]
    rfl

theorem exec_write_stop (h : s.cx.ws.bsCheck (some true) = .error e) {i : Instr} {ra : Reg} {n : Fin 64}
    (hi : i = .bsput ra n ∨ i = .bsflush) : exec i s = .next (s.stop e) := by
  rcases hi with rfl | rfl
  · change execBsput ra n s = _
    simp only [execBsput, h, bind, Except.bind, settle_error]
  · change execBsflush s = _
    simp only [execBsflush, h, bind, Except.bind, settle_error]

theorem exec_either_stop (h : s.cx.ws.bsCheck .none = .error e) (rd : Reg) :
    exec .bsalign s = .next (s.stop e) ∧ exec (.bspos rd) s = .next (s.stop e) := by
  constructor
  · change execBsalign s = _
    simp only [execBsalign, h, bind, Except.bind, settle_error]
  · change execBspos rd s = _
    simp only [execBspos, h, bind, Except.bind, settle_error]

end

theorem exec_bsinit_misaligned {s : State} {ra : Reg} {dir : Fin 2} (h : (s.getW ra).toNat % 8 ≠ 0) :
    exec (.bsinit ra dir) s = .next (s.sysFault 0x02 (s.getW ra) (s.getW ra) .none) := by
  change execBsinit ra dir s = _
  have hal : aligned (s.getW ra) 8 = false := Bool.eq_false_iff.mpr (mt aligned_iff.mp h)
  rw [execBsinit, hal]
  rfl

theorem exec_bsinit_outside {s : State} {ra : Reg} {dir : Fin 2} (h : (s.getW ra).toNat % 8 = 0)
    (hr : (s.getW ra).toNat < 0x8000000000000000 ∨ 0x8000000000080000 ≤ (s.getW ra).toNat) :
    exec (.bsinit ra dir) s = .next (s.sysFault 0x03 (s.getW ra) (s.getW ra) .none) := by
  change execBsinit ra dir s = _
  simp only [execBsinit, aligned_iff.mpr h, Bool.not_true, Bool.false_eq_true, if_false, if_pos hr]
  rfl

theorem bitStreamChecks : Says.BitStreamChecks := by
  intro s rd ra nf dir w a bad out odd
  have hread : out = false → ((some false).any fun d => d != w.bsDir) = false := fun h => by
    rw [Option.any_some, show w.bsDir = false from h]; rfl
  have hwrite : out = true → ((some true).any fun d => d != w.bsDir) = false := fun h => by
    rw [Option.any_some, show w.bsDir = true from h]; rfl
  refine ⟨fun i hi => ⟨fun h => ?_, fun h ho => exec_read_stop (bsCheck_unsound (hread h) ho) hi⟩,
    fun i hi => ⟨fun h => ?_, fun h ho => exec_write_stop (bsCheck_unsound (hwrite h) ho) hi⟩,
    fun ho => exec_either_stop (bsCheck_unsound rfl ho) rd, fun h => ?_, fun h hr => ?_⟩
  · exact exec_read_stop (bsCheck_direction (by rw [Option.any_some, show s.cx.ws.bsDir = true from h]; rfl)) hi
  · exact exec_write_stop (bsCheck_direction (by rw [Option.any_some, show s.cx.ws.bsDir = false from h]; rfl)) hi
  · exact exec_bsinit_misaligned h
  · exact exec_bsinit_outside h hr

/-! ### Reading (08 R156) -/

/-- The stream, count and pointer that a read of n bits finds: the held bits, or those and the next block. -/
def fetched (s : State) (n : Nat) : Nat × Nat × BitVec 32 :=
  let w := s.cx.ws
  if n ≤ w.bsCnt then (w.bsHeld, w.bsCnt, w.bsp) else (w.bsHeld + tcmValue s w.bsp.toNat 8 * 2 ^ w.bsCnt, w.bsCnt + 64, w.bsp + 8)

theorem bsFetch_eq {s : State} {n : Nat} (hd : s.cx.ws.bsDir = false) (h : BufferSound s.cx.ws)
    (hp : n ≤ s.cx.ws.bsCnt ∨ PlainTcm s s.cx.ws.bsp.toNat 8) :
    s.bsFetch n = .ok ((fetched s n).1, (fetched s n).2.1, (fetched s n).2.2, s) := by
  have hcheck : s.cx.ws.bsCheck (some false) = .ok () := bsCheck_ok (by rw [Option.any_some, hd]; rfl) h
  by_cases hn : n ≤ s.cx.ws.bsCnt
  · simp only [State.bsFetch, hcheck, bind, Except.bind, fetched, if_neg (Nat.not_lt.mpr hn), if_pos hn, pure, Except.pure]
  · have hplain := hp.resolve_left hn
    have hload := load_tcm hplain (by decide) (block_in_line h.2.2) none
    rw [← bsBlock_eq] at hload
    have hval : ofBytes ((List.range 8).map fun i => Memory.read s.mem (tcmPlace s.cur.core s.cx.ws.bsp.toNat + i)) =
        tcmValue s s.cx.ws.bsp.toNat 8 := by simp only [tcmValue, tcmPlace_add]
    simp only [State.bsFetch, hcheck, bind, Except.bind, fetched, if_pos (Nat.not_le.mp hn), if_neg hn, pure, Except.pure, hload, hval]

theorem bsConsume_eq (s : State) (x m n : Nat) (p : BitVec 32) : s.bsConsume x m n p =
    s.modWs fun w => { w with bsb := BitVec.ofNat 64 (x / 2 ^ n), bsn := bsnOf false (m - n), bsp := p } := rfl

section
variable {s : State} {nf : Fin 64} {x m : Nat} {p : BitVec 32} (h : s.bsFetch (bsN nf) = .ok (x, m, p, s))
include h

theorem exec_bsget (rd : Reg) :
    exec (.bsget rd nf) s = .next ((s.bsConsume x m (bsN nf) p).retire rd (BitVec.ofNat 64 (x % 2 ^ bsN nf))) := by
  change execBsget rd nf s = _
  rw [execBsget, h]
  rfl

theorem exec_bspeek (rd : Reg) : exec (.bspeek rd nf) s = .next (s.retire rd (BitVec.ofNat 64 (x % 2 ^ bsN nf))) := by
  change execBspeek rd nf s = _
  rw [execBspeek, h]
  rfl

theorem exec_bsskip : exec (.bsskip nf) s = .next (s.bsConsume x m (bsN nf) p).advance := by
  change execBsskip nf s = _
  rw [execBsskip, h]
  rfl

end

theorem getW_bsConsume (s : State) (x m n : Nat) (p : BitVec 32) (r : Reg) : (s.bsConsume x m n p).getW r = s.getW r := by
  refine getW_modWs s ?_ r
  exact fun _ => rfl

/-- A BSN that only counts: the state is sound, and reading. -/
theorem sound_of_reading {w : Workspace} (hc : w.bsn.toNat ≤ 64) (hp : w.bsp.toNat % 8 = 0) :
    BufferSound w ∧ w.bsCnt = w.bsn.toNat ∧ w.bsDir = false := by
  refine ⟨⟨by omega, by omega, hp⟩, by rw [bsCnt_eq]; omega, ?_⟩
  rw [Bool.eq_false_iff, ne_eq, bsDir_iff]
  omega

theorem fetched_eq {s : State} (hcnt : s.cx.ws.bsCnt = s.cx.ws.bsn.toNat) (n : Nat) : fetched s n =
    (if n ≤ s.cx.ws.bsn.toNat then s.cx.ws.bsb.toNat % 2 ^ s.cx.ws.bsn.toNat
      else s.cx.ws.bsb.toNat % 2 ^ s.cx.ws.bsn.toNat + tcmValue s s.cx.ws.bsp.toNat 8 * 2 ^ s.cx.ws.bsn.toNat,
      if n ≤ s.cx.ws.bsn.toNat then s.cx.ws.bsn.toNat else s.cx.ws.bsn.toNat + 64,
      if n ≤ s.cx.ws.bsn.toNat then s.cx.ws.bsp else s.cx.ws.bsp + 8) := by
  simp only [fetched, Workspace.bsHeld, hcnt]
  split <;> rfl

/-- The registers of the bit buffer after bits were consumed. -/
theorem consumed_registers {s t : State} {x m n : Nat} {p : BitVec 32} (hm : m - n < 2 ^ 31) {r : Vector Word 32} {pc : Word}
    (ht : t.cx.ws = { (s.bsConsume x m n p).cx.ws with w := r, pc := pc }) :
    t.cx.ws.bsb = BitVec.ofNat 64 (x / 2 ^ n) ∧ t.cx.ws.bsn.toNat = m - n ∧ t.cx.ws.bsp = p := by
  rw [ht, bsConsume_eq, State.cx_modWs]
  exact ⟨rfl, (toNat_bsnOf false hm).trans (by simp), rfl⟩

theorem bitReadResults : Says.BitReadResults := by
  intro s rd nf w n c held hc hp hplain x m p
  obtain ⟨hsound, hcnt, hdir⟩ := sound_of_reading hc hp
  have hfetch := bsFetch_eq (n := n) hdir hsound (by rwa [hcnt])
  have hfetched : fetched s n = (x, if n ≤ c then c else c + 64, p) := fetched_eq hcnt n
  rw [hfetched] at hfetch
  have hleft : (if n ≤ c then c else c + 64) - n = m := by
    simp only [m]
    split <;> rfl
  have hsmall : (if n ≤ c then c else c + 64) - n < 2 ^ 31 := by split <;> omega
  have hn : bsN nf = n := rfl
  refine ⟨⟨_, exec_bsget hfetch rd, fun r => ?_, ?_⟩, ⟨_, exec_bspeek hfetch rd, onlyOwn_retire s rd _, fun h => ?_⟩,
    _, exec_bsskip hfetch, fun r => ?_, ?_⟩
  · rw [getW_retire, getW_bsConsume]
    rfl
  · obtain ⟨r, pc, hws⟩ := ws_retire (s.bsConsume x (if n ≤ c then c else c + 64) n p) rd (BitVec.ofNat 64 (x % 2 ^ n))
    obtain ⟨hb, hcount, hptr⟩ := consumed_registers hsmall hws
    exact ⟨hb, hcount.trans hleft, hptr, ownContext_modWs_retire s _ rd _⟩
  · rw [getW_retire, if_pos ⟨rfl, h⟩]
    rfl
  · rw [getW_advance, getW_bsConsume]
  · obtain ⟨pc, hws⟩ := ws_advance (s.bsConsume x (if n ≤ c then c else c + 64) n p)
    obtain ⟨hb, hcount, hptr⟩ := consumed_registers hsmall (r := (s.bsConsume x (if n ≤ c then c else c + 64) n p).cx.ws.w) hws
    exact ⟨hb, hcount.trans hleft, hptr, ownContext_modWs_advance s _⟩

/-! ### Writing (08 R156) -/

/-- The stream with the low n bits of a register appended. -/
def appended (s : State) (ra : Reg) (n : Nat) : Nat := s.cx.ws.bsHeld + (s.getW ra).toNat % 2 ^ n * 2 ^ s.cx.ws.bsCnt

theorem bsHeld_lt (w : Workspace) : w.bsHeld < 2 ^ w.bsCnt := Nat.mod_lt _ (Nat.two_pow_pos _)

theorem appended_lt (s : State) (ra : Reg) (n : Nat) : appended s ra n < 2 ^ (s.cx.ws.bsCnt + n) := by
  have hheld := bsHeld_lt s.cx.ws
  have hnew : (s.getW ra).toNat % 2 ^ n + 1 ≤ 2 ^ n := Nat.mod_lt _ (Nat.two_pow_pos n)
  calc appended s ra n < 2 ^ s.cx.ws.bsCnt + (s.getW ra).toNat % 2 ^ n * 2 ^ s.cx.ws.bsCnt := Nat.add_lt_add_right hheld _
    _ = ((s.getW ra).toNat % 2 ^ n + 1) * 2 ^ s.cx.ws.bsCnt := by ring
    _ ≤ 2 ^ n * 2 ^ s.cx.ws.bsCnt := Nat.mul_le_mul_right _ hnew
    _ = 2 ^ (s.cx.ws.bsCnt + n) := by rw [Nat.add_comm, Nat.pow_add]

theorem toNat_ofNat_of_lt {x n : Nat} (h : x < 2 ^ n) (hn : n ≤ 64) : (BitVec.ofNat 64 x).toNat = x :=
  Nat.mod_eq_of_lt (h.trans_le (Nat.pow_le_pow_right (by decide) hn))

/-- A BSN that counts 64 bits at most, for either direction: the state is sound. -/
theorem sound_of_count {w : Workspace} (hc : w.bsn.toNat % 2 ^ 31 ≤ 64) (hp : w.bsp.toNat % 8 = 0) :
    BufferSound w ∧ w.bsCnt = w.bsn.toNat % 2 ^ 31 :=
  ⟨⟨by omega, by omega, hp⟩, by rw [bsCnt_eq]; omega⟩

theorem bsN_le (n : Fin 64) : bsN n ≤ 64 := by
  have := n.isLt
  unfold bsN
  split <;> omega

/-- Moving on leaves the bit buffer. -/
theorem buffer_advance (s : State) : s.advance.cx.ws.bsb = s.cx.ws.bsb ∧ s.advance.cx.ws.bsn = s.cx.ws.bsn ∧
    s.advance.cx.ws.bsp = s.cx.ws.bsp := by
  obtain ⟨pc, h⟩ := ws_advance s
  rw [h]
  exact ⟨rfl, rfl, rfl⟩

/-- A change of the workspace shows in the bit buffer after the move on. -/
theorem buffer_modWs_advance (s : State) (g : Workspace → Workspace) : (s.modWs g).advance.cx.ws.bsb = (g s.cx.ws).bsb ∧
    (s.modWs g).advance.cx.ws.bsn = (g s.cx.ws).bsn ∧ (s.modWs g).advance.cx.ws.bsp = (g s.cx.ws).bsp := by
  have h := buffer_advance (s.modWs g)
  rwa [State.cx_modWs] at h

/-- The next block of own TCM takes a value. -/
theorem store_block {s : State} (hp : s.cx.ws.bsp.toNat % 8 = 0) (h : PlainTcm s s.cx.ws.bsp.toNat 8) (x : Nat) :
    ∃ u, s.store s.cx.ws.bsBlock (toBytes 8 x) = .ok u ∧ Wrote s u (valueCells s s.cx.ws.bsp.toNat 8 x) := by
  rw [bsBlock_eq]
  exact store_value h (by decide) (block_in_line hp) x

/-- The bits of BSN that `bsinit` keeps. -/
theorem and_reserved (x : Nat) : x &&& 0x7FFFFF80 = x % 2 ^ 31 / 2 ^ 7 * 2 ^ 7 := by
  refine Nat.eq_of_testBit_eq fun i => ?_
  rw [show 0x7FFFFF80 = (2 ^ 24 - 1) * 2 ^ 7 from rfl, Nat.testBit_and, Nat.testBit_mul_two_pow, Nat.testBit_two_pow_sub_one,
    Nat.testBit_mul_two_pow, Nat.testBit_div_two_pow, Nat.testBit_mod_two_pow]
  by_cases h7 : 7 ≤ i
  · rw [Nat.sub_add_cancel h7]
    have : decide (i - 7 < 24) = decide (i < 31) := decide_eq_decide.mpr (by omega)
    simp [h7, this, Bool.and_comm]
  · simp [h7]

theorem toNat_bsinit (b : BitVec 32) (dir : Fin 2) :
    ((b &&& 0x7FFFFF80) ||| bsnOf (dir == 1) 0).toNat = dir.val * 2 ^ 31 + b.toNat % 2 ^ 31 / 2 ^ 7 * 2 ^ 7 := by
  have hdir : (bsnOf (dir == 1) 0).toNat = 2 ^ 31 * dir.val := by
    revert dir
    decide
  have hlow : b.toNat % 2 ^ 31 / 2 ^ 7 * 2 ^ 7 < 2 ^ 31 := by omega
  rw [BitVec.toNat_or, BitVec.toNat_and, hdir, show (0x7FFFFF80 : BitVec 32).toNat = 0x7FFFFF80 from rfl, and_reserved, Nat.or_comm,
    ← Nat.two_pow_add_eq_or_of_lt hlow, Nat.mul_comm]

theorem bsinit_result {s : State} {ra : Reg} (dir : Fin 2) (h : (s.getW ra).toNat % 8 = 0)
    (hlo : 0x8000000000000000 ≤ (s.getW ra).toNat) (hhi : (s.getW ra).toNat < 0x8000000000080000) :
    ∃ t, exec (.bsinit ra dir) s = .next t ∧ t.cx.ws.bsb = 0 ∧
      t.cx.ws.bsn.toNat = dir.val * 2 ^ 31 + s.cx.ws.bsn.toNat % 2 ^ 31 / 2 ^ 7 * 2 ^ 7 ∧
      t.cx.ws.bsp.toNat = (s.getW ra).toNat - 0x8000000000000000 ∧ (∀ r, t.getW r = s.getW r) ∧ SameMemory s t := by
  have hr : ¬ ((s.getW ra).toNat < 0x8000000000000000 ∨ 0x8000000000080000 ≤ (s.getW ra).toNat) := by omega
  have he : exec (.bsinit ra dir) s = .next (s.modWs fun w =>
      { w with bsp := (s.getW ra).setWidth 32, bsb := 0, bsn := (w.bsn &&& 0x7FFFFF80) ||| bsnOf (dir == 1) 0 }).advance := by
    change execBsinit ra dir s = _
    simp only [execBsinit, aligned_iff.mpr h, Bool.not_true, Bool.false_eq_true, if_false, if_neg hr, settle_ok]
  obtain ⟨hb, hn, hp⟩ := buffer_modWs_advance s fun w =>
    { w with bsp := (s.getW ra).setWidth 32, bsb := 0, bsn := (w.bsn &&& 0x7FFFFF80) ||| bsnOf (dir == 1) 0 }
  refine ⟨_, he, hb, ?_, ?_, fun r => ?_, (ownContext_modWs_advance s _).1⟩
  · rw [hn]
    exact toNat_bsinit _ dir
  · rw [hp, BitVec.toNat_setWidth]
    omega
  · rw [getW_advance]
    refine getW_modWs s ?_ r
    exact fun _ => rfl

section
variable {s : State} (hsound : BufferSound s.cx.ws)
include hsound

theorem bsCnt_le : s.cx.ws.bsCnt ≤ 64 := by
  rw [bsCnt_eq]
  exact hsound.1

theorem bsCheck_writing (hd : s.cx.ws.bsDir = true) : s.cx.ws.bsCheck (some true) = .ok () :=
  bsCheck_ok (by rw [Option.any_some, hd]; rfl) hsound

theorem bsput_held (hd : s.cx.ws.bsDir = true) {ra : Reg} {nf : Fin 64} (hn : s.cx.ws.bsCnt + bsN nf < 64) :
    ∃ t, exec (.bsput ra nf) s = .next t ∧ t.cx.ws.bsb.toNat = appended s ra (bsN nf) ∧
      t.cx.ws.bsn.toNat = 2 ^ 31 + s.cx.ws.bsCnt + bsN nf ∧ t.cx.ws.bsp = s.cx.ws.bsp ∧ SameMemory s t := by
  have he : exec (.bsput ra nf) s = .next (s.modWs fun w =>
      { w with bsb := BitVec.ofNat 64 (appended s ra (bsN nf)), bsn := bsnOf true (s.cx.ws.bsCnt + bsN nf) }).advance := by
    change execBsput ra nf s = _
    simp only [execBsput, bsCheck_writing hsound hd, bind, Except.bind, if_neg (Nat.not_le.mpr hn), pure, Except.pure, settle_ok]
    rfl
  obtain ⟨hb, hc, hp⟩ := buffer_modWs_advance s fun w =>
    { w with bsb := BitVec.ofNat 64 (appended s ra (bsN nf)), bsn := bsnOf true (s.cx.ws.bsCnt + bsN nf) }
  refine ⟨_, he, ?_, ?_, hp, (ownContext_modWs_advance s _).1⟩
  · rw [hb]
    exact toNat_ofNat_of_lt (appended_lt s ra _) hn.le
  · rw [hc]
    exact (toNat_bsnOf true (by omega)).trans (Nat.add_assoc _ _ _).symm

theorem bsput_full (hd : s.cx.ws.bsDir = true) (hinv : s.Inv) (hp : PlainTcm s s.cx.ws.bsp.toNat 8) {ra : Reg} {nf : Fin 64}
    (hn : 64 ≤ s.cx.ws.bsCnt + bsN nf) : ∃ t, exec (.bsput ra nf) s = .next t ∧
      tcmValue t s.cx.ws.bsp.toNat 8 = appended s ra (bsN nf) % 2 ^ 64 ∧ t.cx.ws.bsb.toNat = appended s ra (bsN nf) / 2 ^ 64 ∧
      t.cx.ws.bsn.toNat = 2 ^ 31 + (s.cx.ws.bsCnt + bsN nf - 64) ∧ t.cx.ws.bsp = s.cx.ws.bsp + 8 := by
  obtain ⟨u, hu, hwrote⟩ := store_block hsound.2.2 hp (appended s ra (bsN nf))
  have hcnt := bsCnt_le hsound
  have hnf := bsN_le nf
  have he : exec (.bsput ra nf) s = .next (u.modWs fun w =>
      { w with bsp := w.bsp + 8, bsb := BitVec.ofNat 64 (appended s ra (bsN nf) / 2 ^ 64),
               bsn := bsnOf true (s.cx.ws.bsCnt + bsN nf - 64) }).advance := by
    rw [appended] at hu
    change execBsput ra nf s = _
    simp only [execBsput, bsCheck_writing hsound hd, bind, Except.bind, if_pos hn, hu, pure, Except.pure, settle_ok]
    rfl
  obtain ⟨hb, hc, hp⟩ := buffer_modWs_advance u fun w =>
    { w with bsp := w.bsp + 8, bsb := BitVec.ofNat 64 (appended s ra (bsN nf) / 2 ^ 64),
             bsn := bsnOf true (s.cx.ws.bsCnt + bsN nf - 64) }
  have hhigh : appended s ra (bsN nf) / 2 ^ 64 < 2 ^ 64 := by
    refine Nat.div_lt_of_lt_mul ((appended_lt s ra _).trans_le ?_)
    rw [← Nat.pow_add]
    exact Nat.pow_le_pow_right (by decide) (by omega)
  refine ⟨_, he, tcmValue_stored hinv hwrote rfl rfl, ?_, ?_, ?_⟩
  · rw [hb]
    exact toNat_ofNat_of_lt hhigh (Nat.le_refl 64)
  · rw [hc]
    exact toNat_bsnOf true (by omega)
  · rw [hp, cx_wrote hwrote]

theorem bsflush_result (hd : s.cx.ws.bsDir = true) (hinv : s.Inv) (hp : PlainTcm s s.cx.ws.bsp.toNat 8) :
    ∃ t, exec .bsflush s = .next t ∧ tcmValue t s.cx.ws.bsp.toNat 8 = s.cx.ws.bsHeld % 2 ^ 64 ∧ t.cx.ws.bsb = s.cx.ws.bsb ∧
      t.cx.ws.bsn = s.cx.ws.bsn ∧ t.cx.ws.bsp = s.cx.ws.bsp := by
  obtain ⟨u, hu, hwrote⟩ := store_block hsound.2.2 hp s.cx.ws.bsHeld
  have he : exec .bsflush s = .next u.advance := by
    change execBsflush s = _
    simp only [execBsflush, bsCheck_writing hsound hd, bind, Except.bind, hu, pure, Except.pure, settle_ok]
  have hbuffer := buffer_advance u
  rw [cx_wrote hwrote] at hbuffer
  exact ⟨_, he, tcmValue_stored hinv hwrote rfl rfl, hbuffer⟩

theorem bsalign_held (hd : s.cx.ws.bsDir = true) (hn : s.cx.ws.bsCnt ≤ 56) : ∃ t, exec .bsalign s = .next t ∧
    t.cx.ws.bsn.toNat = 2 ^ 31 + (s.cx.ws.bsCnt + 7) / 8 * 8 ∧ t.cx.ws.bsb.toNat = s.cx.ws.bsHeld ∧ SameMemory s t := by
  have hm : s.cx.ws.bsCnt + (8 - s.cx.ws.bsCnt % 8) % 8 = (s.cx.ws.bsCnt + 7) / 8 * 8 := by omega
  have hne : (s.cx.ws.bsCnt + 7) / 8 * 8 ≠ 64 := by omega
  have he : exec .bsalign s = .next (s.modWs fun w =>
      { w with bsb := BitVec.ofNat 64 s.cx.ws.bsHeld, bsn := bsnOf true ((s.cx.ws.bsCnt + 7) / 8 * 8) }).advance := by
    change execBsalign s = _
    simp only [execBsalign, bsCheck_ok (dir := .none) rfl hsound, bind, Except.bind, hd, if_true, hm, if_neg hne, pure, Except.pure,
      settle_ok]
  obtain ⟨hb, hc, _⟩ := buffer_modWs_advance s fun w =>
    { w with bsb := BitVec.ofNat 64 s.cx.ws.bsHeld, bsn := bsnOf true ((s.cx.ws.bsCnt + 7) / 8 * 8) }
  refine ⟨_, he, ?_, ?_, (ownContext_modWs_advance s _).1⟩
  · rw [hc]
    exact toNat_bsnOf true (by omega)
  · rw [hb]
    exact toNat_ofNat_of_lt (bsHeld_lt _) (bsCnt_le hsound)

theorem bsalign_full (hd : s.cx.ws.bsDir = true) (hinv : s.Inv) (hp : PlainTcm s s.cx.ws.bsp.toNat 8) (hn : 57 ≤ s.cx.ws.bsCnt) :
    ∃ t, exec .bsalign s = .next t ∧ tcmValue t s.cx.ws.bsp.toNat 8 = s.cx.ws.bsHeld % 2 ^ 64 ∧ t.cx.ws.bsb = 0 ∧
      t.cx.ws.bsn.toNat = 2 ^ 31 ∧ t.cx.ws.bsp = s.cx.ws.bsp + 8 := by
  obtain ⟨u, hu, hwrote⟩ := store_block hsound.2.2 hp s.cx.ws.bsHeld
  have hcnt := bsCnt_le hsound
  have hm : s.cx.ws.bsCnt + (8 - s.cx.ws.bsCnt % 8) % 8 = 64 := by omega
  have he : exec .bsalign s = .next (u.modWs fun w => { w with bsp := w.bsp + 8, bsb := 0, bsn := bsnOf true 0 }).advance := by
    change execBsalign s = _
    simp only [execBsalign, bsCheck_ok (dir := .none) rfl hsound, bind, Except.bind, hd, if_true, hm, hu, pure, Except.pure, settle_ok]
  obtain ⟨hb, hc, hp⟩ := buffer_modWs_advance u fun w => { w with bsp := w.bsp + 8, bsb := 0, bsn := bsnOf true 0 }
  refine ⟨_, he, tcmValue_stored hinv hwrote rfl rfl, hb, ?_, ?_⟩
  · rw [hc]
    rfl
  · rw [hp, cx_wrote hwrote]

theorem bsalign_read (hd : s.cx.ws.bsDir = false) : ∃ t, exec .bsalign s = .next t ∧
    t.cx.ws.bsn.toNat = s.cx.ws.bsCnt / 8 * 8 ∧ t.cx.ws.bsb = s.cx.ws.bsb >>> (s.cx.ws.bsCnt % 8) ∧ SameMemory s t := by
  have hcnt := bsCnt_le hsound
  have he : exec .bsalign s = .next (s.modWs fun w =>
      { w with bsb := w.bsb >>> (s.cx.ws.bsCnt % 8), bsn := bsnOf false (s.cx.ws.bsCnt - s.cx.ws.bsCnt % 8) }).advance := by
    change execBsalign s = _
    simp only [execBsalign, bsCheck_ok (dir := .none) rfl hsound, bind, Except.bind, hd, Bool.false_eq_true, if_false, pure, Except.pure,
      settle_ok]
  obtain ⟨hb, hc, _⟩ := buffer_modWs_advance s fun w =>
    { w with bsb := w.bsb >>> (s.cx.ws.bsCnt % 8), bsn := bsnOf false (s.cx.ws.bsCnt - s.cx.ws.bsCnt % 8) }
  refine ⟨_, he, ?_, hb, (ownContext_modWs_advance s _).1⟩
  rw [hc, toNat_bsnOf false (by omega), if_neg (by decide)]
  omega

theorem exec_bspos (rd : Reg) : exec (.bspos rd) s = .next (s.retire rd (BitVec.ofInt 64
    (8 * (s.cx.ws.bsp.toNat : Int) + if s.cx.ws.bsDir then (s.cx.ws.bsCnt : Int) else -(s.cx.ws.bsCnt : Int)))) := by
  change execBspos rd s = _
  simp only [execBspos, bsCheck_ok (dir := .none) rfl hsound, bind, Except.bind, pure, Except.pure, settle_ok, wordOfInt]
  split <;> rfl

end

theorem bitWriteResults : Says.BitWriteResults := by
  intro s ra rd nf dir w n c held x out
  refine ⟨bsinit_result dir, fun hc hp => ?_⟩
  obtain ⟨hsound, hcnt⟩ := sound_of_count hc hp
  have hheld : s.cx.ws.bsHeld = held := by rw [Workspace.bsHeld, hcnt]
  have hx : appended s ra (bsN nf) = x := by rw [appended, hheld, hcnt]; rfl
  refine ⟨fun hd hfit => ?_, fun hd hinv hplain => ⟨fun hfull => ?_, ?_⟩, fun hd hle => ?_, fun hd hge hinv hplain => ?_, fun hd => ?_, ?_⟩
  · have h := bsput_held hsound hd (ra := ra) (nf := nf) (by rw [hcnt]; exact hfit)
    rwa [hx, hcnt] at h
  · have h := bsput_full hsound hd hinv hplain (ra := ra) (nf := nf) (by rw [hcnt]; exact hfull)
    rwa [hx, hcnt] at h
  · have h := bsflush_result hsound hd hinv hplain
    rwa [hheld] at h
  · have h := bsalign_held hsound hd (by rw [hcnt]; exact hle)
    rwa [hheld, hcnt] at h
  · have h := bsalign_full hsound hd hinv hplain (by rw [hcnt]; exact hge)
    rwa [hheld] at h
  · have h := bsalign_read hsound hd
    rwa [hcnt] at h
  · have h := exec_bspos hsound rd
    rwa [hcnt] at h

/-- Settles O30: the state checks in their order, and past them the bits that each instruction takes from the stream or adds to it. -/
theorem bitStreamResults : Obligations.BitStreamResults := ⟨bitReadResults, bitWriteResults, bitStreamChecks⟩

end Sys2Proof.Streams
end

section
/-! PROOFS. The checks, waits and effects of the waiting stream instructions (08 R147 to R152). -/

namespace Sys2Proof.Streams

open Sys2Proof.Machine
open Sys2Proof.Formats (waiting waits_waiting settle_waitOn_wait settle_waitOn_trap)
open Sys2Proof.Says hiding none

/-! ### The ready count (08 R147) -/

theorem cbLcnt_lt (d : BitVec 128) : cbLcnt d < 2 ^ 16 := Nat.mod_lt _ (by decide)

theorem cbDiff_eq (d : BitVec 128) (other : Nat) : (cbDiff d other : Int) = occupied d (other % 2 ^ 16) := by
  have := cbLcnt_lt d
  rw [cbDiff, occupied]
  split <;> omega

/-- Too many occupied slots: the pair is inconsistent. -/
theorem cbReady_none {d : BitVec 128} {other : Nat} (h : (cbN d : Int) < occupied d (other % 2 ^ 16)) : cbReady d other = none := by
  rw [← cbDiff_eq] at h
  exact if_pos (by omega)

/-- A consistent pair has its ready count. -/
theorem cbReady_some {d : BitVec 128} {other : Nat} (h : occupied d (other % 2 ^ 16) ≤ cbN d) :
    ∃ n, cbReady d other = some n ∧ (n : Int) = ready d (other % 2 ^ 16) := by
  rw [← cbDiff_eq] at h
  refine ⟨_, if_neg (by omega), ?_⟩
  rw [ready, ← cbDiff_eq]
  split <;> omega

theorem cbCount_of_load {s t : State} {d : BitVec 128} {bs : List Byte} (h : s.load (cbOther d) 4 (some (cbSc d)) = .ok (bs, t)) :
    s.cbCount d = .ok (cbReady d (ofBytes bs), t) := by
  rw [State.cbCount, h]
  rfl

theorem background_cbCount {s t : State} {d : BitVec 128} {n : Option Nat} (h : s.cbCount d = .ok (n, t)) : Background anyCore s t := by
  obtain ⟨x, hx, h⟩ := res_bind_ok h
  cases h
  exact Background.load hx

/-! ### The checks before a wait (08 R150) -/

theorem bound_of_sound {d : BitVec 128} (h : cbSound d = true) : cbBound d = true := by
  simp only [cbSound, Bool.and_eq_true] at h
  exact h.1.1.1.1.1.2

section
variable {d : BitVec 128} {fn k o : Nat} (cb : Fin 8)

theorem cbCheck_unbound (hb : cbBound d = false) : cbCheck d cb fn k o = cbIllegal cb 1 := by
  rw [cbCheck, hb]
  rfl

theorem cbCheck_side (hb : cbBound d = true) (hs : cbProd d ≠ cbSide fn) : cbCheck d cb fn k o = cbIllegal cb 2 := by
  rw [cbCheck, hb, if_neg (by decide), if_pos (bne_iff_ne.mpr hs)]

theorem cbCheck_unsound (hb : cbBound d = true) (hs : cbProd d = cbSide fn) (h : cbSound d = false) :
    cbCheck d cb fn k o = cbIllegal cb 3 := by
  rw [cbCheck, hb, hs, bne_self_eq_false, h]
  rfl

theorem cbCheck_small (h : cbSound d = true) (hs : cbProd d = cbSide fn) (hk : cbN d < k ∨ k * cbS d ≤ o) :
    cbCheck d cb fn k o = cbIllegal cb 4 := by
  rw [cbCheck, bound_of_sound h, hs, bne_self_eq_false, h, if_pos hk]
  rfl

theorem cbCheck_fits (h : HandleFits d (cbSide fn) k o) : cbCheck d cb fn k o = .ok () := by
  obtain ⟨hsound, hs, hk, ho⟩ := h
  rw [cbCheck, bound_of_sound hsound, hs, bne_self_eq_false, hsound, if_neg (by omega : ¬ (cbN d < k ∨ k * cbS d ≤ o))]
  rfl

end

/-! ### One waiting minor -/

/-- Each waiting stream instruction is one shared operation, of its side. -/
theorem exec_stream {s : State} {i : Instr} {prod : Bool} {x : Reg} {cb : Fin 8} {k o : Nat}
    (h : streamForm i = some (prod, x, cb, k, o)) : ∃ fn, exec i s = s.stream fn x cb k o ∧ cbSide fn = prod := by
  cases i with
  | cbget => cases h; exact ⟨1, rfl, rfl⟩
  | cbput => cases h; exact ⟨2, rfl, rfl⟩
  | cbpop => cases h; exact ⟨3, rfl, rfl⟩
  | cbpush => cases h; exact ⟨4, rfl, rfl⟩
  | cbwfill => cases h; exact ⟨6, rfl, rfl⟩
  | cbwfree => cases h; exact ⟨7, rfl, rfl⟩
  | _ => cases h

section
variable {s t u : State} {fn k o : Nat} {x : Reg} {cb : Fin 8}

theorem stream_refused {r : Nat} (h : cbCheck (s.getCb cb) cb fn k o = cbIllegal cb r) :
    s.stream fn x cb k o = .next (s.sysFault 0x01 (BitVec.ofNat 64 (cb.val * 2 ^ 32 + r)) 0 .none) := by
  rw [State.stream, State.tryStream, h]
  rfl

variable (hfit : HandleFits (s.getCb cb) (cbSide fn) k o)
include hfit

theorem stream_inconsistent (h : s.cbCount (s.getCb cb) = .ok (none, t)) :
    s.stream fn x cb k o = .next ((settled t).sysFault 0x01 (BitVec.ofNat 64 (cb.val * 2 ^ 32 + 5)) 0 .none) := by
  have htry : s.tryStream fn x cb k o = (t.badPair cb).map some := by
    rw [State.tryStream]
    simp only [cbCheck_fits cb hfit, h, bind, Except.bind]
  rw [State.stream, htry]
  rfl

theorem tryStream_waits {n : Nat} (h : s.cbCount (s.getCb cb) = .ok (some n, t)) (hn : n < k) : s.tryStream fn x cb k o = .ok none := by
  rw [State.tryStream]
  simp only [cbCheck_fits cb hfit, h, bind, Except.bind, if_neg (Nat.not_le.mpr hn)]
  rfl

/-- Where the count reaches the need and the effect succeeds, the instruction completes with it. -/
theorem stream_completes {n : Nat} (h : s.cbCount (s.getCb cb) = .ok (some n, t)) (hn : k ≤ n)
    (he : t.cbEffect (s.getCb cb) fn x cb k o = .ok u) : s.stream fn x cb k o = .next u := by
  have htry : s.tryStream fn x cb k o = .ok (some u) := by
    rw [State.tryStream]
    simp only [cbCheck_fits cb hfit, h, bind, Except.bind, if_pos hn, he]
    rfl
  rw [State.stream, htry]
  rfl

end

theorem streamVal_eq {s t : State} {cb : Fin 8} {n : Nat} (h : s.cbCount (s.getCb cb) = .ok (some n, t)) :
    s.streamVal cb = BitVec.ofNat 64 (cb.val * 2 ^ 16 + n) := by
  rw [State.streamVal, h]

theorem streamWaits : Says.StreamWaits := by
  intro s i prod x cb k o n t hi hfit hcount hn
  obtain ⟨fn, he, rfl⟩ := exec_stream (s := s) hi
  rw [he, State.stream, tryStream_waits hfit hcount hn, streamVal_eq hcount]
  exact ⟨fun hl => ⟨_, settle_waitOn_wait hl _ _, waits_waiting s _⟩, fun hl => settle_waitOn_trap hl _ _⟩

/-! ### `cbstat` (08 R149, R150) -/

section
variable {s t : State} {x : Reg} {cb : Fin 8}

theorem cbstat_refused {r : Nat}
    (h : (cbBound (s.getCb cb) = false ∧ r = 1) ∨ (cbBound (s.getCb cb) = true ∧ cbSound (s.getCb cb) = false ∧ r = 3)) :
    exec (.cbstat x cb) s = .next (s.sysFault 0x01 (BitVec.ofNat 64 (cb.val * 2 ^ 32 + r)) 0 .none) := by
  change execCbstat x cb s = _
  rw [execCbstat]
  rcases h with ⟨hb, rfl⟩ | ⟨hb, hs, rfl⟩
  · rw [hb]
    rfl
  · rw [hb, hs]
    rfl

theorem cbstat_inconsistent (hs : cbSound (s.getCb cb) = true) (h : s.cbCount (s.getCb cb) = .ok (none, t)) :
    exec (.cbstat x cb) s = .next ((settled t).sysFault 0x01 (BitVec.ofNat 64 (cb.val * 2 ^ 32 + 5)) 0 .none) := by
  change execCbstat x cb s = _
  rw [execCbstat, bound_of_sound hs, hs, h]
  rfl

theorem cbstat_completes (hs : cbSound (s.getCb cb) = true) {n : Nat} (h : s.cbCount (s.getCb cb) = .ok (some n, t)) :
    exec (.cbstat x cb) s = .next (t.retire x
      (BitVec.ofNat 64 (n + cbLcnt (s.getCb cb) * 2 ^ 16 + if cbProd (s.getCb cb) then 2 ^ 32 else 0))) := by
  change execCbstat x cb s = _
  rw [execCbstat, bound_of_sound hs, hs, h]
  rfl

end

theorem streamChecks : Says.StreamChecks := by
  intro s i prod x cb k o d bad found
  refine ⟨fun hi => ?_, fun hb => cbstat_refused (.inl ⟨hb, rfl⟩), fun hb hs => cbstat_refused (.inr ⟨hb, hs, rfl⟩), fun bs t hs hl ho => ?_⟩
  · obtain ⟨fn, he, rfl⟩ := exec_stream (s := s) hi
    refine ⟨fun hb => ?_, fun hb hs => ?_, fun hb hs h => ?_, fun h hs hk => ?_, fun bs t hfit hl ho => ?_⟩
    · exact he.trans (stream_refused (cbCheck_unbound cb hb))
    · exact he.trans (stream_refused (cbCheck_side cb hb hs))
    · exact he.trans (stream_refused (cbCheck_unsound cb hb hs h))
    · exact he.trans (stream_refused (cbCheck_small cb h hs hk))
    · have hcount := cbCount_of_load hl
      rw [cbReady_none ho] at hcount
      exact he.trans (stream_inconsistent hfit hcount)
  · have hcount := cbCount_of_load hl
    rw [cbReady_none ho] at hcount
    exact cbstat_inconsistent hs hcount

/-! ### The effects (08 R149, R152) -/

section
variable {t u : State} {d : BitVec 128} {x : Reg} {cb : Fin 8} {k o : Nat}

theorem cbEffect_get {bs : List Byte} (h : t.load (cbAddr d o) 8 = .ok (bs, u)) :
    t.cbEffect d 1 x cb k o = .ok (u.retire x (zbytes bs)) := by
  rw [State.cbEffect, h]
  rfl

theorem cbEffect_put (h : t.store (cbAddr d o) (toBytes 8 (t.getW x).toNat) = .ok u) : t.cbEffect d 2 x cb k o = .ok u.advance := by
  rw [State.cbEffect, h]
  rfl

/-- The counter is stored as a release, after a store of it passes its checks. -/
theorem cbEffect_count {fn : Nat} (hfn : fn = 3 ∨ fn = 4) {v : State}
    (hv : t.store (cbOwn d) (toBytes 4 ((cbLcnt d + k) % 2 ^ 16)) 0xFF (some (cbSc d)) = .ok v)
    (hu : (t.releaseWith (cbSc d)).store (cbOwn d) (toBytes 4 ((cbLcnt d + k) % 2 ^ 16)) 0xFF (some (cbSc d)) = .ok u) :
    t.cbEffect d fn x cb k o =
      .ok ((u.setCb cb (cbWithLcnt d ((cbLcnt d + k) % 2 ^ 16))).retire x (BitVec.ofNat 64 ((cbLcnt d + k) % 2 ^ 16))) := by
  rcases hfn with rfl | rfl <;>
  · rw [State.cbEffect]
    simp only [hv, hu, bind, Except.bind]
    rfl

theorem cbEffect_address {fn : Nat} (hfn : fn = 6 ∨ fn = 7) : t.cbEffect d fn x cb k o = .ok (t.retire x (cbAddr d o)) := by
  rcases hfn with rfl | rfl <;> rfl

end

theorem streamEffects : Says.StreamEffects := by
  intro s x cb need off n t d k o l stored hcount hn
  have hstored : ∀ {i : Instr} {fn : Nat}, fn = 3 ∨ fn = 4 → exec i s = s.stream fn x cb k 0 → HandleFits d (cbSide fn) k 0 →
      stored i := fun hfn he hfit u hok hu => by
    cases hv : t.store (cbOwn d) (toBytes 4 l) 0xFF (some (cbSc d)) with
    | error e => rw [hv] at hok; cases hok
    | ok v => exact he.trans (stream_completes hfit hcount hn (cbEffect_count hfn hv hu))
  refine ⟨fun hfit => ⟨?_, fun bs u hl => ?_⟩, fun hfit => ⟨?_, fun u hs => ?_⟩, hstored (.inl rfl) rfl, hstored (.inr rfl) rfl⟩
  · exact stream_completes (fn := 6) hfit hcount hn (cbEffect_address (.inl rfl))
  · exact stream_completes (fn := 1) hfit hcount hn (cbEffect_get hl)
  · exact stream_completes (fn := 7) hfit hcount hn (cbEffect_address (.inr rfl))
  · refine stream_completes (fn := 2) hfit hcount hn (cbEffect_put ?_)
    rwa [(background_cbCount hcount).getW]

end Sys2Proof.Streams
end

section
/-! PROOFS. Accesses of the executing context to its core's own TCM through either of its windows (14 R257). -/

namespace Sys2Proof.Streams

open Sys2Proof.Machine
open Sys2Proof.Scalar
open Sys2Proof.Vector (linkCheck_own sliceReads_own stallOn_own)
open Sys2Proof.Says hiding none

/-! ### The windows -/

/-- Addresses from `b` on that lead an instruction of core `g` to the core's own TCM, beside the Lantern queue window. -/
structure OwnWindow (g b : Nat) : Prop where
  aligned : b % 64 = 0
  isLocal : 2 ^ 63 ≤ b
  fits : b + 0x80000 < 2 ^ 64
  beside : b + 0x80000 ≤ 0x8000000040000000 ∨ 0x8000000040010000 ≤ b
  leads : ∀ who : Who, who.own = true → who.core = g → ∀ off < 0x80000, localLoc who (b + off) = .ok ⟨tcmPlace g off, .tcm g⟩

theorem ownWindow_own (g : Nat) : OwnWindow g 0x8000000000000000 := by
  refine ⟨by decide, by decide, by decide, .inl (by decide), fun who _ hg off h => ?_⟩
  rw [localLoc]
  simp only [Nat.add_sub_cancel_left, if_pos h, hg]

/-- The window that shows every core's TCM shows the own one too. -/
theorem ownWindow_all {g : Nat} (hg : g < 8192) : OwnWindow g (0x8000000100000000 + g * 0x80000) := by
  refine ⟨by omega, by omega, by omega, .inr (by omega), fun who ho hw off h => ?_⟩
  have hcore : (0x100000000 + g * 0x80000 + off - 0x100000000) / 0x80000 = g := by omega
  have hplace : (0x100000000 + g * 0x80000 + off) % 0x80000 = off := by omega
  rw [localLoc, show 0x8000000100000000 + g * 0x80000 + off - 0x8000000000000000 = 0x100000000 + g * 0x80000 + off by omega]
  simp only [hcore, hplace, ho, hw, beq_self_eq_true, Bool.and_self, Bool.true_or, if_true]
  rw [if_neg (by omega), if_neg (by omega), if_neg (by omega), if_neg (by omega), if_pos (by omega)]

section
variable {g b off : Nat} (hw : OwnWindow g b) (h : off < 0x80000)
include hw h

theorem OwnWindow.toNat : (BitVec.ofNat 64 (b + off)).toNat = b + off := by
  have := hw.fits
  rw [BitVec.toNat_ofNat]
  omega

theorem OwnWindow.noQueue (k : Kind) : Machine.noQueue (BitVec.ofNat 64 (b + off)) k = .ok () := by
  have hq : inQueueWindow (BitVec.ofNat 64 (b + off)) = false := by
    have := hw.beside
    rw [inQueueWindow, hw.toNat h]
    simp only [Bool.and_eq_false_iff, decide_eq_false_iff_not]
    omega
  rw [Machine.noQueue, hq]
  rfl

theorem OwnWindow.locate (s : State) {who : Who} (ho : who.own = true) (hg : who.core = g) (need : Need) :
    s.locate who need (b + off) = .ok (⟨tcmPlace g off, .tcm g⟩, none) := by
  rw [State.locate, if_pos (Nat.le_trans hw.isLocal (Nat.le_add_right b off)), hw.leads who ho hg off h]
  rfl

end

/-! ### Bytes that an instruction may access -/

/-- Bytes of own TCM that lie in no active workspace and bear no mark of poison. -/
def FreeTcm (s : State) (off n : Nat) : Prop :=
  off + n ≤ 0x80000 ∧ ∀ i, i < n → s.me.wsAt (off + i) = none ∧ granule (tcmPlace s.cur.core off + i) ∉ s.poison

theorem freeTcm_of_plainTcm {s : State} {off n : Nat} (h : PlainTcm s off n) : FreeTcm s off n :=
  ⟨h.1, fun i hi => ⟨(h.2 i hi).1, (plainCell_of_plainTcm h hi).poison⟩⟩

theorem wsAt_congr {c k : Core} (h : ∀ n, registers (k.ctx n) = registers (c.ctx n)) (off : Nat) : k.wsAt off = c.wsAt off := by
  have hx : ∀ n, (k.ctx n).active = (c.ctx n).active ∧ (k.ctx n).wpOff = (c.ctx n).wpOff := fun n => by
    obtain ⟨_, hwp, hact⟩ := Prod.ext_iff.mp (h n) |>.imp_right Prod.ext_iff.mp
    exact ⟨hact, congrArg (fun w : Word => w.toNat % 0x80000) hwp⟩
  unfold Core.wsAt
  simp only [hx]

/-- What other agents do leaves the bytes free. -/
theorem Background.freeTcm {G : Nat → Prop} {s t : State} (h : Background G s t) {off n : Nat} (hf : FreeTcm s off n) :
    FreeTcm t off n := by
  refine ⟨hf.1, fun i hi => ?_⟩
  obtain ⟨hws, hp⟩ := hf.2 i hi
  refine ⟨?_, fun hin => hp (h.poison (h.cur ▸ hin))⟩
  rw [State.me, h.cur]
  exact (wsAt_congr (c := s.core s.cur.core) (k := t.core s.cur.core) (fun n => h.registers ⟨s.cur.core, n⟩) _).trans hws

/-- The run of an access to own TCM that an address leads to. -/
def ownRun (g a off n : Nat) : Run := ⟨a, n, tcmPlace g off, .tcm g⟩

theorem checkRun_free {s : State} {who : Who} (ho : who.own = true) {off n : Nat} (h : FreeTcm s off n) (need : Need)
    (cover : List (Nat × Nat)) (a : Nat) : s.checkRun who need cover (ownRun s.cur.core a off n) = .ok (ownRun s.cur.core a off n) := by
  have hnone : ((List.range n).findSome? fun i =>
      s.byteFlaw who need cover (a + i) (tcmPlace s.cur.core off + i) (.tcm s.cur.core)) = none :=
    List.findSome?_eq_none_iff.mpr fun i hi => byteFlaw_plain ho need cover _ (h.2 i (List.mem_range.mp hi)).2 _
  simp only [State.checkRun, ownRun, hnone]

theorem resolvePieces_cons {s : State} {who : Who} {need : Need} {cover : List (Nat × Nat)} {p k : Nat} {t : List (Nat × Nat)}
    {l : Loc} {r : Run} {rs : List Run} (hl : s.locate who need p = .ok (l, none))
    (hr : s.checkRun who need cover ⟨p, k, l.place, l.space⟩ = .ok r) (ht : s.resolvePieces who need cover t = .ok (rs, [])) :
    s.resolvePieces who need cover ((p, k) :: t) = .ok (r :: rs, []) := by
  rw [State.resolvePieces, hl]
  change (do let r ← s.checkRun who need cover ⟨p, k, l.place, l.space⟩; _) = _
  rw [hr]
  change (do let x ← s.resolvePieces who need cover t; _) = _
  rw [ht]
  rfl

/-! ### Loads -/

/-- Bytes of own TCM as memory holds them. -/
def tcmBytes (s : State) (off n : Nat) : List Byte := (List.range n).map fun i => Memory.read s.mem (tcmPlace s.cur.core (off + i))

theorem ofBytes_tcmBytes (s : State) (off n : Nat) : ofBytes (tcmBytes s off n) = tcmValue s off n := rfl

theorem tcmBytes_append (s : State) (off k m : Nat) : tcmBytes s off (k + m) = tcmBytes s off k ++ tcmBytes s (off + k) m := by
  simp only [tcmBytes, List.range_add, List.map_append, List.map_map]
  exact congrArg _ (List.map_congr_left fun i _ => by rw [Function.comp_apply, Nat.add_assoc])

theorem plainTcm_sub {s : State} {off n : Nat} (h : PlainTcm s off n) {i k : Nat} (hk : i + k ≤ n) : PlainTcm s (off + i) k := by
  obtain ⟨hb, hp⟩ := h
  refine ⟨by omega, fun j hj => ?_⟩
  rw [Nat.add_assoc]
  exact hp (i + j) (by omega)

theorem plainRun_ownRun {s : State} {off n : Nat} (h : PlainTcm s off n) (a : Nat) : PlainRun s (ownRun s.cur.core a off n) :=
  ⟨rfl, off, rfl, h⟩

section
variable {s : State} {b : Nat} (hw : OwnWindow s.cur.core b)
include hw

/-- Plain bytes behind a window are runs that pass their checks and hold what memory holds. -/
theorem resolvePieces_window {who : Who} (ho : who.own = true) (hg : who.core = s.cur.core) (need : Need) (cover : List (Nat × Nat))
    (fuel : Nat) {off n : Nat} (hf : n ≤ fuel) (h : PlainTcm s off n) : ∃ rs, s.resolvePieces who need cover (pieces fuel (b + off) n) =
      .ok (rs, []) ∧ (∀ r ∈ rs, PlainRun s r) ∧ rs.flatMap (s.readRun who) = tcmBytes s off n := by
  induction fuel generalizing off n with
  | zero =>
    obtain rfl : n = 0 := by omega
    exact ⟨[], rfl, by simp, rfl⟩
  | succ fuel ih =>
    rcases Nat.eq_zero_or_pos n with rfl | h0
    · exact ⟨[], rfl, by simp, rfl⟩
    have hb : off < 0x80000 := Nat.lt_of_lt_of_le (Nat.lt_add_of_pos_right h0) h.1
    obtain ⟨k, hk⟩ : ∃ k, k = min n (pieceLen (b + off)) := ⟨_, rfl⟩
    have hlen : pieceLen (b + off) = 64 - (b + off) % 64 := if_pos (Nat.le_trans hw.isLocal (Nat.le_add_right b off))
    have hk0 : 0 < k ∧ k ≤ n := by omega
    have hnext : (b + off + k) % 2 ^ 64 = b + (off + k) := by
      have := hw.fits
      have := h.1
      omega
    have hfirst : PlainTcm s off k := plainTcm_sub (i := 0) h (by omega)
    obtain ⟨rs, hrs, hplain, hread⟩ := ih (off := off + k) (n := n - k) (by omega) (plainTcm_sub h (by omega))
    refine ⟨ownRun s.cur.core (b + off) off k :: rs, ?_, ?_, ?_⟩
    · rw [pieces, if_neg h0.ne']
      dsimp only
      rw [← hk, hnext]
      exact resolvePieces_cons (hw.locate hb s ho hg need) (checkRun_free ho (freeTcm_of_plainTcm hfirst) need cover _) hrs
    · intro r hr
      rcases List.mem_cons.mp hr with rfl | hr
      · exact plainRun_ownRun hfirst _
      · exact hplain r hr
    · rw [List.flatMap_cons, hread, readRun_plain who (plainRun_ownRun hfirst _),
        show tcmBytes s off n = tcmBytes s off (k + (n - k)) by rw [Nat.add_sub_cancel' hk0.2], tcmBytes_append]
      simp only [tcmBytes, tcmPlace_add, ownRun]

/-- A load of plain bytes through a window gives what memory holds there, and changes nothing. -/
theorem load_window {off n : Nat} (h : PlainTcm s off n) (h0 : 0 < n) (acq : Option Nat) :
    s.load (BitVec.ofNat 64 (b + off)) n acq = .ok (tcmBytes s off n, s) := by
  have hb : off < 0x80000 := Nat.lt_of_lt_of_le (Nat.lt_add_of_pos_right h0) h.1
  obtain ⟨who, hwho⟩ : ∃ who : Who, who = { s.whoOwn s.cur.core with acq } := ⟨_, rfl⟩
  have ho : who.own = true := by rw [hwho]; rfl
  have hg : who.core = s.cur.core := by rw [hwho]; rfl
  obtain ⟨rs, hrs, hplain, hread⟩ := resolvePieces_window hw ho hg .read [(b + off, n)] n (Nat.le_refl n) h
  have hruns : s.resolveReads who [(BitVec.ofNat 64 (b + off), n)] = .ok ([rs], []) := by
    rw [State.resolveReads, hw.noQueue hb, State.resolve, hw.toNat hb, hrs]
    rfl
  have hparts : s.loadParts [(BitVec.ofNat 64 (b + off), n)] acq = .ok ([tcmBytes s off n], s) := by
    simp only [State.loadParts, ← hwho, hruns, bind, Except.bind, List.flatten_singleton, linkCheck_own _ hplain,
      sliceReads_own _ hplain, beforeRead_plain hg hplain, List.map_singleton, hread]
    exact congrArg (fun t => Except.ok ([tcmBytes s off n], t)) (stallOn_own hplain)
  have hcount : s.countAt (BitVec.ofNat 64 (b + off)) = s := by
    simp only [State.countAt, hw.toNat hb, hw.locate hb s (who := s.whoOwn s.cur.core) rfl rfl]
    rfl
  rw [State.load, hparts]
  change Except.ok ([tcmBytes s off n].flatten, s.countAt _) = _
  rw [hcount, List.flatten_singleton]

end

end Sys2Proof.Streams
end

section
/-! PROOFS. Releasing stores of one word to the executing core's own TCM, whatever is on its way there (15 R275, R277, R278). -/

namespace Sys2Proof.Streams

open Sys2Proof.Machine
open Sys2Proof.Scalar
open Sys2Proof.Says hiding none

/-! ### A write that takes effect in a TCM -/

/-- Only the cores that a write wakes or binds, and its tags, change beside its cells. -/
def noCore : Nat → Prop := fun _ => False

/-- The devices and the cached sectors, which a write to a TCM leaves alone. -/
def devices (s : State) : Device × SMap Sector := (s.dev, s.sectors)

/-- Some cells have been written, and beside them no register, no write on its way, no device and no cached sector changed. -/
structure Lands (s t : State) (cs : List Machine.Cell) : Prop where
  mem : t.mem = writeCells s.mem cs
  kept : devices t = devices s
  back : Background noCore s t

theorem foldl_poke_free {s : State} (who : Who) {g : Nat} (cs : List Machine.Cell)
    (h : ∀ c ∈ cs, (s.core g).wsAt (c.1 % 0x80000) = none) :
    cs.foldl (fun t c => t.poke who c.1 c.2.1 c.2.2 (.tcm g)) s = { s with mem := writeCells s.mem cs } := by
  induction cs generalizing s with
  | nil => rfl
  | cons c cs ih =>
    have hc := h c List.mem_cons_self
    have hpoke : s.poke who c.1 c.2.1 c.2.2 (.tcm g) =
        { s with mem := Memory.write s.mem c.1 (blend (Memory.read s.mem c.1) c.2.1 c.2.2) } := by
      simp only [State.poke, State.pokeTcm, State.tcmByte, hc]
    rw [List.foldl_cons, hpoke]
    exact ih (s := { s with mem := Memory.write s.mem c.1 (blend (Memory.read s.mem c.1) c.2.1 c.2.2) })
      fun d hd => h d (List.mem_cons_of_mem c hd)

theorem devices_foldl {α : Type} {f : State → α → State} (hf : ∀ s x, devices (f s x) = devices s) (l : List α) (s : State) :
    devices (l.foldl f s) = devices s := by
  induction l generalizing s with
  | nil => rfl
  | cons x l ih => exact (ih (f s x)).trans (hf s x)

theorem devices_cleanse (s : State) (w : PendWrite) : devices (s.cleanse w) = devices s := by
  unfold State.cleanse
  split <;> rfl

theorem devices_count (s : State) (r : CtxRef) (e n : Nat) : devices (s.count r e n) = devices s :=
  Prod.ext (State.count_dev s r e n) (State.count_sectors s r e n)

theorem devices_correct (s : State) (ps : List Nat) : devices (s.correct ps) = devices s := by
  unfold State.correct
  dsimp only
  split
  · rfl
  · exact devices_foldl (fun s _ => devices_count s _ _ _) _ _

theorem devices_acquire (s : State) (who : Who) (ts : List Tag) : devices (s.acquire who ts) = devices s := by
  unfold State.acquire
  split <;> rfl

theorem devices_retag (s : State) (who : Who) (w : PendWrite) (a : Bool) : devices (s.retag who w a) = devices s := by
  unfold State.retag
  dsimp only
  split
  · rfl
  · refine devices_foldl ?_ _ s
    exact fun _ _ => devices_acquire _ who _

theorem lands_land {s : State} (who : Who) {w : PendWrite} {g : Nat} (hs : w.space = .tcm g)
    (h : ∀ c ∈ w.cells, (s.core g).wsAt (c.1 % 0x80000) = none) : Lands s (s.land who w) w.cells := by
  obtain ⟨v, hv⟩ : ∃ v, v = (({ s with mem := writeCells s.mem w.cells } : State).cleanse w).correct (w.cells.map Prod.fst) := ⟨_, rfl⟩
  have hcells : Background noCore s { s with mem := writeCells s.mem w.cells } := Background.refl.outside rfl rfl (List.Subset.refl _)
  have hback : Background noCore s v := hv ▸ (hcells.cleanse w).correct (w.cells.map Prod.fst)
  have hland : Lands s v w.cells := by
    refine ⟨?_, ?_, hback⟩
    · rw [hv, correct_mem, cleanse_mem]
    · rw [hv]
      exact (devices_correct _ _).trans (devices_cleanse _ _)
  cases hr : w.rel <;> simp only [State.land, hs, hr, foldl_poke_free who w.cells h, ← hv]
  case none => exact hland
  case some => exact ⟨hland.mem, hland.kept, hback.wake g⟩

theorem Lands.retag {s t : State} {cs : List Machine.Cell} (h : Lands s t cs) (who : Who) (w : PendWrite) (a : Bool) :
    Lands s (t.retag who w a) cs :=
  ⟨(retag_mem _ _ _ _).trans h.mem, (devices_retag _ _ _ _).trans h.kept, h.back.retag who w a⟩

/-! ### A store of one word -/

/-- What precedes a write of the executing core at some places: the releases that it has read there, and the posted stores. -/
def readyFor (s : State) (ps : List Nat) : State := (s.seenOver s.cur.core ps).pushSome (·.touches ps)

theorem background_readyFor (s : State) (ps : List Nat) : Background anyCore s (readyFor s ps) :=
  (Background.refl.seenOver (fun _ _ => trivial) ps).pushSome _

/-- At plain places nothing precedes a write. -/
theorem readyFor_plain {s : State} {ps : List Nat} (h : ∀ p ∈ ps, PlainPlace s p) : readyFor s ps = s := by
  rw [readyFor, seenOver_plain h, pushSome_plain h]

theorem FreeTcm.cell {s : State} {off n i : Nat} (h : FreeTcm s off n) (hi : i < n) :
    (s.core s.cur.core).wsAt ((tcmPlace s.cur.core off + i) % 0x80000) = none := by
  obtain ⟨hb, hf⟩ := h
  rw [← tcmPlace_add, tcmPlace_mod _ (by omega)]
  exact (hf i hi).1

theorem wsCheck_free {s : State} {who : Who} {a off n : Nat} (h : FreeTcm s off n) :
    s.wsCheck who .write [ownRun s.cur.core a off n] = .ok () := by
  have hnone : ((List.range n).findSome? fun i => if s.wsBreach who .write (tcmPlace s.cur.core off + i) (.tcm s.cur.core) then
      some (a + i) else none) = none := by
    refine List.findSome?_eq_none_iff.mpr fun i hi => if_neg ?_
    simp only [State.wsBreach, h.cell (List.mem_range.mp hi), Bool.false_eq_true, not_false_eq_true]
  simp only [State.wsCheck, ownRun, List.findSome?_cons, List.findSome?_nil, hnone]

/-- The cells of neighbouring bytes in an aligned word are written together. -/
theorem wordCells_word {p n : Nat} (h0 : 0 < n) (hn : p % 8 + n ≤ 8) (f : Nat → Byte × Byte) :
    wordCells ((List.range n).map fun i => (p + i, f i)) = [(List.range n).map fun i => (p + i, f i)] := by
  have hall : ∀ c ∈ (List.range n).map fun i => (p + i, f i), c.1 / 8 = p / 8 := fun c hc => by
    obtain ⟨i, hi, rfl⟩ := List.mem_map.mp hc
    have := List.mem_range.mp hi
    change (p + i) / 8 = p / 8
    omega
  have hne : (List.range n).map (fun i => (p + i, f i)) ≠ [] := by simp [h0.ne']
  refine List.splitBy_of_isChain hne (List.Pairwise.isChain (List.pairwise_iff_forall_sublist.mpr fun hab => ?_))
  rw [hall _ (hab.subset (by simp)), hall _ (hab.subset (by simp)), beq_self_eq_true]

/-- Cells of one word leave for own TCM as one write that is performed at once. -/
theorem sendCells_word {s : State} {w : PendWrite} {c : Cells} {g : Nat} (hg : w.core = g) (ha : w.agent ≠ .copy)
    (hc : c.space = .tcm g) (hw : wordCells c.cells = [c.cells]) : ∃ x who, x.space = .tcm g ∧ x.cells = c.cells ∧
      s.sendCells true w c = (s.seenOver g (c.cells.map Prod.fst)).perform who x := by
  subst hg
  obtain ⟨x, hx⟩ : ∃ x : PendWrite, wordWrites { w with space := c.space } true c.addr (wordCells c.cells) = [x] ∧
      x.space = .tcm w.core ∧ x.cells = c.cells := by
    rw [hw]
    exact ⟨_, rfl, hc, rfl⟩
  obtain ⟨hx, hspace, hcells⟩ := hx
  refine ⟨x, (s.seenOver w.core (c.cells.map Prod.fst)).whoOwn w.core, hspace, hcells, ?_⟩
  rw [hc] at hx
  simp only [State.sendCells, if_neg ha, hc, Bool.true_and, beq_self_eq_true, if_true, hx, List.foldl_cons, List.foldl_nil]

/-- The cells of a store within one word of own TCM, when its checks have passed. -/
def wordCellsAt (s : State) (b off n x : Nat) : Cells := ⟨.tcm s.cur.core, b + off, valueCells s off n x⟩

section
variable {s : State} {b off n : Nat} (hw : OwnWindow s.cur.core b) (h : FreeTcm s off n) (h0 : 0 < n) (hn : off % 8 + n ≤ 8)
  (x : Nat) (rel : Option Nat)
include hw h h0 hn

/-- A store within one word of own TCM passes its checks and sends its cells. -/
theorem store_sends : ∃ w : PendWrite, w.core = s.cur.core ∧ w.agent ≠ .copy ∧
    s.store (BitVec.ofNat 64 (b + off)) (toBytes n x) 0xFF rel = .ok (s.sendCells true w (wordCellsAt s b off n x)) := by
  have hb : off < 0x80000 := Nat.lt_of_lt_of_le (Nat.lt_add_of_pos_right h0) h.1
  have hlen := length_toBytes n x
  obtain ⟨p, hp⟩ : ∃ p : Part, p = ⟨BitVec.ofNat 64 (b + off), toBytes n x, 0xFF⟩ := ⟨_, rfl⟩
  have hpieces : pieces n (b + off) n = [(b + off, n)] :=
    pieces_block h0 (Nat.le_trans hw.isLocal (Nat.le_add_right b off)) (by have := hw.aligned; omega)
  have hruns : ∀ cover, s.resolvePieces (s.whoOwn s.cur.core) .write cover (pieces n (b + off) n) =
      .ok ([ownRun s.cur.core (b + off) off n], []) := fun cover => by
    rw [hpieces]
    exact resolvePieces_cons (hw.locate hb s rfl rfl .write) (checkRun_free rfl h .write cover _) rfl
  have hparts : s.resolveParts (s.whoOwn s.cur.core) [] [p] = .ok ([(p, [ownRun s.cur.core (b + off) off n])], []) := by
    rw [State.resolveParts, hp, hw.noQueue hb, hw.toNat hb, hlen, hruns]
    rfl
  have hcells : runCells 0xFF [ownRun s.cur.core (b + off) off n] (toBytes n x) = [wordCellsAt s b off n x] := by
    rw [runCells, runCells, wordCellsAt, cellsOf]
    simp only [ownRun, List.take_of_length_le (Nat.le_of_eq hlen)]
    rfl
  have hstore : s.store (BitVec.ofNat 64 (b + off)) (toBytes n x) 0xFF rel =
      .ok (s.sendAll true { s.ownWrite rel with count := true } [wordCellsAt s b off n x]) := by
    rw [State.store, State.storeParts, ← hp]
    simp only [Bool.false_eq_true, if_false, hparts]
    change (do orStop .write (s.wsCheck (s.whoOwn s.cur.core) .write [ownRun s.cur.core (b + off) off n]); _) = _
    rw [wsCheck_free h]
    change Except.ok (State.sendAll s true _ (runCells p.mask [ownRun s.cur.core (b + off) off n] p.bytes)) = _
    rw [hp, hcells]
    rfl
  obtain ⟨clears, count, hsend⟩ : ∃ clears count, s.sendAll true { s.ownWrite rel with count := true } [wordCellsAt s b off n x] =
    s.sendCells true { s.ownWrite rel with clears, count } (wordCellsAt s b off n x) := ⟨_, _, rfl⟩
  exact ⟨{ s.ownWrite rel with clears, count }, rfl, (fun e => nomatch e), hstore.trans (congrArg Except.ok hsend)⟩

/-- It takes effect there at once, after what precedes it. -/
theorem store_word : ∃ t, s.store (BitVec.ofNat 64 (b + off)) (toBytes n x) 0xFF rel = .ok t ∧
    Lands (readyFor s ((valueCells s off n x).map Prod.fst)) t (valueCells s off n x) := by
  obtain ⟨w, hcore, hagent, hstore⟩ := store_sends hw h h0 hn x rel
  have hword : wordCells (valueCells s off n x) = [valueCells s off n x] :=
    wordCells_word h0 (by rw [tcmPlace]; omega) fun i => ((toBytes n x).getD i 0, 0xFF)
  obtain ⟨v, who, hspace, hcells, hsent⟩ := sendCells_word (s := s) (c := wordCellsAt s b off n x) hcore hagent rfl hword
  have hback := background_readyFor s ((valueCells s off n x).map Prod.fst)
  have hland := lands_land (s := readyFor s ((valueCells s off n x).map Prod.fst)) who hspace fun c hc => by
    rw [hcells] at hc
    obtain ⟨i, hi, rfl⟩ := List.mem_map.mp hc
    have := (hback.freeTcm h).cell (List.mem_range.mp hi)
    rwa [hback.cur] at this
  refine ⟨_, hstore.trans (congrArg Except.ok hsent), ?_⟩
  rw [State.perform, hcells]
  rw [hcells] at hland
  exact hland.retag who v false

end

end Sys2Proof.Streams
end

section
/-! PROOFS. A release at a scope, and what stays on its way beside it (15 R277, R278, log entry 5). -/

namespace Sys2Proof.Streams

open Sys2Proof.Machine
open Sys2Proof.Formats (sameCore_modCx)
open Sys2Proof.Scalar
open Sys2Proof.Says hiding none

/-! ### The frame of a release -/

theorem background_owe (s : State) (g : Nat) : Background (· = g) s (s.owe g) := by
  unfold State.owe
  split
  · exact Background.refl
  · exact Background.refl.modCore (fun _ _ => rfl) (.inl rfl)

theorem background_drain (s : State) (g : Nat) (host : Bool) : Background (· = g) s (s.drain g host) := by
  have hperformed : Background (· = g) s (s.performSome g (·.agent != .copy)) := Background.refl.performSome (G := (· = g)) rfl _
  exact Background.choice (hperformed.pushSome _) hperformed

theorem background_releaseWith (s : State) (sc : Nat) : Background (· = s.cur.core) s (s.releaseWith sc) := by
  have hby : Background (· = s.cur.core) s (s.releaseBy s.cur.core sc) :=
    Background.choice (background_owe s _) (background_drain s _ _)
  exact Background.choice (hby.modCtx fun _ => rfl) hby

/-- Where nothing is on its way a release leaves all as it is. -/
theorem releaseWith_idle {s : State} (hw : s.me.writes = []) (hp : s.dev.posted = []) (sc : Nat) : s.releaseWith sc = s := by
  have hcore : (s.core s.cur.core).writes = [] := hw
  have howe : s.owe s.cur.core = s := if_pos (by rw [hcore]; rfl)
  have hdrain : ∀ host, s.drain s.cur.core host = s := fun host => by
    rw [State.drain, performSome_none (by simp [hcore]), pushSome_none (by simp [hp]), ite_self]
  have hby : s.releaseBy s.cur.core sc = s := by rw [State.releaseBy, howe, hdrain, ite_self]
  rw [State.releaseWith, hby, hw]
  rfl

/-! ### The writes that stay on their way -/

/-- The copy engine's writes follow no others: all the others go, in order. -/
theorem splitWrites_notCopy (ws : List PendWrite) :
    splitWrites PendWrite.follows (·.agent != .copy) ws = (ws.filter (·.agent != .copy), ws.filter (·.agent == .copy)) := by
  induction ws with
  | nil => rfl
  | cons w ws ih =>
    rw [splitWrites, ih]
    by_cases ha : w.agent = .copy
    · have hnone : ((ws.filter (·.agent != .copy)).any (PendWrite.follows w)) = false := by
        rw [List.any_eq_false]
        intro v hv hf
        have hv := (List.mem_filter.mp hv).2
        rw [PendWrite.follows, Bool.and_eq_true, beq_iff_eq] at hf
        rw [← hf.1, ha] at hv
        cases hv
      simp [ha, hnone]
    · simp [ha]

theorem writes_drain (s : State) (g : Nat) (host : Bool) : ((s.drain g host).core g).writes = copyWrites (s.core g) := by
  have hrest : ((s.performSome g (·.agent != .copy)).core g).writes = copyWrites (s.core g) := by
    rw [(Background.performSome_rest (s := s) (G := noCore) g (·.agent != .copy)).writes g id, State.core_modCore, if_pos rfl,
      splitWrites_notCopy]
    rfl
  unfold State.drain
  split
  · rw [((Background.refl (G := noCore)).pushSome _).writes g id, hrest]
  · exact hrest

/-- A change of the executing context leaves the writes of its core on their way. -/
theorem writes_of_sameCore {s t : State} (h : SameCore s t s.cur) : (t.core s.cur.core).writes = (s.core s.cur.core).writes := by
  have hw := congrArg Core.writes h.1
  exact hw

/-- A release at `.dev` or wider leaves the copy engine's writes alone on their way. -/
theorem writes_releaseWith {s : State} {sc : Nat} (h : 4 ≤ sc) : (s.releaseWith sc).me.writes = copyWrites s.me := by
  have hby : s.releaseBy s.cur.core sc = s.drain s.cur.core (sc == 6) := if_neg (by omega)
  have hcur : (s.drain s.cur.core (sc == 6)).cur = s.cur := (background_drain s _ _).cur
  have hdrained : (s.drain s.cur.core (sc == 6)).me.writes = copyWrites s.me := by
    rw [State.me, hcur, writes_drain]
    rfl
  rw [State.releaseWith, hby]
  split
  · exact (writes_of_sameCore sameCore_modCx).trans hdrained
  · exact hdrained

/-- Writes on their way that touch none of some places stay there when a write to the places goes. -/
theorem writes_seenOver {s : State} {g : Nat} {ps : List Nat} (h : ∀ w ∈ (s.core g).writes, w.touches ps = false) (l : List Tag) :
    ((l.foldl (fun s t => s.performSome t.1 fun w => w.owed && w.touches ps) s).core g).writes = (s.core g).writes := by
  induction l generalizing s with
  | nil => rfl
  | cons x l ih =>
    have hstep : ((s.performSome x.1 fun w => w.owed && w.touches ps).core g).writes = (s.core g).writes := by
      by_cases hx : x.1 = g
      · rw [hx, performSome_none fun w hw => by rw [h w hw, Bool.and_false]]
      · exact (Background.refl.performSome (G := (· = x.1)) rfl _).writes g (Ne.symm hx)
    rw [List.foldl_cons, ih (by rwa [hstep]), hstep]

theorem writes_readyFor {s : State} {ps : List Nat} (h : ∀ w ∈ s.me.writes, w.touches ps = false) :
    (readyFor s ps).me.writes = s.me.writes := by
  rw [State.me, (background_readyFor s ps).cur, readyFor, ((Background.refl (G := noCore)).pushSome _).writes _ id]
  exact writes_seenOver h _

end Sys2Proof.Streams
end

section
/-! PROOFS. The completions of the stream instructions where their counter pair lies in own TCM (08 R147 to R152). -/

namespace Sys2Proof.Streams

open Sys2Proof.Machine
open Sys2Proof.NumberFormats
open Sys2Proof.Scalar
open Sys2Proof.Says hiding none

/-! ### The counter pair in own TCM (08 R147) -/

/-- The first address of the executing core's TCM where every core's TCM shows. -/
def pairBase (s : State) : Nat := 0x8000000100000000 + s.cur.core * 0x80000

/-- The offset of the other side's counter, the consumer's for a producer. -/
def otherOff (d : BitVec 128) (p : Nat) : Nat := if cbProd d then p + 4 else p

/-- The offset of this side's counter. -/
def ownOff (d : BitVec 128) (p : Nat) : Nat := if cbProd d then p else p + 4

theorem otherOff_or (d : BitVec 128) (p : Nat) : otherOff d p = p ∨ otherOff d p = p + 4 := by
  unfold otherOff
  split <;> simp

theorem ownOff_or (d : BitVec 128) (p : Nat) : ownOff d p = p ∨ ownOff d p = p + 4 := by
  unfold ownOff
  split <;> simp

section
variable {s : State} {d : BitVec 128} {p : Nat} (h : OwnPair s d p)
include h

theorem ownWindow_pair : OwnWindow s.cur.core (pairBase s) := by
  refine ownWindow_all ?_
  rw [← h.1, bits]
  exact Nat.mod_lt _ (by decide)

theorem cbPair_own : cbPair d = BitVec.ofNat 64 (pairBase s + p) := by
  obtain ⟨hcore, hp, _⟩ := h
  rw [cbPair, hcore, ← hp, pairBase]

theorem cbOther_own : cbOther d = BitVec.ofNat 64 (pairBase s + otherOff d p) := by
  rw [cbOther, otherOff, cbPair_own h]
  split
  · rw [← Nat.add_assoc]
    exact (BitVec.ofNat_add _ 4).symm
  · rfl

theorem cbOwn_own : cbOwn d = BitVec.ofNat 64 (pairBase s + ownOff d p) := by
  rw [cbOwn, ownOff, cbPair_own h]
  split
  · rfl
  · rw [← Nat.add_assoc]
    exact (BitVec.ofNat_add _ 4).symm

/-- A counter of the pair is plain. -/
theorem plainTcm_counter {o : Nat} (ho : o = p ∨ o = p + 4) : PlainTcm s o 4 := by
  obtain ⟨_, _, hplain⟩ := h
  rcases ho with rfl | rfl
  · exact plainTcm_sub (i := 0) hplain (by decide)
  · exact plainTcm_sub hplain (by decide)

/-- A counter of the pair lies in one word. -/
theorem counter_in_word {o : Nat} (ho : o = p ∨ o = p + 4) : o % 8 + 4 ≤ 8 := by
  obtain ⟨_, hp, _⟩ := h
  omega

theorem load_other : s.load (cbOther d) 4 (some (cbSc d)) = .ok (tcmBytes s (otherOff d p) 4, s) := by
  rw [cbOther_own h]
  exact load_window (ownWindow_pair h) (plainTcm_counter h (otherOff_or d p)) (by decide) _

theorem load_own : s.load (cbOwn d) 4 (some (cbSc d)) = .ok (tcmBytes s (ownOff d p) 4, s) := by
  rw [cbOwn_own h]
  exact load_window (ownWindow_pair h) (plainTcm_counter h (ownOff_or d p)) (by decide) _

/-- A consistent pair is counted without any other effect. -/
theorem cbCount_own (hocc : occupied d (tcmValue s (otherOff d p) 4 % 2 ^ 16) ≤ cbN d) :
    ∃ n, s.cbCount d = .ok (some n, s) ∧ (n : Int) = ready d (tcmValue s (otherOff d p) 4 % 2 ^ 16) := by
  obtain ⟨n, hn, hready⟩ := cbReady_some hocc
  refine ⟨n, ?_, hready⟩
  rw [cbCount_of_load (load_other h), ofBytes_tcmBytes, hn]

end

/-- The ready count is at most the slots. -/
theorem ready_le {d : BitVec 128} {x : Nat} (h : occupied d x ≤ cbN d) : ready d x ≤ cbN d := by
  have : 0 ≤ occupied d x := Int.emod_nonneg _ (by decide)
  rw [ready]
  split <;> omega

/-! ### The slots (08 R147, R149) -/

/-- A multiple of 64 in a ring of slots, whose sizes are such, is at a multiple of 64. -/
theorem cbAddr_aligned (d : BitVec 128) (m : Nat) : (cbAddr d (m * 64)).toNat % 64 = 0 := by
  have hs : cbS d = 64 * 2 ^ bits (cbHi d) 58 55 := by rw [cbS, Nat.pow_add, Nat.mul_comm]
  have hin : (cbLcnt d % cbN d * cbS d + m * 64) % (cbN d * cbS d) % 64 = 0 := by
    rw [Nat.mod_mod_of_dvd _ (by rw [hs]; exact ⟨cbN d * 2 ^ bits (cbHi d) 58 55, by ring⟩), hs]
    exact Nat.mod_eq_zero_of_dvd ⟨cbLcnt d % cbN d * 2 ^ bits (cbHi d) 58 55 + m, by ring⟩
  rw [cbAddr, BitVec.toNat_ofNat]
  omega

theorem ofNat_offset {a : Word} (h : 0x8000000000000000 ≤ a.toNat) :
    BitVec.ofNat 64 (0x8000000000000000 + (a.toNat - 0x8000000000000000)) = a := by
  rw [Nat.add_sub_cancel' h, BitVec.ofNat_toNat, BitVec.setWidth_eq]

/-- Plain bytes at an own-TCM address are loaded as memory holds them. -/
theorem load_plainAt {s : State} {a : Word} {n : Nat} (h : PlainAt s a n) (h0 : 0 < n) :
    ∃ bs, s.load a n = .ok (bs, s) ∧ ofBytes bs = valueAt s a n := by
  have hload := load_window (ownWindow_own s.cur.core) h.2 h0 .none
  rw [ofNat_offset h.1] at hload
  exact ⟨_, hload, rfl⟩

/-- Memory with a value stored reads as before beside it. -/
theorem sameBytes_valueCells {s t : State} (hinv : s.Inv) {off n x : Nat} (hmem : t.mem = writeCells s.mem (valueCells s off n x))
    (hdev : t.dev = s.dev) (hsec : t.sectors = s.sectors) :
    SameBytes s t fun q => tcmPlace s.cur.core off ≤ q ∧ q < tcmPlace s.cur.core off + n :=
  sameBytes_of_read hdev hsec fun q hq => by rw [hmem, read_valueCells hinv, if_neg hq]

/-- The 8 bytes of a slot are stored. -/
theorem store_slot {s : State} (hinv : s.Inv) {a x : Word} (ha : a.toNat % 64 = 0) (h : PlainAt s a 8) :
    ∃ u, s.store a (toBytes 8 x.toNat) = .ok u ∧ valueAt u.advance a 8 = x.toNat ∧ SameWs s u.advance s.cur Says.none Says.none 0 ∧
      SameBytes s u.advance fun q => placeAt s a ≤ q ∧ q < placeAt s a + 8 := by
  obtain ⟨hlo, hplain⟩ := h
  obtain ⟨u, hu, hwrote⟩ := store_value hplain (by decide) (by omega) x.toNat
  rw [ofNat_offset hlo] at hu
  obtain ⟨_, _, _, _, hws, hsec, hdev, hmem⟩ := wrote_advance_frame hwrote
  refine ⟨u, hu, ?_, hws, sameBytes_valueCells hinv hmem hdev hsec⟩
  rw [valueAt, tcmValue_stored (u := u.advance) hinv hwrote rfl rfl]
  exact Nat.mod_eq_of_lt x.isLt

/-! ### A counter that moves (08 R149, R152) -/

/-- This side's counter has been advanced to `l` in the descriptor and in its word at `own`, and the result register holds it. -/
structure Moved (s t : State) (x : Reg) (cb : Fin 8) (own l : Nat) : Prop where
  counter : tcmValue t own 4 = l
  handle : t.getCb cb = cbWithLcnt (s.getCb cb) l
  handles : ∀ c, c ≠ cb → t.getCb c = s.getCb c
  result : ∀ r, t.getW r = if r = x ∧ x ≠ 0 then BitVec.ofNat 64 l else s.getW r
  writes : 4 ≤ cbSc (s.getCb cb) → t.me.writes = copyWrites s.me
  bytes : s.me.writes = [] → s.dev.posted = [] →
    SameBytes s t fun q => tcmPlace s.cur.core own ≤ q ∧ q < tcmPlace s.cur.core own + 4

theorem places_valueCells {s : State} {off n x p : Nat} (hp : p ∈ (valueCells s off n x).map Prod.fst) :
    ∃ i < n, p = tcmPlace s.cur.core off + i := by
  obtain ⟨c, hc, rfl⟩ := List.mem_map.mp hp
  obtain ⟨i, hi, rfl⟩ := List.mem_map.mp hc
  exact ⟨i, List.mem_range.mp hi, rfl⟩

section
variable {s r u t : State} {x : Reg} {cb : Fin 8} {own l : Nat}

/-- The executing core's writes after the release and the store of a counter. -/
theorem writes_counter (hsc : 4 ≤ cbSc (s.getCb cb)) (hr : r = s.releaseWith (cbSc (s.getCb cb))) {ps : List Nat}
    (hps : ∀ q ∈ ps, PlainPlace s q) : (readyFor r ps).me.writes = copyWrites s.me := by
  have hwrites : r.me.writes = copyWrites s.me := hr ▸ writes_releaseWith hsc
  rw [writes_readyFor fun w hw => ?_, hwrites]
  rw [hwrites] at hw
  exact touches_plain hps (List.mem_append_left _ (List.mem_append_left _ (List.mem_filter.mp hw).1))

/-- A counter's releasing store, and the descriptor and result after it. -/
theorem moved_store (hinv : s.Inv) (hl : l < 2 ^ 16) (hplain : PlainTcm s own 4) (hr : r = s.releaseWith (cbSc (s.getCb cb)))
    (hlands : Lands (readyFor r ((valueCells s own 4 l).map Prod.fst)) u (valueCells s own 4 l))
    (ht : t = (u.setCb cb (cbWithLcnt (s.getCb cb) l)).retire x (BitVec.ofNat 64 l)) : Moved s t x cb own l := by
  have hrel : Background anyCore s r := hr ▸ (background_releaseWith s _).mono fun _ _ => trivial
  have hready := background_readyFor r ((valueCells s own 4 l).map Prod.fst)
  have hplaces : ∀ q ∈ (valueCells s own 4 l).map Prod.fst, PlainPlace s q := fun q hq => by
    obtain ⟨i, hi, rfl⟩ := places_valueCells hq
    exact (plainCell_of_plainTcm hplain hi).place
  have hback : Background anyCore s u := (hrel.trans hready).trans (hlands.back.mono fun _ _ => trivial)
  have hcur : t.cur = u.cur := by rw [ht, State.retire_cur, State.setCb_cur]
  have hframe : OwnContext u t := ht ▸ ownContext_modWs_retire u _ x (BitVec.ofNat 64 l)
  obtain ⟨⟨hmem, _, _, hsec, _⟩, ⟨_, _, _, _, hdev⟩, _, hcore⟩ := hframe
  refine ⟨?_, ?_, fun c hc => ?_, fun n => ?_, fun hsc => ?_, fun hw hp => ?_⟩
  · have hwf : (readyFor r ((valueCells s own 4 l).map Prod.fst)).Inv :=
      pushSome_inv (seenOver_inv (hr ▸ releaseWith_inv hinv _) _ _) _
    rw [tcmValue_valueCells hwf (hcur.trans hback.cur) (hmem.trans hlands.mem)]
    exact Nat.mod_eq_of_lt (by omega)
  · rw [ht, getCb_retire, State.getCb_setCb, if_pos rfl]
  · rw [ht, getCb_retire, State.getCb_setCb, if_neg hc, hback.getCb]
  · rw [ht, getW_retire, getW_setCb, hback.getW]
  · calc t.me.writes = u.me.writes := by rw [State.me, hcur, writes_of_sameCore hcore, State.me]
      _ = (readyFor r ((valueCells s own 4 l).map Prod.fst)).me.writes := by
        rw [State.me, hlands.back.cur, hlands.back.writes _ id, State.me]
      _ = copyWrites s.me := writes_counter hsc hr hplaces
  · obtain rfl : r = s := hr.trans (releaseWith_idle hw hp _)
    rw [readyFor_plain hplaces] at hlands
    obtain ⟨hdev', hsec'⟩ := Prod.ext_iff.mp hlands.kept
    exact sameBytes_valueCells hinv (hmem.trans hlands.mem) (hdev.trans hdev') (hsec.trans hsec')

end

/-- `cbpop` and `cbpush` complete where the count reaches their need. -/
theorem stream_moves {s : State} (hinv : s.Inv) {fn k n p own : Nat} (hfn : fn = 3 ∨ fn = 4) (x : Reg) {cb : Fin 8}
    (hpair : OwnPair s (s.getCb cb) p) (hfit : HandleFits (s.getCb cb) (cbSide fn) k 0)
    (hcount : s.cbCount (s.getCb cb) = .ok (some n, s)) (hn : k ≤ n) (hown : own = ownOff (s.getCb cb) p) :
    ∃ t, s.stream fn x cb k 0 = .next t ∧ Moved s t x cb own ((cbLcnt (s.getCb cb) + k) % 2 ^ 16) := by
  obtain ⟨r, hr⟩ : ∃ r, r = s.releaseWith (cbSc (s.getCb cb)) := ⟨_, rfl⟩
  have hrel : Background (· = s.cur.core) s r := hr ▸ background_releaseWith s _
  have hplain : PlainTcm s own 4 := plainTcm_counter hpair (hown ▸ ownOff_or _ p)
  have hword := counter_in_word hpair (hown ▸ ownOff_or _ p : own = p ∨ own = p + 4)
  have hw := ownWindow_pair hpair
  have haddr : cbOwn (s.getCb cb) = BitVec.ofNat 64 (pairBase s + own) := hown ▸ cbOwn_own hpair
  obtain ⟨v, hv, _⟩ := store_word hw (freeTcm_of_plainTcm hplain) (by decide) hword ((cbLcnt (s.getCb cb) + k) % 2 ^ 16)
    (some (cbSc (s.getCb cb)))
  obtain ⟨u, hu, hlands⟩ := store_word (s := r) (hrel.cur ▸ hw) (hrel.freeTcm (freeTcm_of_plainTcm hplain)) (by decide) hword
    ((cbLcnt (s.getCb cb) + k) % 2 ^ 16) (some (cbSc (s.getCb cb)))
  have hcells : valueCells r own 4 = valueCells s own 4 := by
    funext y
    rw [valueCells, hrel.cur, valueCells]
  rw [hcells] at hlands
  rw [← haddr] at hv hu
  rw [hr] at hu
  exact ⟨_, stream_completes hfit hcount hn (cbEffect_count hfn hv hu),
    moved_store hinv (Nat.mod_lt _ (by decide)) hplain hr hlands rfl⟩

/-! ### `cbstat` (08 R149) -/

theorem slots_le {d : BitVec 128} (h : cbSound d = true) : cbN d ≤ 2 ^ 8 := by
  simp only [cbSound, Bool.and_eq_true, decide_eq_true_eq] at h
  obtain ⟨⟨⟨_, hn⟩, _⟩, _⟩ := h
  exact Nat.pow_le_pow_right (by decide) (Nat.le_of_lt_succ hn)

/-- The fields of the status word do not overlap. -/
theorem toNat_status {d : BitVec 128} (h : cbSound d = true) {n : Nat} (hn : n ≤ cbN d) :
    (BitVec.ofNat 64 (n + cbLcnt d * 2 ^ 16 + if cbProd d then 2 ^ 32 else 0)).toNat =
      n + cbLcnt d * 2 ^ 16 + if cbProd d then 2 ^ 32 else 0 := by
  have := slots_le h
  have := cbLcnt_lt d
  rw [BitVec.toNat_ofNat]
  split <;> omega

theorem streamCompletions : Says.StreamCompletions := by
  intro s x cb need off p d k o l n moved hinv hpair hocc
  obtain ⟨c, hcount, hc⟩ : ∃ c, s.cbCount d = .ok (some c, s) ∧ (c : Int) = n := cbCount_own hpair hocc
  have hneed : (k : Int) ≤ n → k ≤ c := fun hk => by omega
  have hmoved : ∀ {i : Instr} {fn own : Nat}, fn = 3 ∨ fn = 4 → exec i s = s.stream fn x cb k 0 → HandleFits d (cbSide fn) k 0 →
      (k : Int) ≤ n → own = ownOff d p → moved i own := fun hfn he hfit hk hown => by
    obtain ⟨t, ht, h1, h2, h3, h4, h5, h6⟩ := stream_moves hinv hfn x hpair hfit hcount (hneed hk) hown
    exact ⟨t, he.trans ht, h1, h2, h3, h4, h5, h6⟩
  refine ⟨fun hfit hk => ⟨?_, fun hp => ?_⟩, fun hfit hk => ⟨?_, fun hp => ?_⟩, fun hfit hk => ?_, fun hfit hk => ?_, fun hs => ?_⟩
  · exact stream_completes (fn := 6) hfit hcount (hneed hk) (cbEffect_address (.inl rfl))
  · obtain ⟨bs, hl, hbs⟩ := load_plainAt hp (by decide)
    have hget := stream_completes (fn := 1) (x := x) hfit hcount (hneed hk) (cbEffect_get hl)
    rw [zbytes, hbs] at hget
    exact hget
  · exact stream_completes (fn := 7) hfit hcount (hneed hk) (cbEffect_address (.inr rfl))
  · obtain ⟨u, hu, hval, hws, hbytes⟩ := store_slot (x := s.getW x) hinv (cbAddr_aligned d off.toNat) hp
    exact ⟨u.advance, stream_completes (fn := 2) hfit hcount (hneed hk) (cbEffect_put hu), hval, hws, hbytes⟩
  · have ⟨_, hside, _, _⟩ := hfit
    exact hmoved (.inl rfl) rfl hfit hk (if_neg (by rw [hside]; decide)).symm
  · have ⟨_, hside, _, _⟩ := hfit
    exact hmoved (.inr rfl) rfl hfit hk (if_pos hside).symm
  · refine ⟨_, cbstat_completes hs hcount, ?_⟩
    have hle : (c : Int) ≤ cbN d := hc ▸ ready_le hocc
    rw [toNat_status hs (by omega), ← hc]
    split <;> omega

/-! ### `cbbind` (08 R149, R150) -/

/-- The descriptor's fields but LCNT stay when LCNT is replaced. -/
theorem cbWithLcnt_fields (d : BitVec 128) (n : Nat) : cbLcnt (cbWithLcnt d n) = n % 2 ^ 16 ∧
    (cbWithLcnt d n).toNat / 2 ^ 80 = d.toNat / 2 ^ 80 ∧ (cbWithLcnt d n).toNat % 2 ^ 64 = d.toNat % 2 ^ 64 := by
  have hd := d.isLt
  have hl : ∀ d : BitVec 128, cbLcnt d = d.toNat / 2 ^ 64 % 2 ^ 16 := fun d => by rw [cbLcnt, bits, cbHi, Nat.pow_zero, Nat.div_one]
  rw [hl, cbWithLcnt, hl, BitVec.toNat_ofNat]
  omega

section
variable {s t : State} {x : Reg} {cb : Fin 8}

theorem cbbind_misaligned (h : (s.getW x).toNat % 8 ≠ 0) :
    exec (.cbbind x cb) s = .next (s.sysFault 0x02 (s.getW x) (s.getW x) .read) := by
  have hal : aligned (s.getW x) 8 = false := Bool.eq_false_iff.mpr (mt aligned_iff.mp h)
  change execCbbind x cb s = _
  rw [execCbbind, hal]
  rfl

variable (ha : (s.getW x).toNat % 8 = 0) {bs : List Byte} (hl : s.load (s.getW x) 16 = .ok (bs, t))
include ha hl

theorem cbbind_malformed (hs : cbSound (BitVec.ofNat 128 (ofBytes bs)) = false) : exec (.cbbind x cb) s =
    .next ((settled t).sysFault 0x01 (BitVec.ofNat 64 (cb.val * 2 ^ 32 + 3)) 0 .none) := by
  change execCbbind x cb s = _
  simp only [execCbbind, aligned_iff.mpr ha, hl, hs, bind, Except.bind]
  rfl

theorem cbbind_completes (hs : cbSound (BitVec.ofNat 128 (ofBytes bs)) = true) {cs : List Byte} {u : State}
    (hc : t.load (cbOwn (BitVec.ofNat 128 (ofBytes bs))) 4 (some (cbSc (BitVec.ofNat 128 (ofBytes bs)))) = .ok (cs, u)) :
    exec (.cbbind x cb) s = .next (u.setCb cb (cbWithLcnt (BitVec.ofNat 128 (ofBytes bs)) (ofBytes cs))).advance := by
  change execCbbind x cb s = _
  simp only [execCbbind, aligned_iff.mpr ha, hl, hs, hc, bind, Except.bind]
  rfl

end

theorem streamBinds : Says.StreamBinds := by
  intro s x cb p a d
  have hload : PlainAt s a 16 → ∃ bs, s.load a 16 = .ok (bs, s) ∧ BitVec.ofNat 128 (ofBytes bs) = d := fun hp => by
    obtain ⟨bs, hl, hbs⟩ := load_plainAt hp (by decide)
    exact ⟨bs, hl, congrArg (BitVec.ofNat 128) hbs⟩
  refine ⟨cbbind_misaligned, fun ha hp hs => ?_, fun ha hp hs hpair => ?_⟩
  · obtain ⟨bs, hl, hd⟩ := hload hp
    exact cbbind_malformed ha hl (hd ▸ hs)
  · obtain ⟨bs, hl, hd⟩ := hload hp
    have hbind := cbbind_completes (cb := cb) ha hl (hd ▸ hs) (hd ▸ load_own hpair)
    rw [hd] at hbind
    obtain ⟨hlcnt, hhigh, hlow⟩ := cbWithLcnt_fields d (ofBytes (tcmBytes s (ownOff d p) 4))
    have hcb : ∀ c, (s.setCb cb (cbWithLcnt d (ofBytes (tcmBytes s (ownOff d p) 4)))).advance.getCb c =
        if c = cb then cbWithLcnt d (ofBytes (tcmBytes s (ownOff d p) 4)) else s.getCb c := fun c => by
      rw [getCb_advance, State.getCb_setCb]
    obtain ⟨hmem, hunits, _, _⟩ := ownContext_modWs_advance s fun w => { w with cb := w.cb.set cb.val _ cb.isLt }
    refine ⟨_, hbind, ?_, ?_, ?_, fun c hc => (hcb c).trans (if_neg hc), fun r => ?_, hmem, hunits⟩
    · rw [hcb, if_pos rfl]
      exact hlcnt
    · rw [hcb, if_pos rfl]
      exact hhigh
    · rw [hcb, if_pos rfl]
      exact hlow
    · rw [getW_advance, getW_setCb]

/-- Settles O29: the checks come before the count and the count before the effect; in own TCM the count and a slot are read as memory
holds them, and a counter's releasing store takes effect at once, whatever its release performs before. -/
theorem streamResults : Obligations.StreamResults := ⟨streamChecks, streamWaits, streamEffects, streamCompletions, streamBinds⟩

end Sys2Proof.Streams
end

section
/-! PROOFS. What accesses to memory leave alone of the Lanterns and of the firings that are pending (09 R166, 10 R187). -/

namespace Sys2Proof.Lantern

open Sys2Proof.Machine
open Sys2Proof.Says hiding none

/-! ### Quads and pending firings across an access -/

/-- The quads and the pending firings of every core: what no access to memory changes, beside the tables of the cores
(`coreTables`) and the registers of the contexts (`Background`). -/
def lanterns (s : State) : SMap Quad × (Nat → List Pending) := (s.quads, fun g => (s.core g).firings)

theorem lanterns_congr {s t : State} (hq : t.quads = s.quads) (hc : t.cores = s.cores) : lanterns t = lanterns s := by
  simp only [lanterns, State.core, hq, hc]

theorem quad_of_lanterns {s t : State} (h : lanterns t = lanterns s) (k : Nat) : t.quad k = s.quad k := by
  have hq : t.quads = s.quads := congrArg Prod.fst h
  rw [State.quad, State.quad, hq]

theorem firings_of_lanterns {s t : State} (h : lanterns t = lanterns s) (g : Nat) : (t.core g).firings = (s.core g).firings :=
  congrFun (congrArg Prod.snd h) g

theorem lanterns_modCore (s : State) (g : Nat) {f : Core → Core} (hf : ∀ k, (f k).firings = k.firings) :
    lanterns (s.modCore g f) = lanterns s := by
  refine Prod.ext rfl (funext fun h => ?_)
  simp only [lanterns, State.core_modCore]
  split
  · next e => subst e; exact hf _
  · rfl

@[simp] theorem lanterns_modCtx (s : State) (r : CtxRef) (f : Context → Context) : lanterns (s.modCtx r f) = lanterns s :=
  lanterns_modCore s r.core fun _ => rfl

@[simp] theorem lanterns_modDev (s : State) (f : Device → Device) : lanterns (s.modDev f) = lanterns s := rfl
@[simp] theorem lanterns_modDie (s : State) (d : Nat) (f : Die → Die) : lanterns (s.modDie d f) = lanterns s := rfl
@[simp] theorem lanterns_modCluster (s : State) (d : Nat) (f : Cluster → Cluster) : lanterns (s.modCluster d f) = lanterns s := rfl

theorem lanterns_foldl {β : Type} {f : State → β → State} (hf : ∀ s x, lanterns (f s x) = lanterns s) (l : List β) (s : State) :
    lanterns (l.foldl f s) = lanterns s := by
  induction l generalizing s with
  | nil => rfl
  | cons a l ih => rw [List.foldl_cons, ih, hf]

@[simp] theorem lanterns_count (s : State) (r : CtxRef) (e n : Nat) : lanterns (s.count r e n) = lanterns s := by
  unfold State.count
  split
  · refine lanterns_modCore s _ fun k => ?_
    unfold Core.count
    split <;> rfl
  · rfl

@[simp] theorem lanterns_charge (s : State) (f : FaultRec) (b : Bool) : lanterns (s.charge f b) = lanterns s := lanterns_modCtx s _ _

@[simp] theorem lanterns_wake (s : State) (g : Nat) : lanterns (s.wake g) = lanterns s := lanterns_modCore s g fun _ => rfl

@[simp] theorem lanterns_acquire (s : State) (who : Who) (ts : List Tag) : lanterns (s.acquire who ts) = lanterns s := by
  unfold State.acquire
  split
  · rfl
  · exact lanterns_modCore s _ fun _ => rfl

@[simp] theorem lanterns_countSlice (s : State) (g a : Nat) (w : Bool) (x : Space) : lanterns (s.countSlice g a w x) = lanterns s := by
  cases x <;> rfl

@[simp] theorem lanterns_countRefusals (s : State) (r : CtxRef) (n : Nat) (x : Option (Nat × Nat)) :
    lanterns (s.countRefusals r n x) = lanterns s := by
  cases x with
  | none => rfl
  | some x =>
    refine lanterns_foldl (fun s _ => ?_) _ s
    rw [State.countRefusal, lanterns_modDie, lanterns_count]

@[simp] theorem lanterns_countRuns (s : State) (who : Who) (w : Bool) (rs : List Run) :
    lanterns (s.countRuns who w rs) = lanterns s := by
  refine lanterns_foldl (fun s r => ?_) rs s
  rw [lanterns_foldl fun s _ => lanterns_countSlice s _ _ w _, lanterns_countRefusals]

@[simp] theorem lanterns_cache (s : State) (g : Nat) (es : List TlbEntry) : lanterns (s.cache g es) = lanterns s := by
  unfold State.cache
  generalize es.dedup = l
  induction l generalizing s with
  | nil => rfl
  | cons e l ih => rw [State.cacheEach, ih, lanterns_count, lanterns_modCluster]

@[simp] theorem lanterns_noteMapped (s : State) (x : Space) (b : Bool) (ps : List Nat) :
    lanterns (s.noteMapped x b ps) = lanterns s := by
  cases x with
  | hbm =>
    refine lanterns_foldl (fun s p => ?_) ps s
    dsimp only
    generalize (if b = true then _ else _) = m
    split <;> rfl
  | _ => rfl

/-! #### Lines and sectors (14 R267, R268) -/

@[simp] theorem lanterns_writeBack (s : State) (q : Nat) : lanterns (s.writeBack q) = lanterns s := by
  unfold State.writeBack
  split
  · split <;> rfl
  · rfl

@[simp] theorem lanterns_evict (s : State) (l : Nat) : lanterns (s.evict l) = lanterns s := by
  refine lanterns_foldl (fun u q => ?_) _ s
  exact (lanterns_congr rfl rfl).trans (lanterns_writeBack u q)

@[simp] theorem lanterns_fillSector (s : State) (d l q : Nat) : lanterns (s.fillSector d l q) = lanterns s := by
  have hroom : lanterns (s.makeRoom d l (lineOfSector q)) = lanterns s := by
    unfold State.makeRoom
    dsimp only
    split
    · rfl
    · exact (lanterns_congr rfl rfl).trans (lanterns_evict s _)
  unfold State.fillSector
  split
  · rfl
  · exact (lanterns_congr rfl rfl).trans hroom

@[simp] theorem lanterns_fillRun (s : State) (r : Run) : lanterns (s.fillRun r) = lanterns s := by
  unfold State.fillRun
  split
  · rfl
  · exact lanterns_foldl (fun s q => lanterns_fillSector s _ _ q) _ s

@[simp] theorem lanterns_endFill (s : State) (l : Nat) : lanterns (s.endFill l) = lanterns s := by
  unfold State.endFill
  split
  · rfl
  · rw [lanterns_modDev, lanterns_foldl fun s x => lanterns_modCtx s _ _, lanterns_foldl fun s q => lanterns_fillSector s _ _ q]

/-! #### Writes (15 R275) -/

@[simp] theorem lanterns_poke (s : State) (who : Who) (p : Nat) (v m : Byte) (x : Space) :
    lanterns (s.poke who p v m x) = lanterns s := by
  cases x with
  | tcm g =>
    unfold State.poke State.pokeTcm
    dsimp only
    split
    · split
      · rfl
      · split
        · exact lanterns_modCtx s _ _
        · rfl
    · rfl
  | hbm d l plc pol =>
    have hsector : ∀ u : State, lanterns (u.pokeSector plc p v m) = lanterns u := fun u => by
      unfold State.pokeSector
      split <;> rfl
    unfold State.poke State.pokeHbm
    dsimp only
    split
    · exact lanterns_writeBack s _
    · split
      · rfl
      · rw [hsector, lanterns_fillSector]
  | _ => rfl

@[simp] theorem lanterns_correct (s : State) (ps : List Nat) : lanterns (s.correct ps) = lanterns s := by
  unfold State.correct
  split
  · rfl
  · exact lanterns_foldl (fun s _ => lanterns_count s _ _ _) _ _

@[simp] theorem lanterns_cleanse (s : State) (w : PendWrite) : lanterns (s.cleanse w) = lanterns s := by
  unfold State.cleanse
  split <;> rfl

@[simp] theorem lanterns_land (s : State) (who : Who) (w : PendWrite) : lanterns (s.land who w) = lanterns s := by
  have hcells : ∀ u : State, lanterns (((w.cells.foldl (fun s c => s.poke who c.1 c.2.1 c.2.2 w.space) u).cleanse w).correct
      (w.cells.map Prod.fst)) = lanterns u := fun u => by
    rw [lanterns_correct, lanterns_cleanse, lanterns_foldl fun s c => lanterns_poke s who _ _ _ _]
  unfold State.land
  dsimp only
  split
  · rw [lanterns_wake, hcells]
    split
    · exact lanterns_endFill s _
    · rfl
  · rw [hcells]
    split
    · exact lanterns_endFill s _
    · rfl

@[simp] theorem lanterns_retag (s : State) (who : Who) (w : PendWrite) (a : Bool) : lanterns (s.retag who w a) = lanterns s := by
  unfold State.retag
  dsimp only
  split
  · rfl
  · refine lanterns_foldl (fun s k => ?_) _ s
    rw [lanterns_acquire]
    rfl

@[simp] theorem lanterns_pushSome (s : State) (go : PendWrite → Bool) : lanterns (s.pushSome go) = lanterns s := by
  unfold State.pushSome
  dsimp only
  split
  · rfl
  · rw [lanterns_foldl fun s w => lanterns_land s _ w, lanterns_modDev]

@[simp] theorem lanterns_perform (s : State) (who : Who) (w : PendWrite) (a : Bool) : lanterns (s.perform who w a) = lanterns s := by
  rw [State.perform, lanterns_retag, lanterns_land, lanterns_pushSome]

@[simp] theorem lanterns_arrive (s : State) (w : PendWrite) : lanterns (s.arrive w) = lanterns s := by
  have hcopy : ∀ c, lanterns (s.failCopy w c) = lanterns s := fun c => by
    unfold State.failCopy
    split
    · exact lanterns_modCore s _ fun _ => rfl
    · rfl
  unfold State.arrive
  dsimp only
  split
  · rw [State.loseWrite, lanterns_charge, hcopy]
  · split <;> split <;> simp

@[simp] theorem lanterns_performSome (s : State) (g : Nat) (go : PendWrite → Bool) : lanterns (s.performSome g go) = lanterns s := by
  unfold State.performSome
  dsimp only
  split
  · rfl
  · rw [lanterns_foldl lanterns_arrive]
    exact lanterns_modCore s g fun _ => rfl

@[simp] theorem lanterns_before (s : State) (who : Who) (ps : List Nat) : lanterns (s.before who ps) = lanterns s := by
  unfold State.before State.seenOver State.performOver
  rw [lanterns_foldl fun s t => lanterns_performSome s _ _]
  split <;> exact lanterns_performSome s _ _

@[simp] theorem lanterns_beforeRead (s : State) (who : Who) (rs : List Run) : lanterns (s.beforeRead who rs) = lanterns s := by
  unfold State.beforeRead
  dsimp only
  rw [lanterns_correct, lanterns_foldl fun s r => lanterns_noteMapped s _ _ _]
  split <;> simp

@[simp] theorem lanterns_performRuns (s : State) (who : Who) (rel : Option Nat) (a : Bool) (rs : List Run) (bs : List Byte)
    (ts : List Tag) : lanterns (s.performRuns who rel a rs bs ts) = lanterns s := by
  induction rs generalizing s bs with
  | nil => rfl
  | cons r rs ih => rw [State.performRuns, ih, lanterns_perform, lanterns_noteMapped]

@[simp] theorem lanterns_releaseAt (s : State) (sc : Option Nat) : lanterns (s.releaseAt sc) = lanterns s := by
  unfold State.releaseAt
  split
  · exact lanterns_pushSome s _
  · rfl

/-! ### Accesses of other agents -/

section
variable {s t : State} {who : Who} {a : Word} {n : Nat} {need : Need} {bs : List Byte} {rel : Bool} {sc : Option Nat} {ts : List Tag}

theorem lanterns_agentRead (h : s.agentRead who a n need = .ok (bs, t)) : lanterns t = lanterns s := by
  obtain ⟨_, _, h⟩ := res_bind_ok h
  obtain ⟨_, _, h⟩ := res_bind_ok h
  cases h
  rw [lanterns_cache, lanterns_foldl lanterns_fillRun, lanterns_beforeRead, lanterns_countRuns]

theorem lanterns_agentReads {l : List (Word × Nat)} (h : s.agentReads who l = .ok (bs, t)) : lanterns t = lanterns s := by
  induction l generalizing s bs with
  | nil => cases h; rfl
  | cons x l ih =>
    obtain ⟨⟨_, u⟩, hu, h⟩ := res_bind_ok h
    obtain ⟨⟨_, v⟩, hv, h⟩ := res_bind_ok h
    cases h
    exact (ih hv).trans (lanterns_agentRead hu)

theorem lanterns_agentWrite {count : Bool} (h : s.agentWrite who a bs rel need sc ts count = .ok t) : lanterns t = lanterns s := by
  obtain ⟨_, _, h⟩ := res_bind_ok h
  obtain ⟨_, _, h⟩ := res_bind_ok h
  cases h
  rw [lanterns_performRuns, lanterns_before, lanterns_releaseAt, lanterns_cache]
  split
  · exact lanterns_countRuns s who true _
  · rfl

theorem lanterns_agentWrites {l : List (Word × List Byte)} (h : s.agentWrites who l = .ok t) : lanterns t = lanterns s := by
  induction l generalizing s with
  | nil => cases h; rfl
  | cons x l ih =>
    obtain ⟨u, hu, h⟩ := res_bind_ok h
    exact (ih h).trans (lanterns_agentWrite hu)

theorem lanterns_agentAtom {f : List Byte → List Byte} (h : s.agentAtom who a n f rel sc ts = .ok (bs, t)) :
    lanterns t = lanterns s := by
  obtain ⟨_, _, h⟩ := res_bind_ok h
  obtain ⟨_, _, h⟩ := res_bind_ok h
  cases h
  rw [lanterns_performRuns, lanterns_beforeRead, lanterns_releaseAt, lanterns_cache, lanterns_countRuns]

end

/-! ### Completion records (15 R418) -/

theorem lanterns_report (s : State) (f : FaultRec) : lanterns (s.report f) = lanterns s := by
  unfold State.report
  split
  · rw [lanterns_modDie, lanterns_count]
  · rfl

/-- An engine's completion write posts no firing, whether it is made, held or lost. -/
theorem lanterns_tryComplete (s : State) (r : CtxRef) (e : Engine) (a : Word) (bs : List Byte) (sc : Option Nat) (xid : BitVec 16)
    (ts : List Tag) : lanterns (s.tryComplete r e a bs sc false xid ts).2 = lanterns s := by
  unfold State.tryComplete
  simp only [Bool.false_eq_true, if_false]
  split
  · next h => exact lanterns_agentWrite h
  · dsimp only
    split
    · exact lanterns_report s _
    · exact lanterns_charge s _ _

end Sys2Proof.Lantern
end

section
/-! PROOFS. Tiles of a quad, and the step in which a core's head command takes effect (09 R168, R170, R184). -/

namespace Sys2Proof.Lantern

open Sys2Proof.Machine
open Sys2Proof.Says hiding none

/-! ### Tiles (09 R170) -/

theorem tile_congr {q r : Quad} (h : r.tiles = q.tiles) (n : Nat) : r.tile n = q.tile n := by rw [Quad.tile, Quad.tile, h]

theorem tile_setTile (q : Quad) {m : Nat} (hm : m < 8) (t : Tile) (n : Nat) :
    (q.setTile m t).tile n = if n = m then t else q.tile n := by
  unfold Quad.setTile Quad.tile modAt
  rw [dif_pos hm]
  by_cases hn : n = m
  · subst hn
    simp [hm]
  · simp [hn, Ne.symm hn]

theorem cmdTile_lt (v : VWord) (f : Nat) : cmdTile v f < 8 := Nat.mod_lt _ (by decide)

theorem owned_iff {q : Quad} {k n : Nat} {t : Tile} :
    q.owned k n = some t ↔ (q.tile n).valid = true ∧ (q.tile n).owner.val = k ∧ q.tile n = t := by
  simp [Quad.owned, and_assoc]

/-- The elements of a tile that is built stand row by row. -/
theorem at_build (t : Tile) (f : Nat → Nat → Nat) {i j : Nat} (hi : i < t.rows) (hj : j < t.cols) : (t.build f).at i j = f i j := by
  have hlen : ∀ n, ((List.range n).flatMap fun i => (List.range t.cols).map (f i)).length = n * t.cols := fun n => by
    simp [List.length_flatMap]
  have hcell : ∀ n, i < n → ((List.range n).flatMap fun i => (List.range t.cols).map (f i)).getD (i * t.cols + j) 0 = f i j := by
    intro n hn
    induction n with
    | zero => omega
    | succ n ih =>
      rw [List.range_succ, List.flatMap_append, List.flatMap_singleton]
      by_cases hin : i < n
      · have hlt : i * t.cols + j < n * t.cols := by nlinarith
        rw [List.getD_append _ _ _ _ (by rw [hlen]; exact hlt), ih hin]
      · obtain rfl : i = n := by omega
        rw [List.getD_append_right _ _ _ _ (by rw [hlen]; omega), hlen]
        simp [hj]
  exact hcell t.rows hi

/-- Setting tiles leaves the rest of a quad alone. -/
theorem foldl_setTile_rest {α : Type} (l : List α) (m : α → Nat) (f : Quad → α → Tile) (q : Quad) :
    (l.foldl (fun q x => q.setTile (m x) (f q x)) q) = { q with tiles := (l.foldl (fun q x => q.setTile (m x) (f q x)) q).tiles } := by
  induction l generalizing q with
  | nil => rfl
  | cons x l ih => rw [List.foldl_cons, ih]; rfl

/-- Each tile of a set is replaced by what becomes of it. -/
theorem tile_foldl_setTile {ns : List Nat} (hd : ns.Nodup) (hns : ∀ n ∈ ns, n < 8) (f : Tile → Tile) (q : Quad) (n : Nat) :
    (ns.foldl (fun q n => q.setTile n (f (q.tile n))) q).tile n = if n ∈ ns then f (q.tile n) else q.tile n := by
  induction ns generalizing q with
  | nil => rfl
  | cons m ns ih =>
    obtain ⟨hm, hd⟩ := List.nodup_cons.mp hd
    rw [List.foldl_cons, ih hd fun n hn => hns n (List.mem_cons_of_mem m hn), tile_setTile q (hns m List.mem_cons_self)]
    by_cases hn : n = m
    · subst hn
      simp [hm]
    · simp [hn]

/-! ### A core's queue (09 R167) -/

theorem quadOfCore_source (quad : Nat) {k : Nat} (hk : k < 4) : quadOfCore (4 * quad + k) = quad := by
  unfold quadOfCore
  omega

theorem cmdQueue_congr {s t : State} {g : Nat} (h : (t.quad (quadOfCore g)).queues = (s.quad (quadOfCore g)).queues) :
    t.cmdQueue g = s.cmdQueue g := by
  simp only [State.cmdQueue, h]

@[simp] theorem cmdQueue_modCmdQueue (s : State) (g : Nat) (f : CmdQueue → CmdQueue) :
    (s.modCmdQueue g f).cmdQueue g = f (s.cmdQueue g) := by
  have hg : g % 4 < 4 := Nat.mod_lt _ (by decide)
  simp [State.cmdQueue, State.modCmdQueue, modAt, hg]

theorem headCmd_eq {s : State} {quad k : Nat} {c : Cmd} (h : s.headCmd quad k = some c) :
    ∃ l, (s.cmdQueue (4 * quad + k)).cmds = c :: l ∧ (s.cmdQueue (4 * quad + k)).halted = false ∧ c.served = false := by
  unfold State.headCmd at h
  dsimp only at h
  split at h
  · next d l hl =>
    split at h
    · cases h
    · next hn =>
      cases h
      simp only [Bool.or_eq_true, not_or, Bool.not_eq_true] at hn
      exact ⟨l, hl, hn.1.1, hn.1.2⟩
  · cases h

/-! ### Crossings that wait with a command (02 R52) -/

/-- A queue but for the crossings that wait with its commands. -/
def bareQueue (q : CmdQueue) : CmdQueue := { q with cmds := q.cmds.map fun c => { c with crossings := [] } }

/-- A quad but for the crossings that wait with the commands of its queues. -/
def bareQuad (q : Quad) : Quad := { q with queues := q.queues.map bareQueue }

theorem bareQuad_modCmdQueue (s : State) (g : Nat) {f : CmdQueue → CmdQueue} (hf : ∀ q, bareQueue (f q) = bareQueue q) (k : Nat) :
    bareQuad ((s.modCmdQueue g f).quad k) = bareQuad (s.quad k) := by
  unfold State.modCmdQueue
  rw [State.quad_modQuad]
  split
  · next e =>
    subst e
    simp only [bareQuad, Quad.mk.injEq, true_and, and_true]
    unfold modAt
    split
    · ext i hi
      simp only [Vector.getElem_map, Vector.getElem_set]
      split
      · next e => subst e; exact hf _
      · rfl
    · rfl
  · rfl

theorem bareQuad_counterAdd (s : State) (r : CtxRef) (a : Agent) (wd : BitVec 32) (i : Fin 4) (n : Nat) (src : Fin 4) (id k : Nat) :
    bareQuad ((s.counterAdd r a wd i n src (.command id)).quad k) = bareQuad (s.quad k) := by
  have hcross : ∀ (u : State) (c : Crossing), bareQuad ((u.pendCrossing r c (.command id)).quad k) = bareQuad (u.quad k) := by
    intro u c
    unfold State.pendCrossing
    dsimp only
    split
    · refine bareQuad_modCmdQueue u _ (fun q => ?_) k
      simp only [CmdQueue.modCmd, bareQueue, List.map_map]
      congr 2
      funext x
      simp only [Function.comp_apply]
      split <;> rfl
    · rfl
  unfold State.counterAdd
  dsimp only
  split
  · rfl
  · next u hu =>
    have hadd : u.quad k = s.quad k := quad_of_lanterns (lanterns_agentAtom hu) k
    refine iteInduction (motive := fun t : State => bareQuad (t.quad k) = bareQuad (s.quad k)) (fun _ => ?_) fun _ => by rw [hadd]
    rw [hcross]
    split
    · next hv => rw [quad_of_lanterns (lanterns_agentAtom hv), hadd]
    · rw [hadd]

/-- What a command counts changes no quad but for the crossings that then wait with it. -/
theorem bareQuad_countCvt (s : State) (r : CtxRef) (a : Agent) (wd : BitVec 32) (n : Counts) (src : Fin 4) (id k : Nat) :
    bareQuad ((s.countCvt r a wd n src (.command id)).quad k) = bareQuad (s.quad k) := by
  have hstep : ∀ (u : State) (i : Fin 4) (m : Nat),
      bareQuad ((if m = 0 then u else u.counterAdd r a wd i m src (.command id)).quad k) = bareQuad (u.quad k) := fun u i m => by
    split
    · rfl
    · exact bareQuad_counterAdd u r a wd i m src id k
  unfold State.countCvt
  dsimp only
  rw [hstep, hstep, hstep]

theorem cmdQueue_of_bareQuad {s t : State} {g : Nat} (h : bareQuad (t.quad (quadOfCore g)) = bareQuad (s.quad (quadOfCore g))) :
    bareQueue (t.cmdQueue g) = bareQueue (s.cmdQueue g) := by
  have hq : (t.quad (quadOfCore g)).queues.map bareQueue = (s.quad (quadOfCore g)).queues.map bareQueue := congrArg Quad.queues h
  have hi := congrArg (fun q : Vector CmdQueue 4 => q[g % 4]'(Nat.mod_lt _ (by decide))) hq
  simp only [Vector.getElem_map] at hi
  exact hi

/-- A head command that is marked as served, with the crossings that wait with it. -/
theorem serve_of_bareQueue {q r : CmdQueue} {c : Cmd} {l : List Cmd} (h : bareQueue r = bareQueue q) (hq : q.cmds = c :: l) :
    (∃ xs, r.serve.cmds.head? = some { c with served := true, crossings := xs }) ∧ r.serve.halted = q.halted := by
  have hc := congrArg CmdQueue.cmds h
  have hh := congrArg CmdQueue.halted h
  simp only [bareQueue, hq] at hc
  cases hr : r.cmds with
  | nil => rw [hr] at hc; cases hc
  | cons d m =>
    rw [hr] at hc
    obtain ⟨hd, -⟩ := List.cons.inj hc
    refine ⟨⟨d.crossings, ?_⟩, ?_⟩
    · simp only [CmdQueue.serve, hr, List.head?_cons, Option.some.injEq]
      cases d
      cases c
      simp_all
    · simp only [CmdQueue.serve, hr]
      exact hh

/-! ### The step of a source whose turn it is (09 R168) -/

/-- The state in which a core's head command runs: it is its source's turn, and its placement is acquired (09 R183). -/
def begun (s : State) (quad : Nat) (src : Fin 5) (c : Cmd) : State :=
  (s.modQuad quad fun q => { q with lastSrc := src }).acquire (s.whoAgent (4 * quad + src.val) 1) c.tags

/-- The state after a command that has run to its end in `w`: tiles, counts and its mark. -/
def ended (w : State) (quad k : Nat) (c : Cmd) (ts : List (Nat × Tile)) (n : Counts) : State :=
  ((w.modQuad quad fun q => ts.foldl (fun q x => q.setTile (cmdTile c.bytes x.1) x.2) q).countCvt ⟨4 * quad + k, c.ctx⟩ .lantern
    (BitVec.ofNat 32 (cmdD c.bytes 0)) n 1 (.command c.id)).modCmdQueue (4 * quad + k) CmdQueue.serve

/-- The head command of a core is served by a step, after which `p` holds. -/
def Serves (s : State) (quad k : Nat) (c : Cmd) (i : Instr) (p : State → Prop) : Prop :=
  Completes s i fun t => (∃ xs, (t.cmdQueue (4 * quad + k)).cmds.head? = some { c with served := true, crossings := xs }) ∧
    (t.cmdQueue (4 * quad + k)).halted = false ∧ p t

theorem quad_begun (s : State) (quad : Nat) (src : Fin 5) (c : Cmd) :
    (begun s quad src c).quad quad = { s.quad quad with lastSrc := src } := by
  rw [begun, quad_of_lanterns (lanterns_acquire _ _ _), State.quad_modQuad, if_pos rfl]

theorem sameMemory_acquire (s : State) (who : Who) (ts : List Tag) : SameMemory s (s.acquire who ts) := by
  unfold State.acquire
  split <;> exact ⟨rfl, rfl, rfl, rfl, rfl, rfl⟩

theorem sameMemory_modQuad (s : State) (k : Nat) (f : Quad → Quad) : SameMemory s (s.modQuad k f) := ⟨rfl, rfl, rfl, rfl, rfl, rfl⟩

theorem ctx_acquire (s : State) (who : Who) (ts : List Tag) (r : CtxRef) : (s.acquire who ts).ctx r = s.ctx r := by
  unfold State.acquire
  split
  · rfl
  · rw [State.ctx, State.core_modCore]
    split
    · next e => rw [State.ctx, e]; rfl
    · rfl

theorem sameMemory_begun (s : State) (quad : Nat) (src : Fin 5) (c : Cmd) : SameMemory s (begun s quad src c) :=
  sameMemory_acquire (s.modQuad quad fun q => { q with lastSrc := src }) _ _

section
variable {s : State} {quad : Nat} {src : Fin 5} {c : Cmd}

theorem serveCore_done {ts : List (Nat × Tile)} {n : Counts} {w : State}
    (hrun : (begun s quad src c).runCmd quad src.val c = .done ts n w) :
    (s.modQuad quad fun q => { q with lastSrc := src }).serveCore quad src.val c = ended w quad src.val c ts n := by
  have hu : (s.modQuad quad fun q => { q with lastSrc := src }).acquire
      ((s.modQuad quad fun q => { q with lastSrc := src }).whoAgent (4 * quad + src.val) 1) c.tags = begun s quad src c := rfl
  unfold State.serveCore
  dsimp only
  rw [hu, hrun]
  rfl

theorem serveCore_refuse {reason detail : Nat} (hrun : (begun s quad src c).runCmd quad src.val c = .refuse reason detail) :
    (s.modQuad quad fun q => { q with lastSrc := src }).serveCore quad src.val c =
      (begun s quad src c).refuseCmd (4 * quad + src.val) c reason detail := by
  have hu : (s.modQuad quad fun q => { q with lastSrc := src }).acquire
      ((s.modQuad quad fun q => { q with lastSrc := src }).whoAgent (4 * quad + src.val) 1) c.tags = begun s quad src c := rfl
  unfold State.serveCore
  dsimp only
  rw [hu, hrun]

end

/-- Tiles and format contexts after a command. -/
theorem quad_ended (w : State) (quad : Nat) {k : Nat} (hk : k < 4) (c : Cmd) (ts : List (Nat × Tile)) (n : Counts) :
    ((ended w quad k c ts n).quad quad).tiles =
        (ts.foldl (fun q x => q.setTile (cmdTile c.bytes x.1) x.2) (w.quad quad)).tiles ∧
      ((ended w quad k c ts n).quad quad).fctx = (w.quad quad).fctx := by
  have hbare := bareQuad_countCvt (w.modQuad quad fun q => ts.foldl (fun q x => q.setTile (cmdTile c.bytes x.1) x.2) q)
    ⟨4 * quad + k, c.ctx⟩ .lantern (BitVec.ofNat 32 (cmdD c.bytes 0)) n 1 c.id quad
  have hrest := foldl_setTile_rest ts (fun x => cmdTile c.bytes x.1) (fun _ x => x.2) (w.quad quad)
  unfold ended State.modCmdQueue
  rw [quadOfCore_source quad hk, State.quad_modQuad, if_pos rfl]
  rw [State.quad_modQuad, if_pos rfl, hrest] at hbare
  have htiles := congrArg Quad.tiles hbare
  have hfctx := congrArg Quad.fctx hbare
  exact ⟨htiles, hfctx⟩

theorem sameMemory_ended (w : State) (quad k : Nat) (c : Cmd) (ts : List (Nat × Tile)) : SameMemory w (ended w quad k c ts {}) :=
  ⟨rfl, rfl, rfl, rfl, rfl, rfl⟩

section
variable {s : State} {quad : Nat} {src : Fin 5} {c : Cmd} (hk : src.val < 4) (hhead : s.headCmd quad src.val = some c)
  (hturn : s.srcTurn quad src = true)
include hk hhead hturn

/-- A source's turn: its head command takes effect. -/
theorem serve_eq {code : Nat → Bool} (hcode : code (cmdCode c.bytes) = true) (name : String) :
    s.serve quad src code name = .next ((s.modQuad quad fun q => { q with lastSrc := src }).serveCore quad src.val c) := by
  have hqueue : (s.modQuad quad fun q => { q with lastSrc := src }).cmdQueue (4 * quad + src.val) = s.cmdQueue (4 * quad + src.val) := by
    refine cmdQueue_congr ?_
    rw [quadOfCore_source quad hk, State.quad_modQuad, if_pos rfl]
  have hhead' : (s.modQuad quad fun q => { q with lastSrc := src }).headCmd quad src.val = some c := by
    rw [← hhead]
    simp only [State.headCmd, hqueue]
  have hcond : ((s.srcCode quad src).any code && s.srcTurn quad src) = true := by
    rw [State.srcCode, if_pos hk, hhead, hturn, Option.map_some, Option.any_some, hcode]
    rfl
  unfold State.serve
  rw [if_pos hcond]
  simp only [hhead', if_pos hk]

/-- A command that runs to its end is served. -/
theorem serves_of_done {i : Instr} {code : Nat → Bool} {name : String} {ts : List (Nat × Tile)} {n : Counts} {w : State}
    {p : State → Prop} (hexec : exec i s = s.serve quad src code name) (hcode : code (cmdCode c.bytes) = true)
    (hrun : (begun s quad src c).runCmd quad src.val c = .done ts n w) (hq : (w.quad quad).queues = (s.quad quad).queues)
    (hp : p (ended w quad src.val c ts n)) : Serves s quad src.val c i p := by
  obtain ⟨l, hl, hh, -⟩ := headCmd_eq hhead
  have hbare := bareQuad_countCvt (w.modQuad quad fun q => ts.foldl (fun q x => q.setTile (cmdTile c.bytes x.1) x.2) q)
    ⟨4 * quad + src.val, c.ctx⟩ .lantern (BitVec.ofNat 32 (cmdD c.bytes 0)) n 1 c.id (quadOfCore (4 * quad + src.val))
  have hqueue : (w.modQuad quad fun q => ts.foldl (fun q x => q.setTile (cmdTile c.bytes x.1) x.2) q).cmdQueue (4 * quad + src.val) =
      s.cmdQueue (4 * quad + src.val) := by
    refine cmdQueue_congr ?_
    rw [quadOfCore_source quad hk, State.quad_modQuad, if_pos rfl,
      foldl_setTile_rest ts (fun x => cmdTile c.bytes x.1) (fun _ x => x.2)]
    exact hq
  obtain ⟨hserved, hhalt⟩ := serve_of_bareQueue (cmdQueue_of_bareQuad hbare) (hqueue ▸ hl)
  refine ⟨ended w quad src.val c ts n, by rw [hexec, serve_eq hk hhead hturn hcode, serveCore_done hrun], ?_, ?_, hp⟩
  · rw [ended, cmdQueue_modCmdQueue]
    exact hserved
  · rw [ended, cmdQueue_modCmdQueue, hhalt, hqueue, hh]

end

end Sys2Proof.Lantern
end

section
/-! PROOFS. Refused commands, waits that last too long, and retirement (09 R167, R173, R181, R184, 12 R232, R237, R243). -/

namespace Sys2Proof.Lantern

open Sys2Proof.Machine
open Sys2Proof.NumberFormats
open Sys2Proof.Says hiding none

/-! ### Refused commands (09 R184) -/

/-- A refused command halts its queue, which keeps its commands, and MQ_ILLEGAL is charged to the context that placed it. -/
theorem refuseCmd_charges (s : State) (g : Nat) (c : Cmd) (reason detail : Nat) :
    ((s.refuseCmd g c reason detail).cmdQueue g).halted = true ∧
      ((s.refuseCmd g c reason detail).cmdQueue g).cmds = (s.cmdQueue g).cmds ∧
      ∃ f, ((s.refuseCmd g c reason detail).ctx ⟨g, c.ctx⟩).charged = (s.ctx ⟨g, c.ctx⟩).charged ++ [⟨f, false⟩] ∧ f.cause = 0x0E ∧
        f.agent = .lantern ∧ f.value = BitVec.ofNat 64 (detail * 2 ^ 16 + cmdCode c.bytes * 2 ^ 8 + reason) := by
  have hqueue : (s.refuseCmd g c reason detail).cmdQueue g = { s.cmdQueue g with halted := true } :=
    cmdQueue_modCmdQueue s g fun q => { q with halted := true }
  refine ⟨by rw [hqueue], by rw [hqueue], _, congrArg Context.charged (charge_ctx _ _ _), ?_⟩
  exact ⟨rfl, rfl, rfl⟩

theorem cmdQueue_begun (s : State) {quad : Nat} {src : Fin 5} (hk : src.val < 4) (c : Cmd) :
    (begun s quad src c).cmdQueue (4 * quad + src.val) = s.cmdQueue (4 * quad + src.val) := by
  refine cmdQueue_congr ?_
  rw [quadOfCore_source quad hk, quad_begun]

/-- A command with an unknown CODE is refused at its turn (09 R172, log entry 21). -/
theorem mcfg_unknownCode {s : State} {quad : Nat} {src : Fin 5} {c : Cmd} (hk : src.val < 4)
    (hhead : s.headCmd quad src.val = some c) (hturn : s.srcTurn quad src = true) (hcode : cmdCode c.bytes = 0 ∨ 13 < cmdCode c.bytes) :
    exec (.mcfg quad src) s = .next ((begun s quad src c).refuseCmd (4 * quad + src.val) c 1 0) := by
  have hexec : exec (.mcfg quad src) s = s.serve quad src (fun c => c == 1 || c == 0 || decide (13 < c)) "MCFG" := rfl
  have hrun : (begun s quad src c).runCmd quad src.val c = .refuse 1 0 := if_pos hcode
  rw [hexec, serve_eq hk hhead hturn (by rcases hcode with h | h <;> simp [h]), serveCore_refuse hrun]

/-! ### Waits that last too long (09 R173, R181) -/

theorem lanternWaitTimeout_eq {s : State} {quad : Nat} {src : Fin 5} {c : Cmd} (hk : src.val < 4)
    (hhead : s.headCmd quad src.val = some c) : exec (.lanternWaitTimeout quad src) s =
      if c.late = true ∨ (s.cmdWaits quad src.val c = true ∧ c.headSince + (s.core (4 * quad + src.val)).waitlim.toNat ≤ s.now) then
        .next (s.refuseCmd (4 * quad + src.val) c 6 (s.waitTile quad c))
      else .refused (.notEnabled "LANTERN_WAIT_TIMEOUT") := by
  change execLanternWaitTimeout quad src s = _
  simp only [execLanternWaitTimeout, hhead, hk, true_and, State.headLate, decide_eq_true_eq]

/-- A command whose wait has outlasted WAITLIM makes its source not ready. -/
theorem srcTurn_late {s : State} {quad : Nat} {src : Fin 5} {c : Cmd} (hk : src.val < 4)
    (hhead : s.headCmd quad src.val = some c) (hlate : c.late = true) : s.srcTurn quad src = false := by
  have hready : s.srcReady quad src = false := by
    rw [State.srcReady, if_pos hk, hhead, Option.any_some, hlate]
    rfl
  rw [State.srcTurn, beq_eq_false_iff_ne]
  intro h
  exact Bool.false_ne_true (hready.symm.trans (List.find?_some h))

/-- The low half of the value of a refusal holds CODE and the reason. -/
theorem refusal_low (detail reason : Nat) (v : VWord) (h : reason < 2 ^ 8) :
    (BitVec.ofNat 64 (detail * 2 ^ 16 + cmdCode v * 2 ^ 8 + reason)).toNat % 2 ^ 16 = cmdCode v * 256 + reason := by
  have hcode : cmdCode v < 256 := Nat.mod_lt _ (by decide)
  rw [BitVec.toNat_ofNat]
  omega

/-! ### Retirement of a core's command (09 R167, 06 R123) -/

theorem exec_lanternRetire (s : State) (quad : Nat) (src : Fin 5) :
    exec (.lanternRetire quad src) s = if src.val < 4 then s.retireCore (4 * quad + src.val) else s.retireMeeting quad := rfl

theorem map_bytes_dropHead (q : CmdQueue) (now : Nat) : (q.dropHead now).cmds.map Cmd.bytes = (q.cmds.drop 1).map Cmd.bytes := by
  unfold CmdQueue.dropHead
  split
  · next h => rw [h]
  · next h => rw [h]; rfl

theorem evl_wake (s : State) (g : Nat) (m : CtxId) : ((s.wake g).ctx ⟨g, m⟩).evl = true := by
  rw [State.ctx, State.wake, State.core_modCore, if_pos rfl]
  simp [Core.wake, Core.ctx]

theorem sameMemory_giveCrossings (s : State) (r : CtxRef) (cs : List Crossing) : SameMemory s (s.giveCrossings r cs) := by
  unfold State.giveCrossings
  split <;> exact ⟨rfl, rfl, rfl, rfl, rfl, rfl⟩

@[simp] theorem lanterns_giveCrossings (s : State) (r : CtxRef) (cs : List Crossing) : lanterns (s.giveCrossings r cs) = lanterns s := by
  unfold State.giveCrossings
  split
  · rfl
  · exact lanterns_modCtx s _ _

theorem sameMemory_count (s : State) (r : CtxRef) (e n : Nat) : SameMemory s (s.count r e n) := by
  unfold State.count
  split <;> exact ⟨rfl, rfl, rfl, rfl, rfl, rfl⟩

/-- A served head command retires: the queue moves on, and the core's event latches are set. -/
theorem retireCore_served {s : State} {g : Nat} {c : Cmd} {l : List Cmd} (hl : (s.cmdQueue g).cmds = c :: l) (hc : c.served = true) :
    ∃ t, s.retireCore g = .next t ∧ (t.cmdQueue g).cmds.map Cmd.bytes = l.map Cmd.bytes ∧ (∀ m, (t.ctx ⟨g, m⟩).evl = true) ∧
      SameMemory s t := by
  refine ⟨_, by simp only [State.retireCore, hl, hc, if_true]; rfl, ?_, fun m => ?_, ?_⟩
  · have hquad := quad_of_lanterns (s := s.modCmdQueue g fun q => q.dropHead s.now)
      ((lanterns_count _ ⟨g, c.ctx⟩ 4 1).trans ((lanterns_wake _ g).trans (lanterns_giveCrossings _ ⟨g, c.ctx⟩ c.crossings)))
    rw [cmdQueue_congr (congrArg Quad.queues (hquad _)), cmdQueue_modCmdQueue, map_bytes_dropHead, hl]
    rfl
  · rw [ctx_count]
    exact evl_wake _ g m
  · exact sameMemory_trans (sameMemory_giveCrossings (s.modCmdQueue g fun q => q.dropHead s.now) ⟨g, c.ctx⟩ c.crossings)
      (sameMemory_count _ _ 4 1)

theorem retireCore_waits {s : State} {g : Nat} {c : Cmd} {l : List Cmd} (hl : (s.cmdQueue g).cmds = c :: l) (hc : c.served = false) :
    s.retireCore g = .refused (.notEnabled "LANTERN_RETIRE") := by
  simp [State.retireCore, hl, hc]

/-! ### Retirement of a meeting (12 R232, R237, R243) -/

/-- What the end of a phase by a fault leaves alone: the quads and the pending firings. -/
theorem lanterns_closeFaulted (s : State) (clu ring trk : Nat) : lanterns (s.closeFaulted clu ring trk) = lanterns s := by
  have hidle : ∀ t : State, lanterns (t.idlePhase clu ring trk) = lanterns t := fun _ => lanterns_wake _ _
  have hclose : ∀ st, lanterns (s.closePhase clu ring trk st) = lanterns s := fun st => by
    unfold State.closePhase
    dsimp only
    split
    · exact (lanterns_modCluster _ _ _).trans (lanterns_tryComplete _ _ _ _ _ _ _ _)
    · rw [hidle]
      split
      · exact (lanterns_modCluster _ _ _).trans (lanterns_tryComplete _ _ _ _ _ _ _ _)
      · exact lanterns_tryComplete _ _ _ _ _ _ _ _
  exact iteInduction (motive := fun t => lanterns t = lanterns s) (fun _ => hclose 2) fun _ => rfl

theorem closeFaulted_sound {s : State} {clu ring trk : Nat} (h : ((s.cluster clu).phase ring trk).faulted = false) :
    s.closeFaulted clu ring trk = s := by
  rw [State.closeFaulted, h]
  rfl

theorem length_dropMeeting (q : Quad) (now : Nat) : (q.dropMeeting now).meetings.length = (q.meetings.drop 1).length := by
  unfold Quad.dropMeeting
  split
  · next h => rw [h]
  · next h => rw [h]; rfl

/-- The state in which a meeting has left its buffer, with its crossings at the context that they charge (02 R52). -/
def withdrawn (s : State) (quad : Nat) (m : Meeting) : State :=
  (s.modQuad quad fun q => q.dropMeeting s.now).giveCrossings ⟨m.core, m.ctx⟩ m.crossings

section
variable {s : State} {quad : Nat} {m : Meeting} {l : List Meeting} (hl : (s.quad quad).meetings = m :: l)
include hl

theorem length_meetings_withdrawn {t : State} (h : t.quad quad = (withdrawn s quad m).quad quad) :
    (t.quad quad).meetings.length = l.length := by
  rw [h, withdrawn, quad_of_lanterns (lanterns_giveCrossings _ _ _), State.quad_modQuad, if_pos rfl, length_dropMeeting, hl]
  rfl

variable (hserved : m.served = true) (hrec : m.recovery = false)
include hserved hrec

theorem retireMeeting_silent (hnote : entNote m.entry = false) :
    s.retireMeeting quad = .next ((withdrawn s quad m).closeFaulted m.clu m.ring m.trk.val) := by
  simp [State.retireMeeting, hl, hserved, hnote, State.retireRecovery, hrec, withdrawn]

theorem retireMeeting_note (hnote : entNote m.entry = true) (hpost : (s.core (quad * 4 + entNcore m.entry)).mayPost 4 = true) :
    ∃ ts, s.retireMeeting quad = .next (((withdrawn s quad m).post (quad * 4 + entNcore m.entry)
      { m.notify (withdrawn s quad m).now with tags := ts }).closeFaulted m.clu m.ring m.trk.val) := by
  refine ⟨(withdrawn s quad m).engineTags (quad * 4 + tmplCore m.tmpl) (some 1) [], ?_⟩
  simp [State.retireMeeting, hl, hserved, hnote, hpost, State.retireRecovery, hrec, withdrawn]

end

/-- A firing that is posted goes last at its core. -/
theorem firings_post (s : State) (g : Nat) (p : Pending) : ((s.post g p).core g).firings = (s.core g).firings ++ [p] := by
  rw [State.post, State.core_modCore, if_pos rfl]

theorem lanternRetirement : Says.LanternRetirement := by
  intro s quad src g
  refine ⟨fun hk => ⟨fun c l hl hc => ?_, fun c l hl hc => ?_, fun c hhead => ⟨fun hlate => ?_, srcTurn_late hk hhead,
    fun hlate hearly => ?_⟩⟩, fun hk m l hl hserved hrec => ⟨fun hnote => ?_, fun hnote hpost => ?_⟩⟩
  · obtain ⟨t, ht, hp⟩ := retireCore_served hl hc
    exact ⟨t, by rw [exec_lanternRetire, if_pos hk, ht], hp⟩
  · exact ⟨_, by rw [exec_lanternRetire, if_pos hk, retireCore_waits hl hc]⟩
  · obtain ⟨hhalted, -, f, hcharged, hcause, -, hvalue⟩ :=
      refuseCmd_charges s (4 * quad + src.val) c 6 (s.waitTile quad c)
    refine ⟨_, (lanternWaitTimeout_eq hk hhead).trans (if_pos hlate), hhalted, f, hcharged, hcause, ?_⟩
    rw [hvalue, refusal_low _ 6 _ (by decide)]
  · refine ⟨_, (lanternWaitTimeout_eq hk hhead).trans (if_neg ?_)⟩
    rintro (h | ⟨hwait, hnow⟩)
    · rw [hlate] at h
      cases h
    · rcases hearly with h | h
      · rw [h] at hwait
        cases hwait
      · exact absurd hnow (Nat.not_le.mpr h)
  · have hnot : ¬ src.val < 4 := by omega
    refine ⟨_, by rw [exec_lanternRetire, if_neg hnot, retireMeeting_silent hl hserved hrec hnote],
      length_meetings_withdrawn hl (quad_of_lanterns (lanterns_closeFaulted _ _ _ _) quad), fun hcross hfault => ?_⟩
    have hdrawn : withdrawn s quad m = s.modQuad quad fun q => q.dropMeeting s.now := by
      rw [withdrawn, hcross]
      rfl
    rw [hdrawn, closeFaulted_sound (s := s.modQuad quad fun q => q.dropMeeting s.now) hfault]
    exact ⟨rfl, rfl, rfl, rfl, rfl, rfl, rfl⟩
  · have hnot : ¬ src.val < 4 := by omega
    obtain ⟨ts, ht⟩ := retireMeeting_note hl hserved hrec hnote hpost
    have hview := lanterns_closeFaulted ((withdrawn s quad m).post (quad * 4 + entNcore m.entry)
      { m.notify (withdrawn s quad m).now with tags := ts }) m.clu m.ring m.trk.val
    refine ⟨_, by rw [exec_lanternRetire, if_neg hnot, ht], length_meetings_withdrawn hl (quad_of_lanterns hview quad),
      { m.notify (withdrawn s quad m).now with tags := ts }, ?_, rfl, rfl, rfl⟩
    have hdrawn : ((withdrawn s quad m).core (quad * 4 + entNcore m.entry)).firings =
        (s.core (quad * 4 + entNcore m.entry)).firings :=
      firings_of_lanterns (lanterns_giveCrossings (s.modQuad quad fun q => q.dropMeeting s.now) _ _) _
    rw [firings_of_lanterns hview, firings_post, hdrawn]

end Sys2Proof.Lantern
end

section
/-! PROOFS. Lantern commands take effect (09 R173 to R182, 02 R44). -/

namespace Sys2Proof.Lantern

open Sys2Proof.Machine
open Sys2Proof.NumberFormats
open Sys2Proof.Says hiding none

/-! ### What a command runs as -/

section
variable {s : State} {quad k : Nat} {c : Cmd}

/-- A sound command on the tiles of its fields. -/
theorem runCmd_fields (hs : cmdSound c.bytes = true) (h3 : 3 ≤ cmdCode c.bytes) (h13 : cmdCode c.bytes ≤ 13)
    (h8 : cmdCode c.bytes ≠ 8) (h9 : cmdCode c.bytes ≠ 9) : s.runCmd quad k c = runTiles s (s.coreSite quad k c) c.bytes := by
  have h0 : ¬ (cmdCode c.bytes = 0 ∨ 13 < cmdCode c.bytes) := by omega
  have h1 : ¬ (cmdCode c.bytes = 1 ∨ cmdCode c.bytes = 8 ∨ cmdCode c.bytes = 9) := by omega
  have h2 : cmdCode c.bytes ≠ 2 := by omega
  simp [State.runCmd, h0, hs, h1, h2]

/-- A sound MCFG, MZERO or MREL whose tiles are not refused. -/
theorem runCmd_mask (hs : cmdSound c.bytes = true) (h : cmdCode c.bytes = 1 ∨ cmdCode c.bytes = 8 ∨ cmdCode c.bytes = 9)
    (hr : maskRefusal (s.quad quad) k c.bytes = none) : s.runCmd quad k c = .done [] {} (s.modQuad quad fun q =>
      (cmdTiles c.bytes).foldl (fun q n => q.setTile n (maskTile k c.bytes (q.tile n))) q) := by
  have h0 : ¬ (cmdCode c.bytes = 0 ∨ 13 < cmdCode c.bytes) := by omega
  simp [State.runCmd, h0, hs, h, hr]

/-- A sound MCTX that loads no table. -/
theorem runCmd_mctx (hs : cmdSound c.bytes = true) (h : cmdCode c.bytes = 2) (h8 : bit (cmdD c.bytes 0) 8 = false)
    (h9 : bit (cmdD c.bytes 0) 9 = false) : s.runCmd quad k c = .done [] {} (s.modQuad quad fun q =>
      { q with fctx := modAt q.fctx k fun _ => { (s.quad quad).fctx[(Fin.ofNat 4 k)] with
        qsat := bit (cmdD c.bytes 0) 10, smode := bits (cmdD c.bytes 0) 12 11, acct := bit (cmdD c.bytes 0) 13 } }) := by
  simp [State.runCmd, h, hs, runMctx, State.ctxTable, h8, h9, bind, Except.bind, pure, Except.pure, cmdTry]

end

section
variable {s : State} {x : CmdSite} {v : VWord}

theorem runTiles_mld {t : Tile} (hc : cmdCode v = 3) (h : x.tile 1 = some t) : runTiles s x v = runMld s x v t := by
  simp [runTiles, hc, cmdFields, h]

theorem runTiles_mst {t : Tile} (hc : cmdCode v = 7) (h : x.tile 1 = some t) : runTiles s x v = runMst s x v t := by
  simp [runTiles, hc, cmdFields, h]

theorem runTiles_mnorm {t : Tile} (hc : cmdCode v = 13) (h : x.tile 1 = some t) : runTiles s x v = runMnorm s x v t := by
  simp [runTiles, hc, cmdFields, h]

theorem runTiles_product {tc ta tb : Tile} (hc : cmdCode v = 4 ∨ cmdCode v = 5 ∨ cmdCode v = 6) (h1 : x.tile 1 = some tc)
    (h2 : x.tile 2 = some ta) (h3 : x.tile 3 = some tb) : runTiles s x v = runMma s x v tc ta tb := by
  rcases hc with hc | hc | hc <;> simp [runTiles, hc, cmdFields, h1, h2, h3]

theorem runTiles_mmask {td tk : Tile} (hc : cmdCode v = 12) (h1 : x.tile 1 = some td) (h2 : x.tile 2 = some tk) :
    runTiles s x v = runMmask s x v td tk := by
  simp [runTiles, hc, cmdFields, h1, h2]

theorem runTiles_msync (hc : cmdCode v = 11) : runTiles s x v = runMsync s x v := by
  simp [runTiles, hc, cmdFields]

theorem runTiles_mopt {tw tg tm tv : Tile} (hc : cmdCode v = 10) (h1 : x.tile 1 = some tw) (h2 : x.tile 2 = some tg)
    (h3 : x.tile 3 = some tm) (h4 : x.tile 4 = some tv) : runTiles s x v = runMopt s x v tw tg tm tv := by
  simp [runTiles, hc, cmdFields, h1, h2, h3, h4]

end

/-! ### What its end shows -/

/-- Every tile of TMASK is replaced by what becomes of it, and no other changes. -/
def TilesSet (s t : State) (quad : Nat) (v : VWord) (f : Tile → Tile) : Prop :=
  ∀ n, n < 8 → (t.quad quad).tile n = if bit (cmdTmask v) n then f ((s.quad quad).tile n) else (s.quad quad).tile n

/-- A tile holds given elements in the shape and format of another, and every other tile is unchanged. -/
def TileWritten (s t : State) (quad m : Nat) (e : Nat → Nat → Nat) (x : Tile) : Prop :=
  let y := (t.quad quad).tile m
  (∀ i j, i < x.rows → j < x.cols → y.at i j = e i j) ∧ y.rows = x.rows ∧ y.cols = x.cols ∧ y.fmt = x.fmt ∧ y.valid = true ∧
    ∀ n, n < 8 → n ≠ m → (t.quad quad).tile n = (s.quad quad).tile n

/-- The agent that a command accesses memory as: the Lantern at its quad, for the core that placed it (15 R273). -/
def lanternWho (s : State) (quad : Nat) (src : Fin 5) (c : Cmd) : Who := (begun s quad src c).whoAgent (4 * quad + src.val) 1

/-- Fields that name different tiles each set their own. -/
theorem tile_foldl_fields {v : VWord} {ts : List (Nat × Tile)} (hd : (ts.map fun x => cmdTile v x.1).Nodup) {f : Nat} {t : Tile}
    (ht : (f, t) ∈ ts) (q : Quad) : (ts.foldl (fun q x => q.setTile (cmdTile v x.1) x.2) q).tile (cmdTile v f) = t := by
  have hrest : ∀ (l : List (Nat × Tile)) (q : Quad), cmdTile v f ∉ l.map (fun x => cmdTile v x.1) →
      (l.foldl (fun q x => q.setTile (cmdTile v x.1) x.2) q).tile (cmdTile v f) = q.tile (cmdTile v f) := by
    intro l
    induction l with
    | nil => exact fun _ _ => rfl
    | cons x l ih =>
      intro q hl
      rw [List.map_cons, List.mem_cons, not_or] at hl
      rw [List.foldl_cons, ih _ hl.2, tile_setTile q (cmdTile_lt _ _), if_neg hl.1]
  induction ts generalizing q with
  | nil => cases ht
  | cons x ts ih =>
    obtain ⟨hx, hd⟩ := List.nodup_cons.mp hd
    rw [List.foldl_cons]
    rcases List.mem_cons.mp ht with rfl | ht
    · rw [hrest _ _ hx, tile_setTile q (cmdTile_lt _ _), if_pos rfl]
    · exact ih hd ht _

section
variable {s : State} {quad : Nat} {src : Fin 5} {c : Cmd} (hk : src.val < 4)

theorem fc_coreSite_begun : ((begun s quad src c).coreSite quad src.val c).fc = (s.quad quad).fctx[(Fin.ofNat 4 src.val)] := by
  simp only [State.coreSite, quad_begun]

theorem tile_coreSite_begun (f : Nat) :
    ((begun s quad src c).coreSite quad src.val c).tile f = (s.quad quad).owned src.val (cmdTile c.bytes f) := by
  simp only [State.coreSite, quad_begun]
  rfl

theorem who_coreSite_begun : ((begun s quad src c).coreSite quad src.val c).who = lanternWho s quad src c := rfl

theorem valid_of_owned {q : Quad} {k n : Nat} {t : Tile} (h : q.owned k n = some t) : t.valid = true := by
  obtain ⟨hv, -, rfl⟩ := owned_iff.mp h
  exact hv

include hk

/-- A command that writes different tiles leaves each as it wrote it. -/
theorem tile_ended (w : State) {ts : List (Nat × Tile)} (hd : (ts.map fun x => cmdTile c.bytes x.1).Nodup) {f : Nat} {t : Tile}
    (ht : (f, t) ∈ ts) (n : Counts) : ((ended w quad src.val c ts n).quad quad).tile (cmdTile c.bytes f) = t := by
  rw [tile_congr (quad_ended w quad hk c ts n).1]
  exact tile_foldl_fields hd ht _

theorem tile_ended_one (w : State) (f : Nat) (t : Tile) (n : Counts) :
    ((ended w quad src.val c [(f, t)] n).quad quad).tile (cmdTile c.bytes f) = t :=
  tile_ended hk w (ts := [(f, t)]) (List.nodup_singleton _) (List.mem_singleton.mpr rfl) n

/-- A command that builds one tile. -/
theorem tileWritten_ended {w : State} (hw : w.quad quad = (begun s quad src c).quad quad) {f : Nat} {x : Tile}
    (hx : (s.quad quad).owned src.val (cmdTile c.bytes f) = some x) (e : Nat → Nat → Nat) (n : Counts) :
    TileWritten s (ended w quad src.val c [(f, x.build e)] n) quad (cmdTile c.bytes f) e x := by
  have hv : x.valid = true := valid_of_owned hx
  unfold TileWritten
  rw [tile_ended_one hk]
  refine ⟨fun i j hi hj => at_build x e hi hj, rfl, rfl, rfl, hv, fun m _ hm => ?_⟩
  rw [tile_congr (quad_ended w quad hk c _ n).1, List.foldl_cons, List.foldl_nil, tile_setTile _ (cmdTile_lt _ _), if_neg hm, hw,
    quad_begun]
  rfl

end

/-! ### The configuration commands (09 R173, R174) -/

section
variable {s : State} {quad : Nat} {src : Fin 5} {c : Cmd} (hk : src.val < 4) (hhead : s.headCmd quad src.val = some c)
  (hturn : s.srcTurn quad src = true) (hsound : cmdSound c.bytes = true)

theorem mem_cmdTiles_mask {v : VWord} (h : cmdCode v = 1 ∨ cmdCode v = 8 ∨ cmdCode v = 9) {n : Nat} :
    n ∈ cmdTiles v ↔ n < 8 ∧ bit (cmdTmask v) n = true := by
  simp [cmdTiles, h]

/-- MCFG is not refused where its shape ends rows on whole bytes and every valid tile of TMASK is the core's own. -/
theorem maskRefusal_mcfg {q : Quad} {k : Nat} {v : VWord} (hc : cmdCode v = 1)
    (hshape : shapeOk (bits (cmdD v 0) 19 16) (bits (cmdD v 0) 29 25 + 1) = true)
    (hown : ∀ n, n < 8 → bit (cmdTmask v) n = true → (q.tile n).valid = true → (q.tile n).owner.val = k) :
    maskRefusal q k v = none := by
  have hfind : (cmdTiles v).find? (fun n => (q.tile n).valid && (q.tile n).owner.val != k) = none := by
    rw [List.find?_eq_none]
    intro n hn
    obtain ⟨h8, hb⟩ := (mem_cmdTiles_mask (.inl hc)).mp hn
    by_cases hv : (q.tile n).valid = true
    · simp [hown n h8 hb hv]
    · simp [hv]
  unfold maskRefusal
  dsimp only
  rw [if_pos hc, hshape, hfind]
  rfl

/-- MZERO and MREL are not refused where every tile of TMASK is an allocated one of the core. -/
theorem maskRefusal_owned {q : Quad} {k : Nat} {v : VWord} (hc : cmdCode v = 8 ∨ cmdCode v = 9)
    (hown : ∀ n, n < 8 → bit (cmdTmask v) n = true → (q.tile n).valid = true ∧ (q.tile n).owner.val = k) :
    maskRefusal q k v = none := by
  have hfind : (cmdTiles v).find? (fun n => (q.owned k n).isNone) = none := by
    rw [List.find?_eq_none]
    intro n hn
    obtain ⟨h8, hb⟩ := (mem_cmdTiles_mask (.inr hc)).mp hn
    obtain ⟨hv, ho⟩ := hown n h8 hb
    simp [owned_iff.mpr ⟨hv, ho, rfl⟩]
  unfold maskRefusal
  dsimp only
  rw [if_neg (by omega), hfind]
  rfl

include hk hhead hturn hsound

/-- A command on the tiles of TMASK sets them. -/
theorem mask_serves {i : Instr} {code : Nat → Bool} {name : String} (hexec : exec i s = s.serve quad src code name)
    (hcode : code (cmdCode c.bytes) = true) (hc : cmdCode c.bytes = 1 ∨ cmdCode c.bytes = 8 ∨ cmdCode c.bytes = 9)
    (hr : maskRefusal (s.quad quad) src.val c.bytes = none) :
    Serves s quad src.val c i fun t => SameMemory s t ∧ TilesSet s t quad c.bytes (maskTile src.val c.bytes) := by
  have hr' : maskRefusal ((begun s quad src c).quad quad) src.val c.bytes = none := by
    rw [quad_begun]
    exact hr
  have hnodup : (cmdTiles c.bytes).Nodup := by
    rw [cmdTiles, if_pos hc]
    exact List.nodup_range.filter _
  refine serves_of_done hk hhead hturn hexec hcode (runCmd_mask hsound hc hr') ?_ ⟨?_, fun n hn => ?_⟩
  · rw [State.quad_modQuad, if_pos rfl,
      foldl_setTile_rest (cmdTiles c.bytes) (fun n => n) fun q n => maskTile src.val c.bytes (q.tile n), quad_begun]
  · exact sameMemory_trans (sameMemory_begun s quad src c)
      (sameMemory_trans (sameMemory_modQuad _ quad _) (sameMemory_ended _ quad src.val c []))
  · rw [tile_congr (quad_ended _ quad hk c [] {}).1, List.foldl_nil, State.quad_modQuad, if_pos rfl,
      tile_foldl_setTile hnodup fun n hn => ((mem_cmdTiles_mask hc).mp hn).1, quad_begun]
    simp only [mem_cmdTiles_mask hc, hn, true_and]
    rfl

/-- MCTX without a table sets the other fields of the format context. -/
theorem mctx_serves (hc : cmdCode c.bytes = 2) (h8 : bit (cmdD c.bytes 0) 8 = false) (h9 : bit (cmdD c.bytes 0) 9 = false) :
    Serves s quad src.val c (.mctx quad src) fun t => SameMemory s t ∧ (t.quad quad).fctx[(Fin.ofNat 4 src.val)] =
      { (s.quad quad).fctx[(Fin.ofNat 4 src.val)] with
        qsat := bit (cmdD c.bytes 0) 10, smode := bits (cmdD c.bytes 0) 12 11, acct := bit (cmdD c.bytes 0) 13 } := by
  refine serves_of_done hk hhead hturn (code := (· == 2)) (name := "MCTX") rfl (by rw [hc]; rfl) (runCmd_mctx hsound hc h8 h9) ?_
    ⟨?_, ?_⟩
  · rw [State.quad_modQuad, if_pos rfl, quad_begun]
  · exact sameMemory_trans (sameMemory_begun s quad src c)
      (sameMemory_trans (sameMemory_modQuad _ quad _) (sameMemory_ended _ quad src.val c []))
  · have hix : src.val % 4 = src.val := Nat.mod_eq_of_lt hk
    rw [(quad_ended _ quad hk c [] {}).2, State.quad_modQuad, if_pos rfl, quad_begun]
    simp [modAt, hk, hix]

end

end Sys2Proof.Lantern
end

section
/-! PROOFS. Lantern commands on tiles and memory take effect (09 R175 to R182, 02 R43, R44). -/

namespace Sys2Proof.Lantern

open Sys2Proof.Machine
open Sys2Proof.Scalar (aligned_iff)
open Sys2Proof.Says hiding none

section
variable {s : State} {quad : Nat} {src : Fin 5} {c : Cmd} (hk : src.val < 4) (hhead : s.headCmd quad src.val = some c)
  (hturn : s.srcTurn quad src = true) (hsound : cmdSound c.bytes = true)

theorem queues_begun {w : State} (hw : lanterns w = lanterns (begun s quad src c)) :
    (w.quad quad).queues = (s.quad quad).queues := by
  rw [quad_of_lanterns hw, quad_begun]

/-- A command that ends with its accesses to memory leaves memory as they do. -/
theorem serves_memory {i : Instr} {code : Nat → Bool} {name : String} {w : State} (hk : src.val < 4)
    (hhead : s.headCmd quad src.val = some c) (hturn : s.srcTurn quad src = true) (hexec : exec i s = s.serve quad src code name)
    (hcode : code (cmdCode c.bytes) = true) (hw : lanterns w = lanterns (begun s quad src c))
    (hrun : (begun s quad src c).runCmd quad src.val c = .done [] {} w) : Serves s quad src.val c i fun t => t.mem = w.mem :=
  serves_of_done hk hhead hturn hexec hcode hrun (queues_begun hw) (sameMemory_ended w quad src.val c []).1

/-! ### Products (09 R177, 02 R44) -/

/-- One exact sum of products, of an element of TC too unless the context says ACCT, rounded once. -/
def productSum (fc : FormatCtx) (n : Nat) (a b : Nat → Val) (o : Nat) : Nat :=
  let ps := (List.range n).map fun x => ((a x).mul (b x)).val
  rne32 (sumVals (if fc.acct then ps else fp32.val o :: ps))

theorem mmaFlaw_none {x : CmdSite} {tr : Bool} {tc ta tb : Tile} (hc : tc.fmt = 0) (ha : ta.fmt ≠ 5) (hb : tb.fmt ≠ 5)
    (h2 : x.same 1 2 = false) (h3 : x.same 1 3 = false) (hshapes : mmaShapes tr ta tb tc = true) :
    mmaFlaw x tr tc ta tb = none := by
  simp [mmaFlaw, hc, ha, hb, h2, h3, hshapes]

section
variable {x : CmdSite} {v : VWord} {tc ta tb : Tile}

/-- MMA and MMAT take no scales. -/
theorem runMma_plain (hc : cmdCode v = 4 ∨ cmdCode v = 5) (hflaw : mmaFlaw x (cmdCode v == 5) tc ta tb = none) :
    runMma s x v tc ta tb = .done [(1, mmaTile x.fc (cmdCode v == 5) none none ta tb tc)] {} s := by
  have h6 : cmdCode v ≠ 6 := by omega
  simp only [runMma, hflaw, if_pos h6]

/-- MMAS in the mode that scales both operands. -/
theorem runMma_scaled (hc : cmdCode v = 6) (hflaw : mmaFlaw x (cmdCode v == 5) tc ta tb = none) (hmode : x.fc.smode = 0)
    {sa sb : List Byte} {w z : State} (ha : s.agentRead x.who (BitVec.ofNat 64 (cmdD v 1)) tc.rows = .ok (sa, w))
    (hb : w.agentRead x.who (BitVec.ofNat 64 (cmdD v 2)) tc.cols = .ok (sb, z)) : runMma s x v tc ta tb =
      .done [(1, mmaTile x.fc false (some (sa.map BitVec.toNat)) (some (sb.map BitVec.toNat)) ta tb tc)]
        { nan := scaleNans ta.cols (some (sa.map BitVec.toNat)) + scaleNans ta.cols (some (sb.map BitVec.toNat)) } z := by
  have h6 : ¬ cmdCode v ≠ 6 := fun h => h hc
  have hon2 : (x.fc.smode != 2) = true := by rw [hmode]; rfl
  have hon1 : (x.fc.smode != 1) = true := by rw [hmode]; rfl
  simp only [runMma, hflaw, if_neg h6, hon1, hon2, if_true, ha, hb, bind, Except.bind, pure, Except.pure, cmdTry]

end

section
variable {tc ta tb : Tile} (h1 : (s.quad quad).owned src.val (cmdTile c.bytes 1) = some tc)
  (h2 : (s.quad quad).owned src.val (cmdTile c.bytes 2) = some ta) (h3 : (s.quad quad).owned src.val (cmdTile c.bytes 3) = some tb)
  (hfc : tc.fmt = 0) (hfa : ta.fmt ≠ 5) (hfb : tb.fmt ≠ 5) (hne2 : cmdTile c.bytes 1 ≠ cmdTile c.bytes 2)
  (hne3 : cmdTile c.bytes 1 ≠ cmdTile c.bytes 3)
include hk hhead hturn hsound h1 h2 h3 hfc hfa hfb hne2 hne3

/-- A product whose scales, if it has some, are read. -/
theorem product_serves {i : Instr} {code : Nat → Bool} {name : String} (hexec : exec i s = s.serve quad src code name)
    (hcode : code (cmdCode c.bytes) = true) (hc : cmdCode c.bytes = 4 ∨ cmdCode c.bytes = 5 ∨ cmdCode c.bytes = 6)
    (hshapes : mmaShapes (cmdCode c.bytes == 5) ta tb tc = true) {e : Nat → Nat → Nat} {n : Counts} {w : State}
    (hw : lanterns w = lanterns (begun s quad src c))
    (hrun : mmaFlaw ((begun s quad src c).coreSite quad src.val c) (cmdCode c.bytes == 5) tc ta tb = none →
      runMma (begun s quad src c) ((begun s quad src c).coreSite quad src.val c) c.bytes tc ta tb = .done [(1, tc.build e)] n w) :
    Serves s quad src.val c i fun t => TileWritten s t quad (cmdTile c.bytes 1) e tc := by
  have hflaw := mmaFlaw_none (x := (begun s quad src c).coreSite quad src.val c) hfc hfa hfb (beq_eq_false_iff_ne.mpr hne2)
    (beq_eq_false_iff_ne.mpr hne3) hshapes
  refine serves_of_done hk hhead hturn hexec hcode ?_ (queues_begun hw) (tileWritten_ended hk (quad_of_lanterns hw _) h1 e n)
  rw [runCmd_fields hsound (by omega) (by omega) (by omega) (by omega),
    runTiles_product hc ((tile_coreSite_begun 1).trans h1) ((tile_coreSite_begun 2).trans h2) ((tile_coreSite_begun 3).trans h3)]
  exact hrun hflaw

theorem mma_serves (hc : cmdCode c.bytes = 4) (hm : ta.rows = tc.rows) (hk' : ta.cols = tb.rows) (hn : tb.cols = tc.cols) :
    Serves s quad src.val c (.mma quad src) fun t => TileWritten s t quad (cmdTile c.bytes 1) (fun i j =>
      productSum (s.quad quad).fctx[(Fin.ofNat 4 src.val)] ta.cols
        (fun x => (s.quad quad).fctx[(Fin.ofNat 4 src.val)].val ta.fmt (ta.at i x))
        (fun x => (s.quad quad).fctx[(Fin.ofNat 4 src.val)].val tb.fmt (tb.at x j)) (tc.at i j)) tc := by
  refine product_serves hk hhead hturn hsound h1 h2 h3 hfc hfa hfb hne2 hne3 (code := (· == 4)) (name := "MMA") rfl (by rw [hc]; rfl)
    (.inl hc) (by simp [hc, mmaShapes, hm, hk', hn]) (n := {}) (w := begun s quad src c) rfl fun hflaw => ?_
  rw [runMma_plain (.inl hc) hflaw, fc_coreSite_begun, hc]
  rfl

theorem mmat_serves (hc : cmdCode c.bytes = 5) (hm : ta.cols = tc.rows) (hk' : ta.rows = tb.rows) (hn : tb.cols = tc.cols) :
    Serves s quad src.val c (.mmat quad src) fun t => TileWritten s t quad (cmdTile c.bytes 1) (fun i j =>
      productSum (s.quad quad).fctx[(Fin.ofNat 4 src.val)] ta.rows
        (fun x => (s.quad quad).fctx[(Fin.ofNat 4 src.val)].val ta.fmt (ta.at x i))
        (fun x => (s.quad quad).fctx[(Fin.ofNat 4 src.val)].val tb.fmt (tb.at x j)) (tc.at i j)) tc := by
  refine product_serves hk hhead hturn hsound h1 h2 h3 hfc hfa hfb hne2 hne3 (code := (· == 5)) (name := "MMAT") rfl (by rw [hc]; rfl)
    (.inr (.inl hc)) (by simp [hc, mmaShapes, hm, hk', hn]) (n := {}) (w := begun s quad src c) rfl fun hflaw => ?_
  rw [runMma_plain (.inr hc) hflaw, fc_coreSite_begun, hc]
  rfl

/-- MMAS with both operands scaled: the scales are e8 bytes by row of A and by column of B. -/
theorem mmas_serves (hc : cmdCode c.bytes = 6) (hmode : (s.quad quad).fctx[(Fin.ofNat 4 src.val)].smode = 0)
    (hm : ta.rows = tc.rows) (hk' : ta.cols = tb.rows) (hn : tb.cols = tc.cols) {sa sb : List Byte} {w z : State}
    (ha : (begun s quad src c).agentRead (lanternWho s quad src c) (BitVec.ofNat 64 (cmdD c.bytes 1)) tc.rows = .ok (sa, w))
    (hb : w.agentRead (lanternWho s quad src c) (BitVec.ofNat 64 (cmdD c.bytes 2)) tc.cols = .ok (sb, z)) :
    Serves s quad src.val c (.mmas quad src) fun t => TileWritten s t quad (cmdTile c.bytes 1) (fun i j =>
      productSum (s.quad quad).fctx[(Fin.ofNat 4 src.val)] ta.cols
        (fun x => scaleVal ((s.quad quad).fctx[(Fin.ofNat 4 src.val)].val ta.fmt (ta.at i x)) ((sa.map BitVec.toNat).getD i 127))
        (fun x => scaleVal ((s.quad quad).fctx[(Fin.ofNat 4 src.val)].val tb.fmt (tb.at x j)) ((sb.map BitVec.toNat).getD j 127))
        (tc.at i j)) tc := by
  refine product_serves hk hhead hturn hsound h1 h2 h3 hfc hfa hfb hne2 hne3 (code := (· == 6)) (name := "MMAS") rfl (by rw [hc]; rfl)
    (.inr (.inr hc)) (by simp [hc, mmaShapes, hm, hk', hn])
    (n := { nan := scaleNans ta.cols (some (sa.map BitVec.toNat)) + scaleNans ta.cols (some (sb.map BitVec.toNat)) }) ((lanterns_agentRead hb).trans (lanterns_agentRead ha)) fun hflaw =>
      (runMma_scaled hc hflaw (fc_coreSite_begun ▸ hmode) ha hb).trans ?_
  rw [fc_coreSite_begun]
  rfl

end

/-! ### Masks (09 R179) -/

section
variable {td tk : Tile} (h1 : (s.quad quad).owned src.val (cmdTile c.bytes 1) = some td)
  (h2 : (s.quad quad).owned src.val (cmdTile c.bytes 2) = some tk) (hc : cmdCode c.bytes = 12) (hfk : tk.fmt = 5) (hfd : td.fmt ≠ 5)
  (hrows : td.rows = tk.rows) (hcols : td.cols = tk.cols)
include hk hhead hturn hsound h1 h2 hc hfk hfd hrows hcols

theorem mmask_makes (hmake : bit (cmdD c.bytes 0) 16 = true) :
    Serves s quad src.val c (.mmask quad src) fun t => TileWritten s t quad (cmdTile c.bytes 2) (fun i j =>
      if (Val.num false 0 0).lt ((s.quad quad).fctx[(Fin.ofNat 4 src.val)].val td.fmt (td.at i j)) then 1 else 0) tk := by
  refine serves_of_done hk hhead hturn (code := (· == 12)) (name := "MMASK") rfl (by rw [hc]; rfl) ?_
    (queues_begun (w := begun s quad src c) rfl) (tileWritten_ended hk rfl h2 _ {})
  rw [runCmd_fields hsound (by omega) (by omega) (by omega) (by omega),
    runTiles_mmask hc ((tile_coreSite_begun 1).trans h1) ((tile_coreSite_begun 2).trans h2)]
  simp [runMmask, hfk, hfd, hrows, hcols, hmake, maskMake, fc_coreSite_begun]

theorem mmask_applies (happly : bit (cmdD c.bytes 0) 16 = false) :
    Serves s quad src.val c (.mmask quad src) fun t => TileWritten s t quad (cmdTile c.bytes 1) (fun i j =>
      if tk.at i j = 0 then 0 else td.at i j) td := by
  refine serves_of_done hk hhead hturn (code := (· == 12)) (name := "MMASK") rfl (by rw [hc]; rfl) ?_
    (queues_begun (w := begun s quad src c) rfl) (tileWritten_ended hk rfl h1 _ {})
  rw [runCmd_fields hsound (by omega) (by omega) (by omega) (by omega),
    runTiles_mmask hc ((tile_coreSite_begun 1).trans h1) ((tile_coreSite_begun 2).trans h2)]
  simp [runMmask, hfk, hfd, hrows, hcols, happly, maskApply]

end

/-! ### Tiles and memory (09 R175, R176) -/

section
variable {t0 : Tile} (h1 : (s.quad quad).owned src.val (cmdTile c.bytes 1) = some t0)
include hk hhead hturn hsound h1

/-- The elements that MLD unpacks from the bytes of its rows. -/
def unpackedRows (t : Tile) (bs : List Byte) : List Nat :=
  (List.range t.rows).flatMap fun i => unpackRow t.fmt t.cols ((bs.drop (i * rowBytes t.fmt t.cols)).take (rowBytes t.fmt t.cols))

theorem mld_serves (hc : cmdCode c.bytes = 3) {bs : List Byte} {w : State}
    (hswizzle : bit (cmdD c.bytes 0) 16 = true → t0.cols = 32 ∧ 16 * 2 ^ bits (cmdD c.bytes 0) 19 17 ≤ rowBytes t0.fmt t0.cols)
    (halign : rowAlign (BitVec.ofNat 64 (cmdD c.bytes 1)) (BitVec.ofNat 64 (cmdD c.bytes 2)) t0.rows t0.fmt = .ok ())
    (hread : (begun s quad src c).agentReads (lanternWho s quad src c)
      ((List.range t0.rows).flatMap (mldRow c.bytes (rowBytes t0.fmt t0.cols))) = .ok (bs, w)) :
    Serves s quad src.val c (.mld quad src) fun t => ((t.quad quad).tile (cmdTile c.bytes 1)).els = unpackedRows t0 bs := by
  have hlayout : (bit (cmdD c.bytes 0) 16 && (t0.cols != 32 || decide (rowBytes t0.fmt t0.cols < 16 * 2 ^ bits (cmdD c.bytes 0) 19 17))) =
      false := by
    by_cases h : bit (cmdD c.bytes 0) 16 = true
    · obtain ⟨h32, hle⟩ := hswizzle h
      simp [h32, Nat.not_lt.mpr (h32 ▸ hle)]
    · simp [h]
  have hrun : (begun s quad src c).runCmd quad src.val c = .done [(1, { t0 with els := unpackedRows t0 bs })] {} w := by
    rw [runCmd_fields hsound (by omega) (by omega) (by omega) (by omega), runTiles_mld hc ((tile_coreSite_begun 1).trans h1)]
    simp only [runMld, hlayout, halign, who_coreSite_begun, hread, bind, Except.bind, cmdTry]
    rfl
  refine serves_of_done hk hhead hturn (code := (· == 3)) (name := "MLD") rfl (by rw [hc]; rfl) hrun
    (queues_begun (lanterns_agentReads hread)) ?_
  rw [tile_ended_one hk]

/-- Elements that stay in their format count nothing, and the rows of a tile are packed as they stand. -/
theorem mst_serves (hc : cmdCode c.bytes = 7) (hfmt : t0.fmt = bits (cmdD c.bytes 0) 29 26) (hshape : shapeOk t0.fmt t0.cols = true)
    (halign : rowAlign (BitVec.ofNat 64 (cmdD c.bytes 1)) (BitVec.ofNat 64 (cmdD c.bytes 2)) t0.rows t0.fmt = .ok ()) {w : State}
    (hwrite : (begun s quad src c).agentWrites (lanternWho s quad src c) ((List.range t0.rows).map fun i =>
      (BitVec.ofNat 64 (cmdD c.bytes 1) + BitVec.ofNat 64 i * BitVec.ofNat 64 (cmdD c.bytes 2), packRow t0.fmt (t0.row i))) = .ok w) :
    Serves s quad src.val c (.mst quad src) fun t => t.mem = w.mem := by
  have hcells : ∀ fc : FormatCtx, t0.els.map (storeElem fc t0.fmt t0.fmt) = t0.els.map fun x => (x, .nothing) := fun fc => by
    simp [storeElem]
  have hrow : ∀ i, (((t0.els.map fun x => (x, Counted.nothing)).drop (i * t0.cols)).take t0.cols).map (·.1) = t0.row i := fun i => by
    rw [← List.map_drop, ← List.map_take, List.map_map]
    exact List.map_id' _
  have hcounts : (t0.els.map fun x => (x, Counted.nothing)).foldl (fun n c => n.plus c.2.counts) ({} : Counts) = {} := by
    rw [List.foldl_map]
    exact Scalar.foldl_eq_self _ fun _ _ => rfl
  have hrun : (begun s quad src c).runCmd quad src.val c = .done [] {} w := by
    rw [runCmd_fields hsound (by omega) (by omega) (by omega) (by omega), runTiles_mst hc ((tile_coreSite_begun 1).trans h1)]
    simp only [runMst, ← hfmt, hshape, halign, who_coreSite_begun, hcells, hrow, hcounts, hwrite, bind, Except.bind, cmdTry]
    simp
  exact serves_memory hk hhead hturn (code := (· == 7)) (name := "MST") rfl (by rw [hc]; rfl) (lanterns_agentWrites hwrite) hrun

/-! ### Norms (09 R180) -/

theorem mnorm_serves (hc : cmdCode c.bytes = 13) (hstore : bit (cmdD c.bytes 0) 16 = false) (ha : cmdD c.bytes 1 % 4 = 0) {w : State}
    (hwrite : (begun s quad src c).agentWrite (lanternWho s quad src c) (BitVec.ofNat 64 (cmdD c.bytes 1))
      (toBytes 4 (rne32 (normVal (s.quad quad).fctx[(Fin.ofNat 4 src.val)] t0))) = .ok w) :
    Serves s quad src.val c (.mnorm quad src) fun t => t.mem = w.mem := by
  have halign : mustAlign (BitVec.ofNat 64 (cmdD c.bytes 1)) 4 = .ok () := by
    rw [mustAlign, if_pos (aligned_iff.mpr _)]
    rw [BitVec.toNat_ofNat]
    omega
  have hrun : (begun s quad src c).runCmd quad src.val c = .done [] {} w := by
    rw [runCmd_fields hsound (by omega) (by omega) (by omega) (by omega), runTiles_mnorm hc ((tile_coreSite_begun 1).trans h1)]
    simp only [runMnorm, hstore, halign, fc_coreSite_begun, who_coreSite_begun, hwrite, bind, Except.bind, cmdTry]
    rfl
  exact serves_memory hk hhead hturn (code := (· == 13)) (name := "MNORM") rfl (by rw [hc]; rfl) (lanterns_agentWrite hwrite) hrun

end

/-! ### MSYNC (09 R182) -/

include hk hhead hturn hsound

theorem msync_serves (hc : cmdCode c.bytes = 11) (hstore : bit (cmdD c.bytes 0) 11 = false)
    (ha : cmdD c.bytes 1 % (if bit (cmdD c.bytes 0) 12 then 8 else 4) = 0) {w : State}
    (hwrite : (begun s quad src c).agentWrite (lanternWho s quad src c) (BitVec.ofNat 64 (cmdD c.bytes 1))
      (toBytes (if bit (cmdD c.bytes 0) 12 then 8 else 4) (cmdD c.bytes 2)) (sc := some (bits (cmdD c.bytes 0) 10 8)) = .ok w) :
    Serves s quad src.val c (.msync quad src) fun t => t.mem = w.mem := by
  have halign : mustAlign (BitVec.ofNat 64 (cmdD c.bytes 1)) (if bit (cmdD c.bytes 0) 12 then 8 else 4) = .ok () := by
    have hlt : cmdD c.bytes 1 < 2 ^ 64 := Nat.mod_lt _ (by decide)
    rw [mustAlign, if_pos (aligned_iff.mpr _)]
    rw [BitVec.toNat_ofNat, Nat.mod_eq_of_lt hlt]
    exact ha
  have hrun : (begun s quad src c).runCmd quad src.val c = .done [] {} w := by
    rw [runCmd_fields hsound (by omega) (by omega) (by omega) (by omega), runTiles_msync hc]
    simp only [runMsync, hstore, halign, who_coreSite_begun, hwrite, bind, Except.bind, cmdTry]
    rfl
  exact serves_memory hk hhead hturn (code := (· == 11)) (name := "MSYNC") rfl (by rw [hc]; rfl) (lanterns_agentWrite hwrite) hrun

end

end Sys2Proof.Lantern
end

section
/-! PROOFS. The optimiser step, and every command of a core's Lantern queue (09 R168, R181, R184). -/

namespace Sys2Proof.Lantern

open Sys2Proof.Machine
open Sys2Proof.Says hiding none

/-! ### The optimiser step (09 R181) -/

/-- What an MOPT that is not refused tells of its tiles: the moments have the shape of the weights, and the tiles it writes differ. -/
theorem optFlaw_none {x : CmdSite} {tw tg tm tv : Tile} (h : optFlaw x tw tg tm tv = none) :
    (tm.rows = tw.rows ∧ tm.cols = tw.cols) ∧ x.same 1 3 = false ∧ x.same 1 4 = false ∧ x.same 3 4 = false := by
  simp only [optFlaw] at h
  split_ifs at h with _ _ hm _ h1 _ h3
  simp only [Bool.not_eq_true, Bool.or_eq_false_iff] at h1 h3
  simp only [not_or, Bool.not_eq_true, Bool.not_eq_false', Bool.and_eq_true, beq_iff_eq] at hm
  exact ⟨hm.2, h1.1.2, h1.2, h3⟩

/-- The tiles that an MOPT writes, by field: the weights and the two moments. -/
def optWritten (o : OptArgs) (cl : Nat) (tw tg tm tv : Tile) : List (Nat × Tile) :=
  [(1, (optTiles o cl tw tg tm tv).1), (3, (optTiles o cl tw tg tm tv).2.1), (4, (optTiles o cl tw tg tm tv).2.2.1)]

section
variable (o : OptArgs) (cl : Nat) (tw tg tm tv : Tile)

theorem weights_optWritten : (1, tw.build fun i j => (optElem o tw.fmt cl (tw.at i j) (tg.at i j) (tm.at i j) (tv.at i j)).1.bits) ∈
    optWritten o cl tw tg tm tv := List.mem_cons_self

theorem moments_optWritten : (3, tm.build fun i j => (optElem o tw.fmt cl (tw.at i j) (tg.at i j) (tm.at i j) (tv.at i j)).2.1) ∈
    optWritten o cl tw tg tm tv := List.mem_cons_of_mem _ List.mem_cons_self

end

theorem cmdTry_ok {α : Type} {x : Except Bad α} {a : α} (h : x = .ok a) (f : α → CmdRes) : cmdTry x f = f a := by
  rw [h]
  rfl

theorem runMopt_steps {s : State} {x : CmdSite} {v : VWord} {tw tg tm tv : Tile} {who : Who} {cb : BitVec 128} (hwho : x.who = who)
    (hcb : x.cb = cb) (hhandle : optHandleOk v cb = true) (hflaw : optFlaw x tw tg tm tv = none) {ps bs : List Byte} {w z : State}
    (hpair : s.agentRead { who with acq := some (cbSc cb) } (cbPair cb) 4 = .ok (ps, w))
    (hnorm : w.agentRead who (cbAddr cb (bits (cmdD v 0) 35 28 * 64)) 4 = .ok (bs, z)) {cl : Nat}
    (hclip : optClip (cmdOpt v) (ofBytes bs) = some cl) :
    ∃ n, runMopt s x v tw tg tm tv = .done (optWritten (cmdOpt v) cl tw tg tm tv) n z := by
  subst hwho hcb
  refine ⟨(optTiles (cmdOpt v) cl tw tg tm tv).2.2.2, ?_⟩
  unfold runMopt
  rw [if_neg (by simp [hhandle]), hflaw]
  refine (cmdTry_ok (a := (bs, z)) ?_ _).trans ?_
  · rw [hpair]
    exact hnorm
  · dsimp only
    rw [hclip]
    rfl

section
variable {s : State} {quad : Nat} {src : Fin 5} {c : Cmd} (hk : src.val < 4) (hhead : s.headCmd quad src.val = some c)
  (hturn : s.srcTurn quad src = true)
include hk hhead hturn

theorem mopt_serves (hsound : cmdSound c.bytes = true) {tw tg tm tv : Tile}
    (h1 : (s.quad quad).owned src.val (cmdTile c.bytes 1) = some tw) (h2 : (s.quad quad).owned src.val (cmdTile c.bytes 2) = some tg)
    (h3 : (s.quad quad).owned src.val (cmdTile c.bytes 3) = some tm) (h4 : (s.quad quad).owned src.val (cmdTile c.bytes 4) = some tv)
    (hc : cmdCode c.bytes = 10) (hhandle : optHandleOk c.bytes c.cb = true)
    (hflaw : ∀ site : CmdSite, (∀ a b, site.same a b = (cmdTile c.bytes a == cmdTile c.bytes b)) → optFlaw site tw tg tm tv = none)
    {ps bs : List Byte} {w z : State}
    (hpair : (begun s quad src c).agentRead { lanternWho s quad src c with acq := some (cbSc c.cb) } (cbPair c.cb) 4 = .ok (ps, w))
    (hnorm : w.agentRead (lanternWho s quad src c) (cbAddr c.cb (bits (cmdD c.bytes 0) 35 28 * 64)) 4 = .ok (bs, z))
    (hfmt : tw.fmt = 0) {cl : Nat} (hclip : optClip (cmdOpt c.bytes) (ofBytes bs) = some cl) :
    Serves s quad src.val c (.mopt quad src) fun t =>
      (∀ i j, i < tw.rows → j < tw.cols → ((t.quad quad).tile (cmdTile c.bytes 1)).at i j =
        (optElem (cmdOpt c.bytes) 0 cl (tw.at i j) (tg.at i j) (tm.at i j) (tv.at i j)).1.bits) ∧
      ∀ i j, i < tw.rows → j < tw.cols → ((t.quad quad).tile (cmdTile c.bytes 3)).at i j =
        (optElem (cmdOpt c.bytes) 0 cl (tw.at i j) (tg.at i j) (tm.at i j) (tv.at i j)).2.1 := by
  have hnone := hflaw ((begun s quad src c).coreSite quad src.val c) fun _ _ => rfl
  obtain ⟨⟨hrows, hcols⟩, hne3, hne4, hne34⟩ := optFlaw_none hnone
  obtain ⟨n, hn⟩ := runMopt_steps who_coreSite_begun rfl hhandle hnone hpair hnorm hclip
  have hrun : (begun s quad src c).runCmd quad src.val c = .done (optWritten (cmdOpt c.bytes) cl tw tg tm tv) n z := by
    rw [runCmd_fields hsound (by omega) (by omega) (by omega) (by omega), runTiles_mopt hc ((tile_coreSite_begun 1).trans h1)
      ((tile_coreSite_begun 2).trans h2) ((tile_coreSite_begun 3).trans h3) ((tile_coreSite_begun 4).trans h4)]
    exact hn
  have hfields : ((optWritten (cmdOpt c.bytes) cl tw tg tm tv).map fun x => cmdTile c.bytes x.1).Nodup := by
    simp [optWritten, beq_eq_false_iff_ne.mp hne3, beq_eq_false_iff_ne.mp hne4, beq_eq_false_iff_ne.mp hne34]
  refine serves_of_done hk hhead hturn (code := (· == 10)) (name := "MOPT") rfl (by rw [hc]; rfl) hrun
    (queues_begun ((lanterns_agentRead hnorm).trans (lanterns_agentRead hpair))) ⟨fun i j hi hj => ?_, fun i j hi hj => ?_⟩
  · rw [tile_ended hk z hfields (weights_optWritten _ _ _ _ _ _), at_build _ _ hi hj, hfmt]
  · rw [tile_ended hk z hfields (moments_optWritten _ _ _ _ _ _), at_build _ _ (hrows ▸ hi) (hcols ▸ hj), hfmt]

/-! ### Every command -/

theorem unknownCode_charges (hcode : cmdCode c.bytes = 0 ∨ 13 < cmdCode c.bytes) :
    Completes s (.mcfg quad src) fun t => (t.cmdQueue (4 * quad + src.val)).halted = true ∧
      (t.cmdQueue (4 * quad + src.val)).cmds = (s.cmdQueue (4 * quad + src.val)).cmds ∧
      ∃ f, (t.ctx ⟨4 * quad + src.val, c.ctx⟩).charged = (s.ctx ⟨4 * quad + src.val, c.ctx⟩).charged ++ [⟨f, false⟩] ∧
        f.cause = 0x0E ∧ f.agent = .lantern ∧ f.value = BitVec.ofNat 64 (cmdCode c.bytes * 256 + 1) := by
  obtain ⟨hhalted, hcmds, f, hcharged, hcause, hagent, hvalue⟩ := refuseCmd_charges (begun s quad src c) (4 * quad + src.val) c 1 0
  rw [cmdQueue_begun s hk] at hcmds
  rw [begun, ctx_acquire] at hcharged
  refine ⟨_, mcfg_unknownCode hk hhead hturn hcode, hhalted, hcmds, f, hcharged, hcause, hagent, ?_⟩
  rw [hvalue, Nat.zero_mul, Nat.zero_add, show 2 ^ 8 = 256 from rfl]

end

theorem maskTile_mcfg {k : Nat} {v : VWord} (hc : cmdCode v = 1) : maskTile k v = cfgTile k v := by
  funext t
  simp [maskTile, hc]

theorem maskTile_mzero {k : Nat} {v : VWord} (hc : cmdCode v = 8) :
    maskTile k v = fun t => { t with els := List.replicate (t.rows * t.cols) 0 } := by
  funext t
  simp [maskTile, hc]

theorem maskTile_mrel {k : Nat} {v : VWord} (hc : cmdCode v = 9) :
    maskTile k v = fun t => { t with valid := false, els := List.replicate (t.rows * t.cols) 0 } := by
  funext t
  simp [maskTile, hc]

theorem lanternCommands : Says.LanternCommands := by
  intro s quad src c hk hhead hturn v d0 g q u who fc own served tiles mem wrote
  refine ⟨unknownCode_charges hk hhead hturn, fun hsound => ⟨fun hc hshape hown => ?_, fun hown => ⟨fun hc => ?_, fun hc => ?_⟩,
    mctx_serves hk hhead hturn hsound, fun tc ta tb h1 h2 h3 hfc hfa hfb hne2 hne3 => ⟨?_, ?_, ?_⟩,
    fun td tk h1 h2 hc hfk hfd hrows hcols => ⟨?_, ?_⟩, fun t0 bs w h1 => ⟨?_, ?_, ?_⟩, fun w hc hstore ha hwrite => ?_, ?_⟩⟩
  · have h := mask_serves hk hhead hturn hsound (i := .mcfg quad src) (code := fun c => c == 1 || c == 0 || decide (13 < c)) (name := "MCFG") rfl
      (by rw [hc]; rfl) (.inl hc) (maskRefusal_mcfg hc hshape hown)
    rw [maskTile_mcfg hc] at h
    exact h
  · have h := mask_serves hk hhead hturn hsound (i := .mzero quad src) (code := (· == 8)) (name := "MZERO") rfl (by rw [hc]; rfl) (.inr (.inl hc))
      (maskRefusal_owned (.inl hc) hown)
    rw [maskTile_mzero hc] at h
    exact h
  · have h := mask_serves hk hhead hturn hsound (i := .lanternMrel quad src) (code := (· == 9)) (name := "LANTERN_MREL") rfl (by rw [hc]; rfl) (.inr (.inr hc))
      (maskRefusal_owned (.inr hc) hown)
    rw [maskTile_mrel hc] at h
    exact h
  · exact fun hc hm hk' hn => mma_serves hk hhead hturn hsound h1 h2 h3 hfc hfa hfb hne2 hne3 hc hm hk' hn
  · exact fun hc hm hk' hn => mmat_serves hk hhead hturn hsound h1 h2 h3 hfc hfa hfb hne2 hne3 hc hm hk' hn
  · exact fun hc hmode hm hk' hn sa sb w z ha hb =>
      mmas_serves hk hhead hturn hsound h1 h2 h3 hfc hfa hfb hne2 hne3 hc hmode hm hk' hn ha hb
  · exact mmask_makes hk hhead hturn hsound h1 h2 hc hfk hfd hrows hcols
  · exact mmask_applies hk hhead hturn hsound h1 h2 hc hfk hfd hrows hcols
  · exact fun hc hswizzle halign hread => mld_serves hk hhead hturn hsound h1 hc hswizzle halign hread
  · exact fun hc hfmt hshape halign hwrite => mst_serves hk hhead hturn hsound h1 hc hfmt hshape halign hwrite
  · exact fun hc hstore ha hwrite => mnorm_serves hk hhead hturn hsound h1 hc hstore ha hwrite
  · exact msync_serves hk hhead hturn hsound hc hstore ha hwrite
  · intro tw tg tm tv x w y z h1 h2 h3 h4 hc hhandle hflaw hpair hnorm hfmt cl hclip
    exact mopt_serves hk hhead hturn hsound h1 h2 h3 h4 hc hhandle hflaw hpair hnorm hfmt hclip

/-- Settles O53: a served command is its function on tiles and memory, run at its source's turn, and the mark of its queue's head. -/
theorem lanternSteps : Obligations.LanternSteps := ⟨lanternCommands, lanternRetirement⟩

end Sys2Proof.Lantern
end

section
/-! PROOFS. Placement of Lantern commands (09 R166, R167, R183, 15 R278). -/

namespace Sys2Proof.Lantern

open Sys2Proof.Machine
open Sys2Proof.NumberFormats
open Sys2Proof.Formats (sameCore_modCx settle_waitOn_wait waits_waiting)
open Sys2Proof.Scalar (aligned_iff)
open Sys2Proof.Streams (background_releaseWith writes_of_sameCore)
open Sys2Proof.Vector (activeLanes_unmasked)
open Sys2Proof.Says hiding none

/-! ### A release below `.dev` (15 R278, log entry 5) -/

section
variable {s : State} {sc : Nat} (h : sc < 4)
include h

/-- A release below `.dev` owes its core's writes, which hold the executing context where some are. -/
theorem releaseWith_narrow : s.releaseWith sc = s.owe s.cur.core ∨
    s.releaseWith sc = (s.owe s.cur.core).modCx fun x => { x with stalled := true, owing := true } := by
  unfold State.releaseWith State.releaseBy
  dsimp only
  rw [if_pos h]
  split
  · exact .inr rfl
  · exact .inl rfl

theorem sameMemory_releaseWith : SameMemory s (s.releaseWith sc) := by
  have howe : SameMemory s (s.owe s.cur.core) := by
    unfold State.owe
    split <;> exact ⟨rfl, rfl, rfl, rfl, rfl, rfl⟩
  rcases releaseWith_narrow (s := s) h with e | e <;> rw [e] <;> exact howe

theorem lanterns_releaseWith : lanterns (s.releaseWith sc) = lanterns s := by
  have howe : lanterns (s.owe s.cur.core) = lanterns s := by
    unfold State.owe
    split
    · rfl
    · exact lanterns_modCore s _ fun _ => rfl
  rcases releaseWith_narrow (s := s) h with e | e <;> rw [e]
  · exact howe
  · exact (lanterns_modCtx _ _ _).trans howe

/-- The writes on their way are owed from then on. -/
theorem writes_releaseWith_narrow : (s.releaseWith sc).me.writes = owedWrites s.me := by
  have hcur : (s.owe s.cur.core).cur = s.cur := by
    unfold State.owe
    split <;> rfl
  have howe : ((s.owe s.cur.core).core s.cur.core).writes = owedWrites s.me := by
    unfold State.owe
    split
    · next he =>
      rw [owedWrites, State.me, List.isEmpty_iff.mp he]
      rfl
    · rw [State.core_modCore, if_pos rfl]
      rfl
  rcases releaseWith_narrow (s := s) h with e | e <;> rw [e]
  · rw [State.me, hcur, howe]
  · have hstay := writes_of_sameCore (s := s.owe s.cur.core) (sameCore_modCx (g := fun x => { x with stalled := true, owing := true }))
    rw [hcur] at hstay
    rw [State.me, State.modCx_cur, hcur, hstay, howe]

end

/-! ### Placement (09 R166, R167) -/

/-- The command that a placement leaves in the queue, a release at `.quad` with what that owes. -/
def placedCmd (s : State) (v : VWord) : Cmd :=
  { bytes := v, ctx := s.cur.ctx, cb := s.cmdHandle v, headSince := s.now, id := s.freeCtr
    tags := (s.releaseWith 1).relTags s.cur.core 1 }

/-- The state with the command placed, before the context moves on. -/
def withPlaced (s : State) (v : VWord) : State :=
  (s.releaseWith 1).modCmdQueue s.cur.core fun q => { q with cmds := q.cmds ++ [placedCmd s v] }

theorem exec_place {s : State} {vd : VReg} {ra rb : Reg} {dt : Fin 8} (hlo : 0x8000000040000000 ≤ (s.getW ra + s.getW rb).toNat)
    (hhi : (s.getW ra + s.getW rb).toNat < 0x8000000040010000) (ha : (s.getW ra + s.getW rb).toNat % 64 = 0) :
    exec (.vst vd ra rb 0 dt) s = settle s (s.waitOn (.place (s.getV vd) (s.cmdHandle (s.getV vd))) 8 true
      (s.tryPlace (s.getV vd) (s.cmdHandle (s.getV vd)))) := by
  have hwindow : inQueueWindow (s.getW ra + s.getW rb) = true := by
    rw [inQueueWindow, decide_eq_true hlo, decide_eq_true hhi]
    rfl
  have hlanes : (s.activeLanes 0 (512 / dtWidth dt.val)).isEmpty = false := by
    have hpos : 0 < 512 / dtWidth dt.val := Nat.div_pos (le_trans (dtWidth_le dt.val) (by decide)) (dtWidth_pos dt.val)
    rw [activeLanes_unmasked, List.isEmpty_eq_false_iff, Ne, List.range_eq_nil]
    exact hpos.ne'
  change execVst vd ra rb 0 dt s = _
  unfold execVst
  simp only [hlanes, aligned_iff.mpr ha, hwindow, Bool.not_true, Bool.false_eq_true, if_false, if_true]

theorem place_completes {s : State} {vd : VReg} {ra rb : Reg} {dt : Fin 8} (hlo : 0x8000000040000000 ≤ (s.getW ra + s.getW rb).toNat)
    (hhi : (s.getW ra + s.getW rb).toNat < 0x8000000040010000) (ha : (s.getW ra + s.getW rb).toNat % 64 = 0)
    (hfree : (s.cmdQueue s.cur.core).cmds.length < 8) :
    exec (.vst vd ra rb 0 dt) s = .next ((withPlaced s (s.getV vd)).vecBusy 1).advance := by
  rw [exec_place hlo hhi ha, State.tryPlace, if_pos hfree]
  rfl

theorem place_waits {s : State} {vd : VReg} {ra rb : Reg} {dt : Fin 8} (hlo : 0x8000000040000000 ≤ (s.getW ra + s.getW rb).toNat)
    (hhi : (s.getW ra + s.getW rb).toNat < 0x8000000040010000) (ha : (s.getW ra + s.getW rb).toNat % 64 = 0)
    (hfull : 8 ≤ (s.cmdQueue s.cur.core).cmds.length) (hlim : s.me.waitlim ≠ 0) :
    ∃ t, exec (.vst vd ra rb 0 dt) s = .next t ∧ Waits s t := by
  refine ⟨_, ?_, waits_waiting s (.place (s.getV vd) (s.cmdHandle (s.getV vd)))⟩
  rw [exec_place hlo hhi ha, State.tryPlace, if_neg (Nat.not_lt.mpr hfull)]
  exact settle_waitOn_wait hlim _ 8

/-- Moving on after one cycle of the vector unit leaves the quads alone. -/
theorem lanterns_vecBusy_advance (s : State) : lanterns (s.vecBusy 1).advance = lanterns s := by
  rw [State.vecBusy, if_pos rfl]
  exact (lanterns_modCtx _ _ _).trans (lanterns_count s s.cur 3 1)

theorem onlyVec_vecBusy_advance (s : State) (b : Nat) : OnlyVec s (s.vecBusy b).advance Says.none Says.none 0 :=
  onlyVec_trans (onlyVec_vecBusy s b) (onlyVec_advance _)

/-- A placement writes no register. -/
theorem sameWs_withPlaced (s : State) (v : VWord) : SameWs s (withPlaced s v) s.cur Says.none Says.none 0 := by
  have hws : ((withPlaced s v).ctx s.cur).ws = (s.ctx s.cur).ws := congrArg Prod.fst ((background_releaseWith s 1).registers s.cur)
  rw [SameWs, hws]
  exact ⟨rfl, fun _ _ => rfl, fun _ _ => rfl, rfl⟩

/-- Settles O38: a free entry takes the command and the core's writes are owed to the Lantern; without one the context waits. -/
theorem commandPlacement : Obligations.CommandPlacement := by
  intro s vd ra rb dt ea q hlo hhi ha
  refine ⟨fun hfree => ?_, fun hfull hlim => place_waits hlo hhi ha hfull hlim⟩
  obtain ⟨hmem, -, -, ⟨hcore, -⟩, -, hws, hcur, -⟩ := onlyVec_vecBusy_advance (withPlaced s (s.getV vd)) 1
  have hcurPlaced : (withPlaced s (s.getV vd)).cur = s.cur := (background_releaseWith s 1).cur
  rw [hcurPlaced] at hcore hws hcur
  refine ⟨_, placedCmd s (s.getV vd), place_completes hlo hhi ha hfree, ?_, rfl, rfl, ?_, sameWs_trans (sameWs_withPlaced s _) hws, ?_⟩
  · rw [cmdQueue_congr (congrArg Quad.queues (quad_of_lanterns (lanterns_vecBusy_advance _) _)), withPlaced, cmdQueue_modCmdQueue,
      cmdQueue_congr (congrArg Quad.queues (quad_of_lanterns (lanterns_releaseWith (by decide)) _))]
  · exact sameMemory_trans (sameMemory_trans (sameMemory_releaseWith (by decide)) (sameMemory_modQuad _ _ _)) hmem
  · have hwrites := congrArg Core.writes hcore
    have howed := writes_releaseWith_narrow (s := s) (sc := 1) (by decide)
    rw [State.me, (background_releaseWith s 1).cur] at howed
    rw [State.me, hcur]
    exact hwrites.trans howed

end Sys2Proof.Lantern
end
